-- ==== Sys2Proof/Word.lean ====
section
/-! DEFINITION. The words of the Z9 (spec/01 R14, R18; spec/00 R4), the lanes of a warp, and the sparse maps that
hold the device's many units: a unit that a map does not list has its default. -/

namespace Sys2Proof

/-- One byte; bit 0 is the least significant bit (R4). -/
abbrev Byte := BitVec 8
/-- A 32-bit register word, and one instruction word (R41). -/
abbrev Word := BitVec 32
/-- A 64-bit value: an s-register, a generic address (R151), a register pair. -/
abbrev DWord := BitVec 64
/-- A lane of a warp, 0 to 31 (R11). -/
abbrev Lane := Fin 32
/-- A set of lanes, bit i for lane i: a mask register (R18), the lanes of a bundle. -/
abbrev Mask := BitVec 32
/-- One value for each lane of a warp. -/
abbrev Lanes (α : Type) := Vector α 32
/-- A sparse map from unit numbers, keys rising; an unlisted key has the default that the reader names. -/
abbrev Map (α : Type) := List (Nat × α)

/-- The lanes of a warp in ascending order. -/
def allLanes : List Lane :=
  [0, 1, 2, 3, 4, 5, 6, 7, 8, 9, 10, 11, 12, 13, 14, 15,
   16, 17, 18, 19, 20, 21, 22, 23, 24, 25, 26, 27, 28, 29, 30, 31]

/-- One value a lane, from a rule for lane i. -/
def perLane {α : Type} (f : Lane → α) : Lanes α := Vector.ofFn f

/-- Is lane i in the set? -/
def Mask.has (m : Mask) (i : Lane) : Bool := m.getLsbD i.val

/-- The set of the lanes that satisfy f. -/
def maskOf (f : Lane → Bool) : Mask :=
  allLanes.foldr (fun i m => if f i then m ||| BitVec.twoPow 32 i.val else m) 0#32

/-- The set that holds lane i alone. -/
def laneBit (i : Lane) : Mask := BitVec.twoPow 32 i.val

/-- The lanes of a set, in ascending order. -/
def lanesOf (m : Mask) : List Lane := allLanes.filter (fun i => Mask.has m i)

/-- The lowest lane of a set. -/
def lowestLane? (m : Mask) : Option Lane := allLanes.find? (fun i => Mask.has m i)

/-- The number of lanes in a set. -/
def popCount (m : Mask) : Nat := (lanesOf m).length

/-- The value that the map holds for k, or d. -/
def mapGet {α : Type} (d : α) : Map α → Nat → α
  | [], _ => d
  | (a, b) :: t, k => if k = a then b else mapGet d t k

/-- The listed value of k, if any. -/
def mapFind {α : Type} : Map α → Nat → Option α
  | [], _ => none
  | (a, b) :: t, k => if k = a then some b else mapFind t k

/-- Does the map list k? -/
def mapHas {α : Type} : Map α → Nat → Bool
  | [], _ => false
  | (a, _) :: t, k => if k = a then true else mapHas t k

/-- The map with v for k, keys kept rising. -/
def mapPut {α : Type} : Map α → Nat → α → Map α
  | [], k, v => [(k, v)]
  | (a, b) :: t, k, v =>
    if k < a then (k, v) :: (a, b) :: t
    else if k = a then (k, v) :: t
    else (a, b) :: mapPut t k v

/-- The map without k. -/
def mapDel {α : Type} : Map α → Nat → Map α
  | [], _ => []
  | (a, b) :: t, k => if k = a then mapDel t k else (a, b) :: mapDel t k

/-- The map with v for k, where a value equal to the default d leaves k unlisted. -/
def mapSet {α : Type} [DecidableEq α] (d : α) (m : Map α) (k : Nat) (v : α) : Map α :=
  if v = d then mapDel m k else mapPut m k v

/-- The map with the value of k changed by f. -/
def mapMod {α : Type} (d : α) (m : Map α) (k : Nat) (f : α → α) : Map α := mapPut m k (f (mapGet d m k))

/-- Every listed value changed by f. -/
def mapAll {α : Type} (m : Map α) (f : Nat → α → α) : Map α := m.map (fun (k, v) => (k, f k v))

/-- Are the keys strictly rising? -/
def mapRising {α : Type} : Map α → Bool
  | [] => true
  | [_] => true
  | (a, _) :: (b, y) :: t => decide (a < b) && mapRising ((b, y) :: t)

end Sys2Proof
end

