-- ==== Sys2Proof/Machine/Float.lean ====
section
/-! DEFINITION. The number formats and exact floating-point arithmetic of R117 to R140: decoding, one rounding (R123, R124),
flags (R127), the flush controls (R126), and the transcendental functions, computed to 256 bits (log 9). -/

namespace Sys2Proof.Machine

/-! ### Formats (R118, R119) -/

/-- Which encodings of a format are special (R119). -/
inductive Specials where
  | ieee | e4m3 | finite
deriving DecidableEq, Repr

/-- A floating-point format: width, exponent bits, mantissa bits, bias, specials, and whether DAZ and FTZ act on it. -/
structure FFmt where
  width : Nat
  eb : Nat
  mb : Nat
  bias : Nat
  special : Specials
  flushes : Bool
deriving DecidableEq, Repr

def f64 : FFmt := ⟨64, 11, 52, 1023, .ieee, false⟩
def f32 : FFmt := ⟨32, 8, 23, 127, .ieee, true⟩
def f16 : FFmt := ⟨16, 5, 10, 15, .ieee, true⟩
def bf16 : FFmt := ⟨16, 8, 7, 127, .ieee, true⟩
def e4m3 : FFmt := ⟨8, 4, 3, 7, .e4m3, false⟩
def e5m2 : FFmt := ⟨8, 5, 2, 15, .ieee, false⟩
def e2m1 : FFmt := ⟨4, 2, 1, 1, .finite, false⟩
def e3m2 : FFmt := ⟨6, 3, 2, 3, .finite, false⟩
def e2m3 : FFmt := ⟨6, 2, 3, 1, .finite, false⟩

/-- The value of an encoding: a NaN (signalling, sign), an infinity, or (-1)^neg * m * 2^e (R118, R119). -/
inductive FVal where
  | nan (sig neg : Bool)
  | inf (neg : Bool)
  | num (neg : Bool) (m : Nat) (e : Int)
deriving DecidableEq, Repr

/-- The sign bit of a code. -/
def FFmt.neg (f : FFmt) (c : Nat) : Bool := c / 2 ^ (f.width - 1) % 2 == 1
/-- The exponent field. -/
def FFmt.exp (f : FFmt) (c : Nat) : Nat := c / 2 ^ f.mb % 2 ^ f.eb
/-- The mantissa field. -/
def FFmt.man (f : FFmt) (c : Nat) : Nat := c % 2 ^ f.mb
/-- The exponent of the last place of the subnormals. -/
def FFmt.qmin (f : FFmt) : Int := 1 - f.bias - f.mb
/-- Is the code a subnormal? -/
def FFmt.subnormal (f : FFmt) (c : Nat) : Bool := f.exp c == 0 && f.man c != 0

/-- The value of a code (R118, R119). -/
def FFmt.val (f : FFmt) (c : Nat) : FVal :=
  let e := f.exp c
  let m := f.man c
  let top := e + 1 == 2 ^ f.eb
  if f.special == .ieee && top then
    if m == 0 then .inf (f.neg c) else .nan (m < 2 ^ (f.mb - 1)) (f.neg c)
  else if f.special == .e4m3 && top && m + 1 == 2 ^ f.mb then .nan false (f.neg c)
  else if e == 0 then .num (f.neg c) m f.qmin
  else .num (f.neg c) (2 ^ f.mb + m) (f.qmin + (e - 1))

/-- The code with a sign. -/
def FFmt.signed (f : FFmt) (neg : Bool) (c : Nat) : Nat := if neg then c + 2 ^ (f.width - 1) else c
/-- The largest finite code. -/
def FFmt.top (f : FFmt) : Nat :=
  match f.special with
  | .ieee => (2 ^ f.eb - 1) * 2 ^ f.mb - 1
  | .e4m3 => 2 ^ (f.width - 1) - 2
  | .finite => 2 ^ (f.width - 1) - 1
/-- The code of infinity. -/
def FFmt.infCode (f : FFmt) : Nat := (2 ^ f.eb - 1) * 2 ^ f.mb
/-- The canonical NaN of R120, and its form for a source NaN of sign 1 in the formats that keep it. -/
def FFmt.nanCode (f : FFmt) (neg : Bool) : Nat :=
  match f.special with
  | .ieee => if f.width == 8 then f.signed neg (f.infCode + 2 ^ (f.mb - 1)) else f.infCode + 2 ^ (f.mb - 1)
  | .e4m3 => f.signed neg (2 ^ (f.width - 1) - 1)
  | .finite => 0

/-! ### Flags and modes (R121, R123, R127) -/

/-- The flags of $fcsr: INV 16, DZ 8, OVF 4, UNF 2, INX 1. -/
abbrev Flags := BitVec 5
def fINV : Flags := 16#5
def fDZ : Flags := 8#5
def fOVF : Flags := 4#5
def fUNF : Flags := 2#5
def fINX : Flags := 1#5

/-- The rounding modes (R123). -/
inductive RMode where
  | rne | rtz | rdn | rup | rmm
deriving DecidableEq, Repr

/-- The mode of a code of RM; 5 to 7 are never held (R121). -/
def RMode.ofCode : Nat → RMode
  | 1 => .rtz
  | 2 => .rdn
  | 3 => .rup
  | 4 => .rmm
  | _ => .rne

/-- The controls of one instruction: rounding mode, DAZ, FTZ, FTZN. -/
structure FCtl where
  mode : RMode
  daz : Bool
  ftz : Bool
  ftzn : Bool
deriving DecidableEq, Repr

/-- A code and the flags raised. -/
abbrev FRes := Nat × Flags

/-! ### Rounding (R123, R124, R127) -/

/-- Is the truncated quotient n of a value with remainder r of d rounded up in magnitude? -/
def roundsUp (mode : RMode) (neg : Bool) (n r d : Nat) : Bool :=
  match mode with
  | .rne => d < 2 * r || (2 * r == d && n % 2 == 1)
  | .rmm => d ≤ 2 * r && r != 0
  | .rtz => false
  | .rdn => neg && r != 0
  | .rup => !neg && r != 0

/-- m * 2^e rounded to a multiple of 2^q: the multiple, and whether it is inexact. -/
def roundAt (mode : RMode) (neg : Bool) (m : Nat) (e q : Int) : Nat × Bool :=
  if q ≤ e then (m * 2 ^ (e - q).toNat, false)
  else
    let d := 2 ^ (q - e).toNat
    let n := m / d
    let r := m % d
    (if roundsUp mode neg n r d then n + 1 else n, r != 0)

/-- The number of bits of a natural number, counted with fuel. -/
def bitLen (n : Nat) : Nat := if n = 0 then 0 else Nat.log2 n + 1

/-- The result of an overflow (R124). -/
def FFmt.overflow (f : FFmt) (mode : RMode) (neg : Bool) : Nat :=
  let inf := f.special == .ieee && (match mode with
    | .rne | .rmm => true
    | .rtz => false
    | .rdn => neg
    | .rup => !neg)
  f.signed neg (if inf then f.infCode else f.top)

/-- (-1)^neg * m * 2^e rounded once into a format, with FTZ where it acts: the code and the flags (R123, R124, R126,
R127). -/
def FFmt.round (f : FFmt) (mode : RMode) (ftz : Bool) (neg : Bool) (m : Nat) (e : Int) : FRes :=
  if m == 0 then (f.signed neg 0, 0#5)
  else
    let lead := e + bitLen m - 1
    let q0 := lead - f.mb
    let q := max q0 f.qmin
    let (n, inx) := roundAt mode neg m e q
    let (n0, _) := roundAt mode neg m e q0
    let c := (q - f.qmin).toNat * 2 ^ f.mb + n
    if f.top < c then (f.overflow mode neg, fOVF ||| fINX)
    else
      let below := lead < f.qmin + f.mb && !(lead + 1 == f.qmin + f.mb && n0 == 2 ^ (f.mb + 1))
      let sub := ftz && f.flushes && f.subnormal c
      if sub then (f.signed neg 0, fUNF ||| fINX)
      else (f.signed neg c, if inx then (if below then fUNF ||| fINX else fINX) else 0#5)

/-- A source after DAZ (R126). -/
def FFmt.src (f : FFmt) (daz : Bool) (c : Nat) : FVal :=
  if daz && f.flushes && f.subnormal c then .num (f.neg c) 0 f.qmin else f.val c

/-- INV for a signalling NaN. -/
def FVal.snan : FVal → Flags
  | .nan true _ => fINV
  | _ => 0#5
def FVal.isNan : FVal → Bool
  | .nan _ _ => true
  | _ => false
def FVal.isInf : FVal → Bool
  | .inf _ => true
  | _ => false
def FVal.isZero : FVal → Bool
  | .num _ 0 _ => true
  | _ => false
def FVal.neg : FVal → Bool
  | .nan _ s => s
  | .inf s => s
  | .num s _ _ => s
def FVal.negate : FVal → FVal
  | .nan g s => .nan g s
  | .inf s => .inf !s
  | .num s m e => .num (!s) m e

/-! ### Exact sums and products -/

/-- The product of two values that are no NaN; none for 0 times infinity. -/
def FVal.times (a b : FVal) : Option FVal :=
  let s := a.neg != b.neg
  match a, b with
  | .num _ m e, .num _ n d => .some (.num s (m * n) (e + d))
  | _, _ => if a.isZero || b.isZero then .none else .some (.inf s)

/-- A value as an integer multiple of 2^q, q at most its exponent. -/
def scaled (neg : Bool) (m : Nat) (e q : Int) : Int :=
  let x : Int := (m * 2 ^ (e - q).toNat : Nat)
  if neg then -x else x

/-- The sum of two values that are no NaN; none for infinities of opposite sign. An exact zero of opposite signs is +0,
-0 under RDN (R123). -/
def FVal.plus (mode : RMode) (a b : FVal) : Option FVal :=
  match a, b with
  | .num s m e, .num t n d =>
    let q := min e d
    let x := scaled s m e q + scaled t n d q
    let neg := if x == 0 then (if s == t then s else mode == .rdn) else decide (x < 0)
    .some (.num neg x.natAbs q)
  | .inf s, .inf t => if s == t then .some (.inf s) else .none
  | .inf s, _ => .some (.inf s)
  | _, .inf t => .some (.inf t)
  | a, _ => .some a

/-- A finished result: the value rounded into the format; none is an invalid operation. -/
def FFmt.finish (f : FFmt) (c : FCtl) (v : Option FVal) : FRes :=
  match v with
  | .none => (f.nanCode false, fINV)
  | .some (.nan _ _) => (f.nanCode false, 0#5)
  | .some (.inf s) => (f.signed s f.infCode, 0#5)
  | .some (.num s m e) => f.round c.mode c.ftz s m e

/-- a + b (R130). -/
def FFmt.add (f : FFmt) (c : FCtl) (x y : Nat) : FRes :=
  let a := f.src c.daz x
  let b := f.src c.daz y
  if a.isNan || b.isNan then (f.nanCode false, a.snan ||| b.snan) else f.finish c (a.plus c.mode b)
/-- a - b (R130). -/
def FFmt.sub (f : FFmt) (c : FCtl) (x y : Nat) : FRes :=
  let a := f.src c.daz x
  let b := f.src c.daz y
  if a.isNan || b.isNan then (f.nanCode false, a.snan ||| b.snan) else f.finish c (a.plus c.mode b.negate)
/-- a * b (R130). -/
def FFmt.mul (f : FFmt) (c : FCtl) (x y : Nat) : FRes :=
  let a := f.src c.daz x
  let b := f.src c.daz y
  if a.isNan || b.isNan then (f.nanCode false, a.snan ||| b.snan) else f.finish c (a.times b)
/-- a * b + z, rounded once; 0 times infinity is INV even with a quiet NaN addend (R127, R130). -/
def FFmt.fma (f : FFmt) (c : FCtl) (x y z : Nat) : FRes :=
  let a := f.src c.daz x
  let b := f.src c.daz y
  let d := f.src c.daz z
  if a.isNan || b.isNan then (f.nanCode false, a.snan ||| b.snan ||| d.snan)
  else
    match a.times b with
    | .none => (f.nanCode false, fINV)
    | .some p => if d.isNan then (f.nanCode false, d.snan) else f.finish c (p.plus c.mode d)

/-- The order of two values that are no NaN: is a below b, with -0 below +0 when zeros count? -/
def FVal.lt (zeros : Bool) (a b : FVal) : Bool :=
  match a, b with
  | .num s m e, .num t n d =>
    let q := min e d
    let x := scaled s m e q
    let y := scaled t n d q
    x < y || (zeros && x == 0 && y == 0 && s && !t)
  | .inf s, .inf t => s && !t
  | .inf s, _ => s
  | _, .inf t => !t
  | _, _ => false
/-- Equality of two values: -0 equals +0, a NaN equals nothing (R131). -/
def FVal.eq (a b : FVal) : Bool :=
  !a.isNan && !b.isNan && !a.lt false b && !b.lt false a

/-- The operand after DAZ as a code: a flushed subnormal is a zero (R126). -/
def FFmt.dazCode (f : FFmt) (daz : Bool) (c : Nat) : Nat :=
  if daz && f.flushes && f.subnormal c then f.signed (f.neg c) 0 else c

/-- minimumNumber, or maximumNumber when most (R130). -/
def FFmt.minmax (f : FFmt) (most : Bool) (c : FCtl) (x y : Nat) : FRes :=
  let a := f.src c.daz x
  let b := f.src c.daz y
  let fl := a.snan ||| b.snan
  let pick (k : Nat) : FRes := (f.dazCode c.daz k, fl)
  if a.isNan && b.isNan then (f.nanCode false, fl)
  else if a.isNan then pick y
  else if b.isNan then pick x
  else if (if most then b.lt true a else a.lt true b) then pick x else pick y
/-- The sign cleared (R130). -/
def FFmt.abs (f : FFmt) (x : Nat) : Nat := if f.neg x then x - 2 ^ (f.width - 1) else x
/-- The sign inverted (R130). -/
def FFmt.negCode (f : FFmt) (x : Nat) : Nat := if f.neg x then x - 2 ^ (f.width - 1) else x + 2 ^ (f.width - 1)

/-! ### Compare and classify (R131, R132) -/

inductive FCmp where
  | eq | ne | lt | le | un
deriving DecidableEq, Repr

/-- The comparison and its flags (R131). -/
def FFmt.cmp (f : FFmt) (cc : FCmp) (c : FCtl) (x y : Nat) : Bool × Flags :=
  let a := f.src c.daz x
  let b := f.src c.daz y
  let nan := a.isNan || b.isNan
  let quiet := a.snan ||| b.snan
  match cc with
  | .eq => (a.eq b, quiet)
  | .ne => (!a.eq b, quiet)
  | .lt => (!nan && a.lt false b, if nan then fINV else 0#5)
  | .le => (!nan && !b.lt false a, if nan then fINV else 0#5)
  | .un => (nan, quiet)

/-- The class of a code: the number of the bit set (R132). -/
def FFmt.classOf (f : FFmt) (c : Nat) : Nat :=
  match f.val c with
  | .nan sig _ => if sig then 8 else 9
  | .inf s => if s then 0 else 7
  | .num s m _ =>
    if m == 0 then (if s then 3 else 4)
    else if f.exp c == 0 then (if s then 2 else 5)
    else if s then 1 else 6

/-! ### Conversions (R134 to R139) -/

/-- A code of one format converted into another that has NaN and infinity (R134). -/
def convert (src dst : FFmt) (c : FCtl) (x : Nat) : FRes :=
  let v := src.src c.daz x
  if v.isNan then (dst.nanCode false, v.snan) else dst.finish c (.some v)

/-- A value rounded to an integer: its magnitude, and whether it is inexact. -/
def roundInt (mode : RMode) (neg : Bool) (m : Nat) (e : Int) : Nat × Bool := roundAt mode neg m e 0

/-- A value converted to an integer between lo and hi (R124, R125, R139). -/
def toInt (mode : RMode) (lo hi : Int) (v : FVal) : Int × Flags :=
  match v with
  | .nan _ _ => (0, fINV)
  | .inf s => (if s then lo else hi, fINV)
  | .num s m e =>
    let (n, inx) := roundInt mode s m e
    let q : Int := if s then -(n : Int) else n
    if q < lo then (lo, fINV) else if hi < q then (hi, fINV) else (q, if inx then fINX else 0#5)

/-- A value rounded to an integral value of its own format: a result of zero keeps the sign (R138). -/
def FFmt.roundIntegral (f : FFmt) (c : FCtl) (x : Nat) : FRes :=
  match f.src c.daz x with
  | .nan sig _ => (f.nanCode false, if sig then fINV else 0#5)
  | .inf s => (f.signed s f.infCode, 0#5)
  | .num s m e =>
    if 0 ≤ e then (f.dazCode c.daz x, 0#5)
    else ((f.round c.mode false s (roundInt c.mode s m e).1 0).1, 0#5)

/-- x * 2^n (R137). -/
def FFmt.scale (f : FFmt) (c : FCtl) (x : Nat) (n : Int) : FRes :=
  match f.src c.daz x with
  | .nan sig _ => (f.nanCode false, if sig then fINV else 0#5)
  | .inf s => (f.signed s f.infCode, 0#5)
  | .num s m e => f.round c.mode c.ftz s m (e + n)

/-- A value into a narrow format, INT8 aside (R120, R124, R125). -/
def FFmt.narrow (f : FFmt) (mode : RMode) (ftz : Bool) (v : Option FVal) : FRes :=
  match v with
  | .none => (if f.special == .finite then 0 else f.nanCode false, fINV)
  | .some (.nan sig s) =>
    if f.special == .finite then (0, fINV) else (f.nanCode s, if sig then fINV else 0#5)
  | .some (.inf s) =>
    if f.special == .ieee then (f.signed s f.infCode, 0#5) else (f.signed s f.top, fOVF ||| fINX)
  | .some (.num s m e) => f.round mode ftz s m e

/-! ### Transcendentals (R140) -/

/-- The floor of a square root below 2^k. -/
def isqrtGo : Nat → Nat → Nat → Nat
  | 0, _, r => r
  | k + 1, n, r => if (r + 2 ^ k) * (r + 2 ^ k) ≤ n then isqrtGo k n (r + 2 ^ k) else isqrtGo k n r

/-- The floor of the square root of n. -/
def isqrt (n : Nat) : Nat := isqrtGo (bitLen n / 2 + 1) n 0

/-- A truncated magnitude with a last bit that says whether something was cut. -/
def sticky (n : Nat) (cut : Bool) : Nat := 2 * n + (if cut then 1 else 0)

/-- 1 / (m * 2^e), with 128 bits. -/
def recip (m : Nat) (e : Int) : Nat × Int :=
  let k := bitLen m + 128
  (sticky (2 ^ k / m) (2 ^ k % m != 0), -e - k - 1)

/-- The square root of m * 2^e, with 64 bits and more. -/
def root (m : Nat) (e : Int) : Nat × Int :=
  let odd := e % 2 != 0
  let m := (if odd then 2 * m else m) * 2 ^ 160
  let e := (if odd then e - 1 else e) - 160
  let r := isqrt m
  (sticky r (r * r != m), e / 2 - 1)

/-- 1 / the square root of m * 2^e. -/
def recipRoot (m : Nat) (e : Int) : Nat × Int :=
  let odd := e % 2 != 0
  let m := if odd then 2 * m else m
  let e := if odd then e - 1 else e
  let k := bitLen m + 160
  let r := isqrt (2 ^ (2 * k) / m)
  (sticky r (r * r * m != 2 ^ (2 * k)), -(e / 2) - k - 1)

/-- The fixed point of the series: 256 bits. -/
def one256 : Nat := 2 ^ 256
/-- The floor of 2^256 times the natural logarithm of 2. -/
def ln2Fix : Nat := 80260960185991308862233904206310070533990667611589946606122867505419956976171

/-- The exponential series of x / 2^256, from term t on with index k. -/
def expSeries : Nat → Nat → Nat → Nat → Nat
  | 0, _, _, t => t
  | n + 1, x, k, t => t + expSeries n x (k + 1) (t * x / one256 / k)

/-- 2^256 times 2^(f / 2^256), f below 2^256. -/
def exp2Fix (f : Nat) : Nat := expSeries 64 (f * ln2Fix / one256) 1 one256

/-- The series of the inverse hyperbolic tangent: the sum of p / (2k + 1), p multiplied by z^2 each time. -/
def atanhSeries : Nat → Nat → Nat → Nat → Nat
  | 0, _, _, _ => 0
  | n + 1, zz, k, p => p / (2 * k + 1) + atanhSeries n zz (k + 1) (p * zz / one256)

/-- 2^256 times log2 of m / 2^b, for 2^b ≤ m < 2^(b+1). -/
def log2Fix (m b : Nat) : Nat :=
  let z := (m - 2 ^ b) * one256 / (m + 2 ^ b)
  2 * atanhSeries 96 (z * z / one256) 0 z * one256 / ln2Fix

/-- 2^(y / 2^256) for an integer y: significand and exponent. -/
def exp2Int (y : Int) : Nat × Int :=
  let n := y / one256
  let f := (y % one256).toNat
  if f == 0 then (1, n) else (sticky (exp2Fix f) true, n - 257)

/-- (-1)^s * m * 2^e as an integer multiple of 2^-256, cut toward zero; its magnitude is held below 2^16. -/
def toFix (s : Bool) (m : Nat) (e : Int) : Int :=
  let n : Nat :=
    if 16 ≤ e + bitLen m then 2 ^ 272
    else if -256 ≤ e then m * 2 ^ (e + 256).toNat else m / 2 ^ (-256 - e).toNat
  if s then -(n : Int) else n

inductive Trans where
  | rcp | rsq | sqrt | exp2 | log2 | tanh
deriving DecidableEq, Repr

/-- The exact function of a finite nonzero value, to enough bits for one rounding (log 9): sign, significand, exponent. -/
def transFinite (t : Trans) (s : Bool) (m : Nat) (e : Int) : Bool × Nat × Int :=
  match t with
  | .rcp => (s, recip m e)
  | .rsq => (false, recipRoot m e)
  | .sqrt => (false, root m e)
  | .exp2 => (false, exp2Int (toFix s m e))
  | .log2 =>
    let b := bitLen m - 1
    let k : Int := e + b
    if m == 2 ^ b then (decide (k < 0), k.natAbs, 0)
    else
      let y : Int := k * one256 + log2Fix m b
      (decide (y < 0), sticky y.natAbs true, -257)
  | .tanh =>
    if e + bitLen m ≤ -40 then (s, m * 2 ^ 64 - 1, e - 64)
    else if 7 ≤ e + bitLen m then (s, 2 ^ 128 - 1, -128)
    else
      let x := (toFix false m e).toNat
      let (p, q) := exp2Int ((2 * x * one256 / ln2Fix : Nat) : Int)
      let (num, den) :=
        if 0 ≤ q then (p * 2 ^ q.toNat - 1, p * 2 ^ q.toNat + 1) else (p - 2 ^ (-q).toNat, p + 2 ^ (-q).toNat)
      (s, sticky (num * one256 / den) true, -257)

/-- A transcendental function of one element: special operands by the table of R140, else rounded once. -/
def FFmt.trans (f : FFmt) (t : Trans) (c : FCtl) (x : Nat) : FRes :=
  let v := f.src c.daz x
  let mode := match t with
    | .rcp | .rsq | .sqrt => c.mode
    | _ => .rne
  let nan : FRes := (f.nanCode false, fINV)
  let one := f.bias * 2 ^ f.mb
  match v with
  | .nan sig _ => (f.nanCode false, if sig then fINV else 0#5)
  | .inf s =>
    match t with
    | .rcp => (f.signed s 0, 0#5)
    | .rsq => if s then nan else (0, 0#5)
    | .sqrt => if s then nan else (f.infCode, 0#5)
    | .exp2 => if s then (0, 0#5) else (f.infCode, 0#5)
    | .log2 => if s then nan else (f.infCode, 0#5)
    | .tanh => (f.signed s one, 0#5)
  | .num s m e =>
    if m == 0 then
      match t with
      | .rcp | .rsq => (f.signed s f.infCode, fDZ)
      | .sqrt | .tanh => (f.signed s 0, 0#5)
      | .exp2 => (one, 0#5)
      | .log2 => (f.signed true f.infCode, fDZ)
    else if s && (t == .rsq || t == .sqrt || t == .log2) then nan
    else
      let (s', m', e') := transFinite t s m e
      f.round mode c.ftz s' m' e'

end Sys2Proof.Machine
end

