-- ==== Sys2Proof/Config.lean ====
section
/-! DEFINITION. What an implementation fixes, and the free values: constants without a body, so that no proof can see
what they are. Each is applied to State.fresh, the counter of the open choices (log 3), or to the operands it depends on. -/

namespace Sys2Proof.Config

/-- A value the spec leaves open, read as the n-th open choice of the run (log 3). -/
opaque freeWord : Nat → DWord
/-- A choice the spec leaves to timing, as the n-th open choice of the run (log 3). -/
opaque freeBool : Nat → Bool
/-- The address of the context save area of a warp (R265, R288 give none; log 7). -/
opaque saveArea : Nat → DWord
/-- The device number that the platform configuration block gives (R395, R398; log 6). -/
opaque deviceNumber : BitVec 9
/-- The answer to a sideband request whose bytes the spec does not give (R396; log 8). -/
opaque spdmPayload : Nat → DWord
/-- The device-private check value of a saved warp (R288; log 7). -/
opaque checkValue : Nat → Word
/-- The sign of the NaN code that a product of two NaNs of different signs gives (R120, R135; log 10). -/
opaque nanSign : Word → Word → Bool
/-- The receive buffer of a Uluster channel in 16-byte units: the credits that a port grants when it comes up (R384 gives none). -/
opaque linkBuffer : Nat → Nat
/-- The entries of granule history that L2 and the reserved area of a stack hold beyond 2^20 (R195 gives bytes, not entries; log 51). -/
opaque historyRoom : Nat → Nat

end Sys2Proof.Config
end

