-- ==== Sys2Proof/Syntax.lean ====
section
/-! DEFINITION. The steps of the Z9: one constructor for each row of spec/opcode_table.json. The first 328 are
instruction words (their arguments are the row's fields); the other 110 are events of the device's units, whose arguments
name the unit and what the outside world brings (log 2). -/

namespace Sys2Proof

/-- The perm code of a source field (R47). -/
inductive Perm where
  | direct | broadcast | rotate | butterfly | mirror | quadBroadcast | quadButterfly | scalar
deriving DecidableEq, Repr

/-- A vector source field: perm[7:5] and reg[4:0] (R39, R47). -/
structure Src where
  perm : Perm
  reg : BitVec 5
deriving DecidableEq, Repr

/-- What a pre-emption request names (R285). -/
inductive PreemptTarget where
  | launch (grid : Nat)
  | world (w : BitVec 10)
  | die (d : Nat)
deriving DecidableEq, Repr

/-- A fault hart's answer (R349). -/
inductive FaultOutcome where
  | retry | xlat | prot | unreachable
deriving DecidableEq, Repr

/-- What a world policy of a sealed blob holds (R351): the tenant's key, egress windows (base and size), the roster,
and the buffers, each with its class (1 Input, 2 Output). -/
structure SealedBlob where
  key : Nat
  egress : List (DWord × DWord)
  roster : List (BitVec 9)
  buffers : List (BitVec 16 × BitVec 2)
deriving DecidableEq, Repr

/-- How a path 0x3 read of a port's window completed (R374). -/
inductive IoCompletion where
  | data (v : DWord)
  | unsupported
  | poisoned
deriving DecidableEq, Repr

/-- What the partners bring to one step of a collective (R218): the bytes of the segment that the step receives, or a failure that
stops the operation. -/
inductive CollStep where
  | receive (bytes : List Byte)
  | mismatch
  | linkFailed
deriving DecidableEq, Repr

/-- What a peer asks of this device's memory (R380, R381). -/
inductive PeerOp where
  | read (pa n : Nat)
  | write (pa : Nat) (bytes : List Byte)
  | atomic (pa : Nat) (aop : BitVec 4) (x y : DWord)
deriving DecidableEq, Repr

/-- A packet of a data flit (R383, R384). A request carries the key identity of its handle (0 for world 0, R357). -/
inductive LinkPacket where
  | request (token key : Nat) (op : PeerOp)
  | response (token : Nat) (v : List Byte)
  /-- a response that names why the peer did not perform its request: PEER, POISON or STALE (R357, R360, R362). -/
  | refusal (token : Nat) (code : BitVec 6)
  | hold (token : Nat)
  | faultRecord (token : Nat) (va root : DWord) (world : BitVec 10) (req : BitVec 9) (kind reason : BitVec 8)
  | faultReply (token : Nat) (outcome : FaultOutcome)
  | keyMessage
deriving DecidableEq, Repr

/-- A received flit (R383): the epoch and counter it was sent under, its body's fields, and its packets. -/
structure Flit where
  epoch : Nat
  counter : Nat
  kind : BitVec 4
  reservedZero : Bool
  cred0 : Byte
  cred1 : Byte
  cred2 : Byte
  ack : Nat
  ackEpoch : Nat
  packets : List LinkPacket
deriving DecidableEq, Repr

/-- The outcome of the checks of a start (R394, R397): a Root patch, Services image and OS image that verify, the stored
HBM results passing (warm start), the ports whose lanes train, and the images' security versions. -/
structure StartChecks where
  imagesVerify : Bool
  hbmPasses : Bool
  lanesUp : List Nat
  versions : Nat
deriving DecidableEq, Repr

/-- The steps of the Z9. -/
inductive Instr where
  /-- BRA (R83). Branches each predicated lane to a PC-relative target. -/
  | bra (i : BitVec 18)
  /-- BRC_ANY (R83). Branches the bundle when any contributing lane has its mask bit set. -/
  | brcAny (m : BitVec 4) (i : BitVec 18)
  /-- BRC_ALL (R83). Branches the bundle when every contributing lane has its mask bit set. -/
  | brcAll (m : BitVec 4) (i : BitVec 18)
  /-- BRC_NONE (R83). Branches the bundle when no contributing lane has its mask bit set. -/
  | brcNone (m : BitVec 4) (i : BitVec 18)
  /-- BRZ (R83). Branches each lane whose named register is zero. -/
  | brz (r : BitVec 5) (i : BitVec 18)
  /-- BRNZ (R83). Branches each lane whose named register is nonzero. -/
  | brnz (r : BitVec 5) (i : BitVec 18)
  /-- PARK (R85). Sends lanes to a meeting point and records the rejoin mask they wait through. -/
  | park (m : BitVec 4) (i : BitVec 18)
  /-- CALL (R86). Writes a per-lane link and branches to a PC-relative target. -/
  | call (r : BitVec 5) (i : BitVec 18)
  /-- RET (R86). Jumps each lane to the program counter held in a register. -/
  | ret (r : BitVec 5)
  /-- BIX (R86). Indirect jump of each lane to a register-held program counter. -/
  | bix (r : BitVec 5)
  /-- CALLX (R86). Indirect call that swaps the register's target with the link. -/
  | callx (r : BitVec 5)
  /-- ENROL (R84). Adds the executing lanes to a rejoin mask. -/
  | enrol (m : BitVec 4) (p : BitVec 2)
  /-- STRIKE (R84). Removes lanes from a rejoin mask and clears their meeting registers. -/
  | strike (m : BitVec 4) (p : BitVec 2)
  /-- MAND (R87). ANDs two masks lane by lane. -/
  | mand (d a b : BitVec 4) (p : BitVec 2)
  /-- MOR (R87). ORs two masks lane by lane. -/
  | mor (d a b : BitVec 4) (p : BitVec 2)
  /-- MXOR (R87). XORs two masks lane by lane. -/
  | mxor (d a b : BitVec 4) (p : BitVec 2)
  /-- MNOT (R87). Inverts a mask lane by lane. -/
  | mnot (d a : BitVec 4) (p : BitVec 2)
  /-- MPOP (R87). Counts the set bits of a mask into a v-register. -/
  | mpop (d : BitVec 5) (a : BitVec 4) (p : BitVec 2)
  /-- MFIRST (R87). Writes the index of a mask's lowest set bit. -/
  | mfirst (d : BitVec 5) (a : BitVec 4) (p : BitVec 2)
  /-- EXIT (R89). Retires the executing lanes. -/
  | exit (p : BitVec 2)
  /-- YIELD (R90). Makes the warp the youngest of its class on its slot until it next issues. -/
  | yield (p : BitVec 2)
  /-- REGION (R91). Ends the idempotent region and checkpoints the mapping table. -/
  | region
  /-- WAIT_ADDR (R92). Waits while a 32-bit word equals a value. -/
  | waitAddr (a b : Src) (p : BitVec 2)
  /-- VOTE_ANY (R88). Sets a mask to whether any contributing lane's condition is nonzero. -/
  | voteAny (d : BitVec 4) (a : Src) (p : BitVec 2)
  /-- VOTE_ALL (R88). Sets a mask to whether every contributing lane's condition is nonzero. -/
  | voteAll (d : BitVec 4) (a : Src) (p : BitVec 2)
  /-- VOTE_BALLOT (R88). Writes the ballot bit set of the bundle's conditions. -/
  | voteBallot (d : BitVec 5) (a : Src) (p : BitVec 2)
  /-- NOP (R93). Takes an issue slot and records nothing. -/
  | nop
  /-- HINT_K (R49). Supplies lane-pattern parameters kA and kB to the next instruction. -/
  | hintK (b a : BitVec 5)
  /-- HINT_IMM (R46). Supplies the upper 22 bits of a 32-bit immediate. -/
  | hintImm (i : BitVec 22)
  /-- HINT_LU (R50). Marks last uses of v sources for the following instructions. -/
  | hintLu (l : BitVec 22)
  /-- HINT_PRED (R49). Supplies a predicate mask and invert bit to the next instruction. -/
  | hintPred (n : BitVec 1) (m : BitVec 4)
  /-- HINT_OFF (R49). Supplies a signed byte offset to a memory instruction. -/
  | hintOff (o : BitVec 22)
  /-- HINT_CACHE (R49). Supplies scope, format code and cache policy to a memory instruction. -/
  | hintCache (s : BitVec 3) (f : BitVec 4) (c : BitVec 3)
  /-- HINT_SCHED (R51). Supplies bundle control and a lookahead count. -/
  | hintSched (c : BitVec 2) (l : BitVec 4)
  /-- RDS (R114). Reads a special register into a v- or s-register. -/
  | rds (r : BitVec 7) (s : BitVec 12) (v : BitVec 1)
  /-- WRS (R114). Writes a special register from a v- or s-register. -/
  | wrs (r : BitVec 7) (s : BitVec 12) (v : BitVec 1)
  /-- TRAP (R273). Raises SWTRAP with a 12-bit software code. -/
  | trap (c : BitVec 12)
  /-- RTE (R264). Returns every handler lane of a trap-mode warp to its $tpc. -/
  | rte
  /-- GRET (R271). Returns handler lanes' rows to their origins at $tpc + 4. -/
  | gret
  /-- GRET_SAME (R271). Returns handler lanes' rows to their origins at $tpc. -/
  | gretSame
  /-- GRET_PC (R271). Returns handler lanes' rows to their origins at a register-given PC. -/
  | gretPc (n : BitVec 5)
  /-- GKILL (R272). Retires the origin of each executing handler lane. -/
  | gkill
  /-- SEGSET (R289). Sets one segment window's base and limit for the issuing warp. -/
  | segset (n : BitVec 7) (w : BitVec 2)
  /-- TLBINV_VA (R350). Drops translations of one page under one root on the device. -/
  | tlbinvVa (n : BitVec 7)
  /-- TLBINV_ROOT (R350). Drops every translation of one root on the device. -/
  | tlbinvRoot (n : BitVec 7)
  /-- TLBINV_ALL (R350). Drops every translation on the device. -/
  | tlbinvAll
  /-- BRK (R273). Raises BKPT in each active non-helper lane. -/
  | brk
  /-- DBG_STEP (R277). Arms or disarms single-stepping of one warp. -/
  | dbgStep (n : BitVec 7)
  /-- PREACK (R287). Acknowledges a pending pre-emption request for the group. -/
  | preack
  /-- VADD (R97). Adds two 32-bit sources modulo 2^32. -/
  | vadd (d : BitVec 5) (a b : Src) (p : BitVec 2)
  /-- VSUB (R97). Subtracts two 32-bit sources modulo 2^32. -/
  | vsub (d : BitVec 5) (a b : Src) (p : BitVec 2)
  /-- VADD_SAT_S32 (R97). Adds with signed saturation. -/
  | vaddSatS32 (d : BitVec 5) (a b : Src) (p : BitVec 2)
  /-- VADD_SAT_N32 (R97). Adds with unsigned saturation. -/
  | vaddSatN32 (d : BitVec 5) (a b : Src) (p : BitVec 2)
  /-- VADDC (R98). Adds with a carry held in the high register of the destination pair. -/
  | vaddc (d : BitVec 4) (a b : Src) (p : BitVec 2)
  /-- VMUL_LO (R97). Writes the low 32 bits of a product. -/
  | vmulLo (d : BitVec 5) (a b : Src) (p : BitVec 2)
  /-- VMUL_HI_S32 (R97). Writes the high 32 bits of a signed product. -/
  | vmulHiS32 (d : BitVec 5) (a b : Src) (p : BitVec 2)
  /-- VMUL_HI_N32 (R97). Writes the high 32 bits of an unsigned product. -/
  | vmulHiN32 (d : BitVec 5) (a b : Src) (p : BitVec 2)
  /-- VMAD (R99). Multiplies and accumulates into the destination. -/
  | vmad (d : BitVec 5) (a b : Src) (p : BitVec 2)
  /-- VDIV_S32 (R101). Signed division truncating toward zero. -/
  | vdivS32 (d : BitVec 5) (a b : Src) (p : BitVec 2)
  /-- VDIV_N32 (R101). Unsigned division. -/
  | vdivN32 (d : BitVec 5) (a b : Src) (p : BitVec 2)
  /-- VREM_S32 (R101). Signed remainder with the dividend's sign. -/
  | vremS32 (d : BitVec 5) (a b : Src) (p : BitVec 2)
  /-- VREM_N32 (R101). Unsigned remainder. -/
  | vremN32 (d : BitVec 5) (a b : Src) (p : BitVec 2)
  /-- VMIN_S32 (R97). Signed minimum. -/
  | vminS32 (d : BitVec 5) (a b : Src) (p : BitVec 2)
  /-- VMIN_N32 (R97). Unsigned minimum. -/
  | vminN32 (d : BitVec 5) (a b : Src) (p : BitVec 2)
  /-- VMAX_S32 (R97). Signed maximum. -/
  | vmaxS32 (d : BitVec 5) (a b : Src) (p : BitVec 2)
  /-- VMAX_N32 (R97). Unsigned maximum. -/
  | vmaxN32 (d : BitVec 5) (a b : Src) (p : BitVec 2)
  /-- VABS_S32 (R97). Absolute value modulo 2^32. -/
  | vabsS32 (d : BitVec 5) (a : Src) (p : BitVec 2)
  /-- VNEG (R97). Negates modulo 2^32. -/
  | vneg (d : BitVec 5) (a : Src) (p : BitVec 2)
  /-- VAND (R97). Bitwise AND. -/
  | vand (d : BitVec 5) (a b : Src) (p : BitVec 2)
  /-- VOR (R97). Bitwise OR. -/
  | vor (d : BitVec 5) (a b : Src) (p : BitVec 2)
  /-- VXOR (R97). Bitwise XOR. -/
  | vxor (d : BitVec 5) (a b : Src) (p : BitVec 2)
  /-- VNOT (R97). Bitwise NOT. -/
  | vnot (d : BitVec 5) (a : Src) (p : BitVec 2)
  /-- VSEL (R100). Chooses per lane between two sources under a selector mask. -/
  | vsel (d : BitVec 5) (a b : Src) (c : BitVec 2)
  /-- VSHL (R97). Logical shift left. -/
  | vshl (d : BitVec 5) (a b : Src) (p : BitVec 2)
  /-- VSHR (R97). Logical shift right. -/
  | vshr (d : BitVec 5) (a b : Src) (p : BitVec 2)
  /-- VSRA (R97). Arithmetic shift right. -/
  | vsra (d : BitVec 5) (a b : Src) (p : BitVec 2)
  /-- VROT (R97). Rotate left. -/
  | vrot (d : BitVec 5) (a b : Src) (p : BitVec 2)
  /-- VPOPC (R97). Counts 1 bits. -/
  | vpopc (d : BitVec 5) (a : Src) (p : BitVec 2)
  /-- VCLZ (R97). Counts leading zero bits. -/
  | vclz (d : BitVec 5) (a : Src) (p : BitVec 2)
  /-- VBREV (R97). Reverses bit order. -/
  | vbrev (d : BitVec 5) (a : Src) (p : BitVec 2)
  /-- VMOV (R97). Copies a source with its whole tag. -/
  | vmov (d : BitVec 5) (a : Src) (p : BitVec 2)
  /-- VADD_64 (R102). 64-bit addition on register pairs. -/
  | vadd64 (d : BitVec 4) (a b : Src) (p : BitVec 2)
  /-- VSUB_64 (R102). 64-bit subtraction on register pairs. -/
  | vsub64 (d : BitVec 4) (a b : Src) (p : BitVec 2)
  /-- VMUL_LO_64 (R102). Low 64 bits of a 64-bit product. -/
  | vmulLo64 (d : BitVec 4) (a b : Src) (p : BitVec 2)
  /-- VMIN_S64 (R102). Signed 64-bit minimum. -/
  | vminS64 (d : BitVec 4) (a b : Src) (p : BitVec 2)
  /-- VMIN_N64 (R102). Unsigned 64-bit minimum. -/
  | vminN64 (d : BitVec 4) (a b : Src) (p : BitVec 2)
  /-- VMAX_S64 (R102). Signed 64-bit maximum. -/
  | vmaxS64 (d : BitVec 4) (a b : Src) (p : BitVec 2)
  /-- VMAX_N64 (R102). Unsigned 64-bit maximum. -/
  | vmaxN64 (d : BitVec 4) (a b : Src) (p : BitVec 2)
  /-- VSHL_64 (R102). 64-bit logical shift left. -/
  | vshl64 (d : BitVec 4) (a b : Src) (p : BitVec 2)
  /-- VSHR_64 (R102). 64-bit logical shift right. -/
  | vshr64 (d : BitVec 4) (a b : Src) (p : BitVec 2)
  /-- VSRA_64 (R102). 64-bit arithmetic shift right. -/
  | vsra64 (d : BitVec 4) (a b : Src) (p : BitVec 2)
  /-- VLEA (R103). Forms a 64-bit address from a base and an unsigned offset. -/
  | vlea (d : BitVec 4) (a b : Src) (p : BitVec 2)
  /-- VMOVREL (R107). Reads a register chosen per lane by a computed index. -/
  | vmovrel (d r : BitVec 5) (b : Src) (p : BitVec 2)
  /-- VREADL (R108). Copies one lane's value into an s-register. -/
  | vreadl (d : BitVec 5) (a b : Src) (p : BitVec 2)
  /-- VBCS (R108). Broadcasts the first active lane's value to the bundle. -/
  | vbcs (d : BitVec 5) (a : Src) (p : BitVec 2)
  /-- VCMP_EQ (R104). Writes per-lane 32-bit equality into a mask. -/
  | vcmpEq (d : BitVec 4) (a b : Src) (p : BitVec 2)
  /-- VCMP_NE (R104). Writes per-lane 32-bit inequality into a mask. -/
  | vcmpNe (d : BitVec 4) (a b : Src) (p : BitVec 2)
  /-- VCMP_LT_S32 (R104). Signed 32-bit less-than into a mask. -/
  | vcmpLtS32 (d : BitVec 4) (a b : Src) (p : BitVec 2)
  /-- VCMP_LE_S32 (R104). Signed 32-bit less-or-equal into a mask. -/
  | vcmpLeS32 (d : BitVec 4) (a b : Src) (p : BitVec 2)
  /-- VCMP_LT_N32 (R104). Unsigned 32-bit less-than into a mask. -/
  | vcmpLtN32 (d : BitVec 4) (a b : Src) (p : BitVec 2)
  /-- VCMP_LE_N32 (R104). Unsigned 32-bit less-or-equal into a mask. -/
  | vcmpLeN32 (d : BitVec 4) (a b : Src) (p : BitVec 2)
  /-- VCMP_EQ_64 (R104). 64-bit equality into a mask. -/
  | vcmpEq64 (d : BitVec 4) (a b : Src) (p : BitVec 2)
  /-- VCMP_NE_64 (R104). 64-bit inequality into a mask. -/
  | vcmpNe64 (d : BitVec 4) (a b : Src) (p : BitVec 2)
  /-- VCMP_LT_S64 (R104). Signed 64-bit less-than into a mask. -/
  | vcmpLtS64 (d : BitVec 4) (a b : Src) (p : BitVec 2)
  /-- VCMP_LE_S64 (R104). Signed 64-bit less-or-equal into a mask. -/
  | vcmpLeS64 (d : BitVec 4) (a b : Src) (p : BitVec 2)
  /-- VCMP_LT_N64 (R104). Unsigned 64-bit less-than into a mask. -/
  | vcmpLtN64 (d : BitVec 4) (a b : Src) (p : BitVec 2)
  /-- VCMP_LE_N64 (R104). Unsigned 64-bit less-or-equal into a mask. -/
  | vcmpLeN64 (d : BitVec 4) (a b : Src) (p : BitVec 2)
  /-- VADD_IMM (R105). Adds a sign-extended immediate. -/
  | vaddImm (d : BitVec 5) (a : Src) (i : BitVec 13)
  /-- VMOVI (R105). Loads an immediate into every active lane. -/
  | vmovi (d : BitVec 5) (i : BitVec 13)
  /-- SADD (R112). 64-bit scalar addition. -/
  | sadd (d a b : BitVec 7)
  /-- SSUB (R112). 64-bit scalar subtraction. -/
  | ssub (d a b : BitVec 7)
  /-- SMUL (R112). 64-bit scalar multiplication. -/
  | smul (d a b : BitVec 7)
  /-- SAND (R112). Scalar bitwise AND. -/
  | sand (d a b : BitVec 7)
  /-- SOR (R112). Scalar bitwise OR. -/
  | sor (d a b : BitVec 7)
  /-- SXOR (R112). Scalar bitwise XOR. -/
  | sxor (d a b : BitVec 7)
  /-- SSHL (R112). Scalar shift left. -/
  | sshl (d a b : BitVec 7)
  /-- SSHR (R112). Scalar logical shift right. -/
  | sshr (d a b : BitVec 7)
  /-- SCMP_EQ (R112). Scalar equality compare to 1 or 0. -/
  | scmpEq (d a b : BitVec 7)
  /-- SCMP_LT_S64 (R112). Scalar signed less-than to 1 or 0. -/
  | scmpLtS64 (d a b : BitVec 7)
  /-- SCMP_LT_N64 (R112). Scalar unsigned less-than to 1 or 0. -/
  | scmpLtN64 (d a b : BitVec 7)
  /-- SMOV (R112). Copies an s-register. -/
  | smov (d a : BitVec 7)
  /-- SADD_IMM (R113). Adds an immediate to an s-register. -/
  | saddImm (d a : BitVec 7) (i : BitVec 10)
  /-- SMOVI (R113). Loads an immediate into an s-register. -/
  | smovi (d : BitVec 7) (i : BitVec 10)
  /-- VSHAPE (R109). Reads a register's tag. -/
  | vshape (d s : BitVec 5) (p : BitVec 2)
  /-- VFMT (R109). Copies a register under a chosen format tag. -/
  | vfmt (d : BitVec 5) (a b : Src) (p : BitVec 2)
  /-- VAFFINE (R110). Builds an affine value from a base and stride. -/
  | vaffine (d : BitVec 5) (a b : Src) (p : BitVec 2)
  /-- VIDX (R110). Builds the lane index as an affine value. -/
  | vidx (d : BitVec 5) (p : BitVec 2)
  /-- VFREE (R111). Releases a register's entry for the whole warp. -/
  | vfree (d : BitVec 5)
  /-- VBFE_S32 (R106). Extracts a signed bit field. -/
  | vbfeS32 (d : BitVec 5) (a b : Src) (p : BitVec 2)
  /-- VBFE_N32 (R106). Extracts an unsigned bit field. -/
  | vbfeN32 (d : BitVec 5) (a b : Src) (p : BitVec 2)
  /-- VBFI (R106). Inserts a bit field into the destination. -/
  | vbfi (d : BitVec 5) (a b : Src) (p : BitVec 2)
  /-- VSEXT (R106). Sign-extends the low n bits. -/
  | vsext (d : BitVec 5) (a b : Src) (p : BitVec 2)
  /-- VZEXT (R106). Zero-extends the low n bits. -/
  | vzext (d : BitVec 5) (a b : Src) (p : BitVec 2)
  /-- VFADD_F32 (R130). FP32 addition. -/
  | vfaddF32 (d : BitVec 5) (a b : Src) (p : BitVec 2)
  /-- VFSUB_F32 (R130). FP32 subtraction. -/
  | vfsubF32 (d : BitVec 5) (a b : Src) (p : BitVec 2)
  /-- VFMUL_F32 (R130). FP32 multiplication. -/
  | vfmulF32 (d : BitVec 5) (a b : Src) (p : BitVec 2)
  /-- VFMA_F32 (R130). FP32 fused multiply-add. -/
  | vfmaF32 (d : BitVec 5) (a b : Src) (p : BitVec 2)
  /-- VFMIN_F32 (R130). FP32 minimumNumber. -/
  | vfminF32 (d : BitVec 5) (a b : Src) (p : BitVec 2)
  /-- VFMAX_F32 (R130). FP32 maximumNumber. -/
  | vfmaxF32 (d : BitVec 5) (a b : Src) (p : BitVec 2)
  /-- VFABS_F32 (R130). Clears the FP32 sign bit. -/
  | vfabsF32 (d : BitVec 5) (a : Src) (p : BitVec 2)
  /-- VFNEG_F32 (R130). Inverts the FP32 sign bit. -/
  | vfnegF32 (d : BitVec 5) (a : Src) (p : BitVec 2)
  /-- VFCMP_EQ_F32 (R131). FP32 equality into a mask. -/
  | vfcmpEqF32 (d : BitVec 4) (a b : Src) (p : BitVec 2)
  /-- VFCMP_NE_F32 (R131). FP32 inequality into a mask. -/
  | vfcmpNeF32 (d : BitVec 4) (a b : Src) (p : BitVec 2)
  /-- VFCMP_LT_F32 (R131). FP32 less-than into a mask. -/
  | vfcmpLtF32 (d : BitVec 4) (a b : Src) (p : BitVec 2)
  /-- VFCMP_LE_F32 (R131). FP32 less-or-equal into a mask. -/
  | vfcmpLeF32 (d : BitVec 4) (a b : Src) (p : BitVec 2)
  /-- VFCMP_UN_F32 (R131). FP32 unordered test into a mask. -/
  | vfcmpUnF32 (d : BitVec 4) (a b : Src) (p : BitVec 2)
  /-- VFCLASS_F32 (R132). Writes the FP32 class mask. -/
  | vfclassF32 (d : BitVec 5) (a : Src) (p : BitVec 2)
  /-- VFADD_F16 (R130). Paired FP16 addition. -/
  | vfaddF16 (d : BitVec 5) (a b : Src) (p : BitVec 2)
  /-- VFSUB_F16 (R130). Paired FP16 subtraction. -/
  | vfsubF16 (d : BitVec 5) (a b : Src) (p : BitVec 2)
  /-- VFMUL_F16 (R130). Paired FP16 multiplication. -/
  | vfmulF16 (d : BitVec 5) (a b : Src) (p : BitVec 2)
  /-- VFMA_F16 (R130). Paired FP16 fused multiply-add. -/
  | vfmaF16 (d : BitVec 5) (a b : Src) (p : BitVec 2)
  /-- VFMIN_F16 (R130). Paired FP16 minimumNumber. -/
  | vfminF16 (d : BitVec 5) (a b : Src) (p : BitVec 2)
  /-- VFMAX_F16 (R130). Paired FP16 maximumNumber. -/
  | vfmaxF16 (d : BitVec 5) (a b : Src) (p : BitVec 2)
  /-- VFABS_F16 (R130). Clears FP16 sign bits. -/
  | vfabsF16 (d : BitVec 5) (a : Src) (p : BitVec 2)
  /-- VFNEG_F16 (R130). Inverts FP16 sign bits. -/
  | vfnegF16 (d : BitVec 5) (a : Src) (p : BitVec 2)
  /-- VFCMP_EQ_F16 (R131). FP16 element-0 equality into a mask. -/
  | vfcmpEqF16 (d : BitVec 4) (a b : Src) (p : BitVec 2)
  /-- VFCMP_NE_F16 (R131). FP16 inequality into a mask. -/
  | vfcmpNeF16 (d : BitVec 4) (a b : Src) (p : BitVec 2)
  /-- VFCMP_LT_F16 (R131). FP16 less-than into a mask. -/
  | vfcmpLtF16 (d : BitVec 4) (a b : Src) (p : BitVec 2)
  /-- VFCMP_LE_F16 (R131). FP16 less-or-equal into a mask. -/
  | vfcmpLeF16 (d : BitVec 4) (a b : Src) (p : BitVec 2)
  /-- VFCMP_UN_F16 (R131). FP16 unordered test into a mask. -/
  | vfcmpUnF16 (d : BitVec 4) (a b : Src) (p : BitVec 2)
  /-- VFCLASS_F16 (R132). Writes FP16 class masks for both elements. -/
  | vfclassF16 (d : BitVec 5) (a : Src) (p : BitVec 2)
  /-- VFDOT2_F16 (R133). Adds an FP16 two-element dot product to an FP32 accumulator. -/
  | vfdot2F16 (d : BitVec 5) (a b : Src) (p : BitVec 2)
  /-- VFADD_BF16 (R130). Paired BF16 addition. -/
  | vfaddBf16 (d : BitVec 5) (a b : Src) (p : BitVec 2)
  /-- VFSUB_BF16 (R130). Paired BF16 subtraction. -/
  | vfsubBf16 (d : BitVec 5) (a b : Src) (p : BitVec 2)
  /-- VFMUL_BF16 (R130). Paired BF16 multiplication. -/
  | vfmulBf16 (d : BitVec 5) (a b : Src) (p : BitVec 2)
  /-- VFMA_BF16 (R130). Paired BF16 fused multiply-add. -/
  | vfmaBf16 (d : BitVec 5) (a b : Src) (p : BitVec 2)
  /-- VFMIN_BF16 (R130). Paired BF16 minimumNumber. -/
  | vfminBf16 (d : BitVec 5) (a b : Src) (p : BitVec 2)
  /-- VFMAX_BF16 (R130). Paired BF16 maximumNumber. -/
  | vfmaxBf16 (d : BitVec 5) (a b : Src) (p : BitVec 2)
  /-- VFABS_BF16 (R130). Clears BF16 sign bits. -/
  | vfabsBf16 (d : BitVec 5) (a : Src) (p : BitVec 2)
  /-- VFNEG_BF16 (R130). Inverts BF16 sign bits. -/
  | vfnegBf16 (d : BitVec 5) (a : Src) (p : BitVec 2)
  /-- VFCMP_EQ_BF16 (R131). BF16 equality into a mask. -/
  | vfcmpEqBf16 (d : BitVec 4) (a b : Src) (p : BitVec 2)
  /-- VFCMP_NE_BF16 (R131). BF16 inequality into a mask. -/
  | vfcmpNeBf16 (d : BitVec 4) (a b : Src) (p : BitVec 2)
  /-- VFCMP_LT_BF16 (R131). BF16 less-than into a mask. -/
  | vfcmpLtBf16 (d : BitVec 4) (a b : Src) (p : BitVec 2)
  /-- VFCMP_LE_BF16 (R131). BF16 less-or-equal into a mask. -/
  | vfcmpLeBf16 (d : BitVec 4) (a b : Src) (p : BitVec 2)
  /-- VFCMP_UN_BF16 (R131). BF16 unordered test into a mask. -/
  | vfcmpUnBf16 (d : BitVec 4) (a b : Src) (p : BitVec 2)
  /-- VFCLASS_BF16 (R132). Writes BF16 class masks. -/
  | vfclassBf16 (d : BitVec 5) (a : Src) (p : BitVec 2)
  /-- VFDOT2_BF16 (R133). Adds a BF16 two-element dot product to an FP32 accumulator. -/
  | vfdot2Bf16 (d : BitVec 5) (a b : Src) (p : BitVec 2)
  /-- VFADD_F64 (R130). FP64 addition on pairs. -/
  | vfaddF64 (d : BitVec 4) (a b : Src) (p : BitVec 2)
  /-- VFSUB_F64 (R130). FP64 subtraction on pairs. -/
  | vfsubF64 (d : BitVec 4) (a b : Src) (p : BitVec 2)
  /-- VFMUL_F64 (R130). FP64 multiplication on pairs. -/
  | vfmulF64 (d : BitVec 4) (a b : Src) (p : BitVec 2)
  /-- VFMA_F64 (R130). FP64 fused multiply-add on pairs. -/
  | vfmaF64 (d : BitVec 4) (a b : Src) (p : BitVec 2)
  /-- VFMIN_F64 (R130). FP64 minimumNumber. -/
  | vfminF64 (d : BitVec 4) (a b : Src) (p : BitVec 2)
  /-- VFMAX_F64 (R130). FP64 maximumNumber. -/
  | vfmaxF64 (d : BitVec 4) (a b : Src) (p : BitVec 2)
  /-- VFABS_F64 (R130). Clears the FP64 sign bit. -/
  | vfabsF64 (d : BitVec 4) (a : Src) (p : BitVec 2)
  /-- VFNEG_F64 (R130). Inverts the FP64 sign bit. -/
  | vfnegF64 (d : BitVec 4) (a : Src) (p : BitVec 2)
  /-- VFCMP_EQ_F64 (R131). FP64 equality into a mask. -/
  | vfcmpEqF64 (d : BitVec 4) (a b : Src) (p : BitVec 2)
  /-- VFCMP_NE_F64 (R131). FP64 inequality into a mask. -/
  | vfcmpNeF64 (d : BitVec 4) (a b : Src) (p : BitVec 2)
  /-- VFCMP_LT_F64 (R131). FP64 less-than into a mask. -/
  | vfcmpLtF64 (d : BitVec 4) (a b : Src) (p : BitVec 2)
  /-- VFCMP_LE_F64 (R131). FP64 less-or-equal into a mask. -/
  | vfcmpLeF64 (d : BitVec 4) (a b : Src) (p : BitVec 2)
  /-- VFCMP_UN_F64 (R131). FP64 unordered test into a mask. -/
  | vfcmpUnF64 (d : BitVec 4) (a b : Src) (p : BitVec 2)
  /-- VFCLASS_F64 (R132). Writes the FP64 class mask. -/
  | vfclassF64 (d : BitVec 5) (a : Src) (p : BitVec 2)
  /-- VFCVT (R134). Converts between FP32 and FP64, FP16 or BF16 by the rounding mode. -/
  | vfcvt (d : BitVec 5) (a : Src) (t s : BitVec 4) (p : BitVec 2)
  /-- VFCVT_RZ (R134). Converts between formats rounding toward zero. -/
  | vfcvtRz (d : BitVec 5) (a : Src) (t s : BitVec 4) (p : BitVec 2)
  /-- VFPACK (R135). Scales an FP32 value and shifts it into a packed word. -/
  | vfpack (d : BitVec 5) (a b : Src) (p : BitVec 2)
  /-- VFPACK_RZ (R135). Packs a scaled value rounding toward zero. -/
  | vfpackRz (d : BitVec 5) (a b : Src) (p : BitVec 2)
  /-- VFUNPACK (R136). Reads one packed element as FP32. -/
  | vfunpack (d : BitVec 5) (a b : Src) (p : BitVec 2)
  /-- VFSCALE (R137). Multiplies FP32 by a power of two. -/
  | vfscale (d : BitVec 5) (a b : Src) (p : BitVec 2)
  /-- VFROUND (R138). Rounds to an integral value in the same format. -/
  | vfround (d : BitVec 5) (a : Src) (f : BitVec 4) (p : BitVec 2)
  /-- VFTOI_S32 (R139). Converts FP32 to a signed integer. -/
  | vftoiS32 (d : BitVec 5) (a : Src) (r : BitVec 1) (p : BitVec 2)
  /-- VFTOI_N32 (R139). Converts FP32 to an unsigned integer. -/
  | vftoiN32 (d : BitVec 5) (a : Src) (r : BitVec 1) (p : BitVec 2)
  /-- VITOF_S32 (R139). Converts a signed integer to FP32. -/
  | vitofS32 (d : BitVec 5) (a : Src) (p : BitVec 2)
  /-- VITOF_N32 (R139). Converts an unsigned integer to FP32. -/
  | vitofN32 (d : BitVec 5) (a : Src) (p : BitVec 2)
  /-- VFRCP_F32 (R140). FP32 reciprocal. -/
  | vfrcpF32 (d : BitVec 5) (a : Src) (p : BitVec 2)
  /-- VFRSQ_F32 (R140). FP32 reciprocal square root. -/
  | vfrsqF32 (d : BitVec 5) (a : Src) (p : BitVec 2)
  /-- VFSQRT_F32 (R140). FP32 square root. -/
  | vfsqrtF32 (d : BitVec 5) (a : Src) (p : BitVec 2)
  /-- VFEXP2_F32 (R140). FP32 base-2 exponential. -/
  | vfexp2F32 (d : BitVec 5) (a : Src) (p : BitVec 2)
  /-- VFLOG2_F32 (R140). FP32 base-2 logarithm. -/
  | vflog2F32 (d : BitVec 5) (a : Src) (p : BitVec 2)
  /-- VFTANH_F32 (R140). FP32 hyperbolic tangent. -/
  | vftanhF32 (d : BitVec 5) (a : Src) (p : BitVec 2)
  /-- VFRCP_F64 (R140). FP64 reciprocal. -/
  | vfrcpF64 (d : BitVec 4) (a : Src) (p : BitVec 2)
  /-- VFRSQ_F64 (R140). FP64 reciprocal square root. -/
  | vfrsqF64 (d : BitVec 4) (a : Src) (p : BitVec 2)
  /-- VFSQRT_F64 (R140). FP64 square root. -/
  | vfsqrtF64 (d : BitVec 4) (a : Src) (p : BitVec 2)
  /-- VFEXP2_F16 (R140). FP16 base-2 exponential of both elements. -/
  | vfexp2F16 (d : BitVec 5) (a : Src) (p : BitVec 2)
  /-- VFLOG2_F16 (R140). FP16 base-2 logarithm of both elements. -/
  | vflog2F16 (d : BitVec 5) (a : Src) (p : BitVec 2)
  /-- VFTANH_F16 (R140). FP16 hyperbolic tangent of both elements. -/
  | vftanhF16 (d : BitVec 5) (a : Src) (p : BitVec 2)
  /-- VSHFL (R143). Pulls each lane's value from a lane named per lane. -/
  | vshfl (d : BitVec 5) (a b : Src) (p : BitVec 2)
  /-- VPERM (R143). Pushes each lane's value to a lane named per lane. -/
  | vperm (d : BitVec 5) (a b : Src) (p : BitVec 2)
  /-- VBCAST (R143). Broadcasts the value of a run-time-named lane. -/
  | vbcast (d : BitVec 5) (a b : Src) (p : BitVec 2)
  /-- QSWAP_H (R144). Exchanges values across lane bit 0 within quads. -/
  | qswapH (d : BitVec 5) (a : Src) (p : BitVec 2)
  /-- QSWAP_V (R144). Exchanges values across lane bit 1 within quads. -/
  | qswapV (d : BitVec 5) (a : Src) (p : BitVec 2)
  /-- QSWAP_D (R144). Exchanges values diagonally within quads. -/
  | qswapD (d : BitVec 5) (a : Src) (p : BitVec 2)
  /-- QBCAST (R144). Broadcasts one lane of each quad to the quad. -/
  | qbcast (d : BitVec 5) (a b : Src) (p : BitVec 2)
  /-- QREDUCE (R145). Combines the four values of each quad. -/
  | qreduce (d : BitVec 5) (a : Src) (o : BitVec 3) (p : BitVec 2)
  /-- WREDUCE_ADD (R146). Integer sum over the bundle's contributing lanes. -/
  | wreduceAdd (d : BitVec 5) (a : Src) (p : BitVec 2)
  /-- WREDUCE_MIN_S32 (R146). Signed minimum over contributing lanes. -/
  | wreduceMinS32 (d : BitVec 5) (a : Src) (p : BitVec 2)
  /-- WREDUCE_MIN_N32 (R146). Unsigned minimum over contributing lanes. -/
  | wreduceMinN32 (d : BitVec 5) (a : Src) (p : BitVec 2)
  /-- WREDUCE_MAX_S32 (R146). Signed maximum over contributing lanes. -/
  | wreduceMaxS32 (d : BitVec 5) (a : Src) (p : BitVec 2)
  /-- WREDUCE_MAX_N32 (R146). Unsigned maximum over contributing lanes. -/
  | wreduceMaxN32 (d : BitVec 5) (a : Src) (p : BitVec 2)
  /-- WSCAN (R147). Integer running sum in ascending lane order. -/
  | wscan (d : BitVec 5) (a : Src) (x : BitVec 1) (p : BitVec 2)
  /-- VCOMPACT (R148). Packs selected lanes' values into the lowest active lanes. -/
  | vcompact (d : BitVec 5) (a : Src) (m : BitVec 4) (p : BitVec 2)
  /-- VEXPAND (R148). Spreads the lowest active lanes' values to selected lanes. -/
  | vexpand (d : BitVec 5) (a : Src) (m : BitVec 4) (p : BitVec 2)
  /-- REORDER (R150). Group barrier that sorts member threads by key and refills warps. -/
  | reorder (k l : BitVec 5)
  /-- WREDUCE_ADD_F32 (R146). FP32 tree sum over contributing lanes. -/
  | wreduceAddF32 (d : BitVec 5) (a : Src) (p : BitVec 2)
  /-- WREDUCE_MIN_F32 (R146). FP32 minimumNumber over contributing lanes. -/
  | wreduceMinF32 (d : BitVec 5) (a : Src) (p : BitVec 2)
  /-- WREDUCE_MAX_F32 (R146). FP32 maximumNumber over contributing lanes. -/
  | wreduceMaxF32 (d : BitVec 5) (a : Src) (p : BitVec 2)
  /-- WSCAN_F32 (R147). FP32 running sum left to right. -/
  | wscanF32 (d : BitVec 5) (a : Src) (x : BitVec 1) (p : BitVec 2)
  /-- LD (R167). Loads from a generic address per lane. -/
  | ld (d s o : BitVec 5) (l : BitVec 4) (p : BitVec 2) (w : BitVec 3) (v : BitVec 2)
  /-- LD_ACQ (R167). Loads with acquire at its scope. -/
  | ldAcq (d s o : BitVec 5) (l : BitVec 4) (p : BitVec 2) (w : BitVec 3) (v : BitVec 2)
  /-- LD_RO (R168). Loads through the read-only path. -/
  | ldRo (d s o : BitVec 5) (l : BitVec 4) (p : BitVec 2) (w : BitVec 3) (x : BitVec 1)
  /-- LD_STREAM (R168). Loads through the streaming path. -/
  | ldStream (d s o : BitVec 5) (l : BitVec 4) (p : BitVec 2) (w : BitVec 3) (x : BitVec 1)
  /-- LD_SP (R169). Loads from the group's scratchpad by offset. -/
  | ldSp (d s o : BitVec 5) (l : BitVec 4) (p : BitVec 2) (w : BitVec 3) (x : BitVec 1)
  /-- SLD (R169). Loads a word or double word into an s-register. -/
  | sld (d s : BitVec 5) (l : BitVec 4) (p : BitVec 2) (w : BitVec 3)
  /-- ST (R170). Stores to a generic address per lane. -/
  | st (d s o : BitVec 5) (p : BitVec 2) (w : BitVec 3) (v : BitVec 1)
  /-- ST_REL (R170). Stores with release at its scope. -/
  | stRel (d s o : BitVec 5) (p : BitVec 2) (w : BitVec 3) (v : BitVec 1)
  /-- ST_SP (R170). Stores to the group's scratchpad by offset. -/
  | stSp (d s o : BitVec 5) (p : BitVec 2) (w : BitVec 3)
  /-- SST (R170). Stores an s-register once per issue. -/
  | sst (d s : BitVec 5) (p : BitVec 2) (w : BitVec 3)
  /-- ATOM_ADD_32 (R171). 32-bit atomic add returning the old value. -/
  | atomAdd32 (d s o v : BitVec 5) (r : BitVec 2)
  /-- ATOM_ADD_64 (R171). 64-bit atomic add. -/
  | atomAdd64 (d s o v : BitVec 5) (r : BitVec 2)
  /-- ATOM_MIN_S32 (R171). Atomic signed minimum. -/
  | atomMinS32 (d s o v : BitVec 5) (r : BitVec 2)
  /-- ATOM_MIN_N32 (R171). Atomic unsigned minimum. -/
  | atomMinN32 (d s o v : BitVec 5) (r : BitVec 2)
  /-- ATOM_MAX_S32 (R171). Atomic signed maximum. -/
  | atomMaxS32 (d s o v : BitVec 5) (r : BitVec 2)
  /-- ATOM_MAX_N32 (R171). Atomic unsigned maximum. -/
  | atomMaxN32 (d s o v : BitVec 5) (r : BitVec 2)
  /-- ATOM_AND (R171). Atomic bitwise AND. -/
  | atomAnd (d s o v : BitVec 5) (r : BitVec 2)
  /-- ATOM_OR (R171). Atomic bitwise OR. -/
  | atomOr (d s o v : BitVec 5) (r : BitVec 2)
  /-- ATOM_XOR (R171). Atomic bitwise XOR. -/
  | atomXor (d s o v : BitVec 5) (r : BitVec 2)
  /-- ATOM_XCHG_32 (R171). 32-bit atomic exchange. -/
  | atomXchg32 (d s o v : BitVec 5) (r : BitVec 2)
  /-- ATOM_XCHG_64 (R171). 64-bit atomic exchange. -/
  | atomXchg64 (d s o v : BitVec 5) (r : BitVec 2)
  /-- ATOM_CAS_32 (R171). 32-bit atomic compare-and-swap. -/
  | atomCas32 (d s o : BitVec 5) (v : BitVec 4) (r : BitVec 2)
  /-- ATOM_CAS_64 (R171). 64-bit atomic compare-and-swap. -/
  | atomCas64 (d s o : BitVec 5) (v : BitVec 3) (r : BitVec 2)
  /-- ATOM_FADD_F32 (R171). Atomic FP32 add rounded to nearest even. -/
  | atomFaddF32 (d s o v : BitVec 5) (r : BitVec 2)
  /-- ATOM_FADD_F64 (R171). Atomic FP64 add rounded to nearest even. -/
  | atomFaddF64 (d s o v : BitVec 5) (r : BitVec 2)
  /-- FENCE (R172). Orders the thread's accesses on one path class at a scope. -/
  | fence (p : BitVec 2) (s : BitVec 3)
  /-- FENCE_PATH (R172). Orders the thread's accesses across every path at a scope. -/
  | fencePath (p : BitVec 2) (s : BitVec 3)
  /-- CCTL (R173). Invalidates or writes back the cache line holding an address. -/
  | cctl (s o : BitVec 5) (p c : BitVec 2)
  /-- PREFETCH (R173). Brings the line holding an address into L1 or L2. -/
  | prefetch (s o : BitVec 5) (p : BitVec 2) (l : BitVec 1)
  /-- CP_ASYNC (R204). Queues a per-thread copy of up to 32 bytes into scratchpad under a tag. -/
  | cpAsync (d s o v : BitVec 5) (t : BitVec 6)
  /-- TAG_WAIT_ANY (R206). Waits until any named tag's counter is zero. -/
  | tagWaitAny (a : Src) (p : BitVec 2)
  /-- TAG_WAIT_ALL (R206). Waits until every named tag's counter is zero. -/
  | tagWaitAll (a : Src) (p : BitVec 2)
  /-- TAG_FIRST (R206). Writes the lowest completed tag of a set. -/
  | tagFirst (d : BitVec 5) (a : Src) (p : BitVec 2)
  /-- TAG_POLL (R206). Writes to a mask whether every named tag is complete. -/
  | tagPoll (d : BitVec 4) (a : Src) (p : BitVec 2)
  /-- TAG_CLEAR (R206). Drops unstarted copies under named tags and waits for the rest. -/
  | tagClear (a : Src) (p : BitVec 2)
  /-- BULK_COPY (R216). Queues a bulk copy counted into a barrier object. -/
  | bulkCopy (n : BitVec 5) (p : BitVec 2)
  /-- BULK_GATHER (R216). Queues an indexed row gather counted into a barrier object. -/
  | bulkGather (n : BitVec 5) (p : BitVec 2)
  /-- COLL_REDUCE (R218). Joins a domain-wide reduction of equal-length vectors. -/
  | collReduce (n : BitVec 5) (p : BitVec 2)
  /-- BAR_INIT (R211). Initialises a barrier object with an arrival expectation. -/
  | barInit (a b : Src) (p : BitVec 2)
  /-- BAR_EXPECT (R211). Adds expected bytes to a barrier object. -/
  | barExpect (d : BitVec 5) (a b : Src) (p : BitVec 2)
  /-- BAR_ARRIVE (R211). Counts one arrival into a barrier object, a release. -/
  | barArrive (d : BitVec 5) (a : Src) (p : BitVec 2)
  /-- BAR_WAIT (R211). Waits while a barrier object's phase equals a value. -/
  | barWait (a b : Src) (p : BitVec 2)
  /-- BAR_TEST (R211). Writes to a mask whether the phase has moved. -/
  | barTest (d : BitVec 4) (a b : Src) (p : BitVec 2)
  /-- BAR_GROUP (R214). Group barrier over member threads. -/
  | barGroup
  /-- BAR_CLUSTER (R214). Gang barrier over members of every unretired group. -/
  | barCluster
  /-- COLL_GATHER (R218). Joins a domain-wide concatenation of member blocks. -/
  | collGather (n : BitVec 5) (p : BitVec 2)
  /-- BINIT (R308). Sets an empty bin's window and tile cap. -/
  | binit (d : BitVec 5) (a : Src) (n : BitVec 6)
  /-- SUSP (R298). Files threads as rows of a bin with an explicit wake. -/
  | susp (l : BitVec 5) (n : BitVec 6)
  /-- SUSP_TAG (R298). Files threads as rows that wake when a copy tag completes. -/
  | suspTag (l : BitVec 5) (a : Src) (n : BitVec 6)
  /-- SUSP_ADDR (R298). Files threads as rows that wake on a wake.addr to a word. -/
  | suspAddr (l : BitVec 5) (a : Src) (n : BitVec 6)
  /-- SUSP_BAR (R298). Files threads as rows that wake on a barrier phase change. -/
  | suspBar (l : BitVec 5) (a : Src) (n : BitVec 6)
  /-- WAKE (R301). Wakes up to a count of sleeping explicit rows. -/
  | wake (d : BitVec 5) (a : Src) (n : BitVec 6)
  /-- WAKE_PRED (R301). Wakes sleeping rows whose register column meets a comparison. -/
  | wakePred (d : BitVec 5) (a : Src) (c : BitVec 2) (n : BitVec 6)
  /-- WAKE_ADDR (R302). Stores a word and wakes the address rows waiting on it. -/
  | wakeAddr (d : BitVec 5) (a : Src) (r : BitVec 1) (n : BitVec 6)
  /-- FLD (R306). Reads one register column of a frame tile into lanes. -/
  | fld (d : BitVec 5) (a : Src) (n : BitVec 6)
  /-- FST (R306). Writes a v-register into a register column of a frame tile. -/
  | fst (d : BitVec 5) (a : Src) (n : BitVec 6)
  /-- FXFORM (R307). Applies one operation to a register column of every occupied row. -/
  | fxform (d : BitVec 5) (a : Src) (o : BitVec 2) (n : BitVec 6)
  /-- FCOUNT (R308). Reads a bin's occupancy word. -/
  | fcount (d : BitVec 5) (n : BitVec 6)
  /-- RESUME (R305). Requests an immediate resume of a bin's oldest awake group. -/
  | resume (n : BitVec 6)
  /-- SVC (R367). Files the bundle's arguments in the service ring and waits for the reply. -/
  | svc (d c : BitVec 5) (b : Src) (p : BitVec 2)
  /-- SRECV (R368). Takes the next filed service record of the die. -/
  | srecv (d : BitVec 4) (n : BitVec 5) (p : BitVec 2)
  /-- SREP (R369). Answers a held service record and frees its slot. -/
  | srep (e : BitVec 4) (n : BitVec 5) (b : Src)
  /-- QPOST (R337). Advances a queue's doorbell and wakes its hart. -/
  | qpost (q i : BitVec 5) (p : BitVec 2)
  /-- LAUNCH (R338). Starts a child grid from a thread. -/
  | launch (d n : BitVec 5) (p : BitVec 2)
  /-- VERDICT (R339). Decides a surrogate tile by its maximum residual. -/
  | verdict (a : Src)
  /-- MREQ (R233). Posts a matrix request into the Turnstile. -/
  | mreq (d n : BitVec 5) (p : BitVec 2)
  /-- KADD (R226). Control-core 64-bit addition. -/
  | kadd (d a b : BitVec 5) (i : BitVec 6)
  /-- KSUB (R226). Control-core 64-bit subtraction. -/
  | ksub (d a b : BitVec 5) (i : BitVec 6)
  /-- KMUL (R226). Control-core 64-bit multiplication. -/
  | kmul (d a b : BitVec 5) (i : BitVec 6)
  /-- KAND (R226). Control-core bitwise AND. -/
  | kand (d a b : BitVec 5) (i : BitVec 6)
  /-- KOR (R226). Control-core bitwise OR. -/
  | kor (d a b : BitVec 5) (i : BitVec 6)
  /-- KXOR (R226). Control-core bitwise XOR. -/
  | kxor (d a b : BitVec 5) (i : BitVec 6)
  /-- KSHL (R226). Control-core shift left. -/
  | kshl (d a b : BitVec 5) (i : BitVec 6)
  /-- KSHR (R226). Control-core logical shift right. -/
  | kshr (d a b : BitVec 5) (i : BitVec 6)
  /-- KMOV (R226). Copies a k-register. -/
  | kmov (d a : BitVec 5)
  /-- KMOVI (R227). Loads a sign-extended constant into a k-register. -/
  | kmovi (d : BitVec 5) (i : BitVec 16)
  /-- KCMP (R228). Writes 1 when a comparison of k-registers holds. -/
  | kcmp (d a b : BitVec 5) (c : BitVec 6)
  /-- KBRA (R229). Branches when a k-register is nonzero, or always. -/
  | kbra (d : BitVec 5) (i : BitVec 16)
  /-- KLD (R230). Control-core load of a word or double word. -/
  | kld (d a : BitVec 5) (w : BitVec 1) (i : BitVec 6)
  /-- KST (R230). Control-core store of a word or double word. -/
  | kst (d a : BitVec 5) (w : BitVec 1) (i : BitVec 6)
  /-- KWAIT (R231). Control stream waits for a barrier-object phase change. -/
  | kwait (a b : BitVec 5)
  /-- DSET (R239). Writes one field of a tile descriptor. -/
  | dset (d a : BitVec 5) (f : BitVec 6)
  /-- DMOV (R239). Copies a tile descriptor. -/
  | dmov (d a : BitVec 5)
  /-- MTAKE (R235). Takes the next granted Turnstile request, waiting for a post. -/
  | mtake (d : BitVec 4)
  /-- MTAKE_NW (R235). Takes a granted request or returns zero without waiting. -/
  | mtakeNw (d : BitVec 4)
  /-- MDONE (R236). Retires a taken request and arrives on its object. -/
  | mdone (a : BitVec 5)
  /-- MMA (R250). Queues one matrix pass into an accumulator. -/
  | mma (n a b : BitVec 5) (s : BitVec 6)
  /-- MMA_SP (R250). Queues a 2:4 sparse matrix pass. -/
  | mmaSp (n a b : BitVec 5) (s : BitVec 6)
  /-- MMA_GX (R250). Queues a row-gathered matrix pass. -/
  | mmaGx (n a b : BitVec 5) (s : BitVec 6)
  /-- MMA_F64 (R250). Queues an FP64 matrix pass into an accumulator pair. -/
  | mmaF64 (n : BitVec 4) (a b : BitVec 5) (s : BitVec 6)
  /-- ACC_ZERO (R254). Queues clearing of an accumulator. -/
  | accZero (n : BitVec 5)
  /-- ACC_LOAD (R254). Queues filling an accumulator from a tile. -/
  | accLoad (n m : BitVec 5)
  /-- ACC_STORE (R254). Queues draining an accumulator into a tile, counted into a request object. -/
  | accStore (n m c : BitVec 5)
  /-- BUNDLE_REFORMATION_TIMER (R68). Bundles of a warp are re-formed 8 cc after its last re-formation. -/
  | bundleReformationTimer (w : Nat)
  /-- BUNDLE_PASSED_OVER (R72). A ready bundle passed over 64 times issues ahead of every key. -/
  | bundlePassedOver (w k : Nat)
  /-- SPIN_GOVERNOR_DEMOTION (R78). After 256 qualifying iterations the warp's lanes become waiting. -/
  | spinGovernorDemotion (w : Nat)
  /-- GOVERNOR_TIMEOUT_WAKE (R79). A governor-waiting warp wakes after 65,536 cc without a write. -/
  | governorTimeoutWake (w : Nat)
  /-- REGISTER_FILE_MOVE (R30). The scheduler moves a warp between fast and slow register files. -/
  | registerFileMove (w : Nat)
  /-- GROUP_EVICTION (R81). When every resident group of a launch waits, waiting groups are evicted to let another in. -/
  | groupEviction (g : Nat)
  /-- LONG_LATENCY_RESULT (R51). A long-latency result lands in its destination entry. -/
  | longLatencyResult (w : Nat)
  /-- WAIT_ADDR_REREAD (R92). A wait.addr lane re-reads its word at least every 4,096 cc. -/
  | waitAddrReread (w : Nat)
  /-- GROUP_RETIREMENT (R89). A group held in exit retires once every engine operation it issued has ended. -/
  | groupRetirement (g : Nat)
  /-- GANG_START (R12). A gang's groups start once every member has a slot on its cluster. -/
  | gangStart (g : Nat)
  /-- LOCAL_TRAP_ENTRY (R262). A trapping warp takes a reserve slot and enters its local handler. -/
  | localTrapEntry (w : Nat)
  /-- SYSTEM_DELIVERY (R265). A warp is saved and a code-0 record is posted to its die's service ring. -/
  | systemDelivery (w : Nat)
  /-- RINGMASTER_FILE (R267). A gather-mode lane, its log resolved, is filed as a row into a bin. -/
  | ringmasterFile (w : Nat)
  /-- HANDLER_WARP_FORMATION (R269). The Ringmaster forms a handler warp from a full or flushed bin. -/
  | handlerWarpFormation (die bin : Nat)
  /-- GATHER_WINDOW_EXPIRY (R269). WINDOW resident cc after a bin's oldest row, the bin gathers rows from other dies and forms. -/
  | gatherWindowExpiry (die bin : Nat)
  /-- ROW_REATTACH (R271). A returned row arrives at its origin lane and the lane is reattached. -/
  | rowReattach (k : Nat)
  /-- WHIT_ADDR_WRITE (R274). A kernel wrs writing 1 to bit 63 of $whit.addr clears VALID and LOST. -/
  | whitAddrWrite (die : Nat) (v : DWord)
  /-- REGION_CHECKPOINT (R278). After older stores pass their checks, the region checkpoint is taken. -/
  | regionCheckpoint (w : Nat)
  /-- LATE_STORE_CHECK (R197). A retired global store's race check completes at the home L2. -/
  | lateStoreCheck (w : Nat)
  /-- OPERAND_LOG_REPLAY (R281). A logged memory instruction is replayed or raises its cause once its entry resolves. -/
  | operandLogReplay (w : Nat)
  /-- PREEMPTION_REQUEST (R285). A pre-emption request reaches a die's collector and engines stop at their units. -/
  | preemptionRequest (t : PreemptTarget) (compl : DWord) (grace : Nat)
  /-- PREEMPTION_COMPLETE (R285). Once every engine has acknowledged, the collector writes the completion word. -/
  | preemptionComplete (k : Nat)
  /-- COOPERATIVE_GRACE_EXPIRY (R286). A cooperative group that has not executed preack is stopped when its grace runs out. -/
  | cooperativeGraceExpiry (g : Nat)
  /-- WARP_RESTORE (R288). A saved warp is restored from its save area, with returned rows applied. -/
  | warpRestore (w : Nat) (ok : Bool)
  /-- CP_ASYNC_REQUEST_COMPLETE (R204). The copy engine writes a request's 32 bytes and decrements its tag. -/
  | cpAsyncRequestComplete (core k : Nat)
  /-- BULK_CHUNK_LAND (R216). A 4 KiB chunk of a bulk operation lands and its bytes are counted. -/
  | bulkChunkLand (core k : Nat)
  /-- COLLECTIVE_STEP (R218). One reduce-scatter or gather step of a collective completes. -/
  | collectiveStep (core k : Nat) (r : CollStep)
  /-- BAR_WAIT_REREAD (R213). A waiting lane re-reads its barrier object at least every 4,096 cc. -/
  | barWaitReread (w : Nat)
  /-- MATRIX_PASS_START (R250). An array starts a queued pass and reads its operands and scales. -/
  | matrixPassStart (cl arr : Nat)
  /-- INDEX_GATHER (R252). The gather unit collects indexed rows into the operand latch. -/
  | indexGather (cl arr : Nat)
  /-- MATRIX_PASS_END (R244). A pass writes all its accumulator elements at its end. -/
  | matrixPassEnd (cl arr : Nat)
  /-- ACC_OPERATION_COMPLETE (R254). An accumulator clear, load or drain completes and drained bytes are counted. -/
  | accOperationComplete (cl arr : Nat)
  /-- CAROUSEL_WINDOW_EXPIRY (R303). WINDOW resident cc after a group's oldest awake row, a resume is triggered. -/
  | carouselWindowExpiry (die grid bin : Nat)
  /-- CAROUSEL_RESUME (R303). Up to 32 awake rows of a group are taken and loaded into a fresh warp. -/
  | carouselResume (die grid bin : Nat)
  /-- QBIND_WRITE (R312). A write to a queue binding takes effect at a packet boundary or abandons a wait. -/
  | qbindWrite (q : BitVec 5) (v : DWord)
  /-- SYSROOT_WRITE (R311). A write to SYSROOT changes world 0's translation root at each user's next boundary. -/
  | sysrootWrite (v : DWord)
  /-- PACKET_NOP (R315). The hart passes a NOP packet, after the BAR wait when set. -/
  | packetNop (q : BitVec 5)
  /-- PACKET_LAUNCH (R316). The hart hands a launch to the front end's list. -/
  | packetLaunch (q : BitVec 5)
  /-- PACKET_WAIT (R316). The hart begins waiting on a word or barrier-object condition. -/
  | packetWait (q : BitVec 5)
  /-- WAIT_PACKET_SATISFIED (R317). A WAIT packet's condition holds and the hart moves on, an acquire. -/
  | waitPacketSatisfied (q : BitVec 5)
  /-- PACKET_GRAPH (R316). The hart loads a graph table and hands its first nodes on. -/
  | packetGraph (q : BitVec 5)
  /-- PACKET_WRITE (R316). The hart stores a 64-bit value with a release at system scope. -/
  | packetWrite (q : BitVec 5)
  /-- HART_REREAD_TIMER (R314). A waiting hart re-reads its header or WAIT condition at least every 4,096 cc. -/
  | hartRereadTimer (q : BitVec 5)
  /-- DOORBELL_REREAD_TIMER (R314). A sleeping hart re-reads DOOR at least every 65,536 cc. -/
  | doorbellRereadTimer (q : BitVec 5)
  /-- DISPATCH (R328). The front end checks an accepted grid and starts it or refuses it. -/
  | dispatch (k : Nat) (blob : Option SealedBlob)
  /-- GROUP_ADMISSION (R327). The dispatcher admits a group to a core when resources allow. -/
  | groupAdmission (grid : Nat) (die : Nat)
  /-- HOME_WAIT_EXPIRY (R329). After 20 µs without room on its home die, a group may go to any die. -/
  | homeWaitExpiry (grid : Nat)
  /-- GANG_RESERVE_EXPIRY (R330). After 50 µs of waiting, a gang's cluster admits no other grid's groups. -/
  | gangReserveExpiry (grid : Nat)
  /-- GRID_COMPLETION (R320). When all parts of a grid retire, its completion record is written. -/
  | gridCompletion (grid : Nat)
  /-- WORLD_RETIREMENT (R352). A completed world is scrubbed, written back and its key slot erased. -/
  | worldRetirement (w : BitVec 10)
  /-- EXACT_GROUP_DISPATCH (R335). After a failed tile's discard, one exact group is dispatched for it. -/
  | exactGroupDispatch (grid : Nat)
  /-- PAGE_WALK (R345). A table walk completes and satisfies the misses that joined it. -/
  | pageWalk (core : Nat) (root va : DWord) (world : BitVec 10)
  /-- FAULT_RECORD (R348). A fault hart of the home device takes a fault record. -/
  | faultRecord (k : Nat)
  /-- FAULT_REPLY (R349). A fault reply arrives and the walk is retried or the cause raised. -/
  | faultReply (token : Nat) (outcome : FaultOutcome)
  /-- SERVICE_RECORD_FILE (R366). A waiting record is filed into the next free service-ring slot. -/
  | serviceRecordFile (die : Nat)
  /-- RING_WRITE_RETRY (R366). A filer blocked by an unserved translation repeats its write at least every 65,536 cc. -/
  | ringWriteRetry (die : Nat)
  /-- REPLY_DELIVERY (R370). A service reply lands in the caller's register and ends its wait. -/
  | replyDelivery (k : Nat)
  /-- SVCCFG_WRITE (R364). A write to a service-ring configuration enables the ring and resets its slots and gens. -/
  | svccfgWrite (d : BitVec 2) (word : Bool) (v : DWord)
  /-- IO_LOAD_COMPLETION (R374). A path 0x3 load's completion arrives, with UR, abort or poison handled. -/
  | ioLoadCompletion (k : Nat) (r : IoCompletion)
  /-- IO_COMPLETION_TIMEOUT (R374). A path 0x3 read not completed within CTO ms returns all ones and sets CTOE. -/
  | ioCompletionTimeout (k : Nat)
  /-- INBOUND_READ (R376). An endpoint memory read is translated, checked and served or refused. -/
  | inboundRead (p : BitVec 2) (rid : BitVec 16) (addr : DWord) (n : Nat)
  /-- INBOUND_WRITE (R376). An endpoint memory write is translated, checked and performed or dropped. -/
  | inboundWrite (p : BitVec 2) (rid : BitVec 16) (addr : DWord) (bytes : List Byte) (relaxed : Bool)
  /-- INBOUND_HOLD_TIMEOUT (R376). An inbound request held for fault service longer than CTO ms is refused. -/
  | inboundHoldTimeout (k : Nat)
  /-- INBOUND_CONTEXT_WRITE (R375). A write to an inbound context takes effect once Sniquin Root confirms its world. -/
  | inboundContextWrite (p : BitVec 2) (e : BitVec 6) (word : Bool) (v : DWord) (confirmed : Bool)
  /-- ERRSTAT_WRITE (R363). Any write to ERRSTAT clears its error counts. -/
  | errstatWrite (d : Nat) (v : DWord)
  /-- ECC_ERROR (R363). A soft error is corrected and counted, or an uncorrectable one poisons and posts a code-3 record. -/
  | eccError (d : Nat) (unit : BitVec 4) (corrected : Bool) (loc : DWord)
  /-- FLIT_IDLE (R383). An idle flit is received, its credits and ACK taken. -/
  | flitIdle (p : Nat) (f : Flit)
  /-- FLIT_DATA (R386). A data flit is verified in counter order and its packets taken. -/
  | flitData (p : Nat) (f : Flit)
  /-- FLIT_KEY_MARKER (R388). A verified key marker switches the receiver to the new key slot. -/
  | flitKeyMarker (p : Nat) (f : Flit)
  /-- FLIT_RETRY_REQUEST (R386). A retry request makes the transmitter replay from the named flit. -/
  | flitRetryRequest (p : Nat) (epoch counter : Nat)
  /-- KEY_AGREEMENT (R388). Housekeeping harts exchange key-agreement messages and install the next key. -/
  | keyAgreement (p : Nat)
  /-- KEY_ROTATION_THRESHOLD (R388). The transmit counter reaching 2^32 − 2^24 starts agreement on the next key. -/
  | keyRotationThreshold (p : Nat)
  /-- KEY_STALL_THRESHOLD (R388). The counter reaching 2^32 − 2^16 without the next key stalls the link. -/
  | keyStallThreshold (p : Nat)
  /-- KEY_STALL_TIMEOUT (R388). A link stalled for 100 ms goes down. -/
  | keyStallTimeout (p : Nat)
  /-- PORT_DOWN (R390). A port goes down, erasing keys and failing outstanding requests with LINK. -/
  | portDown (p : Nat) (kind : Byte)
  /-- PORT_UP (R390). A port comes up at epoch 0 with fresh keys and writes an event record. -/
  | portUp (p : Nat) (peer : BitVec 9)
  /-- LINK_REQUEST_TIMEOUT (R390). A request without response for 4 ms of counted time raises LINK. -/
  | linkRequestTimeout (k : Nat)
  /-- HOLD_RESPONSE (R390). A peer holding a request for fault service sends a hold response at least every 1 ms. -/
  | holdResponse (k : Nat)
  /-- ULSTAT_WRITE (R391). Any write to ULSTAT clears its retry, failure and down counts. -/
  | ulstatWrite (p : Nat) (v : DWord)
  /-- POWER_ON (R397). Power on begins a cold start. -/
  | powerOn
  /-- COLD_START (R397). Runs fuses, training, full scrub, keys, measurement and image loads. -/
  | coldStart (r : StartChecks)
  /-- WARM_START (R397). Runs a start reusing stored HBM training and scrubbing only world pages. -/
  | warmStart (r : StartChecks)
  /-- START_TIMEOUT (R397). A start fails when READY is not written within 60 s of OS load. -/
  | startTimeout
  /-- STARTREC_WRITE (R398). Writing READY marks the start successful and clears the failure counts. -/
  | startrecWrite (v : DWord)
  /-- GET_VERSION (R396). SPDM request answered by Sniquin Root. -/
  | getVersion
  /-- GET_CAPABILITIES (R396). SPDM request answered by Sniquin Root. -/
  | getCapabilities
  /-- NEGOTIATE_ALGORITHMS (R396). SPDM algorithm negotiation limited to RSASSA-4096 with SHA-512. -/
  | negotiateAlgorithms (supported : Bool)
  /-- GET_DIGESTS (R396). SPDM request for certificate digests. -/
  | getDigests
  /-- GET_CERTIFICATE (R396). SPDM request for the certificate chain. -/
  | getCertificate
  /-- CHALLENGE (R396). SPDM challenge signed with the device identity key. -/
  | challenge (nonce : DWord)
  /-- GET_MEASUREMENTS (R396). SPDM request returning measurements 1–6. -/
  | getMeasurements (index : Byte)
  /-- SPDM_UNSUPPORTED_REQUEST (R396). Any other SPDM request is answered ERROR UnsupportedRequest. -/
  | spdmUnsupportedRequest (code : Byte)
  /-- RESET_REQ (R399). Vendor request that schedules a hot reset after a grace time. -/
  | resetReq (grace : BitVec 16)
  /-- RESET_GRACE_EXPIRY (R399). At grace end or ACK, worlds are pre-empted, retired and the compute dies reset. -/
  | resetGraceExpiry
  /-- ROOTEVT_WRITE (R400). Writing ACK to ROOTEVT ends a pending reset's grace. -/
  | rootevtWrite (v : DWord)
  /-- MIGRATION_START (R401). The source pre-empts a world and seals its keys and state to the destination. -/
  | migrationStart (w : BitVec 10) (dest : BitVec 9) (nonce : DWord)
  /-- MIGRATION_SEALED_STATE (R401). The destination installs the keys into an armed slot and sends a receipt. -/
  | migrationSealedState (w : BitVec 10) (src : BitVec 9) (nonce handle : DWord) (blob : SealedBlob)
  /-- MIGRATION_RECEIPT (R401). The source verifies a receipt, erases its keys and sends confirmation. -/
  | migrationReceipt (nonce : DWord) (verified : Bool)
  /-- MIGRATION_CONFIRMATION (R401). The destination activates its armed slot and the world resumes. -/
  | migrationConfirmation (nonce : DWord)
  /-- MIGRATION_ABORT (R401). The destination scrubs its armed slot on an abort. -/
  | migrationAbort (nonce : DWord)
  /-- MIGRATION_ARM_TIMEOUT (R401). The destination scrubs an armed slot 30 s after arming without confirmation. -/
  | migrationArmTimeout (nonce : DWord)
  /-- MIGRATION_RECEIPT_TIMEOUT (R401). The source abandons the migration 30 s after sealing without a receipt. -/
  | migrationReceiptTimeout (nonce : DWord)
  /-- POWER_AVERAGE_WINDOW (R402). Each 1 ms power average may lower or raise the core clock by one step. -/
  | powerAverageWindow (watts temp : Nat)
  /-- THERMAL_TRIP (R402). A sensor above 120 °C stops the compute dies at once. -/
  | thermalTrip (temp : Nat)
  /-- PWRSTAT_WRITE (R402). Any write to PWRSTAT clears STEPS. -/
  | pwrstatWrite (v : DWord)
  /-- REGISTER_WRITE (R64). A write to a register that has no row of its own. -/
  | registerWrite (a : DWord) (v : DWord)
  /-- UNASSIGNED_ENCODING (R52). An instruction word whose major, func or hint kind is unassigned or reserved, including 0x0000_0000, raises ILLEGAL. -/
  | unassignedEncoding (w : Word)
  /-- PACKET_RESERVED_TYPE (R316). A queue packet with a reserved TYPE stops the queue, writes ERRIDX and ERRCODE 1 and posts a code-2 record. -/
  | packetReservedType (q : BitVec 5)
  /-- FLIT_TAG_FAILURE (R386). A received flit that fails its tag or arrives out of counter order is dropped with every later flit, and a retry request for the expected counter is sent. -/
  | flitTagFailure (p : Nat) (f : Flit)
  /-- ROOT_PORT_LINK_TRAINING (R373). A root port link trains or goes down, sampling SPLIT and changing the UP bits of RPSTAT. -/
  | rootPortLinkTraining (p : BitVec 2) (up : BitVec 4)
deriving DecidableEq, Repr

end Sys2Proof
end

