-- ==== Sys2Proof/WellFormed.lean ====
section
/-! DEFINITION. The decode check 3 of R43 that a word's own fields decide: register operands aligned for their width,
perm codes a field allows, and field values an entry admits. A word that breaks one raises ILLEGAL. -/

namespace Sys2Proof

/-- Is a register index even (R94)? -/
def evenReg (r : BitVec 5) : Bool := !r.getLsbD 0

/-- A 64-bit source: a scalar, or an even register (R94). -/
def pairSrc (a : Src) : Bool := a.perm == Perm.scalar || evenReg a.reg

/-- A source that names a block of operands: code 111, or code 000 with an even register (R298, R302). -/
def blockSrc (a : Src) : Bool := a.perm == Perm.scalar || (a.perm == Perm.direct && evenReg a.reg)

/-- The (destination, source) formats of vfcvt (R134). -/
def cvtPair (t s : BitVec 4) : Bool :=
  (s == 1#4 && (t == 8#4 || t == 2#4 || t == 3#4)) || (t == 1#4 && (s == 8#4 || s == 2#4 || s == 3#4))

/-- The M format (R54): width b to q, sign extension only of b and h, vd aligned to the width, an even voff pair. -/
def loadWf (d o : BitVec 5) (w : BitVec 3) (sign pair : Bool) : Bool :=
  decide (w.toNat ≤ 4) && (!sign || decide (w.toNat ≤ 1)) && (w != 3#3 || evenReg d)
    && (w != 4#3 || decide (d.toNat % 4 = 0)) && (!pair || evenReg o)

/-- Does the instruction pass the checks its own fields decide? -/
def Instr.wf : Instr → Bool
  | .bra _ => true
  | .brcAny _ _ => true
  | .brcAll _ _ => true
  | .brcNone _ _ => true
  | .brz _ _ => true
  | .brnz _ _ => true
  | .park m _ => m != 0#4
  | .call _ _ => true
  | .ret _ => true
  | .bix _ => true
  | .callx _ => true
  | .enrol m _ => m != 0#4
  | .strike m _ => m != 0#4
  | .mand _ _ _ _ => true
  | .mor _ _ _ _ => true
  | .mxor _ _ _ _ => true
  | .mnot _ _ _ => true
  | .mpop _ _ _ => true
  | .mfirst _ _ _ => true
  | .exit _ => true
  | .yield _ => true
  | .region => true
  | .waitAddr a _ _ => pairSrc a
  | .voteAny _ _ _ => true
  | .voteAll _ _ _ => true
  | .voteBallot _ _ _ => true
  | .nop => true
  | .hintK _ _ => true
  | .hintImm _ => true
  | .hintLu _ => true
  | .hintPred _ _ => true
  | .hintOff _ => true
  | .hintCache _ _ _ => true
  | .hintSched _ _ => true
  | .rds _ _ _ => true
  | .wrs _ _ _ => true
  | .trap _ => true
  | .rte => true
  | .gret => true
  | .gretSame => true
  | .gretPc n => decide (n.toNat < 24)
  | .gkill => true
  | .segset n _ => n != 0#7 && n != 127#7
  | .tlbinvVa n => n != 0#7 && n != 127#7
  | .tlbinvRoot n => n != 0#7
  | .tlbinvAll => true
  | .brk => true
  | .dbgStep n => n != 0#7
  | .preack => true
  | .vadd _ _ _ _ => true
  | .vsub _ _ _ _ => true
  | .vaddSatS32 _ _ _ _ => true
  | .vaddSatN32 _ _ _ _ => true
  | .vaddc _ _ _ _ => true
  | .vmulLo _ _ _ _ => true
  | .vmulHiS32 _ _ _ _ => true
  | .vmulHiN32 _ _ _ _ => true
  | .vmad _ _ _ _ => true
  | .vdivS32 _ _ _ _ => true
  | .vdivN32 _ _ _ _ => true
  | .vremS32 _ _ _ _ => true
  | .vremN32 _ _ _ _ => true
  | .vminS32 _ _ _ _ => true
  | .vminN32 _ _ _ _ => true
  | .vmaxS32 _ _ _ _ => true
  | .vmaxN32 _ _ _ _ => true
  | .vabsS32 _ _ _ => true
  | .vneg _ _ _ => true
  | .vand _ _ _ _ => true
  | .vor _ _ _ _ => true
  | .vxor _ _ _ _ => true
  | .vnot _ _ _ => true
  | .vsel _ _ _ _ => true
  | .vshl _ _ _ _ => true
  | .vshr _ _ _ _ => true
  | .vsra _ _ _ _ => true
  | .vrot _ _ _ _ => true
  | .vpopc _ _ _ => true
  | .vclz _ _ _ => true
  | .vbrev _ _ _ => true
  | .vmov _ _ _ => true
  | .vadd64 _ a b _ => pairSrc a && pairSrc b
  | .vsub64 _ a b _ => pairSrc a && pairSrc b
  | .vmulLo64 _ a b _ => pairSrc a && pairSrc b
  | .vminS64 _ a b _ => pairSrc a && pairSrc b
  | .vminN64 _ a b _ => pairSrc a && pairSrc b
  | .vmaxS64 _ a b _ => pairSrc a && pairSrc b
  | .vmaxN64 _ a b _ => pairSrc a && pairSrc b
  | .vshl64 _ a _ _ => pairSrc a
  | .vshr64 _ a _ _ => pairSrc a
  | .vsra64 _ a _ _ => pairSrc a
  | .vlea _ a _ _ => pairSrc a
  | .vmovrel _ _ _ _ => true
  | .vreadl _ _ _ _ => true
  | .vbcs _ _ _ => true
  | .vcmpEq _ _ _ _ => true
  | .vcmpNe _ _ _ _ => true
  | .vcmpLtS32 _ _ _ _ => true
  | .vcmpLeS32 _ _ _ _ => true
  | .vcmpLtN32 _ _ _ _ => true
  | .vcmpLeN32 _ _ _ _ => true
  | .vcmpEq64 _ a b _ => pairSrc a && pairSrc b
  | .vcmpNe64 _ a b _ => pairSrc a && pairSrc b
  | .vcmpLtS64 _ a b _ => pairSrc a && pairSrc b
  | .vcmpLeS64 _ a b _ => pairSrc a && pairSrc b
  | .vcmpLtN64 _ a b _ => pairSrc a && pairSrc b
  | .vcmpLeN64 _ a b _ => pairSrc a && pairSrc b
  | .vaddImm _ _ _ => true
  | .vmovi _ _ => true
  | .sadd _ _ _ => true
  | .ssub _ _ _ => true
  | .smul _ _ _ => true
  | .sand _ _ _ => true
  | .sor _ _ _ => true
  | .sxor _ _ _ => true
  | .sshl _ _ _ => true
  | .sshr _ _ _ => true
  | .scmpEq _ _ _ => true
  | .scmpLtS64 _ _ _ => true
  | .scmpLtN64 _ _ _ => true
  | .smov _ _ => true
  | .saddImm _ _ _ => true
  | .smovi _ _ => true
  | .vshape _ _ _ => true
  | .vfmt _ _ _ _ => true
  | .vaffine _ _ _ _ => true
  | .vidx _ _ => true
  | .vfree _ => true
  | .vbfeS32 _ _ _ _ => true
  | .vbfeN32 _ _ _ _ => true
  | .vbfi _ _ _ _ => true
  | .vsext _ _ _ _ => true
  | .vzext _ _ _ _ => true
  | .vfaddF32 _ _ _ _ => true
  | .vfsubF32 _ _ _ _ => true
  | .vfmulF32 _ _ _ _ => true
  | .vfmaF32 _ _ _ _ => true
  | .vfminF32 _ _ _ _ => true
  | .vfmaxF32 _ _ _ _ => true
  | .vfabsF32 _ _ _ => true
  | .vfnegF32 _ _ _ => true
  | .vfcmpEqF32 _ _ _ _ => true
  | .vfcmpNeF32 _ _ _ _ => true
  | .vfcmpLtF32 _ _ _ _ => true
  | .vfcmpLeF32 _ _ _ _ => true
  | .vfcmpUnF32 _ _ _ _ => true
  | .vfclassF32 _ _ _ => true
  | .vfaddF16 _ _ _ _ => true
  | .vfsubF16 _ _ _ _ => true
  | .vfmulF16 _ _ _ _ => true
  | .vfmaF16 _ _ _ _ => true
  | .vfminF16 _ _ _ _ => true
  | .vfmaxF16 _ _ _ _ => true
  | .vfabsF16 _ _ _ => true
  | .vfnegF16 _ _ _ => true
  | .vfcmpEqF16 _ _ _ _ => true
  | .vfcmpNeF16 _ _ _ _ => true
  | .vfcmpLtF16 _ _ _ _ => true
  | .vfcmpLeF16 _ _ _ _ => true
  | .vfcmpUnF16 _ _ _ _ => true
  | .vfclassF16 _ _ _ => true
  | .vfdot2F16 _ _ _ _ => true
  | .vfaddBf16 _ _ _ _ => true
  | .vfsubBf16 _ _ _ _ => true
  | .vfmulBf16 _ _ _ _ => true
  | .vfmaBf16 _ _ _ _ => true
  | .vfminBf16 _ _ _ _ => true
  | .vfmaxBf16 _ _ _ _ => true
  | .vfabsBf16 _ _ _ => true
  | .vfnegBf16 _ _ _ => true
  | .vfcmpEqBf16 _ _ _ _ => true
  | .vfcmpNeBf16 _ _ _ _ => true
  | .vfcmpLtBf16 _ _ _ _ => true
  | .vfcmpLeBf16 _ _ _ _ => true
  | .vfcmpUnBf16 _ _ _ _ => true
  | .vfclassBf16 _ _ _ => true
  | .vfdot2Bf16 _ _ _ _ => true
  | .vfaddF64 _ a b _ => pairSrc a && pairSrc b
  | .vfsubF64 _ a b _ => pairSrc a && pairSrc b
  | .vfmulF64 _ a b _ => pairSrc a && pairSrc b
  | .vfmaF64 _ a b _ => pairSrc a && pairSrc b
  | .vfminF64 _ a b _ => pairSrc a && pairSrc b
  | .vfmaxF64 _ a b _ => pairSrc a && pairSrc b
  | .vfabsF64 _ a _ => pairSrc a
  | .vfnegF64 _ a _ => pairSrc a
  | .vfcmpEqF64 _ a b _ => pairSrc a && pairSrc b
  | .vfcmpNeF64 _ a b _ => pairSrc a && pairSrc b
  | .vfcmpLtF64 _ a b _ => pairSrc a && pairSrc b
  | .vfcmpLeF64 _ a b _ => pairSrc a && pairSrc b
  | .vfcmpUnF64 _ a b _ => pairSrc a && pairSrc b
  | .vfclassF64 _ a _ => pairSrc a
  | .vfcvt d a t s _ => cvtPair t s && (t != 8#4 || evenReg d) && (s != 8#4 || pairSrc a)
  | .vfcvtRz d a t s _ => cvtPair t s && (t != 8#4 || evenReg d) && (s != 8#4 || pairSrc a)
  | .vfpack _ _ _ _ => true
  | .vfpackRz _ _ _ _ => true
  | .vfunpack _ _ _ _ => true
  | .vfscale _ _ _ _ => true
  | .vfround d a f _ => (f == 1#4 || f == 2#4 || f == 3#4 || (f == 8#4 && evenReg d && pairSrc a))
  | .vftoiS32 _ _ _ _ => true
  | .vftoiN32 _ _ _ _ => true
  | .vitofS32 _ _ _ => true
  | .vitofN32 _ _ _ => true
  | .vfrcpF32 _ _ _ => true
  | .vfrsqF32 _ _ _ => true
  | .vfsqrtF32 _ _ _ => true
  | .vfexp2F32 _ _ _ => true
  | .vflog2F32 _ _ _ => true
  | .vftanhF32 _ _ _ => true
  | .vfrcpF64 _ a _ => pairSrc a
  | .vfrsqF64 _ a _ => pairSrc a
  | .vfsqrtF64 _ a _ => pairSrc a
  | .vfexp2F16 _ _ _ => true
  | .vflog2F16 _ _ _ => true
  | .vftanhF16 _ _ _ => true
  | .vshfl _ _ _ _ => true
  | .vperm _ _ _ _ => true
  | .vbcast _ _ _ _ => true
  | .qswapH _ _ _ => true
  | .qswapV _ _ _ => true
  | .qswapD _ _ _ => true
  | .qbcast _ _ _ _ => true
  | .qreduce _ _ _ _ => true
  | .wreduceAdd _ _ _ => true
  | .wreduceMinS32 _ _ _ => true
  | .wreduceMinN32 _ _ _ => true
  | .wreduceMaxS32 _ _ _ => true
  | .wreduceMaxN32 _ _ _ => true
  | .wscan _ _ _ _ => true
  | .vcompact _ _ _ _ => true
  | .vexpand _ _ _ _ => true
  | .reorder _ l => l != 0#5
  | .wreduceAddF32 _ _ _ => true
  | .wreduceMinF32 _ _ _ => true
  | .wreduceMaxF32 _ _ _ => true
  | .wscanF32 _ _ _ _ => true
  | .ld d _ o _ _ w v => loadWf d o w (v.getLsbD 0) (v.getLsbD 1)
  | .ldAcq d _ o _ _ w v => (w == 2#3 || w == 3#3) && loadWf d o w (v.getLsbD 0) (v.getLsbD 1)
  | .ldRo d _ o _ _ w x => loadWf d o w (x.getLsbD 0) false
  | .ldStream d _ o _ _ w x => loadWf d o w (x.getLsbD 0) false
  | .ldSp d _ o _ _ w x => loadWf d o w (x.getLsbD 0) false
  | .sld _ _ _ _ w => w == 2#3 || w == 3#3
  | .st d _ o _ w v => loadWf d o w false (v.getLsbD 0)
  | .stRel d _ o _ w v => (w == 2#3 || w == 3#3) && loadWf d o w false (v.getLsbD 0)
  | .stSp d _ o _ w => loadWf d o w false false
  | .sst _ _ _ w => w == 2#3 || w == 3#3
  | .atomAdd32 _ _ _ _ _ => true
  | .atomAdd64 d _ _ v _ => evenReg d && evenReg v
  | .atomMinS32 _ _ _ _ _ => true
  | .atomMinN32 _ _ _ _ _ => true
  | .atomMaxS32 _ _ _ _ _ => true
  | .atomMaxN32 _ _ _ _ _ => true
  | .atomAnd _ _ _ _ _ => true
  | .atomOr _ _ _ _ _ => true
  | .atomXor _ _ _ _ _ => true
  | .atomXchg32 _ _ _ _ _ => true
  | .atomXchg64 d _ _ v _ => evenReg d && evenReg v
  | .atomCas32 _ _ _ _ _ => true
  | .atomCas64 d _ _ _ _ => evenReg d
  | .atomFaddF32 _ _ _ _ _ => true
  | .atomFaddF64 d _ _ v _ => evenReg d && evenReg v
  | .fence _ s => s != 0#3
  | .fencePath _ s => s != 0#3
  | .cctl _ _ _ _ => true
  | .prefetch _ _ _ _ => true
  | .cpAsync _ _ _ _ _ => true
  | .tagWaitAny a _ => pairSrc a
  | .tagWaitAll a _ => pairSrc a
  | .tagFirst _ a _ => pairSrc a
  | .tagPoll _ a _ => pairSrc a
  | .tagClear a _ => pairSrc a
  | .bulkCopy n _ => n != 0#5 && decide (n.toNat ≤ 28)
  | .bulkGather n _ => n != 0#5 && decide (n.toNat ≤ 26)
  | .collReduce n _ => n != 0#5 && decide (n.toNat ≤ 27)
  | .barInit a _ _ => pairSrc a
  | .barExpect _ a _ _ => pairSrc a
  | .barArrive _ a _ => pairSrc a
  | .barWait a _ _ => pairSrc a
  | .barTest _ a _ _ => pairSrc a
  | .barGroup => true
  | .barCluster => true
  | .collGather n _ => n != 0#5 && decide (n.toNat ≤ 27)
  | .binit _ _ _ => true
  | .susp _ _ => true
  | .suspTag _ _ _ => true
  | .suspAddr _ a _ => blockSrc a
  | .suspBar _ a _ => blockSrc a
  | .wake _ _ _ => true
  | .wakePred _ _ _ _ => true
  | .wakeAddr _ a _ _ => blockSrc a
  | .fld _ _ _ => true
  | .fst _ _ _ => true
  | .fxform _ _ _ _ => true
  | .fcount _ _ => true
  | .resume _ => true
  | .svc _ c _ _ => c != 0#5
  | .srecv _ n _ => n != 0#5 && decide (n.toNat ≤ 29)
  | .srep _ _ _ => true
  | .qpost q i _ => q != 0#5 && i != 0#5
  | .launch _ n _ => n != 0#5 && decide (n.toNat ≤ 28)
  | .verdict _ => true
  | .mreq _ n _ => n != 0#5 && decide (n.toNat ≤ 29)
  | .kadd _ _ _ _ => true
  | .ksub _ _ _ _ => true
  | .kmul _ _ _ _ => true
  | .kand _ _ _ _ => true
  | .kor _ _ _ _ => true
  | .kxor _ _ _ _ => true
  | .kshl _ _ _ _ => true
  | .kshr _ _ _ _ => true
  | .kmov _ _ => true
  | .kmovi _ _ => true
  | .kcmp _ _ _ c => decide (c.toNat ≤ 5)
  | .kbra _ _ => true
  | .kld _ _ _ _ => true
  | .kst _ _ _ _ => true
  | .kwait _ _ => true
  | .dset _ _ f => decide (f.toNat ≤ 8)
  | .dmov _ _ => true
  | .mtake d => d != 0#4
  | .mtakeNw d => d != 0#4
  | .mdone _ => true
  | .mma n _ _ _ => decide (n.toNat ≤ 11)
  | .mmaSp n a _ _ => decide (n.toNat ≤ 11) && a != 31#5
  | .mmaGx n a _ _ => decide (n.toNat ≤ 11) && a != 31#5
  | .mmaF64 n _ _ _ => decide (n.toNat ≤ 5)
  | .accZero n => decide (n.toNat ≤ 11)
  | .accLoad n _ => decide (n.toNat ≤ 11)
  | .accStore n _ _ => decide (n.toNat ≤ 11)
  | .bundleReformationTimer _ => true
  | .bundlePassedOver _ _ => true
  | .spinGovernorDemotion _ => true
  | .governorTimeoutWake _ => true
  | .registerFileMove _ => true
  | .groupEviction _ => true
  | .longLatencyResult _ => true
  | .waitAddrReread _ => true
  | .groupRetirement _ => true
  | .gangStart _ => true
  | .localTrapEntry _ => true
  | .systemDelivery _ => true
  | .ringmasterFile _ => true
  | .handlerWarpFormation _ _ => true
  | .gatherWindowExpiry _ _ => true
  | .rowReattach _ => true
  | .whitAddrWrite _ _ => true
  | .regionCheckpoint _ => true
  | .lateStoreCheck _ => true
  | .operandLogReplay _ => true
  | .preemptionRequest _ _ _ => true
  | .preemptionComplete _ => true
  | .cooperativeGraceExpiry _ => true
  | .warpRestore _ _ => true
  | .cpAsyncRequestComplete _ _ => true
  | .bulkChunkLand _ _ => true
  | .collectiveStep _ _ _ => true
  | .barWaitReread _ => true
  | .matrixPassStart _ _ => true
  | .indexGather _ _ => true
  | .matrixPassEnd _ _ => true
  | .accOperationComplete _ _ => true
  | .carouselWindowExpiry _ _ _ => true
  | .carouselResume _ _ _ => true
  | .qbindWrite _ _ => true
  | .sysrootWrite _ => true
  | .packetNop _ => true
  | .packetLaunch _ => true
  | .packetWait _ => true
  | .waitPacketSatisfied _ => true
  | .packetGraph _ => true
  | .packetWrite _ => true
  | .hartRereadTimer _ => true
  | .doorbellRereadTimer _ => true
  | .dispatch _ _ => true
  | .groupAdmission _ _ => true
  | .homeWaitExpiry _ => true
  | .gangReserveExpiry _ => true
  | .gridCompletion _ => true
  | .worldRetirement _ => true
  | .exactGroupDispatch _ => true
  | .pageWalk _ _ _ _ => true
  | .faultRecord _ => true
  | .faultReply _ _ => true
  | .serviceRecordFile _ => true
  | .ringWriteRetry _ => true
  | .replyDelivery _ => true
  | .svccfgWrite _ _ _ => true
  | .ioLoadCompletion _ _ => true
  | .ioCompletionTimeout _ => true
  | .inboundRead _ _ _ _ => true
  | .inboundWrite _ _ _ _ _ => true
  | .inboundHoldTimeout _ => true
  | .inboundContextWrite _ _ _ _ _ => true
  | .errstatWrite _ _ => true
  | .eccError _ _ _ _ => true
  | .flitIdle _ _ => true
  | .flitData _ _ => true
  | .flitKeyMarker _ _ => true
  | .flitRetryRequest _ _ _ => true
  | .keyAgreement _ => true
  | .keyRotationThreshold _ => true
  | .keyStallThreshold _ => true
  | .keyStallTimeout _ => true
  | .portDown _ _ => true
  | .portUp _ _ => true
  | .linkRequestTimeout _ => true
  | .holdResponse _ => true
  | .ulstatWrite _ _ => true
  | .powerOn => true
  | .coldStart _ => true
  | .warmStart _ => true
  | .startTimeout => true
  | .startrecWrite _ => true
  | .getVersion => true
  | .getCapabilities => true
  | .negotiateAlgorithms _ => true
  | .getDigests => true
  | .getCertificate => true
  | .challenge _ => true
  | .getMeasurements _ => true
  | .spdmUnsupportedRequest _ => true
  | .resetReq _ => true
  | .resetGraceExpiry => true
  | .rootevtWrite _ => true
  | .migrationStart _ _ _ => true
  | .migrationSealedState _ _ _ _ _ => true
  | .migrationReceipt _ _ => true
  | .migrationConfirmation _ => true
  | .migrationAbort _ => true
  | .migrationArmTimeout _ => true
  | .migrationReceiptTimeout _ => true
  | .powerAverageWindow _ _ => true
  | .thermalTrip _ => true
  | .pwrstatWrite _ => true
  | .registerWrite _ _ => true
  | .unassignedEncoding _ => true
  | .packetReservedType _ => true
  | .flitTagFailure _ _ => true
  | .rootPortLinkTraining _ _ => true

/-- A well-formed instruction. -/
abbrev Instr.WellFormed (i : Instr) : Prop := i.wf = true

end Sys2Proof
end

