-- ==== Sys2Proof/Decode.lean ====
section
/-! DEFINITION. The instruction word (R41, R44): decoding, total on every word, and the encoder, both written from the
rows of spec/opcode_table.json. Fields are read as quotient and remainder of the word. The definitions that build an
instruction are noncomputable only for Lean's compiled code, which holds no constructor past the 244th with fields; the
kernel evaluates them. -/

namespace Sys2Proof

/-- Bits [lo + len - 1 : lo] of a word, as a number. -/
def bits (w : Word) (lo len : Nat) : Nat := w.toNat / 2 ^ lo % 2 ^ len

/-- Bits [lo + len - 1 : lo] of a word. -/
def fld (w : Word) (lo len : Nat) : BitVec len := BitVec.ofNat len (w.toNat / 2 ^ lo)

/-- A perm code (R47). -/
def permOf : Nat → Perm
  | 0 => .direct | 1 => .broadcast | 2 => .rotate | 3 => .butterfly | 4 => .mirror | 5 => .quadBroadcast
  | 6 => .quadButterfly | _ => .scalar

/-- The code of a pattern (R47). -/
def permCode : Perm → Nat
  | .direct => 0 | .broadcast => 1 | .rotate => 2 | .butterfly => 3 | .mirror => 4 | .quadBroadcast => 5
  | .quadButterfly => 6 | .scalar => 7

/-- The source field whose low bit is lo (R39). -/
def srcAt (w : Word) (lo : Nat) : Src := ⟨permOf (bits w (lo + 5) 3), fld w lo 5⟩

/-- The eight bits of a source field. -/
def srcCode (a : Src) : Nat := permCode a.perm * 32 + a.reg.toNat

/-- Why a word decodes to no instruction: its major, func or a fixed field matches no row (R52), or its fields break a
check of WellFormed. Both raise ILLEGAL (R43). -/
inductive Reject where
  | unassigned
  | illFormed
deriving DecidableEq, Repr

/-- Major 0x01. -/
def decode01 (w : Word) : Option Instr :=
  if bits w 18 8 = 0 then some (.bra (fld w 0 18))
  else if bits w 22 4 = 2 then some (.brcAny (fld w 18 4) (fld w 0 18))
  else if bits w 22 4 = 4 then some (.brcAll (fld w 18 4) (fld w 0 18))
  else if bits w 22 4 = 6 then some (.brcNone (fld w 18 4) (fld w 0 18))
  else if bits w 23 3 = 4 then some (.brz (fld w 18 5) (fld w 0 18))
  else if bits w 23 3 = 5 then some (.brnz (fld w 18 5) (fld w 0 18))
  else if bits w 22 4 = 12 then some (.park (fld w 18 4) (fld w 0 18))
  else none

/-- Major 0x02. -/
def decode02 (w : Word) : Option Instr :=
  if bits w 23 3 = 0 then some (.call (fld w 18 5) (fld w 0 18))
  else if bits w 23 3 = 1 ∧ bits w 0 18 = 0 then some (.ret (fld w 18 5))
  else if bits w 23 3 = 2 ∧ bits w 0 18 = 0 then some (.bix (fld w 18 5))
  else if bits w 23 3 = 3 ∧ bits w 0 18 = 0 then some (.callx (fld w 18 5))
  else none

/-- Major 0x03. -/
def decode03 (w : Word) : Option Instr :=
  if bits w 25 1 = 0 ∧ bits w 5 16 = 0 ∧ bits w 0 3 = 0 then some (.enrol (fld w 21 4) (fld w 3 2))
  else if bits w 25 1 = 0 ∧ bits w 5 16 = 0 ∧ bits w 0 3 = 1 then some (.strike (fld w 21 4) (fld w 3 2))
  else if bits w 25 1 = 0 ∧ bits w 17 4 = 0 ∧ bits w 9 4 = 0 ∧ bits w 0 3 = 2 then some (.mand (fld w 21 4) (fld w 13 4) (fld w 5 4) (fld w 3 2))
  else if bits w 25 1 = 0 ∧ bits w 17 4 = 0 ∧ bits w 9 4 = 0 ∧ bits w 0 3 = 3 then some (.mor (fld w 21 4) (fld w 13 4) (fld w 5 4) (fld w 3 2))
  else if bits w 25 1 = 0 ∧ bits w 17 4 = 0 ∧ bits w 9 4 = 0 ∧ bits w 0 3 = 4 then some (.mxor (fld w 21 4) (fld w 13 4) (fld w 5 4) (fld w 3 2))
  else if bits w 25 1 = 0 ∧ bits w 17 4 = 0 ∧ bits w 5 8 = 0 ∧ bits w 0 3 = 5 then some (.mnot (fld w 21 4) (fld w 13 4) (fld w 3 2))
  else if bits w 17 4 = 0 ∧ bits w 5 8 = 0 ∧ bits w 0 3 = 6 then some (.mpop (fld w 21 5) (fld w 13 4) (fld w 3 2))
  else if bits w 17 4 = 0 ∧ bits w 5 8 = 0 ∧ bits w 0 3 = 7 then some (.mfirst (fld w 21 5) (fld w 13 4) (fld w 3 2))
  else none

/-- Major 0x04. -/
def decode04 (w : Word) : Option Instr :=
  if bits w 5 21 = 0 ∧ bits w 0 3 = 0 then some (.exit (fld w 3 2))
  else if bits w 5 21 = 0 ∧ bits w 0 3 = 1 then some (.yield (fld w 3 2))
  else if bits w 0 26 = 2 then some (.region)
  else if bits w 21 5 = 0 ∧ bits w 0 3 = 3 then some (.waitAddr (srcAt w 13) (srcAt w 5) (fld w 3 2))
  else none

/-- Major 0x05. -/
def decode05 (w : Word) : Option Instr :=
  if bits w 25 1 = 0 ∧ bits w 5 8 = 0 ∧ bits w 0 3 = 0 then some (.voteAny (fld w 21 4) (srcAt w 13) (fld w 3 2))
  else if bits w 25 1 = 0 ∧ bits w 5 8 = 0 ∧ bits w 0 3 = 1 then some (.voteAll (fld w 21 4) (srcAt w 13) (fld w 3 2))
  else if bits w 5 8 = 0 ∧ bits w 0 3 = 2 then some (.voteBallot (fld w 21 5) (srcAt w 13) (fld w 3 2))
  else none

/-- Major 0x08. -/
def decode08 (w : Word) : Option Instr :=
  if bits w 0 26 = 0 then some (.nop)
  else if bits w 10 16 = 4096 then some (.hintK (fld w 5 5) (fld w 0 5))
  else if bits w 22 4 = 2 then some (.hintImm (fld w 0 22))
  else if bits w 22 4 = 3 then some (.hintLu (fld w 0 22))
  else if bits w 5 21 = 524288 then some (.hintPred (fld w 4 1) (fld w 0 4))
  else if bits w 22 4 = 5 then some (.hintOff (fld w 0 22))
  else if bits w 11 15 = 12288 ∧ bits w 3 1 = 0 then some (.hintCache (fld w 8 3) (fld w 4 4) (fld w 0 3))
  else if bits w 6 20 = 458752 then some (.hintSched (fld w 4 2) (fld w 0 4))
  else none

/-- Major 0x09. -/
def decode09 (w : Word) : Option Instr :=
  if bits w 23 3 = 0 ∧ bits w 0 3 = 0 then some (.rds (fld w 16 7) (fld w 4 12) (fld w 3 1))
  else if bits w 23 3 = 1 ∧ bits w 0 3 = 0 then some (.wrs (fld w 16 7) (fld w 4 12) (fld w 3 1))
  else if bits w 16 10 = 256 ∧ bits w 0 4 = 0 then some (.trap (fld w 4 12))
  else if bits w 0 26 = 25165824 then some (.rte)
  else if bits w 0 26 = 33554432 then some (.gret)
  else if bits w 0 26 = 33554448 then some (.gretSame)
  else if bits w 21 5 = 16 ∧ bits w 0 16 = 40 then some (.gretPc (fld w 16 5))
  else if bits w 0 26 = 41943040 then some (.gkill)
  else if bits w 23 3 = 6 ∧ bits w 6 10 = 0 ∧ bits w 0 4 = 0 then some (.segset (fld w 16 7) (fld w 4 2))
  else if bits w 23 3 = 7 ∧ bits w 0 16 = 0 then some (.tlbinvVa (fld w 16 7))
  else if bits w 23 3 = 7 ∧ bits w 0 16 = 16 then some (.tlbinvRoot (fld w 16 7))
  else if bits w 0 26 = 58720288 then some (.tlbinvAll)
  else none

/-- Major 0x0A. -/
def decode0A (w : Word) : Option Instr :=
  if bits w 0 26 = 0 then some (.brk)
  else if bits w 23 3 = 1 ∧ bits w 0 16 = 0 then some (.dbgStep (fld w 16 7))
  else if bits w 0 26 = 16777216 then some (.preack)
  else none

/-- Major 0x10. -/
def decode10 (w : Word) : Option Instr :=
  if bits w 0 3 = 0 then some (.vadd (fld w 21 5) (srcAt w 13) (srcAt w 5) (fld w 3 2))
  else if bits w 0 3 = 1 then some (.vsub (fld w 21 5) (srcAt w 13) (srcAt w 5) (fld w 3 2))
  else if bits w 0 3 = 2 then some (.vaddSatS32 (fld w 21 5) (srcAt w 13) (srcAt w 5) (fld w 3 2))
  else if bits w 0 3 = 3 then some (.vaddSatN32 (fld w 21 5) (srcAt w 13) (srcAt w 5) (fld w 3 2))
  else if bits w 21 1 = 0 ∧ bits w 0 3 = 4 then some (.vaddc (fld w 22 4) (srcAt w 13) (srcAt w 5) (fld w 3 2))
  else if bits w 0 3 = 5 then some (.vmulLo (fld w 21 5) (srcAt w 13) (srcAt w 5) (fld w 3 2))
  else if bits w 0 3 = 6 then some (.vmulHiS32 (fld w 21 5) (srcAt w 13) (srcAt w 5) (fld w 3 2))
  else if bits w 0 3 = 7 then some (.vmulHiN32 (fld w 21 5) (srcAt w 13) (srcAt w 5) (fld w 3 2))
  else none

/-- Major 0x11. -/
def decode11 (w : Word) : Option Instr :=
  if bits w 0 3 = 0 then some (.vmad (fld w 21 5) (srcAt w 13) (srcAt w 5) (fld w 3 2))
  else if bits w 0 3 = 1 then some (.vdivS32 (fld w 21 5) (srcAt w 13) (srcAt w 5) (fld w 3 2))
  else if bits w 0 3 = 2 then some (.vdivN32 (fld w 21 5) (srcAt w 13) (srcAt w 5) (fld w 3 2))
  else if bits w 0 3 = 3 then some (.vremS32 (fld w 21 5) (srcAt w 13) (srcAt w 5) (fld w 3 2))
  else if bits w 0 3 = 4 then some (.vremN32 (fld w 21 5) (srcAt w 13) (srcAt w 5) (fld w 3 2))
  else if bits w 0 3 = 5 then some (.vminS32 (fld w 21 5) (srcAt w 13) (srcAt w 5) (fld w 3 2))
  else if bits w 0 3 = 6 then some (.vminN32 (fld w 21 5) (srcAt w 13) (srcAt w 5) (fld w 3 2))
  else if bits w 0 3 = 7 then some (.vmaxS32 (fld w 21 5) (srcAt w 13) (srcAt w 5) (fld w 3 2))
  else none

/-- Major 0x12. -/
def decode12 (w : Word) : Option Instr :=
  if bits w 0 3 = 0 then some (.vmaxN32 (fld w 21 5) (srcAt w 13) (srcAt w 5) (fld w 3 2))
  else if bits w 5 8 = 0 ∧ bits w 0 3 = 1 then some (.vabsS32 (fld w 21 5) (srcAt w 13) (fld w 3 2))
  else if bits w 5 8 = 0 ∧ bits w 0 3 = 2 then some (.vneg (fld w 21 5) (srcAt w 13) (fld w 3 2))
  else if bits w 0 3 = 3 then some (.vand (fld w 21 5) (srcAt w 13) (srcAt w 5) (fld w 3 2))
  else if bits w 0 3 = 4 then some (.vor (fld w 21 5) (srcAt w 13) (srcAt w 5) (fld w 3 2))
  else if bits w 0 3 = 5 then some (.vxor (fld w 21 5) (srcAt w 13) (srcAt w 5) (fld w 3 2))
  else if bits w 5 8 = 0 ∧ bits w 0 3 = 6 then some (.vnot (fld w 21 5) (srcAt w 13) (fld w 3 2))
  else if bits w 0 3 = 7 then some (.vsel (fld w 21 5) (srcAt w 13) (srcAt w 5) (fld w 3 2))
  else none

/-- Major 0x13. -/
def decode13 (w : Word) : Option Instr :=
  if bits w 0 3 = 0 then some (.vshl (fld w 21 5) (srcAt w 13) (srcAt w 5) (fld w 3 2))
  else if bits w 0 3 = 1 then some (.vshr (fld w 21 5) (srcAt w 13) (srcAt w 5) (fld w 3 2))
  else if bits w 0 3 = 2 then some (.vsra (fld w 21 5) (srcAt w 13) (srcAt w 5) (fld w 3 2))
  else if bits w 0 3 = 3 then some (.vrot (fld w 21 5) (srcAt w 13) (srcAt w 5) (fld w 3 2))
  else if bits w 5 8 = 0 ∧ bits w 0 3 = 4 then some (.vpopc (fld w 21 5) (srcAt w 13) (fld w 3 2))
  else if bits w 5 8 = 0 ∧ bits w 0 3 = 5 then some (.vclz (fld w 21 5) (srcAt w 13) (fld w 3 2))
  else if bits w 5 8 = 0 ∧ bits w 0 3 = 6 then some (.vbrev (fld w 21 5) (srcAt w 13) (fld w 3 2))
  else if bits w 5 8 = 0 ∧ bits w 0 3 = 7 then some (.vmov (fld w 21 5) (srcAt w 13) (fld w 3 2))
  else none

/-- Major 0x14. -/
def decode14 (w : Word) : Option Instr :=
  if bits w 21 1 = 0 ∧ bits w 0 3 = 0 then some (.vadd64 (fld w 22 4) (srcAt w 13) (srcAt w 5) (fld w 3 2))
  else if bits w 21 1 = 0 ∧ bits w 0 3 = 1 then some (.vsub64 (fld w 22 4) (srcAt w 13) (srcAt w 5) (fld w 3 2))
  else if bits w 21 1 = 0 ∧ bits w 0 3 = 2 then some (.vmulLo64 (fld w 22 4) (srcAt w 13) (srcAt w 5) (fld w 3 2))
  else if bits w 21 1 = 0 ∧ bits w 0 3 = 3 then some (.vminS64 (fld w 22 4) (srcAt w 13) (srcAt w 5) (fld w 3 2))
  else if bits w 21 1 = 0 ∧ bits w 0 3 = 4 then some (.vminN64 (fld w 22 4) (srcAt w 13) (srcAt w 5) (fld w 3 2))
  else if bits w 21 1 = 0 ∧ bits w 0 3 = 5 then some (.vmaxS64 (fld w 22 4) (srcAt w 13) (srcAt w 5) (fld w 3 2))
  else if bits w 21 1 = 0 ∧ bits w 0 3 = 6 then some (.vmaxN64 (fld w 22 4) (srcAt w 13) (srcAt w 5) (fld w 3 2))
  else if bits w 21 1 = 0 ∧ bits w 0 3 = 7 then some (.vshl64 (fld w 22 4) (srcAt w 13) (srcAt w 5) (fld w 3 2))
  else none

/-- Major 0x15. -/
def decode15 (w : Word) : Option Instr :=
  if bits w 21 1 = 0 ∧ bits w 0 3 = 0 then some (.vshr64 (fld w 22 4) (srcAt w 13) (srcAt w 5) (fld w 3 2))
  else if bits w 21 1 = 0 ∧ bits w 0 3 = 1 then some (.vsra64 (fld w 22 4) (srcAt w 13) (srcAt w 5) (fld w 3 2))
  else if bits w 21 1 = 0 ∧ bits w 0 3 = 2 then some (.vlea (fld w 22 4) (srcAt w 13) (srcAt w 5) (fld w 3 2))
  else if bits w 18 3 = 0 ∧ bits w 0 3 = 3 then some (.vmovrel (fld w 21 5) (fld w 13 5) (srcAt w 5) (fld w 3 2))
  else if bits w 0 3 = 4 then some (.vreadl (fld w 21 5) (srcAt w 13) (srcAt w 5) (fld w 3 2))
  else if bits w 5 8 = 0 ∧ bits w 0 3 = 5 then some (.vbcs (fld w 21 5) (srcAt w 13) (fld w 3 2))
  else none

/-- Major 0x16. -/
def decode16 (w : Word) : Option Instr :=
  if bits w 25 1 = 0 ∧ bits w 0 3 = 0 then some (.vcmpEq (fld w 21 4) (srcAt w 13) (srcAt w 5) (fld w 3 2))
  else if bits w 25 1 = 0 ∧ bits w 0 3 = 1 then some (.vcmpNe (fld w 21 4) (srcAt w 13) (srcAt w 5) (fld w 3 2))
  else if bits w 25 1 = 0 ∧ bits w 0 3 = 2 then some (.vcmpLtS32 (fld w 21 4) (srcAt w 13) (srcAt w 5) (fld w 3 2))
  else if bits w 25 1 = 0 ∧ bits w 0 3 = 3 then some (.vcmpLeS32 (fld w 21 4) (srcAt w 13) (srcAt w 5) (fld w 3 2))
  else if bits w 25 1 = 0 ∧ bits w 0 3 = 4 then some (.vcmpLtN32 (fld w 21 4) (srcAt w 13) (srcAt w 5) (fld w 3 2))
  else if bits w 25 1 = 0 ∧ bits w 0 3 = 5 then some (.vcmpLeN32 (fld w 21 4) (srcAt w 13) (srcAt w 5) (fld w 3 2))
  else none

/-- Major 0x17. -/
def decode17 (w : Word) : Option Instr :=
  if bits w 25 1 = 0 ∧ bits w 0 3 = 0 then some (.vcmpEq64 (fld w 21 4) (srcAt w 13) (srcAt w 5) (fld w 3 2))
  else if bits w 25 1 = 0 ∧ bits w 0 3 = 1 then some (.vcmpNe64 (fld w 21 4) (srcAt w 13) (srcAt w 5) (fld w 3 2))
  else if bits w 25 1 = 0 ∧ bits w 0 3 = 2 then some (.vcmpLtS64 (fld w 21 4) (srcAt w 13) (srcAt w 5) (fld w 3 2))
  else if bits w 25 1 = 0 ∧ bits w 0 3 = 3 then some (.vcmpLeS64 (fld w 21 4) (srcAt w 13) (srcAt w 5) (fld w 3 2))
  else if bits w 25 1 = 0 ∧ bits w 0 3 = 4 then some (.vcmpLtN64 (fld w 21 4) (srcAt w 13) (srcAt w 5) (fld w 3 2))
  else if bits w 25 1 = 0 ∧ bits w 0 3 = 5 then some (.vcmpLeN64 (fld w 21 4) (srcAt w 13) (srcAt w 5) (fld w 3 2))
  else none

/-- Major 0x18. -/
def decode18 (w : Word) : Option Instr :=
  some (.vaddImm (fld w 21 5) (srcAt w 13) (fld w 0 13))

/-- Major 0x19. -/
def decode19 (w : Word) : Option Instr :=
  if bits w 13 8 = 0 then some (.vmovi (fld w 21 5) (fld w 0 13))
  else none

/-- Major 0x1A. -/
def decode1A (w : Word) : Option Instr :=
  if bits w 0 5 = 0 then some (.sadd (fld w 19 7) (fld w 12 7) (fld w 5 7))
  else if bits w 0 5 = 1 then some (.ssub (fld w 19 7) (fld w 12 7) (fld w 5 7))
  else if bits w 0 5 = 2 then some (.smul (fld w 19 7) (fld w 12 7) (fld w 5 7))
  else if bits w 0 5 = 3 then some (.sand (fld w 19 7) (fld w 12 7) (fld w 5 7))
  else if bits w 0 5 = 4 then some (.sor (fld w 19 7) (fld w 12 7) (fld w 5 7))
  else if bits w 0 5 = 5 then some (.sxor (fld w 19 7) (fld w 12 7) (fld w 5 7))
  else if bits w 0 5 = 6 then some (.sshl (fld w 19 7) (fld w 12 7) (fld w 5 7))
  else if bits w 0 5 = 7 then some (.sshr (fld w 19 7) (fld w 12 7) (fld w 5 7))
  else if bits w 0 5 = 8 then some (.scmpEq (fld w 19 7) (fld w 12 7) (fld w 5 7))
  else if bits w 0 5 = 9 then some (.scmpLtS64 (fld w 19 7) (fld w 12 7) (fld w 5 7))
  else if bits w 0 5 = 10 then some (.scmpLtN64 (fld w 19 7) (fld w 12 7) (fld w 5 7))
  else if bits w 0 12 = 11 then some (.smov (fld w 19 7) (fld w 12 7))
  else none

/-- Major 0x1B. -/
def decode1B (w : Word) : Option Instr :=
  if bits w 0 2 = 0 then some (.saddImm (fld w 19 7) (fld w 12 7) (fld w 2 10))
  else if bits w 12 7 = 0 ∧ bits w 0 2 = 1 then some (.smovi (fld w 19 7) (fld w 2 10))
  else none

/-- Major 0x1C. -/
def decode1C (w : Word) : Option Instr :=
  if bits w 18 3 = 0 ∧ bits w 5 8 = 0 ∧ bits w 0 3 = 0 then some (.vshape (fld w 21 5) (fld w 13 5) (fld w 3 2))
  else if bits w 0 3 = 1 then some (.vfmt (fld w 21 5) (srcAt w 13) (srcAt w 5) (fld w 3 2))
  else if bits w 0 3 = 2 then some (.vaffine (fld w 21 5) (srcAt w 13) (srcAt w 5) (fld w 3 2))
  else if bits w 5 16 = 0 ∧ bits w 0 3 = 3 then some (.vidx (fld w 21 5) (fld w 3 2))
  else if bits w 0 21 = 4 then some (.vfree (fld w 21 5))
  else none

/-- Major 0x1D. -/
def decode1D (w : Word) : Option Instr :=
  if bits w 0 3 = 0 then some (.vbfeS32 (fld w 21 5) (srcAt w 13) (srcAt w 5) (fld w 3 2))
  else if bits w 0 3 = 1 then some (.vbfeN32 (fld w 21 5) (srcAt w 13) (srcAt w 5) (fld w 3 2))
  else if bits w 0 3 = 2 then some (.vbfi (fld w 21 5) (srcAt w 13) (srcAt w 5) (fld w 3 2))
  else if bits w 0 3 = 3 then some (.vsext (fld w 21 5) (srcAt w 13) (srcAt w 5) (fld w 3 2))
  else if bits w 0 3 = 4 then some (.vzext (fld w 21 5) (srcAt w 13) (srcAt w 5) (fld w 3 2))
  else none

/-- Major 0x20. -/
def decode20 (w : Word) : Option Instr :=
  if bits w 0 3 = 0 then some (.vfaddF32 (fld w 21 5) (srcAt w 13) (srcAt w 5) (fld w 3 2))
  else if bits w 0 3 = 1 then some (.vfsubF32 (fld w 21 5) (srcAt w 13) (srcAt w 5) (fld w 3 2))
  else if bits w 0 3 = 2 then some (.vfmulF32 (fld w 21 5) (srcAt w 13) (srcAt w 5) (fld w 3 2))
  else if bits w 0 3 = 3 then some (.vfmaF32 (fld w 21 5) (srcAt w 13) (srcAt w 5) (fld w 3 2))
  else if bits w 0 3 = 4 then some (.vfminF32 (fld w 21 5) (srcAt w 13) (srcAt w 5) (fld w 3 2))
  else if bits w 0 3 = 5 then some (.vfmaxF32 (fld w 21 5) (srcAt w 13) (srcAt w 5) (fld w 3 2))
  else if bits w 5 8 = 0 ∧ bits w 0 3 = 6 then some (.vfabsF32 (fld w 21 5) (srcAt w 13) (fld w 3 2))
  else if bits w 5 8 = 0 ∧ bits w 0 3 = 7 then some (.vfnegF32 (fld w 21 5) (srcAt w 13) (fld w 3 2))
  else none

/-- Major 0x21. -/
def decode21 (w : Word) : Option Instr :=
  if bits w 25 1 = 0 ∧ bits w 0 3 = 0 then some (.vfcmpEqF32 (fld w 21 4) (srcAt w 13) (srcAt w 5) (fld w 3 2))
  else if bits w 25 1 = 0 ∧ bits w 0 3 = 1 then some (.vfcmpNeF32 (fld w 21 4) (srcAt w 13) (srcAt w 5) (fld w 3 2))
  else if bits w 25 1 = 0 ∧ bits w 0 3 = 2 then some (.vfcmpLtF32 (fld w 21 4) (srcAt w 13) (srcAt w 5) (fld w 3 2))
  else if bits w 25 1 = 0 ∧ bits w 0 3 = 3 then some (.vfcmpLeF32 (fld w 21 4) (srcAt w 13) (srcAt w 5) (fld w 3 2))
  else if bits w 25 1 = 0 ∧ bits w 0 3 = 4 then some (.vfcmpUnF32 (fld w 21 4) (srcAt w 13) (srcAt w 5) (fld w 3 2))
  else if bits w 5 8 = 0 ∧ bits w 0 3 = 5 then some (.vfclassF32 (fld w 21 5) (srcAt w 13) (fld w 3 2))
  else none

/-- Major 0x22. -/
def decode22 (w : Word) : Option Instr :=
  if bits w 0 3 = 0 then some (.vfaddF16 (fld w 21 5) (srcAt w 13) (srcAt w 5) (fld w 3 2))
  else if bits w 0 3 = 1 then some (.vfsubF16 (fld w 21 5) (srcAt w 13) (srcAt w 5) (fld w 3 2))
  else if bits w 0 3 = 2 then some (.vfmulF16 (fld w 21 5) (srcAt w 13) (srcAt w 5) (fld w 3 2))
  else if bits w 0 3 = 3 then some (.vfmaF16 (fld w 21 5) (srcAt w 13) (srcAt w 5) (fld w 3 2))
  else if bits w 0 3 = 4 then some (.vfminF16 (fld w 21 5) (srcAt w 13) (srcAt w 5) (fld w 3 2))
  else if bits w 0 3 = 5 then some (.vfmaxF16 (fld w 21 5) (srcAt w 13) (srcAt w 5) (fld w 3 2))
  else if bits w 5 8 = 0 ∧ bits w 0 3 = 6 then some (.vfabsF16 (fld w 21 5) (srcAt w 13) (fld w 3 2))
  else if bits w 5 8 = 0 ∧ bits w 0 3 = 7 then some (.vfnegF16 (fld w 21 5) (srcAt w 13) (fld w 3 2))
  else none

/-- Major 0x23. -/
def decode23 (w : Word) : Option Instr :=
  if bits w 25 1 = 0 ∧ bits w 0 3 = 0 then some (.vfcmpEqF16 (fld w 21 4) (srcAt w 13) (srcAt w 5) (fld w 3 2))
  else if bits w 25 1 = 0 ∧ bits w 0 3 = 1 then some (.vfcmpNeF16 (fld w 21 4) (srcAt w 13) (srcAt w 5) (fld w 3 2))
  else if bits w 25 1 = 0 ∧ bits w 0 3 = 2 then some (.vfcmpLtF16 (fld w 21 4) (srcAt w 13) (srcAt w 5) (fld w 3 2))
  else if bits w 25 1 = 0 ∧ bits w 0 3 = 3 then some (.vfcmpLeF16 (fld w 21 4) (srcAt w 13) (srcAt w 5) (fld w 3 2))
  else if bits w 25 1 = 0 ∧ bits w 0 3 = 4 then some (.vfcmpUnF16 (fld w 21 4) (srcAt w 13) (srcAt w 5) (fld w 3 2))
  else if bits w 5 8 = 0 ∧ bits w 0 3 = 5 then some (.vfclassF16 (fld w 21 5) (srcAt w 13) (fld w 3 2))
  else if bits w 0 3 = 6 then some (.vfdot2F16 (fld w 21 5) (srcAt w 13) (srcAt w 5) (fld w 3 2))
  else none

/-- Major 0x24. -/
def decode24 (w : Word) : Option Instr :=
  if bits w 0 3 = 0 then some (.vfaddBf16 (fld w 21 5) (srcAt w 13) (srcAt w 5) (fld w 3 2))
  else if bits w 0 3 = 1 then some (.vfsubBf16 (fld w 21 5) (srcAt w 13) (srcAt w 5) (fld w 3 2))
  else if bits w 0 3 = 2 then some (.vfmulBf16 (fld w 21 5) (srcAt w 13) (srcAt w 5) (fld w 3 2))
  else if bits w 0 3 = 3 then some (.vfmaBf16 (fld w 21 5) (srcAt w 13) (srcAt w 5) (fld w 3 2))
  else if bits w 0 3 = 4 then some (.vfminBf16 (fld w 21 5) (srcAt w 13) (srcAt w 5) (fld w 3 2))
  else if bits w 0 3 = 5 then some (.vfmaxBf16 (fld w 21 5) (srcAt w 13) (srcAt w 5) (fld w 3 2))
  else if bits w 5 8 = 0 ∧ bits w 0 3 = 6 then some (.vfabsBf16 (fld w 21 5) (srcAt w 13) (fld w 3 2))
  else if bits w 5 8 = 0 ∧ bits w 0 3 = 7 then some (.vfnegBf16 (fld w 21 5) (srcAt w 13) (fld w 3 2))
  else none

/-- Major 0x25. -/
def decode25 (w : Word) : Option Instr :=
  if bits w 25 1 = 0 ∧ bits w 0 3 = 0 then some (.vfcmpEqBf16 (fld w 21 4) (srcAt w 13) (srcAt w 5) (fld w 3 2))
  else if bits w 25 1 = 0 ∧ bits w 0 3 = 1 then some (.vfcmpNeBf16 (fld w 21 4) (srcAt w 13) (srcAt w 5) (fld w 3 2))
  else if bits w 25 1 = 0 ∧ bits w 0 3 = 2 then some (.vfcmpLtBf16 (fld w 21 4) (srcAt w 13) (srcAt w 5) (fld w 3 2))
  else if bits w 25 1 = 0 ∧ bits w 0 3 = 3 then some (.vfcmpLeBf16 (fld w 21 4) (srcAt w 13) (srcAt w 5) (fld w 3 2))
  else if bits w 25 1 = 0 ∧ bits w 0 3 = 4 then some (.vfcmpUnBf16 (fld w 21 4) (srcAt w 13) (srcAt w 5) (fld w 3 2))
  else if bits w 5 8 = 0 ∧ bits w 0 3 = 5 then some (.vfclassBf16 (fld w 21 5) (srcAt w 13) (fld w 3 2))
  else if bits w 0 3 = 6 then some (.vfdot2Bf16 (fld w 21 5) (srcAt w 13) (srcAt w 5) (fld w 3 2))
  else none

/-- Major 0x26. -/
def decode26 (w : Word) : Option Instr :=
  if bits w 21 1 = 0 ∧ bits w 0 3 = 0 then some (.vfaddF64 (fld w 22 4) (srcAt w 13) (srcAt w 5) (fld w 3 2))
  else if bits w 21 1 = 0 ∧ bits w 0 3 = 1 then some (.vfsubF64 (fld w 22 4) (srcAt w 13) (srcAt w 5) (fld w 3 2))
  else if bits w 21 1 = 0 ∧ bits w 0 3 = 2 then some (.vfmulF64 (fld w 22 4) (srcAt w 13) (srcAt w 5) (fld w 3 2))
  else if bits w 21 1 = 0 ∧ bits w 0 3 = 3 then some (.vfmaF64 (fld w 22 4) (srcAt w 13) (srcAt w 5) (fld w 3 2))
  else if bits w 21 1 = 0 ∧ bits w 0 3 = 4 then some (.vfminF64 (fld w 22 4) (srcAt w 13) (srcAt w 5) (fld w 3 2))
  else if bits w 21 1 = 0 ∧ bits w 0 3 = 5 then some (.vfmaxF64 (fld w 22 4) (srcAt w 13) (srcAt w 5) (fld w 3 2))
  else if bits w 21 1 = 0 ∧ bits w 5 8 = 0 ∧ bits w 0 3 = 6 then some (.vfabsF64 (fld w 22 4) (srcAt w 13) (fld w 3 2))
  else if bits w 21 1 = 0 ∧ bits w 5 8 = 0 ∧ bits w 0 3 = 7 then some (.vfnegF64 (fld w 22 4) (srcAt w 13) (fld w 3 2))
  else none

/-- Major 0x27. -/
def decode27 (w : Word) : Option Instr :=
  if bits w 25 1 = 0 ∧ bits w 0 3 = 0 then some (.vfcmpEqF64 (fld w 21 4) (srcAt w 13) (srcAt w 5) (fld w 3 2))
  else if bits w 25 1 = 0 ∧ bits w 0 3 = 1 then some (.vfcmpNeF64 (fld w 21 4) (srcAt w 13) (srcAt w 5) (fld w 3 2))
  else if bits w 25 1 = 0 ∧ bits w 0 3 = 2 then some (.vfcmpLtF64 (fld w 21 4) (srcAt w 13) (srcAt w 5) (fld w 3 2))
  else if bits w 25 1 = 0 ∧ bits w 0 3 = 3 then some (.vfcmpLeF64 (fld w 21 4) (srcAt w 13) (srcAt w 5) (fld w 3 2))
  else if bits w 25 1 = 0 ∧ bits w 0 3 = 4 then some (.vfcmpUnF64 (fld w 21 4) (srcAt w 13) (srcAt w 5) (fld w 3 2))
  else if bits w 5 8 = 0 ∧ bits w 0 3 = 5 then some (.vfclassF64 (fld w 21 5) (srcAt w 13) (fld w 3 2))
  else none

/-- Major 0x28. -/
def decode28 (w : Word) : Option Instr :=
  if bits w 0 3 = 0 then some (.vfcvt (fld w 21 5) (srcAt w 13) (fld w 9 4) (fld w 5 4) (fld w 3 2))
  else if bits w 0 3 = 1 then some (.vfcvtRz (fld w 21 5) (srcAt w 13) (fld w 9 4) (fld w 5 4) (fld w 3 2))
  else if bits w 0 3 = 2 then some (.vfpack (fld w 21 5) (srcAt w 13) (srcAt w 5) (fld w 3 2))
  else if bits w 0 3 = 3 then some (.vfpackRz (fld w 21 5) (srcAt w 13) (srcAt w 5) (fld w 3 2))
  else if bits w 0 3 = 4 then some (.vfunpack (fld w 21 5) (srcAt w 13) (srcAt w 5) (fld w 3 2))
  else if bits w 0 3 = 5 then some (.vfscale (fld w 21 5) (srcAt w 13) (srcAt w 5) (fld w 3 2))
  else if bits w 9 4 = 0 ∧ bits w 0 3 = 6 then some (.vfround (fld w 21 5) (srcAt w 13) (fld w 5 4) (fld w 3 2))
  else none

/-- Major 0x29. -/
def decode29 (w : Word) : Option Instr :=
  if bits w 6 7 = 0 ∧ bits w 0 3 = 0 then some (.vftoiS32 (fld w 21 5) (srcAt w 13) (fld w 5 1) (fld w 3 2))
  else if bits w 6 7 = 0 ∧ bits w 0 3 = 1 then some (.vftoiN32 (fld w 21 5) (srcAt w 13) (fld w 5 1) (fld w 3 2))
  else if bits w 5 8 = 0 ∧ bits w 0 3 = 2 then some (.vitofS32 (fld w 21 5) (srcAt w 13) (fld w 3 2))
  else if bits w 5 8 = 0 ∧ bits w 0 3 = 3 then some (.vitofN32 (fld w 21 5) (srcAt w 13) (fld w 3 2))
  else none

/-- Major 0x2A. -/
def decode2A (w : Word) : Option Instr :=
  if bits w 5 8 = 0 ∧ bits w 0 3 = 0 then some (.vfrcpF32 (fld w 21 5) (srcAt w 13) (fld w 3 2))
  else if bits w 5 8 = 0 ∧ bits w 0 3 = 1 then some (.vfrsqF32 (fld w 21 5) (srcAt w 13) (fld w 3 2))
  else if bits w 5 8 = 0 ∧ bits w 0 3 = 2 then some (.vfsqrtF32 (fld w 21 5) (srcAt w 13) (fld w 3 2))
  else if bits w 5 8 = 0 ∧ bits w 0 3 = 3 then some (.vfexp2F32 (fld w 21 5) (srcAt w 13) (fld w 3 2))
  else if bits w 5 8 = 0 ∧ bits w 0 3 = 4 then some (.vflog2F32 (fld w 21 5) (srcAt w 13) (fld w 3 2))
  else if bits w 5 8 = 0 ∧ bits w 0 3 = 5 then some (.vftanhF32 (fld w 21 5) (srcAt w 13) (fld w 3 2))
  else none

/-- Major 0x2B. -/
def decode2B (w : Word) : Option Instr :=
  if bits w 21 1 = 0 ∧ bits w 5 8 = 0 ∧ bits w 0 3 = 0 then some (.vfrcpF64 (fld w 22 4) (srcAt w 13) (fld w 3 2))
  else if bits w 21 1 = 0 ∧ bits w 5 8 = 0 ∧ bits w 0 3 = 1 then some (.vfrsqF64 (fld w 22 4) (srcAt w 13) (fld w 3 2))
  else if bits w 21 1 = 0 ∧ bits w 5 8 = 0 ∧ bits w 0 3 = 2 then some (.vfsqrtF64 (fld w 22 4) (srcAt w 13) (fld w 3 2))
  else if bits w 5 8 = 0 ∧ bits w 0 3 = 3 then some (.vfexp2F16 (fld w 21 5) (srcAt w 13) (fld w 3 2))
  else if bits w 5 8 = 0 ∧ bits w 0 3 = 4 then some (.vflog2F16 (fld w 21 5) (srcAt w 13) (fld w 3 2))
  else if bits w 5 8 = 0 ∧ bits w 0 3 = 5 then some (.vftanhF16 (fld w 21 5) (srcAt w 13) (fld w 3 2))
  else none

/-- Major 0x2C. -/
def decode2C (w : Word) : Option Instr :=
  if bits w 0 3 = 0 then some (.vshfl (fld w 21 5) (srcAt w 13) (srcAt w 5) (fld w 3 2))
  else if bits w 0 3 = 1 then some (.vperm (fld w 21 5) (srcAt w 13) (srcAt w 5) (fld w 3 2))
  else if bits w 0 3 = 2 then some (.vbcast (fld w 21 5) (srcAt w 13) (srcAt w 5) (fld w 3 2))
  else if bits w 5 8 = 0 ∧ bits w 0 3 = 3 then some (.qswapH (fld w 21 5) (srcAt w 13) (fld w 3 2))
  else if bits w 5 8 = 0 ∧ bits w 0 3 = 4 then some (.qswapV (fld w 21 5) (srcAt w 13) (fld w 3 2))
  else if bits w 5 8 = 0 ∧ bits w 0 3 = 5 then some (.qswapD (fld w 21 5) (srcAt w 13) (fld w 3 2))
  else if bits w 0 3 = 6 then some (.qbcast (fld w 21 5) (srcAt w 13) (srcAt w 5) (fld w 3 2))
  else if bits w 8 5 = 0 ∧ bits w 0 3 = 7 then some (.qreduce (fld w 21 5) (srcAt w 13) (fld w 5 3) (fld w 3 2))
  else none

/-- Major 0x2D. -/
def decode2D (w : Word) : Option Instr :=
  if bits w 5 8 = 0 ∧ bits w 0 3 = 0 then some (.wreduceAdd (fld w 21 5) (srcAt w 13) (fld w 3 2))
  else if bits w 5 8 = 0 ∧ bits w 0 3 = 1 then some (.wreduceMinS32 (fld w 21 5) (srcAt w 13) (fld w 3 2))
  else if bits w 5 8 = 0 ∧ bits w 0 3 = 2 then some (.wreduceMinN32 (fld w 21 5) (srcAt w 13) (fld w 3 2))
  else if bits w 5 8 = 0 ∧ bits w 0 3 = 3 then some (.wreduceMaxS32 (fld w 21 5) (srcAt w 13) (fld w 3 2))
  else if bits w 5 8 = 0 ∧ bits w 0 3 = 4 then some (.wreduceMaxN32 (fld w 21 5) (srcAt w 13) (fld w 3 2))
  else if bits w 6 7 = 0 ∧ bits w 0 3 = 5 then some (.wscan (fld w 21 5) (srcAt w 13) (fld w 5 1) (fld w 3 2))
  else if bits w 9 4 = 0 ∧ bits w 0 3 = 6 then some (.vcompact (fld w 21 5) (srcAt w 13) (fld w 5 4) (fld w 3 2))
  else if bits w 9 4 = 0 ∧ bits w 0 3 = 7 then some (.vexpand (fld w 21 5) (srcAt w 13) (fld w 5 4) (fld w 3 2))
  else none

/-- Major 0x2E. -/
def decode2E (w : Word) : Option Instr :=
  if bits w 18 8 = 0 ∧ bits w 10 3 = 7 ∧ bits w 0 5 = 0 then some (.reorder (fld w 13 5) (fld w 5 5))
  else if bits w 5 8 = 0 ∧ bits w 0 3 = 1 then some (.wreduceAddF32 (fld w 21 5) (srcAt w 13) (fld w 3 2))
  else if bits w 5 8 = 0 ∧ bits w 0 3 = 2 then some (.wreduceMinF32 (fld w 21 5) (srcAt w 13) (fld w 3 2))
  else if bits w 5 8 = 0 ∧ bits w 0 3 = 3 then some (.wreduceMaxF32 (fld w 21 5) (srcAt w 13) (fld w 3 2))
  else if bits w 6 7 = 0 ∧ bits w 0 3 = 4 then some (.wscanF32 (fld w 21 5) (srcAt w 13) (fld w 5 1) (fld w 3 2))
  else none

/-- Major 0x30. -/
def decode30 (w : Word) : Option Instr :=
  some (.ld (fld w 21 5) (fld w 16 5) (fld w 11 5) (fld w 7 4) (fld w 5 2) (fld w 2 3) (fld w 0 2))

/-- Major 0x31. -/
def decode31 (w : Word) : Option Instr :=
  some (.ldAcq (fld w 21 5) (fld w 16 5) (fld w 11 5) (fld w 7 4) (fld w 5 2) (fld w 2 3) (fld w 0 2))

/-- Major 0x32. -/
def decode32 (w : Word) : Option Instr :=
  if bits w 1 1 = 0 then some (.ldRo (fld w 21 5) (fld w 16 5) (fld w 11 5) (fld w 7 4) (fld w 5 2) (fld w 2 3) (fld w 0 1))
  else if bits w 1 1 = 1 then some (.ldStream (fld w 21 5) (fld w 16 5) (fld w 11 5) (fld w 7 4) (fld w 5 2) (fld w 2 3) (fld w 0 1))
  else none

/-- Major 0x33. -/
def decode33 (w : Word) : Option Instr :=
  if bits w 1 1 = 0 then some (.ldSp (fld w 21 5) (fld w 16 5) (fld w 11 5) (fld w 7 4) (fld w 5 2) (fld w 2 3) (fld w 0 1))
  else if bits w 11 5 = 0 ∧ bits w 0 2 = 2 then some (.sld (fld w 21 5) (fld w 16 5) (fld w 7 4) (fld w 5 2) (fld w 2 3))
  else none

/-- Major 0x34. -/
def decode34 (w : Word) : Option Instr :=
  if bits w 7 4 = 0 ∧ bits w 0 1 = 0 then some (.st (fld w 21 5) (fld w 16 5) (fld w 11 5) (fld w 5 2) (fld w 2 3) (fld w 1 1))
  else none

/-- Major 0x35. -/
noncomputable def decode35 (w : Word) : Option Instr :=
  if bits w 7 4 = 0 ∧ bits w 0 1 = 0 then some (.stRel (fld w 21 5) (fld w 16 5) (fld w 11 5) (fld w 5 2) (fld w 2 3) (fld w 1 1))
  else if bits w 7 4 = 0 ∧ bits w 0 2 = 1 then some (.stSp (fld w 21 5) (fld w 16 5) (fld w 11 5) (fld w 5 2) (fld w 2 3))
  else if bits w 7 9 = 0 ∧ bits w 0 2 = 3 then some (.sst (fld w 21 5) (fld w 16 5) (fld w 5 2) (fld w 2 3))
  else none

/-- Major 0x36. -/
noncomputable def decode36 (w : Word) : Option Instr :=
  if bits w 2 4 = 0 then some (.atomAdd32 (fld w 21 5) (fld w 16 5) (fld w 11 5) (fld w 6 5) (fld w 0 2))
  else if bits w 2 4 = 1 then some (.atomAdd64 (fld w 21 5) (fld w 16 5) (fld w 11 5) (fld w 6 5) (fld w 0 2))
  else if bits w 2 4 = 2 then some (.atomMinS32 (fld w 21 5) (fld w 16 5) (fld w 11 5) (fld w 6 5) (fld w 0 2))
  else if bits w 2 4 = 3 then some (.atomMinN32 (fld w 21 5) (fld w 16 5) (fld w 11 5) (fld w 6 5) (fld w 0 2))
  else if bits w 2 4 = 4 then some (.atomMaxS32 (fld w 21 5) (fld w 16 5) (fld w 11 5) (fld w 6 5) (fld w 0 2))
  else if bits w 2 4 = 5 then some (.atomMaxN32 (fld w 21 5) (fld w 16 5) (fld w 11 5) (fld w 6 5) (fld w 0 2))
  else if bits w 2 4 = 6 then some (.atomAnd (fld w 21 5) (fld w 16 5) (fld w 11 5) (fld w 6 5) (fld w 0 2))
  else if bits w 2 4 = 7 then some (.atomOr (fld w 21 5) (fld w 16 5) (fld w 11 5) (fld w 6 5) (fld w 0 2))
  else if bits w 2 4 = 8 then some (.atomXor (fld w 21 5) (fld w 16 5) (fld w 11 5) (fld w 6 5) (fld w 0 2))
  else if bits w 2 4 = 9 then some (.atomXchg32 (fld w 21 5) (fld w 16 5) (fld w 11 5) (fld w 6 5) (fld w 0 2))
  else if bits w 2 4 = 10 then some (.atomXchg64 (fld w 21 5) (fld w 16 5) (fld w 11 5) (fld w 6 5) (fld w 0 2))
  else if bits w 2 5 = 11 then some (.atomCas32 (fld w 21 5) (fld w 16 5) (fld w 11 5) (fld w 7 4) (fld w 0 2))
  else if bits w 2 6 = 12 then some (.atomCas64 (fld w 21 5) (fld w 16 5) (fld w 11 5) (fld w 8 3) (fld w 0 2))
  else if bits w 2 4 = 13 then some (.atomFaddF32 (fld w 21 5) (fld w 16 5) (fld w 11 5) (fld w 6 5) (fld w 0 2))
  else if bits w 2 4 = 14 then some (.atomFaddF64 (fld w 21 5) (fld w 16 5) (fld w 11 5) (fld w 6 5) (fld w 0 2))
  else none

/-- Major 0x37. -/
noncomputable def decode37 (w : Word) : Option Instr :=
  if bits w 7 19 = 0 ∧ bits w 0 2 = 0 then some (.fence (fld w 5 2) (fld w 2 3))
  else if bits w 7 19 = 0 ∧ bits w 0 2 = 1 then some (.fencePath (fld w 5 2) (fld w 2 3))
  else if bits w 21 5 = 0 ∧ bits w 7 4 = 0 ∧ bits w 4 1 = 0 ∧ bits w 0 2 = 2 then some (.cctl (fld w 16 5) (fld w 11 5) (fld w 5 2) (fld w 2 2))
  else if bits w 21 5 = 0 ∧ bits w 7 4 = 0 ∧ bits w 3 2 = 0 ∧ bits w 0 2 = 3 then some (.prefetch (fld w 16 5) (fld w 11 5) (fld w 5 2) (fld w 2 1))
  else none

/-- Major 0x38. -/
noncomputable def decode38 (w : Word) : Option Instr :=
  some (.cpAsync (fld w 21 5) (fld w 16 5) (fld w 11 5) (fld w 6 5) (fld w 0 6))

/-- Major 0x39. -/
noncomputable def decode39 (w : Word) : Option Instr :=
  if bits w 21 5 = 0 ∧ bits w 5 8 = 0 ∧ bits w 0 3 = 0 then some (.tagWaitAny (srcAt w 13) (fld w 3 2))
  else if bits w 21 5 = 0 ∧ bits w 5 8 = 0 ∧ bits w 0 3 = 1 then some (.tagWaitAll (srcAt w 13) (fld w 3 2))
  else if bits w 5 8 = 0 ∧ bits w 0 3 = 2 then some (.tagFirst (fld w 21 5) (srcAt w 13) (fld w 3 2))
  else if bits w 25 1 = 0 ∧ bits w 5 8 = 0 ∧ bits w 0 3 = 3 then some (.tagPoll (fld w 21 4) (srcAt w 13) (fld w 3 2))
  else if bits w 21 5 = 0 ∧ bits w 5 8 = 0 ∧ bits w 0 3 = 4 then some (.tagClear (srcAt w 13) (fld w 3 2))
  else if bits w 18 8 = 7 ∧ bits w 5 8 = 0 ∧ bits w 0 3 = 5 then some (.bulkCopy (fld w 13 5) (fld w 3 2))
  else if bits w 18 8 = 7 ∧ bits w 5 8 = 0 ∧ bits w 0 3 = 6 then some (.bulkGather (fld w 13 5) (fld w 3 2))
  else if bits w 18 8 = 7 ∧ bits w 5 8 = 0 ∧ bits w 0 3 = 7 then some (.collReduce (fld w 13 5) (fld w 3 2))
  else none

/-- Major 0x3A. -/
noncomputable def decode3A (w : Word) : Option Instr :=
  if bits w 21 5 = 0 ∧ bits w 0 3 = 0 then some (.barInit (srcAt w 13) (srcAt w 5) (fld w 3 2))
  else if bits w 0 3 = 1 then some (.barExpect (fld w 21 5) (srcAt w 13) (srcAt w 5) (fld w 3 2))
  else if bits w 5 8 = 0 ∧ bits w 0 3 = 2 then some (.barArrive (fld w 21 5) (srcAt w 13) (fld w 3 2))
  else if bits w 21 5 = 0 ∧ bits w 0 3 = 3 then some (.barWait (srcAt w 13) (srcAt w 5) (fld w 3 2))
  else if bits w 25 1 = 0 ∧ bits w 0 3 = 4 then some (.barTest (fld w 21 4) (srcAt w 13) (srcAt w 5) (fld w 3 2))
  else if bits w 0 26 = 5 then some (.barGroup)
  else if bits w 0 26 = 6 then some (.barCluster)
  else if bits w 18 8 = 7 ∧ bits w 5 8 = 0 ∧ bits w 0 3 = 7 then some (.collGather (fld w 13 5) (fld w 3 2))
  else none

/-- Major 0x3B. -/
noncomputable def decode3B (w : Word) : Option Instr :=
  if bits w 11 2 = 0 ∧ bits w 0 5 = 0 then some (.binit (fld w 21 5) (srcAt w 13) (fld w 5 6))
  else if bits w 11 10 = 0 ∧ bits w 0 5 = 1 then some (.susp (fld w 21 5) (fld w 5 6))
  else if bits w 11 2 = 1 ∧ bits w 0 5 = 1 then some (.suspTag (fld w 21 5) (srcAt w 13) (fld w 5 6))
  else if bits w 11 2 = 2 ∧ bits w 0 5 = 1 then some (.suspAddr (fld w 21 5) (srcAt w 13) (fld w 5 6))
  else if bits w 11 2 = 3 ∧ bits w 0 5 = 1 then some (.suspBar (fld w 21 5) (srcAt w 13) (fld w 5 6))
  else if bits w 11 2 = 0 ∧ bits w 0 5 = 2 then some (.wake (fld w 21 5) (srcAt w 13) (fld w 5 6))
  else if bits w 0 5 = 3 then some (.wakePred (fld w 21 5) (srcAt w 13) (fld w 11 2) (fld w 5 6))
  else if bits w 12 1 = 0 ∧ bits w 0 5 = 4 then some (.wakeAddr (fld w 21 5) (srcAt w 13) (fld w 11 1) (fld w 5 6))
  else if bits w 11 2 = 0 ∧ bits w 0 5 = 5 then some (.fld (fld w 21 5) (srcAt w 13) (fld w 5 6))
  else if bits w 11 2 = 0 ∧ bits w 0 5 = 6 then some (.fst (fld w 21 5) (srcAt w 13) (fld w 5 6))
  else if bits w 0 5 = 7 then some (.fxform (fld w 21 5) (srcAt w 13) (fld w 11 2) (fld w 5 6))
  else if bits w 11 10 = 0 ∧ bits w 0 5 = 8 then some (.fcount (fld w 21 5) (fld w 5 6))
  else if bits w 11 15 = 0 ∧ bits w 0 5 = 9 then some (.resume (fld w 5 6))
  else none

/-- Major 0x3C. -/
noncomputable def decode3C (w : Word) : Option Instr :=
  if bits w 18 3 = 7 ∧ bits w 0 3 = 0 then some (.svc (fld w 21 5) (fld w 13 5) (srcAt w 5) (fld w 3 2))
  else if bits w 18 4 = 7 ∧ bits w 5 8 = 0 ∧ bits w 0 3 = 1 then some (.srecv (fld w 22 4) (fld w 13 5) (fld w 3 2))
  else if bits w 25 1 = 0 ∧ bits w 18 3 = 7 ∧ bits w 0 5 = 2 then some (.srep (fld w 21 4) (fld w 13 5) (srcAt w 5))
  else if bits w 18 8 = 7 ∧ bits w 10 3 = 7 ∧ bits w 0 3 = 3 then some (.qpost (fld w 13 5) (fld w 5 5) (fld w 3 2))
  else if bits w 18 3 = 7 ∧ bits w 5 8 = 0 ∧ bits w 0 3 = 4 then some (.launch (fld w 21 5) (fld w 13 5) (fld w 3 2))
  else if bits w 21 5 = 0 ∧ bits w 0 13 = 5 then some (.verdict (srcAt w 13))
  else if bits w 18 3 = 7 ∧ bits w 5 8 = 0 ∧ bits w 0 3 = 6 then some (.mreq (fld w 21 5) (fld w 13 5) (fld w 3 2))
  else none

/-- Major 0x3D. -/
noncomputable def decode3D (w : Word) : Option Instr :=
  if bits w 0 5 = 0 then some (.kadd (fld w 21 5) (fld w 16 5) (fld w 11 5) (fld w 5 6))
  else if bits w 0 5 = 1 then some (.ksub (fld w 21 5) (fld w 16 5) (fld w 11 5) (fld w 5 6))
  else if bits w 0 5 = 2 then some (.kmul (fld w 21 5) (fld w 16 5) (fld w 11 5) (fld w 5 6))
  else if bits w 0 5 = 3 then some (.kand (fld w 21 5) (fld w 16 5) (fld w 11 5) (fld w 5 6))
  else if bits w 0 5 = 4 then some (.kor (fld w 21 5) (fld w 16 5) (fld w 11 5) (fld w 5 6))
  else if bits w 0 5 = 5 then some (.kxor (fld w 21 5) (fld w 16 5) (fld w 11 5) (fld w 5 6))
  else if bits w 0 5 = 6 then some (.kshl (fld w 21 5) (fld w 16 5) (fld w 11 5) (fld w 5 6))
  else if bits w 0 5 = 7 then some (.kshr (fld w 21 5) (fld w 16 5) (fld w 11 5) (fld w 5 6))
  else if bits w 0 16 = 8 then some (.kmov (fld w 21 5) (fld w 16 5))
  else if bits w 0 5 = 9 then some (.kmovi (fld w 21 5) (fld w 5 16))
  else if bits w 0 5 = 10 then some (.kcmp (fld w 21 5) (fld w 16 5) (fld w 11 5) (fld w 5 6))
  else if bits w 0 5 = 11 then some (.kbra (fld w 21 5) (fld w 5 16))
  else if bits w 12 4 = 1 ∧ bits w 0 5 = 12 then some (.kld (fld w 21 5) (fld w 16 5) (fld w 11 1) (fld w 5 6))
  else if bits w 12 4 = 1 ∧ bits w 0 5 = 13 then some (.kst (fld w 21 5) (fld w 16 5) (fld w 11 1) (fld w 5 6))
  else if bits w 21 5 = 0 ∧ bits w 0 11 = 14 then some (.kwait (fld w 16 5) (fld w 11 5))
  else if bits w 11 5 = 0 ∧ bits w 0 5 = 15 then some (.dset (fld w 21 5) (fld w 16 5) (fld w 5 6))
  else if bits w 0 16 = 16 then some (.dmov (fld w 21 5) (fld w 16 5))
  else if bits w 0 22 = 17 then some (.mtake (fld w 22 4))
  else if bits w 0 22 = 49 then some (.mtakeNw (fld w 22 4))
  else if bits w 21 5 = 0 ∧ bits w 0 16 = 18 then some (.mdone (fld w 16 5))
  else none

/-- Major 0x3E. -/
noncomputable def decode3E (w : Word) : Option Instr :=
  if bits w 0 5 = 0 then some (.mma (fld w 21 5) (fld w 16 5) (fld w 11 5) (fld w 5 6))
  else if bits w 0 5 = 1 then some (.mmaSp (fld w 21 5) (fld w 16 5) (fld w 11 5) (fld w 5 6))
  else if bits w 0 5 = 2 then some (.mmaGx (fld w 21 5) (fld w 16 5) (fld w 11 5) (fld w 5 6))
  else if bits w 21 1 = 0 ∧ bits w 0 5 = 3 then some (.mmaF64 (fld w 22 4) (fld w 16 5) (fld w 11 5) (fld w 5 6))
  else if bits w 0 21 = 4 then some (.accZero (fld w 21 5))
  else if bits w 0 16 = 5 then some (.accLoad (fld w 21 5) (fld w 16 5))
  else if bits w 0 11 = 6 then some (.accStore (fld w 21 5) (fld w 16 5) (fld w 11 5))
  else none

/-- The row a word matches (R52, R53). -/
noncomputable def decodeRow (w : Word) : Option Instr :=
  match w.toNat / 2 ^ 26 with
  | 1 => decode01 w
  | 2 => decode02 w
  | 3 => decode03 w
  | 4 => decode04 w
  | 5 => decode05 w
  | 8 => decode08 w
  | 9 => decode09 w
  | 10 => decode0A w
  | 16 => decode10 w
  | 17 => decode11 w
  | 18 => decode12 w
  | 19 => decode13 w
  | 20 => decode14 w
  | 21 => decode15 w
  | 22 => decode16 w
  | 23 => decode17 w
  | 24 => decode18 w
  | 25 => decode19 w
  | 26 => decode1A w
  | 27 => decode1B w
  | 28 => decode1C w
  | 29 => decode1D w
  | 32 => decode20 w
  | 33 => decode21 w
  | 34 => decode22 w
  | 35 => decode23 w
  | 36 => decode24 w
  | 37 => decode25 w
  | 38 => decode26 w
  | 39 => decode27 w
  | 40 => decode28 w
  | 41 => decode29 w
  | 42 => decode2A w
  | 43 => decode2B w
  | 44 => decode2C w
  | 45 => decode2D w
  | 46 => decode2E w
  | 48 => decode30 w
  | 49 => decode31 w
  | 50 => decode32 w
  | 51 => decode33 w
  | 52 => decode34 w
  | 53 => decode35 w
  | 54 => decode36 w
  | 55 => decode37 w
  | 56 => decode38 w
  | 57 => decode39 w
  | 58 => decode3A w
  | 59 => decode3B w
  | 60 => decode3C w
  | 61 => decode3D w
  | 62 => decode3E w
  | _ => none

/-- The instruction of a word, or why there is none. -/
noncomputable def decode (w : Word) : Except Reject Instr :=
  match decodeRow w with
  | none => .error .unassigned
  | some i => if i.wf then .ok i else .error .illFormed

/-- The little-endian word of four bytes (R41). -/
def wordOfBytes (b0 b1 b2 b3 : Byte) : Word := b3 ++ b2 ++ b1 ++ b0

/-- The first instruction of a list of bytes, with the bytes after it. -/
noncomputable def decodeBytes : List Byte → Except Reject (Instr × List Byte)
  | b0 :: b1 :: b2 :: b3 :: rest =>
    match decode (wordOfBytes b0 b1 b2 b3) with
    | .ok i => .ok (i, rest)
    | .error e => .error e
  | _ => .error .unassigned

/-- The bytes of a word, lowest address first (R4, R41). -/
def bytesOfWord (w : Word) : List Byte :=
  [w.extractLsb' 0 8, w.extractLsb' 8 8, w.extractLsb' 16 8, w.extractLsb' 24 8]

/-- The decoder's reading of an instruction of the opcode table: nbits is 32 for every row that has bits. -/
noncomputable def decodeTableWord (nbits w : Nat) : Option Instr :=
  if nbits = 32 then
    match decodeBytes (bytesOfWord (BitVec.ofNat 32 w)) with
    | .ok (i, _) => some i
    | .error _ => none
  else none

/-- The word of an instruction, as a number; an event has none (its number is 0, a word that raises ILLEGAL). -/
def encodeNat : Instr → Nat
  | .bra i => 67108864 + i.toNat
  | .brcAny m i => 75497472 + m.toNat * 262144 + i.toNat
  | .brcAll m i => 83886080 + m.toNat * 262144 + i.toNat
  | .brcNone m i => 92274688 + m.toNat * 262144 + i.toNat
  | .brz r i => 100663296 + r.toNat * 262144 + i.toNat
  | .brnz r i => 109051904 + r.toNat * 262144 + i.toNat
  | .park m i => 117440512 + m.toNat * 262144 + i.toNat
  | .call r i => 134217728 + r.toNat * 262144 + i.toNat
  | .ret r => 142606336 + r.toNat * 262144
  | .bix r => 150994944 + r.toNat * 262144
  | .callx r => 159383552 + r.toNat * 262144
  | .enrol m p => 201326592 + m.toNat * 2097152 + p.toNat * 8
  | .strike m p => 201326593 + m.toNat * 2097152 + p.toNat * 8
  | .mand d a b p => 201326594 + d.toNat * 2097152 + a.toNat * 8192 + b.toNat * 32 + p.toNat * 8
  | .mor d a b p => 201326595 + d.toNat * 2097152 + a.toNat * 8192 + b.toNat * 32 + p.toNat * 8
  | .mxor d a b p => 201326596 + d.toNat * 2097152 + a.toNat * 8192 + b.toNat * 32 + p.toNat * 8
  | .mnot d a p => 201326597 + d.toNat * 2097152 + a.toNat * 8192 + p.toNat * 8
  | .mpop d a p => 201326598 + d.toNat * 2097152 + a.toNat * 8192 + p.toNat * 8
  | .mfirst d a p => 201326599 + d.toNat * 2097152 + a.toNat * 8192 + p.toNat * 8
  | .exit p => 268435456 + p.toNat * 8
  | .yield p => 268435457 + p.toNat * 8
  | .region => 268435458
  | .waitAddr a b p => 268435459 + srcCode a * 8192 + srcCode b * 32 + p.toNat * 8
  | .voteAny d a p => 335544320 + d.toNat * 2097152 + srcCode a * 8192 + p.toNat * 8
  | .voteAll d a p => 335544321 + d.toNat * 2097152 + srcCode a * 8192 + p.toNat * 8
  | .voteBallot d a p => 335544322 + d.toNat * 2097152 + srcCode a * 8192 + p.toNat * 8
  | .nop => 536870912
  | .hintK b a => 541065216 + b.toNat * 32 + a.toNat
  | .hintImm i => 545259520 + i.toNat
  | .hintLu l => 549453824 + l.toNat
  | .hintPred n m => 553648128 + n.toNat * 16 + m.toNat
  | .hintOff o => 557842432 + o.toNat
  | .hintCache s f c => 562036736 + s.toNat * 256 + f.toNat * 16 + c.toNat
  | .hintSched c l => 566231040 + c.toNat * 16 + l.toNat
  | .rds r s v => 603979776 + r.toNat * 65536 + s.toNat * 16 + v.toNat * 8
  | .wrs r s v => 612368384 + r.toNat * 65536 + s.toNat * 16 + v.toNat * 8
  | .trap c => 620756992 + c.toNat * 16
  | .rte => 629145600
  | .gret => 637534208
  | .gretSame => 637534224
  | .gretPc n => 637534248 + n.toNat * 65536
  | .gkill => 645922816
  | .segset n w => 654311424 + n.toNat * 65536 + w.toNat * 16
  | .tlbinvVa n => 662700032 + n.toNat * 65536
  | .tlbinvRoot n => 662700048 + n.toNat * 65536
  | .tlbinvAll => 662700064
  | .brk => 671088640
  | .dbgStep n => 679477248 + n.toNat * 65536
  | .preack => 687865856
  | .vadd d a b p => 1073741824 + d.toNat * 2097152 + srcCode a * 8192 + srcCode b * 32 + p.toNat * 8
  | .vsub d a b p => 1073741825 + d.toNat * 2097152 + srcCode a * 8192 + srcCode b * 32 + p.toNat * 8
  | .vaddSatS32 d a b p => 1073741826 + d.toNat * 2097152 + srcCode a * 8192 + srcCode b * 32 + p.toNat * 8
  | .vaddSatN32 d a b p => 1073741827 + d.toNat * 2097152 + srcCode a * 8192 + srcCode b * 32 + p.toNat * 8
  | .vaddc d a b p => 1073741828 + d.toNat * 4194304 + srcCode a * 8192 + srcCode b * 32 + p.toNat * 8
  | .vmulLo d a b p => 1073741829 + d.toNat * 2097152 + srcCode a * 8192 + srcCode b * 32 + p.toNat * 8
  | .vmulHiS32 d a b p => 1073741830 + d.toNat * 2097152 + srcCode a * 8192 + srcCode b * 32 + p.toNat * 8
  | .vmulHiN32 d a b p => 1073741831 + d.toNat * 2097152 + srcCode a * 8192 + srcCode b * 32 + p.toNat * 8
  | .vmad d a b p => 1140850688 + d.toNat * 2097152 + srcCode a * 8192 + srcCode b * 32 + p.toNat * 8
  | .vdivS32 d a b p => 1140850689 + d.toNat * 2097152 + srcCode a * 8192 + srcCode b * 32 + p.toNat * 8
  | .vdivN32 d a b p => 1140850690 + d.toNat * 2097152 + srcCode a * 8192 + srcCode b * 32 + p.toNat * 8
  | .vremS32 d a b p => 1140850691 + d.toNat * 2097152 + srcCode a * 8192 + srcCode b * 32 + p.toNat * 8
  | .vremN32 d a b p => 1140850692 + d.toNat * 2097152 + srcCode a * 8192 + srcCode b * 32 + p.toNat * 8
  | .vminS32 d a b p => 1140850693 + d.toNat * 2097152 + srcCode a * 8192 + srcCode b * 32 + p.toNat * 8
  | .vminN32 d a b p => 1140850694 + d.toNat * 2097152 + srcCode a * 8192 + srcCode b * 32 + p.toNat * 8
  | .vmaxS32 d a b p => 1140850695 + d.toNat * 2097152 + srcCode a * 8192 + srcCode b * 32 + p.toNat * 8
  | .vmaxN32 d a b p => 1207959552 + d.toNat * 2097152 + srcCode a * 8192 + srcCode b * 32 + p.toNat * 8
  | .vabsS32 d a p => 1207959553 + d.toNat * 2097152 + srcCode a * 8192 + p.toNat * 8
  | .vneg d a p => 1207959554 + d.toNat * 2097152 + srcCode a * 8192 + p.toNat * 8
  | .vand d a b p => 1207959555 + d.toNat * 2097152 + srcCode a * 8192 + srcCode b * 32 + p.toNat * 8
  | .vor d a b p => 1207959556 + d.toNat * 2097152 + srcCode a * 8192 + srcCode b * 32 + p.toNat * 8
  | .vxor d a b p => 1207959557 + d.toNat * 2097152 + srcCode a * 8192 + srcCode b * 32 + p.toNat * 8
  | .vnot d a p => 1207959558 + d.toNat * 2097152 + srcCode a * 8192 + p.toNat * 8
  | .vsel d a b c => 1207959559 + d.toNat * 2097152 + srcCode a * 8192 + srcCode b * 32 + c.toNat * 8
  | .vshl d a b p => 1275068416 + d.toNat * 2097152 + srcCode a * 8192 + srcCode b * 32 + p.toNat * 8
  | .vshr d a b p => 1275068417 + d.toNat * 2097152 + srcCode a * 8192 + srcCode b * 32 + p.toNat * 8
  | .vsra d a b p => 1275068418 + d.toNat * 2097152 + srcCode a * 8192 + srcCode b * 32 + p.toNat * 8
  | .vrot d a b p => 1275068419 + d.toNat * 2097152 + srcCode a * 8192 + srcCode b * 32 + p.toNat * 8
  | .vpopc d a p => 1275068420 + d.toNat * 2097152 + srcCode a * 8192 + p.toNat * 8
  | .vclz d a p => 1275068421 + d.toNat * 2097152 + srcCode a * 8192 + p.toNat * 8
  | .vbrev d a p => 1275068422 + d.toNat * 2097152 + srcCode a * 8192 + p.toNat * 8
  | .vmov d a p => 1275068423 + d.toNat * 2097152 + srcCode a * 8192 + p.toNat * 8
  | .vadd64 d a b p => 1342177280 + d.toNat * 4194304 + srcCode a * 8192 + srcCode b * 32 + p.toNat * 8
  | .vsub64 d a b p => 1342177281 + d.toNat * 4194304 + srcCode a * 8192 + srcCode b * 32 + p.toNat * 8
  | .vmulLo64 d a b p => 1342177282 + d.toNat * 4194304 + srcCode a * 8192 + srcCode b * 32 + p.toNat * 8
  | .vminS64 d a b p => 1342177283 + d.toNat * 4194304 + srcCode a * 8192 + srcCode b * 32 + p.toNat * 8
  | .vminN64 d a b p => 1342177284 + d.toNat * 4194304 + srcCode a * 8192 + srcCode b * 32 + p.toNat * 8
  | .vmaxS64 d a b p => 1342177285 + d.toNat * 4194304 + srcCode a * 8192 + srcCode b * 32 + p.toNat * 8
  | .vmaxN64 d a b p => 1342177286 + d.toNat * 4194304 + srcCode a * 8192 + srcCode b * 32 + p.toNat * 8
  | .vshl64 d a b p => 1342177287 + d.toNat * 4194304 + srcCode a * 8192 + srcCode b * 32 + p.toNat * 8
  | .vshr64 d a b p => 1409286144 + d.toNat * 4194304 + srcCode a * 8192 + srcCode b * 32 + p.toNat * 8
  | .vsra64 d a b p => 1409286145 + d.toNat * 4194304 + srcCode a * 8192 + srcCode b * 32 + p.toNat * 8
  | .vlea d a b p => 1409286146 + d.toNat * 4194304 + srcCode a * 8192 + srcCode b * 32 + p.toNat * 8
  | .vmovrel d r b p => 1409286147 + d.toNat * 2097152 + r.toNat * 8192 + srcCode b * 32 + p.toNat * 8
  | .vreadl d a b p => 1409286148 + d.toNat * 2097152 + srcCode a * 8192 + srcCode b * 32 + p.toNat * 8
  | .vbcs d a p => 1409286149 + d.toNat * 2097152 + srcCode a * 8192 + p.toNat * 8
  | .vcmpEq d a b p => 1476395008 + d.toNat * 2097152 + srcCode a * 8192 + srcCode b * 32 + p.toNat * 8
  | .vcmpNe d a b p => 1476395009 + d.toNat * 2097152 + srcCode a * 8192 + srcCode b * 32 + p.toNat * 8
  | .vcmpLtS32 d a b p => 1476395010 + d.toNat * 2097152 + srcCode a * 8192 + srcCode b * 32 + p.toNat * 8
  | .vcmpLeS32 d a b p => 1476395011 + d.toNat * 2097152 + srcCode a * 8192 + srcCode b * 32 + p.toNat * 8
  | .vcmpLtN32 d a b p => 1476395012 + d.toNat * 2097152 + srcCode a * 8192 + srcCode b * 32 + p.toNat * 8
  | .vcmpLeN32 d a b p => 1476395013 + d.toNat * 2097152 + srcCode a * 8192 + srcCode b * 32 + p.toNat * 8
  | .vcmpEq64 d a b p => 1543503872 + d.toNat * 2097152 + srcCode a * 8192 + srcCode b * 32 + p.toNat * 8
  | .vcmpNe64 d a b p => 1543503873 + d.toNat * 2097152 + srcCode a * 8192 + srcCode b * 32 + p.toNat * 8
  | .vcmpLtS64 d a b p => 1543503874 + d.toNat * 2097152 + srcCode a * 8192 + srcCode b * 32 + p.toNat * 8
  | .vcmpLeS64 d a b p => 1543503875 + d.toNat * 2097152 + srcCode a * 8192 + srcCode b * 32 + p.toNat * 8
  | .vcmpLtN64 d a b p => 1543503876 + d.toNat * 2097152 + srcCode a * 8192 + srcCode b * 32 + p.toNat * 8
  | .vcmpLeN64 d a b p => 1543503877 + d.toNat * 2097152 + srcCode a * 8192 + srcCode b * 32 + p.toNat * 8
  | .vaddImm d a i => 1610612736 + d.toNat * 2097152 + srcCode a * 8192 + i.toNat
  | .vmovi d i => 1677721600 + d.toNat * 2097152 + i.toNat
  | .sadd d a b => 1744830464 + d.toNat * 524288 + a.toNat * 4096 + b.toNat * 32
  | .ssub d a b => 1744830465 + d.toNat * 524288 + a.toNat * 4096 + b.toNat * 32
  | .smul d a b => 1744830466 + d.toNat * 524288 + a.toNat * 4096 + b.toNat * 32
  | .sand d a b => 1744830467 + d.toNat * 524288 + a.toNat * 4096 + b.toNat * 32
  | .sor d a b => 1744830468 + d.toNat * 524288 + a.toNat * 4096 + b.toNat * 32
  | .sxor d a b => 1744830469 + d.toNat * 524288 + a.toNat * 4096 + b.toNat * 32
  | .sshl d a b => 1744830470 + d.toNat * 524288 + a.toNat * 4096 + b.toNat * 32
  | .sshr d a b => 1744830471 + d.toNat * 524288 + a.toNat * 4096 + b.toNat * 32
  | .scmpEq d a b => 1744830472 + d.toNat * 524288 + a.toNat * 4096 + b.toNat * 32
  | .scmpLtS64 d a b => 1744830473 + d.toNat * 524288 + a.toNat * 4096 + b.toNat * 32
  | .scmpLtN64 d a b => 1744830474 + d.toNat * 524288 + a.toNat * 4096 + b.toNat * 32
  | .smov d a => 1744830475 + d.toNat * 524288 + a.toNat * 4096
  | .saddImm d a i => 1811939328 + d.toNat * 524288 + a.toNat * 4096 + i.toNat * 4
  | .smovi d i => 1811939329 + d.toNat * 524288 + i.toNat * 4
  | .vshape d s p => 1879048192 + d.toNat * 2097152 + s.toNat * 8192 + p.toNat * 8
  | .vfmt d a b p => 1879048193 + d.toNat * 2097152 + srcCode a * 8192 + srcCode b * 32 + p.toNat * 8
  | .vaffine d a b p => 1879048194 + d.toNat * 2097152 + srcCode a * 8192 + srcCode b * 32 + p.toNat * 8
  | .vidx d p => 1879048195 + d.toNat * 2097152 + p.toNat * 8
  | .vfree d => 1879048196 + d.toNat * 2097152
  | .vbfeS32 d a b p => 1946157056 + d.toNat * 2097152 + srcCode a * 8192 + srcCode b * 32 + p.toNat * 8
  | .vbfeN32 d a b p => 1946157057 + d.toNat * 2097152 + srcCode a * 8192 + srcCode b * 32 + p.toNat * 8
  | .vbfi d a b p => 1946157058 + d.toNat * 2097152 + srcCode a * 8192 + srcCode b * 32 + p.toNat * 8
  | .vsext d a b p => 1946157059 + d.toNat * 2097152 + srcCode a * 8192 + srcCode b * 32 + p.toNat * 8
  | .vzext d a b p => 1946157060 + d.toNat * 2097152 + srcCode a * 8192 + srcCode b * 32 + p.toNat * 8
  | .vfaddF32 d a b p => 2147483648 + d.toNat * 2097152 + srcCode a * 8192 + srcCode b * 32 + p.toNat * 8
  | .vfsubF32 d a b p => 2147483649 + d.toNat * 2097152 + srcCode a * 8192 + srcCode b * 32 + p.toNat * 8
  | .vfmulF32 d a b p => 2147483650 + d.toNat * 2097152 + srcCode a * 8192 + srcCode b * 32 + p.toNat * 8
  | .vfmaF32 d a b p => 2147483651 + d.toNat * 2097152 + srcCode a * 8192 + srcCode b * 32 + p.toNat * 8
  | .vfminF32 d a b p => 2147483652 + d.toNat * 2097152 + srcCode a * 8192 + srcCode b * 32 + p.toNat * 8
  | .vfmaxF32 d a b p => 2147483653 + d.toNat * 2097152 + srcCode a * 8192 + srcCode b * 32 + p.toNat * 8
  | .vfabsF32 d a p => 2147483654 + d.toNat * 2097152 + srcCode a * 8192 + p.toNat * 8
  | .vfnegF32 d a p => 2147483655 + d.toNat * 2097152 + srcCode a * 8192 + p.toNat * 8
  | .vfcmpEqF32 d a b p => 2214592512 + d.toNat * 2097152 + srcCode a * 8192 + srcCode b * 32 + p.toNat * 8
  | .vfcmpNeF32 d a b p => 2214592513 + d.toNat * 2097152 + srcCode a * 8192 + srcCode b * 32 + p.toNat * 8
  | .vfcmpLtF32 d a b p => 2214592514 + d.toNat * 2097152 + srcCode a * 8192 + srcCode b * 32 + p.toNat * 8
  | .vfcmpLeF32 d a b p => 2214592515 + d.toNat * 2097152 + srcCode a * 8192 + srcCode b * 32 + p.toNat * 8
  | .vfcmpUnF32 d a b p => 2214592516 + d.toNat * 2097152 + srcCode a * 8192 + srcCode b * 32 + p.toNat * 8
  | .vfclassF32 d a p => 2214592517 + d.toNat * 2097152 + srcCode a * 8192 + p.toNat * 8
  | .vfaddF16 d a b p => 2281701376 + d.toNat * 2097152 + srcCode a * 8192 + srcCode b * 32 + p.toNat * 8
  | .vfsubF16 d a b p => 2281701377 + d.toNat * 2097152 + srcCode a * 8192 + srcCode b * 32 + p.toNat * 8
  | .vfmulF16 d a b p => 2281701378 + d.toNat * 2097152 + srcCode a * 8192 + srcCode b * 32 + p.toNat * 8
  | .vfmaF16 d a b p => 2281701379 + d.toNat * 2097152 + srcCode a * 8192 + srcCode b * 32 + p.toNat * 8
  | .vfminF16 d a b p => 2281701380 + d.toNat * 2097152 + srcCode a * 8192 + srcCode b * 32 + p.toNat * 8
  | .vfmaxF16 d a b p => 2281701381 + d.toNat * 2097152 + srcCode a * 8192 + srcCode b * 32 + p.toNat * 8
  | .vfabsF16 d a p => 2281701382 + d.toNat * 2097152 + srcCode a * 8192 + p.toNat * 8
  | .vfnegF16 d a p => 2281701383 + d.toNat * 2097152 + srcCode a * 8192 + p.toNat * 8
  | .vfcmpEqF16 d a b p => 2348810240 + d.toNat * 2097152 + srcCode a * 8192 + srcCode b * 32 + p.toNat * 8
  | .vfcmpNeF16 d a b p => 2348810241 + d.toNat * 2097152 + srcCode a * 8192 + srcCode b * 32 + p.toNat * 8
  | .vfcmpLtF16 d a b p => 2348810242 + d.toNat * 2097152 + srcCode a * 8192 + srcCode b * 32 + p.toNat * 8
  | .vfcmpLeF16 d a b p => 2348810243 + d.toNat * 2097152 + srcCode a * 8192 + srcCode b * 32 + p.toNat * 8
  | .vfcmpUnF16 d a b p => 2348810244 + d.toNat * 2097152 + srcCode a * 8192 + srcCode b * 32 + p.toNat * 8
  | .vfclassF16 d a p => 2348810245 + d.toNat * 2097152 + srcCode a * 8192 + p.toNat * 8
  | .vfdot2F16 d a b p => 2348810246 + d.toNat * 2097152 + srcCode a * 8192 + srcCode b * 32 + p.toNat * 8
  | .vfaddBf16 d a b p => 2415919104 + d.toNat * 2097152 + srcCode a * 8192 + srcCode b * 32 + p.toNat * 8
  | .vfsubBf16 d a b p => 2415919105 + d.toNat * 2097152 + srcCode a * 8192 + srcCode b * 32 + p.toNat * 8
  | .vfmulBf16 d a b p => 2415919106 + d.toNat * 2097152 + srcCode a * 8192 + srcCode b * 32 + p.toNat * 8
  | .vfmaBf16 d a b p => 2415919107 + d.toNat * 2097152 + srcCode a * 8192 + srcCode b * 32 + p.toNat * 8
  | .vfminBf16 d a b p => 2415919108 + d.toNat * 2097152 + srcCode a * 8192 + srcCode b * 32 + p.toNat * 8
  | .vfmaxBf16 d a b p => 2415919109 + d.toNat * 2097152 + srcCode a * 8192 + srcCode b * 32 + p.toNat * 8
  | .vfabsBf16 d a p => 2415919110 + d.toNat * 2097152 + srcCode a * 8192 + p.toNat * 8
  | .vfnegBf16 d a p => 2415919111 + d.toNat * 2097152 + srcCode a * 8192 + p.toNat * 8
  | .vfcmpEqBf16 d a b p => 2483027968 + d.toNat * 2097152 + srcCode a * 8192 + srcCode b * 32 + p.toNat * 8
  | .vfcmpNeBf16 d a b p => 2483027969 + d.toNat * 2097152 + srcCode a * 8192 + srcCode b * 32 + p.toNat * 8
  | .vfcmpLtBf16 d a b p => 2483027970 + d.toNat * 2097152 + srcCode a * 8192 + srcCode b * 32 + p.toNat * 8
  | .vfcmpLeBf16 d a b p => 2483027971 + d.toNat * 2097152 + srcCode a * 8192 + srcCode b * 32 + p.toNat * 8
  | .vfcmpUnBf16 d a b p => 2483027972 + d.toNat * 2097152 + srcCode a * 8192 + srcCode b * 32 + p.toNat * 8
  | .vfclassBf16 d a p => 2483027973 + d.toNat * 2097152 + srcCode a * 8192 + p.toNat * 8
  | .vfdot2Bf16 d a b p => 2483027974 + d.toNat * 2097152 + srcCode a * 8192 + srcCode b * 32 + p.toNat * 8
  | .vfaddF64 d a b p => 2550136832 + d.toNat * 4194304 + srcCode a * 8192 + srcCode b * 32 + p.toNat * 8
  | .vfsubF64 d a b p => 2550136833 + d.toNat * 4194304 + srcCode a * 8192 + srcCode b * 32 + p.toNat * 8
  | .vfmulF64 d a b p => 2550136834 + d.toNat * 4194304 + srcCode a * 8192 + srcCode b * 32 + p.toNat * 8
  | .vfmaF64 d a b p => 2550136835 + d.toNat * 4194304 + srcCode a * 8192 + srcCode b * 32 + p.toNat * 8
  | .vfminF64 d a b p => 2550136836 + d.toNat * 4194304 + srcCode a * 8192 + srcCode b * 32 + p.toNat * 8
  | .vfmaxF64 d a b p => 2550136837 + d.toNat * 4194304 + srcCode a * 8192 + srcCode b * 32 + p.toNat * 8
  | .vfabsF64 d a p => 2550136838 + d.toNat * 4194304 + srcCode a * 8192 + p.toNat * 8
  | .vfnegF64 d a p => 2550136839 + d.toNat * 4194304 + srcCode a * 8192 + p.toNat * 8
  | .vfcmpEqF64 d a b p => 2617245696 + d.toNat * 2097152 + srcCode a * 8192 + srcCode b * 32 + p.toNat * 8
  | .vfcmpNeF64 d a b p => 2617245697 + d.toNat * 2097152 + srcCode a * 8192 + srcCode b * 32 + p.toNat * 8
  | .vfcmpLtF64 d a b p => 2617245698 + d.toNat * 2097152 + srcCode a * 8192 + srcCode b * 32 + p.toNat * 8
  | .vfcmpLeF64 d a b p => 2617245699 + d.toNat * 2097152 + srcCode a * 8192 + srcCode b * 32 + p.toNat * 8
  | .vfcmpUnF64 d a b p => 2617245700 + d.toNat * 2097152 + srcCode a * 8192 + srcCode b * 32 + p.toNat * 8
  | .vfclassF64 d a p => 2617245701 + d.toNat * 2097152 + srcCode a * 8192 + p.toNat * 8
  | .vfcvt d a t s p => 2684354560 + d.toNat * 2097152 + srcCode a * 8192 + t.toNat * 512 + s.toNat * 32 + p.toNat * 8
  | .vfcvtRz d a t s p => 2684354561 + d.toNat * 2097152 + srcCode a * 8192 + t.toNat * 512 + s.toNat * 32 + p.toNat * 8
  | .vfpack d a b p => 2684354562 + d.toNat * 2097152 + srcCode a * 8192 + srcCode b * 32 + p.toNat * 8
  | .vfpackRz d a b p => 2684354563 + d.toNat * 2097152 + srcCode a * 8192 + srcCode b * 32 + p.toNat * 8
  | .vfunpack d a b p => 2684354564 + d.toNat * 2097152 + srcCode a * 8192 + srcCode b * 32 + p.toNat * 8
  | .vfscale d a b p => 2684354565 + d.toNat * 2097152 + srcCode a * 8192 + srcCode b * 32 + p.toNat * 8
  | .vfround d a f p => 2684354566 + d.toNat * 2097152 + srcCode a * 8192 + f.toNat * 32 + p.toNat * 8
  | .vftoiS32 d a r p => 2751463424 + d.toNat * 2097152 + srcCode a * 8192 + r.toNat * 32 + p.toNat * 8
  | .vftoiN32 d a r p => 2751463425 + d.toNat * 2097152 + srcCode a * 8192 + r.toNat * 32 + p.toNat * 8
  | .vitofS32 d a p => 2751463426 + d.toNat * 2097152 + srcCode a * 8192 + p.toNat * 8
  | .vitofN32 d a p => 2751463427 + d.toNat * 2097152 + srcCode a * 8192 + p.toNat * 8
  | .vfrcpF32 d a p => 2818572288 + d.toNat * 2097152 + srcCode a * 8192 + p.toNat * 8
  | .vfrsqF32 d a p => 2818572289 + d.toNat * 2097152 + srcCode a * 8192 + p.toNat * 8
  | .vfsqrtF32 d a p => 2818572290 + d.toNat * 2097152 + srcCode a * 8192 + p.toNat * 8
  | .vfexp2F32 d a p => 2818572291 + d.toNat * 2097152 + srcCode a * 8192 + p.toNat * 8
  | .vflog2F32 d a p => 2818572292 + d.toNat * 2097152 + srcCode a * 8192 + p.toNat * 8
  | .vftanhF32 d a p => 2818572293 + d.toNat * 2097152 + srcCode a * 8192 + p.toNat * 8
  | .vfrcpF64 d a p => 2885681152 + d.toNat * 4194304 + srcCode a * 8192 + p.toNat * 8
  | .vfrsqF64 d a p => 2885681153 + d.toNat * 4194304 + srcCode a * 8192 + p.toNat * 8
  | .vfsqrtF64 d a p => 2885681154 + d.toNat * 4194304 + srcCode a * 8192 + p.toNat * 8
  | .vfexp2F16 d a p => 2885681155 + d.toNat * 2097152 + srcCode a * 8192 + p.toNat * 8
  | .vflog2F16 d a p => 2885681156 + d.toNat * 2097152 + srcCode a * 8192 + p.toNat * 8
  | .vftanhF16 d a p => 2885681157 + d.toNat * 2097152 + srcCode a * 8192 + p.toNat * 8
  | .vshfl d a b p => 2952790016 + d.toNat * 2097152 + srcCode a * 8192 + srcCode b * 32 + p.toNat * 8
  | .vperm d a b p => 2952790017 + d.toNat * 2097152 + srcCode a * 8192 + srcCode b * 32 + p.toNat * 8
  | .vbcast d a b p => 2952790018 + d.toNat * 2097152 + srcCode a * 8192 + srcCode b * 32 + p.toNat * 8
  | .qswapH d a p => 2952790019 + d.toNat * 2097152 + srcCode a * 8192 + p.toNat * 8
  | .qswapV d a p => 2952790020 + d.toNat * 2097152 + srcCode a * 8192 + p.toNat * 8
  | .qswapD d a p => 2952790021 + d.toNat * 2097152 + srcCode a * 8192 + p.toNat * 8
  | .qbcast d a b p => 2952790022 + d.toNat * 2097152 + srcCode a * 8192 + srcCode b * 32 + p.toNat * 8
  | .qreduce d a o p => 2952790023 + d.toNat * 2097152 + srcCode a * 8192 + o.toNat * 32 + p.toNat * 8
  | .wreduceAdd d a p => 3019898880 + d.toNat * 2097152 + srcCode a * 8192 + p.toNat * 8
  | .wreduceMinS32 d a p => 3019898881 + d.toNat * 2097152 + srcCode a * 8192 + p.toNat * 8
  | .wreduceMinN32 d a p => 3019898882 + d.toNat * 2097152 + srcCode a * 8192 + p.toNat * 8
  | .wreduceMaxS32 d a p => 3019898883 + d.toNat * 2097152 + srcCode a * 8192 + p.toNat * 8
  | .wreduceMaxN32 d a p => 3019898884 + d.toNat * 2097152 + srcCode a * 8192 + p.toNat * 8
  | .wscan d a x p => 3019898885 + d.toNat * 2097152 + srcCode a * 8192 + x.toNat * 32 + p.toNat * 8
  | .vcompact d a m p => 3019898886 + d.toNat * 2097152 + srcCode a * 8192 + m.toNat * 32 + p.toNat * 8
  | .vexpand d a m p => 3019898887 + d.toNat * 2097152 + srcCode a * 8192 + m.toNat * 32 + p.toNat * 8
  | .reorder k l => 3087014912 + k.toNat * 8192 + l.toNat * 32
  | .wreduceAddF32 d a p => 3087007745 + d.toNat * 2097152 + srcCode a * 8192 + p.toNat * 8
  | .wreduceMinF32 d a p => 3087007746 + d.toNat * 2097152 + srcCode a * 8192 + p.toNat * 8
  | .wreduceMaxF32 d a p => 3087007747 + d.toNat * 2097152 + srcCode a * 8192 + p.toNat * 8
  | .wscanF32 d a x p => 3087007748 + d.toNat * 2097152 + srcCode a * 8192 + x.toNat * 32 + p.toNat * 8
  | .ld d s o l p w v => 3221225472 + d.toNat * 2097152 + s.toNat * 65536 + o.toNat * 2048 + l.toNat * 128 + p.toNat * 32 + w.toNat * 4 + v.toNat
  | .ldAcq d s o l p w v => 3288334336 + d.toNat * 2097152 + s.toNat * 65536 + o.toNat * 2048 + l.toNat * 128 + p.toNat * 32 + w.toNat * 4 + v.toNat
  | .ldRo d s o l p w x => 3355443200 + d.toNat * 2097152 + s.toNat * 65536 + o.toNat * 2048 + l.toNat * 128 + p.toNat * 32 + w.toNat * 4 + x.toNat
  | .ldStream d s o l p w x => 3355443202 + d.toNat * 2097152 + s.toNat * 65536 + o.toNat * 2048 + l.toNat * 128 + p.toNat * 32 + w.toNat * 4 + x.toNat
  | .ldSp d s o l p w x => 3422552064 + d.toNat * 2097152 + s.toNat * 65536 + o.toNat * 2048 + l.toNat * 128 + p.toNat * 32 + w.toNat * 4 + x.toNat
  | .sld d s l p w => 3422552066 + d.toNat * 2097152 + s.toNat * 65536 + l.toNat * 128 + p.toNat * 32 + w.toNat * 4
  | .st d s o p w v => 3489660928 + d.toNat * 2097152 + s.toNat * 65536 + o.toNat * 2048 + p.toNat * 32 + w.toNat * 4 + v.toNat * 2
  | .stRel d s o p w v => 3556769792 + d.toNat * 2097152 + s.toNat * 65536 + o.toNat * 2048 + p.toNat * 32 + w.toNat * 4 + v.toNat * 2
  | .stSp d s o p w => 3556769793 + d.toNat * 2097152 + s.toNat * 65536 + o.toNat * 2048 + p.toNat * 32 + w.toNat * 4
  | .sst d s p w => 3556769795 + d.toNat * 2097152 + s.toNat * 65536 + p.toNat * 32 + w.toNat * 4
  | .atomAdd32 d s o v r => 3623878656 + d.toNat * 2097152 + s.toNat * 65536 + o.toNat * 2048 + v.toNat * 64 + r.toNat
  | .atomAdd64 d s o v r => 3623878660 + d.toNat * 2097152 + s.toNat * 65536 + o.toNat * 2048 + v.toNat * 64 + r.toNat
  | .atomMinS32 d s o v r => 3623878664 + d.toNat * 2097152 + s.toNat * 65536 + o.toNat * 2048 + v.toNat * 64 + r.toNat
  | .atomMinN32 d s o v r => 3623878668 + d.toNat * 2097152 + s.toNat * 65536 + o.toNat * 2048 + v.toNat * 64 + r.toNat
  | .atomMaxS32 d s o v r => 3623878672 + d.toNat * 2097152 + s.toNat * 65536 + o.toNat * 2048 + v.toNat * 64 + r.toNat
  | .atomMaxN32 d s o v r => 3623878676 + d.toNat * 2097152 + s.toNat * 65536 + o.toNat * 2048 + v.toNat * 64 + r.toNat
  | .atomAnd d s o v r => 3623878680 + d.toNat * 2097152 + s.toNat * 65536 + o.toNat * 2048 + v.toNat * 64 + r.toNat
  | .atomOr d s o v r => 3623878684 + d.toNat * 2097152 + s.toNat * 65536 + o.toNat * 2048 + v.toNat * 64 + r.toNat
  | .atomXor d s o v r => 3623878688 + d.toNat * 2097152 + s.toNat * 65536 + o.toNat * 2048 + v.toNat * 64 + r.toNat
  | .atomXchg32 d s o v r => 3623878692 + d.toNat * 2097152 + s.toNat * 65536 + o.toNat * 2048 + v.toNat * 64 + r.toNat
  | .atomXchg64 d s o v r => 3623878696 + d.toNat * 2097152 + s.toNat * 65536 + o.toNat * 2048 + v.toNat * 64 + r.toNat
  | .atomCas32 d s o v r => 3623878700 + d.toNat * 2097152 + s.toNat * 65536 + o.toNat * 2048 + v.toNat * 128 + r.toNat
  | .atomCas64 d s o v r => 3623878704 + d.toNat * 2097152 + s.toNat * 65536 + o.toNat * 2048 + v.toNat * 256 + r.toNat
  | .atomFaddF32 d s o v r => 3623878708 + d.toNat * 2097152 + s.toNat * 65536 + o.toNat * 2048 + v.toNat * 64 + r.toNat
  | .atomFaddF64 d s o v r => 3623878712 + d.toNat * 2097152 + s.toNat * 65536 + o.toNat * 2048 + v.toNat * 64 + r.toNat
  | .fence p s => 3690987520 + p.toNat * 32 + s.toNat * 4
  | .fencePath p s => 3690987521 + p.toNat * 32 + s.toNat * 4
  | .cctl s o p c => 3690987522 + s.toNat * 65536 + o.toNat * 2048 + p.toNat * 32 + c.toNat * 4
  | .prefetch s o p l => 3690987523 + s.toNat * 65536 + o.toNat * 2048 + p.toNat * 32 + l.toNat * 4
  | .cpAsync d s o v t => 3758096384 + d.toNat * 2097152 + s.toNat * 65536 + o.toNat * 2048 + v.toNat * 64 + t.toNat
  | .tagWaitAny a p => 3825205248 + srcCode a * 8192 + p.toNat * 8
  | .tagWaitAll a p => 3825205249 + srcCode a * 8192 + p.toNat * 8
  | .tagFirst d a p => 3825205250 + d.toNat * 2097152 + srcCode a * 8192 + p.toNat * 8
  | .tagPoll d a p => 3825205251 + d.toNat * 2097152 + srcCode a * 8192 + p.toNat * 8
  | .tagClear a p => 3825205252 + srcCode a * 8192 + p.toNat * 8
  | .bulkCopy n p => 3827040261 + n.toNat * 8192 + p.toNat * 8
  | .bulkGather n p => 3827040262 + n.toNat * 8192 + p.toNat * 8
  | .collReduce n p => 3827040263 + n.toNat * 8192 + p.toNat * 8
  | .barInit a b p => 3892314112 + srcCode a * 8192 + srcCode b * 32 + p.toNat * 8
  | .barExpect d a b p => 3892314113 + d.toNat * 2097152 + srcCode a * 8192 + srcCode b * 32 + p.toNat * 8
  | .barArrive d a p => 3892314114 + d.toNat * 2097152 + srcCode a * 8192 + p.toNat * 8
  | .barWait a b p => 3892314115 + srcCode a * 8192 + srcCode b * 32 + p.toNat * 8
  | .barTest d a b p => 3892314116 + d.toNat * 2097152 + srcCode a * 8192 + srcCode b * 32 + p.toNat * 8
  | .barGroup => 3892314117
  | .barCluster => 3892314118
  | .collGather n p => 3894149127 + n.toNat * 8192 + p.toNat * 8
  | .binit d a n => 3959422976 + d.toNat * 2097152 + srcCode a * 8192 + n.toNat * 32
  | .susp l n => 3959422977 + l.toNat * 2097152 + n.toNat * 32
  | .suspTag l a n => 3959425025 + l.toNat * 2097152 + srcCode a * 8192 + n.toNat * 32
  | .suspAddr l a n => 3959427073 + l.toNat * 2097152 + srcCode a * 8192 + n.toNat * 32
  | .suspBar l a n => 3959429121 + l.toNat * 2097152 + srcCode a * 8192 + n.toNat * 32
  | .wake d a n => 3959422978 + d.toNat * 2097152 + srcCode a * 8192 + n.toNat * 32
  | .wakePred d a c n => 3959422979 + d.toNat * 2097152 + srcCode a * 8192 + c.toNat * 2048 + n.toNat * 32
  | .wakeAddr d a r n => 3959422980 + d.toNat * 2097152 + srcCode a * 8192 + r.toNat * 2048 + n.toNat * 32
  | .fld d a n => 3959422981 + d.toNat * 2097152 + srcCode a * 8192 + n.toNat * 32
  | .fst d a n => 3959422982 + d.toNat * 2097152 + srcCode a * 8192 + n.toNat * 32
  | .fxform d a o n => 3959422983 + d.toNat * 2097152 + srcCode a * 8192 + o.toNat * 2048 + n.toNat * 32
  | .fcount d n => 3959422984 + d.toNat * 2097152 + n.toNat * 32
  | .resume n => 3959422985 + n.toNat * 32
  | .svc d c b p => 4028366848 + d.toNat * 2097152 + c.toNat * 8192 + srcCode b * 32 + p.toNat * 8
  | .srecv d n p => 4028366849 + d.toNat * 4194304 + n.toNat * 8192 + p.toNat * 8
  | .srep e n b => 4028366850 + e.toNat * 2097152 + n.toNat * 8192 + srcCode b * 32
  | .qpost q i p => 4028374019 + q.toNat * 8192 + i.toNat * 32 + p.toNat * 8
  | .launch d n p => 4028366852 + d.toNat * 2097152 + n.toNat * 8192 + p.toNat * 8
  | .verdict a => 4026531845 + srcCode a * 8192
  | .mreq d n p => 4028366854 + d.toNat * 2097152 + n.toNat * 8192 + p.toNat * 8
  | .kadd d a b i => 4093640704 + d.toNat * 2097152 + a.toNat * 65536 + b.toNat * 2048 + i.toNat * 32
  | .ksub d a b i => 4093640705 + d.toNat * 2097152 + a.toNat * 65536 + b.toNat * 2048 + i.toNat * 32
  | .kmul d a b i => 4093640706 + d.toNat * 2097152 + a.toNat * 65536 + b.toNat * 2048 + i.toNat * 32
  | .kand d a b i => 4093640707 + d.toNat * 2097152 + a.toNat * 65536 + b.toNat * 2048 + i.toNat * 32
  | .kor d a b i => 4093640708 + d.toNat * 2097152 + a.toNat * 65536 + b.toNat * 2048 + i.toNat * 32
  | .kxor d a b i => 4093640709 + d.toNat * 2097152 + a.toNat * 65536 + b.toNat * 2048 + i.toNat * 32
  | .kshl d a b i => 4093640710 + d.toNat * 2097152 + a.toNat * 65536 + b.toNat * 2048 + i.toNat * 32
  | .kshr d a b i => 4093640711 + d.toNat * 2097152 + a.toNat * 65536 + b.toNat * 2048 + i.toNat * 32
  | .kmov d a => 4093640712 + d.toNat * 2097152 + a.toNat * 65536
  | .kmovi d i => 4093640713 + d.toNat * 2097152 + i.toNat * 32
  | .kcmp d a b c => 4093640714 + d.toNat * 2097152 + a.toNat * 65536 + b.toNat * 2048 + c.toNat * 32
  | .kbra d i => 4093640715 + d.toNat * 2097152 + i.toNat * 32
  | .kld d a w i => 4093644812 + d.toNat * 2097152 + a.toNat * 65536 + w.toNat * 2048 + i.toNat * 32
  | .kst d a w i => 4093644813 + d.toNat * 2097152 + a.toNat * 65536 + w.toNat * 2048 + i.toNat * 32
  | .kwait a b => 4093640718 + a.toNat * 65536 + b.toNat * 2048
  | .dset d a f => 4093640719 + d.toNat * 2097152 + a.toNat * 65536 + f.toNat * 32
  | .dmov d a => 4093640720 + d.toNat * 2097152 + a.toNat * 65536
  | .mtake d => 4093640721 + d.toNat * 4194304
  | .mtakeNw d => 4093640753 + d.toNat * 4194304
  | .mdone a => 4093640722 + a.toNat * 65536
  | .mma n a b s => 4160749568 + n.toNat * 2097152 + a.toNat * 65536 + b.toNat * 2048 + s.toNat * 32
  | .mmaSp n a b s => 4160749569 + n.toNat * 2097152 + a.toNat * 65536 + b.toNat * 2048 + s.toNat * 32
  | .mmaGx n a b s => 4160749570 + n.toNat * 2097152 + a.toNat * 65536 + b.toNat * 2048 + s.toNat * 32
  | .mmaF64 n a b s => 4160749571 + n.toNat * 4194304 + a.toNat * 65536 + b.toNat * 2048 + s.toNat * 32
  | .accZero n => 4160749572 + n.toNat * 2097152
  | .accLoad n m => 4160749573 + n.toNat * 2097152 + m.toNat * 65536
  | .accStore n m c => 4160749574 + n.toNat * 2097152 + m.toNat * 65536 + c.toNat * 2048
  | .bundleReformationTimer _ => 0
  | .bundlePassedOver _ _ => 0
  | .spinGovernorDemotion _ => 0
  | .governorTimeoutWake _ => 0
  | .registerFileMove _ => 0
  | .groupEviction _ => 0
  | .longLatencyResult _ => 0
  | .waitAddrReread _ => 0
  | .groupRetirement _ => 0
  | .gangStart _ => 0
  | .localTrapEntry _ => 0
  | .systemDelivery _ => 0
  | .ringmasterFile _ => 0
  | .handlerWarpFormation _ _ => 0
  | .gatherWindowExpiry _ _ => 0
  | .rowReattach _ => 0
  | .whitAddrWrite _ _ => 0
  | .regionCheckpoint _ => 0
  | .lateStoreCheck _ => 0
  | .operandLogReplay _ => 0
  | .preemptionRequest _ _ _ => 0
  | .preemptionComplete _ => 0
  | .cooperativeGraceExpiry _ => 0
  | .warpRestore _ _ => 0
  | .cpAsyncRequestComplete _ _ => 0
  | .bulkChunkLand _ _ => 0
  | .collectiveStep _ _ _ => 0
  | .barWaitReread _ => 0
  | .matrixPassStart _ _ => 0
  | .indexGather _ _ => 0
  | .matrixPassEnd _ _ => 0
  | .accOperationComplete _ _ => 0
  | .carouselWindowExpiry _ _ _ => 0
  | .carouselResume _ _ _ => 0
  | .qbindWrite _ _ => 0
  | .sysrootWrite _ => 0
  | .packetNop _ => 0
  | .packetLaunch _ => 0
  | .packetWait _ => 0
  | .waitPacketSatisfied _ => 0
  | .packetGraph _ => 0
  | .packetWrite _ => 0
  | .hartRereadTimer _ => 0
  | .doorbellRereadTimer _ => 0
  | .dispatch _ _ => 0
  | .groupAdmission _ _ => 0
  | .homeWaitExpiry _ => 0
  | .gangReserveExpiry _ => 0
  | .gridCompletion _ => 0
  | .worldRetirement _ => 0
  | .exactGroupDispatch _ => 0
  | .pageWalk _ _ _ _ => 0
  | .faultRecord _ => 0
  | .faultReply _ _ => 0
  | .serviceRecordFile _ => 0
  | .ringWriteRetry _ => 0
  | .replyDelivery _ => 0
  | .svccfgWrite _ _ _ => 0
  | .ioLoadCompletion _ _ => 0
  | .ioCompletionTimeout _ => 0
  | .inboundRead _ _ _ _ => 0
  | .inboundWrite _ _ _ _ _ => 0
  | .inboundHoldTimeout _ => 0
  | .inboundContextWrite _ _ _ _ _ => 0
  | .errstatWrite _ _ => 0
  | .eccError _ _ _ _ => 0
  | .flitIdle _ _ => 0
  | .flitData _ _ => 0
  | .flitKeyMarker _ _ => 0
  | .flitRetryRequest _ _ _ => 0
  | .keyAgreement _ => 0
  | .keyRotationThreshold _ => 0
  | .keyStallThreshold _ => 0
  | .keyStallTimeout _ => 0
  | .portDown _ _ => 0
  | .portUp _ _ => 0
  | .linkRequestTimeout _ => 0
  | .holdResponse _ => 0
  | .ulstatWrite _ _ => 0
  | .powerOn => 0
  | .coldStart _ => 0
  | .warmStart _ => 0
  | .startTimeout => 0
  | .startrecWrite _ => 0
  | .getVersion => 0
  | .getCapabilities => 0
  | .negotiateAlgorithms _ => 0
  | .getDigests => 0
  | .getCertificate => 0
  | .challenge _ => 0
  | .getMeasurements _ => 0
  | .spdmUnsupportedRequest _ => 0
  | .resetReq _ => 0
  | .resetGraceExpiry => 0
  | .rootevtWrite _ => 0
  | .migrationStart _ _ _ => 0
  | .migrationSealedState _ _ _ _ _ => 0
  | .migrationReceipt _ _ => 0
  | .migrationConfirmation _ => 0
  | .migrationAbort _ => 0
  | .migrationArmTimeout _ => 0
  | .migrationReceiptTimeout _ => 0
  | .powerAverageWindow _ _ => 0
  | .thermalTrip _ => 0
  | .pwrstatWrite _ => 0
  | .registerWrite _ _ => 0
  | .unassignedEncoding _ => 0
  | .packetReservedType _ => 0
  | .flitTagFailure _ _ => 0
  | .rootPortLinkTraining _ _ => 0

/-- The word of an instruction. -/
def encode (i : Instr) : Word := BitVec.ofNat 32 (encodeNat i)

/-- Is the row an instruction word (and not an event of a unit)? -/
def Instr.isWord (i : Instr) : Bool := encodeNat i != 0

end Sys2Proof
end

