-- ==== Sys2Proof/Machine/State.lean ====
section
/-! DEFINITION. The state of one Z9 device as plain data: every thread, warp, group, grid, core, die, cluster, queue, world,
port and link register the spec names, memory, and the model's own agenda (log 2) and fresh counter (log 3). -/

namespace Sys2Proof.Machine

/-- Why the machine stops. The spec gives every stop of an instruction as a trap, an error code or a wait, which are next
states; this one reason is raised by no meaning of exec and by no step: the type the interface asks for (safe). -/
inductive Fault where
  | deviceOff
deriving DecidableEq, Repr

/-- Why an instruction is refused: notModelled is raised only by an arm of exec whose instruction has no meaning yet
(safe). No arm is left so. -/
inductive Refusal where
  | notModelled (mnemonic : String)
deriving DecidableEq, Repr

/-! ### Registers (R18 to R25) -/

/-- The storage of a v-register by shape (R20). -/
inductive Entry where
  | uniform (b : Word)
  | affine (b d : Word)
  | general (l : Lanes Word)
deriving DecidableEq, Repr

/-- A v-register: its entry, its format code (R22), and whether an entry is mapped (R24, R25). -/
structure VReg where
  entry : Entry
  fmt : BitVec 4
  mapped : Bool
deriving DecidableEq, Repr

/-- Uniform zero, raw, unmapped: a register no write has named (R24). -/
def VReg.zero : VReg := ⟨.uniform 0#32, 0#4, false⟩

/-- The hint words of the packet in progress (R49), each kind at most once; bad is rule 3 or 4 of R50. -/
structure Hints where
  k : Option (BitVec 5 × BitVec 5)
  imm : Option (BitVec 22)
  lu : Option (BitVec 22)
  pred : Option (BitVec 1 × BitVec 4)
  off : Option (BitVec 22)
  cache : Option (BitVec 3 × BitVec 4 × BitVec 3)
  sched : Option (BitVec 2 × BitVec 4)
  bad : Bool
deriving DecidableEq, Repr

/-- No hint. -/
def Hints.empty : Hints := ⟨.none, .none, .none, .none, .none, .none, .none, false⟩

/-! ### Traps (R256, R258) -/

/-- The cause codes (R256). -/
inductive Cause where
  | none | illegal | priv | regbound | fmt | fmtx | fpinv | fpdz | fpovf | fpunf | fpinx | idiv0 | align | segv | xlat
  | prot | race | racelate | poison | bkpt | watch | step | swtrap | frameovf | egress | peer | stale | svcerr | snetatom
  | link | quota
deriving DecidableEq, Repr

/-- The code of a cause (R256). -/
def Cause.code : Cause → BitVec 6
  | .none => 0 | .illegal => 1 | .priv => 2 | .regbound => 3 | .fmt => 4 | .fmtx => 5 | .fpinv => 6 | .fpdz => 7
  | .fpovf => 8 | .fpunf => 9 | .fpinx => 10 | .idiv0 => 11 | .align => 12 | .segv => 13 | .xlat => 14 | .prot => 15
  | .race => 16 | .racelate => 17 | .poison => 18 | .bkpt => 19 | .watch => 20 | .step => 21 | .swtrap => 22
  | .frameovf => 23 | .egress => 24 | .peer => 25 | .stale => 26 | .svcerr => 27 | .snetatom => 28 | .link => 29
  | .quota => 30

/-- A trap that a lane raises: the cause, the failing address (0 where R258 gives none), the code of trap (R273) and
whether it followed a rollback (R279). mark: once it is delivered, the lane's next issue of the instruction is not matched
(R201, R275, R276). -/
structure Trap where
  cause : Cause
  addr : DWord
  sw : BitVec 12
  rb : Bool
  mark : Bool := false
deriving DecidableEq, Repr

/-- The architected wait of a lane (R77), with what it waits for. -/
inductive Wait where
  | none
  /-- wait.addr: the word at a differs from x (R92). -/
  | addr (a : DWord) (x : Word)
  /-- tag.wait.any, tag.wait.all (R206). -/
  | tagAny (m : DWord)
  | tagAll (m : DWord)
  /-- bar.wait: the object's phase passes (R213). -/
  | bar (a : DWord) (phase : Word)
  /-- bar.group, bar.cluster, verdict: arrived (R214, R339). -/
  | group
  | cluster
  | verdict (x : Word)
  /-- reorder, arrived: its key and live-mask registers (R149). -/
  | reorder (k l : BitVec 5)
  /-- svc: waiting for ring slot and reply (R367). -/
  | svc (k : Nat)
  /-- rte: held until every handler lane is (R264). -/
  | rte
  /-- demotion by the spin governor (R78). -/
  | spin
  /-- waiting for the chip OS's answer to a system delivery (R265). -/
  | system
  /-- susp.addr: its filing reads a word at a peer (R295, R298). -/
  | susp
  /-- srecv: no record is ready; the number of its issue, vd and P (R368). -/
  | recv (id v r : Nat)
deriving DecidableEq, Repr

/-- One bundle (R16): its lanes, when they last issued, and how often a slot passed it over (R72). -/
structure Bundle where
  lanes : Mask
  last : Nat
  passed : Nat
  /-- found stalled since the last cc: not ready (R72). -/
  stuck : Bool
deriving DecidableEq, Repr

/-- The kind of a memory access (R348 bytes 20). -/
inductive AccKind where
  | load | store
  | atomic (aop : BitVec 4)
  | readOnly | streamLoad
  | cctl (op : BitVec 2)
  /-- the checks of an access alone, with nothing performed. -/
  | probe (write : Bool)
  /-- a cp.async to be issued (R204): its tag; the data word holds the destination offset and the valid bytes. -/
  | copy (tag : Nat)
deriving DecidableEq, Repr

/-- The accesses of one memory instruction, as the operand log holds it (R281): for each lane the address and the data. -/
structure Access where
  kind : AccKind
  /-- bytes a lane. -/
  size : Nat
  sext : Bool
  /-- addressed by scratchpad offset (ld.sp, st.sp). -/
  offset : Bool
  addr : Lanes DWord
  data : Lanes (BitVec 128)
  /-- the acquire and release scopes, 0 for none (R175). -/
  acq : BitVec 3
  rel : BitVec 3
  policy : BitVec 3
  /-- one access for the whole issue, whose lowest lane makes it (sld, sst; R169). -/
  scalar : Bool
deriving DecidableEq, Repr

/-- A segment window: base and limit (R155). -/
structure Seg where
  base : DWord
  lim : Word
deriving DecidableEq, Repr

/-- A window of no bytes at address 0. -/
def Seg.empty : Seg := ⟨0#64, 0#32⟩

/-- The four windows of a warp (R155). -/
structure Segs where
  sp : Seg
  cl : Seg
  stk : Seg
  fr : Seg
deriving DecidableEq, Repr

/-- Four windows of no bytes. -/
def Segs.empty : Segs := ⟨Seg.empty, Seg.empty, Seg.empty, Seg.empty⟩

/-- A result that has not landed (R51), with the accesses still in the operand log (R281) or outstanding at a peer or an
endpoint. Lane i is in lanes until its values land; in got when its values have arrived. -/
structure Pend where
  id : Nat
  pc : Word
  hints : Hints
  /-- destination v-registers, by the mapping of R263 (32 to 39 for h0 to h7), their formats, and the lanes in which no
  later write has renamed them (rule 3 of R51). -/
  dests : List (Nat × BitVec 4 × Mask)
  /-- destination s-register (sld). -/
  sdest : Option Nat
  vals : List (Lanes Word)
  uniform : Bool
  lanes : Mask
  got : Mask
  /-- lanes in the operand log, whose access waits for service. -/
  logged : Mask
  /-- lanes whose access waits for a peer or an endpoint. -/
  remote : Mask
  /-- window instructions still to come, of la, and those done while the lane's access waited (R51, R282). -/
  left : Lanes Nat
  la : Nat
  done : Lanes (BitVec 15)
  acc : Access
  /-- lanes whose walk or request cannot be served, with their causes: raised together (R281). -/
  failed : List (Lane × Cause) := []
  /-- the windows that the accesses were issued under (R289). -/
  segs : Segs := Segs.empty
  /-- the flags that a floating-point result raises when it is written (R122). -/
  flags : Option (Lanes (BitVec 5)) := .none
  /-- the number that the detector knows the instruction by (R166). -/
  instr : Nat := 0
  /-- lanes of remote whose access a full history area keeps at the home L2 (R195). -/
  held : Mask := 0#32
  /-- what lanes that a store did not hold back have stored: lane, physical address and bytes (R166). -/
  stored : List (Nat × Nat × Nat) := []
deriving DecidableEq, Repr

/-- A retired store whose check failed (R197, R279): its lane, cause, address and instruction. -/
structure LateStore where
  lane : Lane
  cause : Cause
  addr : DWord
  pc : Word
deriving DecidableEq, Repr

/-- A backward branch that the spin governor watches (R78): its address and target, its consecutive qualifying iterations, and
of the iteration at hand whether it qualifies so far, the sectors its loads touch, and their values beside those of the one
before. -/
structure Loop where
  pc : Word
  target : Word
  count : Nat
  qualifies : Bool
  sectors : List Nat
  loads : List (Word × Nat × BitVec 128)
  prev : List (Word × Nat × BitVec 128)
deriving DecidableEq, Repr

/-- The spin governor of one warp (R78, R79): its loops, whether lanes of it wait by demotion and since which cc, and the
sectors whose writes wake them. -/
structure Governor where
  loops : List Loop
  demoted : Bool
  since : Nat
  tracked : List Nat
deriving DecidableEq, Repr

/-- The checkpoint of an idempotent region (R278). -/
structure Ckpt where
  v : Vector VReg 32
  h : Vector VReg 8
  m : Vector Mask 16
  pc : Lanes Word
  meet : Lanes Word
  meetmask : Lanes (BitVec 4)
  wait : Lanes Wait
  /-- results still pending at the region's entry, and $issued then. -/
  pend : List Pend
  issued : DWord
  /-- registers renamed or freed since: the entries they held here are kept (R27, R111). -/
  moved : List Nat
deriving DecidableEq, Repr

/-- A thread's origin, for a lane of a Ringmaster handler warp (R258 $origin; R267). -/
structure Origin where
  warp : Nat
  die : BitVec 2
  core : BitVec 7
  slot : BitVec 6
  lane : BitVec 5
  tid : BitVec 10
deriving DecidableEq, Repr

/-- A row that gret sent, on its way to its origin (R271). -/
structure Returning where
  origin : Origin
  regs : List (Word × BitVec 4)
  /-- the home group's $group, and $cause and $taddr of the row (R293). -/
  groupNo : Word
  cause : Word
  taddr : DWord
  omasks : Word
  omeet : Word
  omeetmask : BitVec 4
  done : BitVec 15
  hints : Hints
  tpc : Word
  pc : Word
  pub : Map Nat
deriving DecidableEq, Repr

/-- Where a warp is (R77, R265, R285). -/
inductive Residence where
  | running
  | evicted
  | preempted
  | system
  | gone
deriving DecidableEq, Repr

/-- One warp (R11, R14): its threads' and its own state. -/
structure Warp where
  group : Nat
  /-- compute die, core within the die, slot within the core, $warp. -/
  die : Nat
  core : Nat
  slot : Nat
  no : BitVec 5
  handler : Bool
  origin : Lanes Origin
  /-- cc of formation and of the last re-formation (R68, R71), yield (R90), and the lanes whose hint.sched holds
  re-formation until they issue (R69). -/
  born : Nat
  formed : Nat
  yielded : Bool
  withheld : Mask
  /-- in the active set, and the position there (R30, R71). -/
  fast : Bool
  pos : Nat
  place : Residence
  real : Mask
  retired : Mask
  /-- lanes that a gkill retired while the warp was saved (R272, R288). -/
  killed : Mask
  detached : Mask
  tid : Lanes (BitVec 10)
  pc : Lanes Word
  meet : Lanes Word
  meetmask : Lanes (BitVec 4)
  /-- m1 to m15 (R18); slot 0 is never read or written. -/
  m : Vector Mask 16
  v : Vector VReg 32
  h : Vector VReg 8
  /-- registers whose entry an uncorrectable error poisoned (R363), by the mapping of R263. -/
  spoiled : List Nat
  fcsr : Word
  issued : DWord
  segSp : Seg
  segCl : Seg
  segStk : Seg
  segFr : Seg
  stkback : DWord
  kern : Bool
  trap : Bool
  /-- the trap-state registers (R258). -/
  cause : Lanes Word
  tpc : Lanes Word
  fmask : Mask
  taddr : Lanes DWord
  omasks : Lanes Word
  omeet : Lanes Word
  omeetmask : Lanes (BitVec 4)
  hbank : Bool
  done : Lanes (BitVec 15)
  /-- the logged instruction whose window DONE counts, and how far in it the lane stands (R283). -/
  logpc : Lanes (Option Word)
  logidx : Lanes Nat
  logla : Lanes Nat
  /-- the four of a lane and its kept hints as local entry found them; the handler has its own (R42, R283). -/
  outer : Lanes (BitVec 15 × Option Word × Nat × Nat)
  outerKept : Lanes (Option (Word × Hints))
  wait : Lanes Wait
  /-- waits suspended by local entry (R262). -/
  suspended : Lanes Wait
  /-- lanes that entered the handler (R262), and the lanes of the last system delivery's record (R265, R266). -/
  entered : Mask
  sysmask : Mask
  /-- results numbered below this were made before local entry, and are frozen in the handler (R262, R283); failures of theirs
  that wait for rte: the result, its lane and the cause. -/
  entry : Nat
  owing : List (Nat × Lane × Cause)
  bundles : List Bundle
  gov : Governor
  /-- hints kept for a trapped packet, with its address (R42). -/
  kept : Lanes (Option (Word × Hints))
  lu : Lanes (BitVec 22)
  pend : List Pend
  ckpt : Ckpt
  step : Bool
  /-- addresses whose next issue is not matched: breakpoint, watch, race, stores after RACELATE (R275, R276, R201, R280). -/
  skipBp : Lanes (Option Word)
  skipWatch : Lanes (Option Word)
  skipRace : Lanes (Option Word)
  skipLate : Lanes (List Word)
  /-- stores whose late check failed (R197, R279). -/
  late : List LateStore
  /-- a delivery that waits for a reserve slot (R262): the lanes and their traps. -/
  waiting : List (Lane × Trap)
  /-- lanes to be filed by the Ringmaster once their log entries resolve (R267). -/
  filing : List (Lane × Trap)
  /-- rows that gret returned while the warp was saved (R271, R288). -/
  returned : List Returning
  /-- traps that wait for an older access of their lane to be resolved: the lane stays at the instruction (R257, R282). -/
  deferred : List (Lane × Trap)
  /-- lanes that trapped at a logged instruction and have not resumed (R257, R283). -/
  out : Mask
  /-- cc since which the lanes wait (R72, R77). -/
  since : Nat
deriving DecidableEq, Repr

/-! ### Groups and grids (R11, R12, R318) -/

/-- A queued per-thread copy (R204): destination offset in the group's scratchpad, source, bytes and tag, with the
context it is translated in and its engine agent (R174). -/
structure CopyReq where
  group : Nat
  kern : Bool
  dst : Nat
  src : DWord
  n : Nat
  tag : Nat
  agent : Nat
  begun : Bool
  /-- the bytes of the parts of its source that have been read: part 0, and part 1 in the next line. -/
  parts : Map (List Byte)
deriving DecidableEq, Repr

/-- A collective (R217, R218): its communicator record's address, ID, RANK, SEQ and devices, none before the engine has read
it; gather or reduce, with type f32 and the op; the bytes per member or of the vector; the steps done; its own source bytes read so
far; and what a step has received. -/
structure Coll where
  comm : DWord
  ident : DWord
  rank : Nat
  seq : Nat
  devs : List Nat
  gather : Bool
  float : Bool
  op : Nat
  size : Nat
  step : Nat
  own : Map (List Byte)
  inbox : Option (List Byte)
deriving DecidableEq, Repr

/-- What a bulk operation does (R216, R218). -/
inductive BulkKind where
  | copy
  | gather (rowBytes : Nat) (rows : List Nat) (pitch : Nat)
  | collective (x : Coll)
deriving DecidableEq, Repr

/-- A bulk operation or collective held by a core's copy engine (R215): its issuer's windows and mode, its ranges, the 4 KiB
chunks not yet taken, the destination bytes not yet landed, its barrier object, its engine agent, and the walks it waits
for. -/
structure BulkOp where
  kind : BulkKind
  group : Nat
  segSp : Seg
  segCl : Seg
  segStk : Seg
  segFr : Seg
  kern : Bool
  dst : DWord
  src : DWord
  total : Nat
  chunks : List Nat
  left : Nat
  barGroup : Nat
  barOff : Nat
  agent : Nat
  held : Nat
  /-- bytes read for destination offsets that have still to be written. -/
  rest : List (Nat × List Byte)
deriving DecidableEq, Repr

/-- A release that a location carries (R176, R178): who, at which scope, what it publishes, and, at warp scope, the threads of its
warp at that moment (R175). -/
structure Rel where
  agent : Nat
  scope : BitVec 3
  clock : Map Nat
  mates : List Nat
deriving DecidableEq, Repr

/-- What the scratchpad keeps of a barrier object beside its words: bar.init's mark (R192), the releases of this phase's arrivals
and the engine operations counted in it, each up to a region of its agent, and the same of each completed phase (R187, R190). -/
structure Obj where
  marked : Bool
  arrivals : List Rel
  engines : Map Nat
  phases : Map (List Rel × Map Nat)
deriving DecidableEq, Repr

/-- Where a group stands (R12, R89, R265, R285). -/
inductive GroupStatus where
  | ready | running | exiting | evicted | preempted | retired
deriving DecidableEq, Repr

/-- Where a surrogate tile stands (R335); none for a group of no surrogate. -/
inductive Tile where
  | none | open | passed | failed | overflowed
deriving DecidableEq, Repr

/-- A tentative store that the commit checks (R199): granule, generic address, the storing agent and its region, the
instruction, and whether an access of the same tile conflicts with it. -/
structure TentRec where
  granule : Nat
  addr : DWord
  agent : Nat
  cls : Nat
  region : Nat
  instr : Nat
  bad : Bool
deriving DecidableEq, Repr

/-- One group (R11): its registers, scratchpad, tags, barriers and tile. -/
structure Group where
  grid : Nat
  no : Word
  gang : Word
  die : Nat
  core : Nat
  handler : Bool
  warps : List Nat
  s : Vector DWord 128
  sp : Map Byte
  spSize : Nat
  spLive : Bool
  /-- its 32-byte sectors that an uncorrectable error poisoned (R363). -/
  spPoison : List Nat
  tags : Map Nat
  tagfault : DWord
  tagcause : BitVec 6
  /-- engine operations completed under each tag (R188). -/
  tagDone : Map (List Nat)
  objs : Map Obj
  gen : BitVec 10
  clgen : BitVec 6
  tol : Word
  preq : Bool
  graceEnd : Nat
  status : GroupStatus
  tile : Tile
  tent : Map Byte
  tentSectors : List Nat
  /-- the key and VERSION that each tentative line was written under, none for the open key (R354). -/
  tentTags : Map (Option (Nat × Nat))
  tentRecs : List TentRec
  /-- the agents that have acted for the tile (R199, R333). -/
  tileAgents : List Nat
  /-- retired at the gang's cluster barrier count (R163). -/
  retiredGen : BitVec 6
deriving DecidableEq, Repr

/-- A launch record (R318). -/
structure LaunchRec where
  code : DWord
  codelen : Word
  entry : Word
  ctrlpc : Word
  regs : Nat
  scalars : Nat
  groupw : Nat
  gang : Nat
  flags : BitVec 16
  qclass : Nat
  homearg : Nat
  scratch : Word
  stack : Word
  frame : Word
  homestride : DWord
  keyh : DWord
  ptroot : DWord
  stkbase : DWord
  framebase : DWord
  exact : DWord
  tol : Word
  tquota : Word
  traps : Vector DWord 64
  bins : Vector Word 64
  /-- is every byte that R318 does not name zero? -/
  clean : Bool
deriving DecidableEq, Repr

/-- Where a grid stands (R320, R326). -/
inductive GridStatus where
  | accepted | dispatched | complete | ended | refused
deriving DecidableEq, Repr

/-- One accepted launch (R316, R338): what the front end was handed and what it has counted. -/
structure Grid where
  recAddr : DWord
  argAddr : DWord
  compl : DWord
  threads : Nat
  /-- root and world the record is read through, issuer's mode, KPOST of its queue (R328). -/
  inRoot : DWord
  inWorld : BitVec 10
  inKern : Bool
  fromQueue : Bool
  record : LaunchRec
  args : Vector DWord 32
  world : BitVec 10
  status : GridStatus
  /-- order of acceptance (R326). -/
  order : Nat
  next : Nat
  groups : Nat
  retired : Nat
  pass : Nat
  fail : Nat
  overs : Nat
  /-- the surrogate whose exact groups this grid is (R335), and groups to be dispatched for it. -/
  exactOf : Option Nat
  exactGrid : Option Nat
  todo : List Word
  running : Nat
  controls : Nat
  /-- graph residence and node (R322). -/
  graph : Option (Nat × Nat)
  queue : Option Nat
  /-- the die whose launch list holds it (R338); 4 for the queues' list. -/
  list : Nat
  /-- is its completion record's address without service (R320)? -/
  lost : Bool
  /-- what happens before its accesses, and what its accesses publish at its end (R178, R317). -/
  pub : Map Nat
  ends : Map Nat
  /-- cc since which the next group waits, and whether it may go to any die (R329). -/
  since : Nat
  anywhere : Bool
  /-- the cluster on which the next gang reserves, and whether it admits no other grid (R330). -/
  reserve : Option Nat
  exclusive : Bool
deriving DecidableEq, Repr

/-! ### Memory and translation (R7, R159, R341, R344, R354) -/

/-- Physical memory: HBM bytes, the dirty bytes of L2, poisoned 32-byte sectors (R362), and for each 64-byte line written
by a PROT access the key identity and VERSION it was written under (R354). -/
structure Mem where
  hbm : Map Byte
  l2 : Map Byte
  poison : Map Bool
  lines : Map (Nat × Nat)
deriving DecidableEq, Repr

/-- A cached translation (R344). -/
structure TlbEntry where
  root : DWord
  world : BitVec 10
  page : Nat
  size : Nat
  leaf : DWord
deriving DecidableEq, Repr

/-- A recorded access of the race detector (R194). -/
structure RaceRec where
  agent : Nat
  cls : Nat
  region : Nat
  write : Bool
  grid : Nat
  /-- the instruction whose lanes are one access (R166); 0 for an engine's. -/
  instr : Nat
deriving DecidableEq, Repr

/-- An agent of the ordering model (R174): where it is (for scopes), its region count, what is ordered before its
accesses of each path class, and what its fences hold over (R184). An engine's operations are one agent (R174). -/
structure Agent where
  engine : Option Nat
  /-- an engine operation's conflict: its address, and whether a thread has observed it (R198). -/
  raced : Option DWord
  observed : Bool
  warp : Nat
  group : Nat
  gang : Nat
  region : Nat
  know : Vector (Map Nat) 6
  last : Option Nat
  fences : List (Nat × Rel)
  seen : List (Nat × Rel)
deriving DecidableEq, Repr

/-! ### The Ringmaster and the Carousel (R267, R268, R291 to R293) -/

/-- A row filed by the Ringmaster (R267): v0 to v(f-1) with their formats, and the side record. -/
structure TrapRow where
  regs : List (Word × BitVec 4)
  tpc : Word
  cause : Word
  taddr : DWord
  origin : Origin
  omasks : Word
  omeet : Word
  omeetmask : BitVec 4
  done : BitVec 15
  hints : Hints
  at_ : Nat
  /-- resident cc counted since it was filed (R269). -/
  age : Nat
  tileGroup : Option Nat
  pub : Map Nat
deriving DecidableEq, Repr

/-- A Ringmaster bin (R268): its key and its rows in filing order. -/
structure TrapBin where
  world : BitVec 10
  grid : Nat
  handler : Word
  cause : Cause
  rows : List TrapRow
  /-- whether it is to form. -/
  forming : Bool
deriving DecidableEq, Repr

/-- A Carousel row (R293) with the group it belongs to, when it awoke, and what its wake released (R300). -/
structure Row where
  rpc : Word
  live : Word
  edit : Bool
  kind : BitVec 2
  tid : BitVec 10
  arg : Word
  regs : List Word
  fmts : List (BitVec 4)
  waddr : DWord
  group : Nat
  fault : BitVec 6
  awake : Bool
  woken : Nat
  /-- resident cc counted since it awoke (R303). -/
  age : Nat
  /-- the object of a kind-3 condition: group and offset. -/
  obj : Nat × Nat
  /-- what its wake releases: a clock, the path class it covers (7 all), and engine operations. -/
  pub : Map Nat
  pubCls : Nat
  engines : Map Nat
deriving DecidableEq, Repr

/-- A filing that reads a word at a peer (R295, R298): its warp and lane, the row, and the word's location and path class. -/
structure Asked where
  warp : Nat
  lane : Lane
  row : Row
  loc : Nat
  cls : Nat
deriving DecidableEq, Repr

/-- A Carousel bin (R292): its rows by number, what freed rows last held, its chain of tiles, cap, window, the group that a
resume or its window named, the resumes that have taken rows of a group and wait to form its warp (R303), and the filing that
holds the bin while a peer is read (R295). -/
structure Bin where
  declared : Bool
  rows : Map Row
  old : Map Row
  chain : List Nat
  cap : Nat
  window : Nat
  forced : Option Nat
  expired : Option Nat
  taken : List (Nat × List (Nat × Row))
  busy : Option Asked
deriving DecidableEq, Repr

/-- The frame area of a launch on a die (R291). -/
structure Frames where
  tiles : Nat
  bins : Map Bin
deriving DecidableEq, Repr

/-! ### Cores and dies (R10, R274, R344) -/

/-- One core. -/
structure Core where
  /-- cc at the last core reset (R115). -/
  resetAt : Nat
  bp : Vector (DWord × DWord) 16
  /-- sectors that path 0x1 loads brought into L1 (R158). -/
  ro : Map (List Byte)
  /-- its poisoned ones (R363). -/
  roBad : List Nat
  tlb : List TlbEntry
  /-- queued per-thread copies and bulk operations (R219). -/
  reqs : Map CopyReq
  bulk : Map BulkOp
deriving DecidableEq, Repr

/-- One compute die. -/
structure Die where
  wp : Vector (DWord × DWord × DWord) 16
  whitAddr : DWord
  whitInfo : DWord
  tlb : List TlbEntry
  bins : Map TrapBin
deriving DecidableEq, Repr

/-! ### Clusters and the matrix engine (R221, R232, R238, R242, R244) -/

/-- A tile descriptor: words 0 and 1 (R238). -/
structure Desc where
  w0 : DWord
  w1 : DWord
deriving DecidableEq, Repr

/-- A Turnstile entry: words 0 to 2 (R232), and what its mreq releases (R233). -/
structure TEntry where
  payload : DWord
  word1 : DWord
  word2 : DWord
  pub : Map Nat
deriving DecidableEq, Repr

/-- What a queued matrix operation does (R250, R254). -/
inductive MatKind where
  | mma | sparse | gathered | f64 | zero | load | store
deriving DecidableEq, Repr

/-- A queued or running matrix operation: its accumulator, the copied descriptors, the step, the request an acc.store
completes into, the agents of its passes and of its gathering, the rows that the gather unit has collected into the operand latch
(R252), and for a running pass the results of what its start read (R244). -/
structure MatOp where
  kind : MatKind
  acc : Nat
  a : Desc
  b : Desc
  meta_ : Desc
  step : Nat
  request : Option Nat
  agent : Nat
  gather : Nat
  started : Bool
  rows : Option (List Nat)
  latch : List (List Nat)
  result : Map Word
  fault : Option Cause
deriving DecidableEq, Repr

/-- One cluster: its control core's stream, accumulators, Turnstile and array queues. -/
structure Cluster where
  /-- the gang served, as grid and $gang, while a stream lives (R220). -/
  gang : Option (Nat × Word)
  pc : Word
  k : Vector DWord 32
  d : Vector Desc 32
  acc : Map Word
  /-- sticky pass faults by accumulator, each with the agent of the operation that met it (R245). -/
  accFault : Map (Cause × Nat)
  turn : Vector TEntry 64
  queues : Map (List MatOp)
  hints : Hints
  /-- stopped by a fault whose reply is awaited (R224), or by pre-emption. -/
  stopped : Bool
  saved : Bool
  /-- operations completed since the last mdone (R236). -/
  ran : List Nat
  /-- what a peer answered to the kld or kst that waits. -/
  answer : Option DWord
  agent : Nat
deriving DecidableEq, Repr

/-! ### Service rings, root ports, inbound DMA (R364 to R376) -/

/-- A svc call (R367), under the key of its pending result: the callers and who they are, their arguments, what the call
published, the slot it was filed in, the replies that srep gave (none in a lane: SVCERR), and what srep published. -/
structure Call where
  warp : Nat
  lanes : Mask
  grid : Nat
  world : BitVec 10
  origin : Nat
  code : Nat
  argA : Lanes Word
  argB : Lanes Word
  filed : Option Nat
  replies : Option (Lanes (Option Word))
  pub : Map Nat
  back : Map Nat
deriving DecidableEq, Repr

/-- A device record (R365): its code, its 64-byte body, and what a code-0 reply acts on: a warp (R265), a cluster's stream
(R224), or nothing (R276). -/
structure DevRec where
  code : Nat
  body : List Byte
  warp : Option Nat
  cluster : Option Nat
deriving DecidableEq, Repr

/-- What waits for a free slot of a ring (R366): a call by its key, or a device record. -/
inductive RingItem where
  | call (k : Nat)
  | record (r : DevRec)
deriving DecidableEq, Repr

/-- A filed slot: its count of fillings, whether it is still to be taken, its place in filing order, what is in it, and the
group that owes its reply (R368). -/
structure Slot where
  gen : BitVec 16
  ready : Bool
  order : Nat
  filing : Option RingItem
  owed : Option Nat
deriving DecidableEq, Repr

/-- The service ring of a compute die (R364): SVCCFG, next slot, fillings, slots, calls, and what waits to be filed, in order. -/
structure Ring where
  w0 : DWord
  w1 : DWord
  next : Nat
  filings : Nat
  slots : Map Slot
  calls : Map Call
  waiting : List RingItem
deriving DecidableEq, Repr

/-- A path 0x3 read at an endpoint that has not completed (R374). -/
structure IoRead where
  pend : Nat
  warp : Nat
  lane : Lane
  addr : Nat
  size : Nat
  since : Nat
deriving DecidableEq, Repr

/-- A held inbound request (R376). -/
structure Inbound where
  rid : BitVec 16
  addr : DWord
  write : Bool
  relaxed : Bool
  bytes : List Byte
  n : Nat
  since : Nat
deriving DecidableEq, Repr

/-- How an inbound read ends (R376). -/
inductive ReadEnd where
  | data (b : List Byte)
  | unsupported
  | poisoned
deriving DecidableEq, Repr

/-- A root port (R373, R375): its registers, contexts (with Root's confirmation), posted stores in order (R377), reads
outstanding, requests held, and the reads it completed. -/
structure Port where
  ctl : DWord
  stat : DWord
  ctx : Vector (DWord × DWord) 64
  confirmed : Map Bool
  posted : List (Nat × Nat × DWord)
  reads : Map IoRead
  held : Map Inbound
  completed : List (BitVec 16 × DWord × ReadEnd)
deriving DecidableEq, Repr

/-! ### Links (R383 to R391) -/

/-- Who waits for a remote answer: a lane's pending access, an engine's bulk operation or copy, or a walk that a home
device serves. -/
inductive Requester where
  | lane (warp pend : Nat) (l : Lane) (off : Nat)
  | store (warp : Nat) (l : Lane) (a : DWord)
  | wait (warp : Nat) (l : Lane)
  | bulk (core k off n : Nat)
  | copy (core k part : Nat)
  | stream (cluster : Nat)
  /-- the word of the kind-2 row that bin files, read at a peer. -/
  | row (frame bin : Nat)
  | inbound (p k : Nat)
  /-- a structure that the front end reads or writes, by the key of what it does. -/
  | front (k : Nat)
deriving DecidableEq, Repr

/-- A request issued on a port (R390), under its token: its requester, and the fs of waiting counted. -/
structure LinkReq where
  who : Requester
  waited : Nat
deriving DecidableEq, Repr

/-- A sent flit kept for replay (R385). -/
structure SentFlit where
  epoch : Nat
  counter : Nat
  flit : Flit
deriving DecidableEq, Repr

/-- One Uluster port (R383 to R391). -/
structure Link where
  up : Bool
  peer : BitVec 9
  txEpoch : Nat
  txCounter : Nat
  rxEpoch : Nat
  rxCounter : Nat
  /-- epoch and counter of the last flit verified, which ACK names (R383). -/
  rxLast : Nat × Nat
  /-- keys held: the active slot of each direction while up, the next key in the idle slots (R388). -/
  keyed : Bool
  nextKey : Bool
  agreeing : Bool
  oldTx : Bool
  oldRx : Bool
  /-- stalled by the key, since a clock in fs. -/
  stalled : Bool
  stalledAt : Nat
  credits : Nat × Nat × Nat
  /-- credits to return for room freed here, per channel (R383, R384). -/
  owed : Nat × Nat × Nat
  sent : List SentFlit
  ackEpoch : Nat
  ackCounter : Nat
  /-- failures of the expected counter in a row (R386). -/
  fails : Nat
  retryAsked : Bool
  retries : BitVec 21
  authf : Byte
  downs : Byte
  evt : DWord
  reqs : Map LinkReq
  /-- packets that wait to be sent, in order (R384). -/
  out : List LinkPacket
deriving DecidableEq, Repr

/-- A walk sent for service (R348): the record with its token, who waits (none for another device's), the home device, and
whether a fault hart has taken it. -/
structure FaultReq where
  token : Nat
  va : DWord
  root : DWord
  world : BitVec 10
  req : BitVec 9
  kind : BitVec 8
  reason : BitVec 8
  who : Option Requester
  home : BitVec 9
  taken : Bool
  /-- the fs counted while a record on its way to another device is not acknowledged (R390). -/
  waited : Nat
deriving DecidableEq, Repr

/-! ### Worlds (R347, R351, R358) -/

/-- A live world (R351). -/
structure World where
  key : Nat
  handle : DWord
  egress : List (DWord × DWord)
  roster : List (BitVec 9)
  buffers : List (BitVec 16 × BitVec 2)
deriving DecidableEq, Repr

/-! ### The front end (R310 to R323) -/

/-- What a queue hart does (R314). -/
inductive HartState where
  /-- asleep, or its queue not enabled. -/
  | idle
  /-- about to read the header of the next packet. -/
  | waitHeader
  | waitBar
  | waitCond
  | waitGraph
  /-- carrying out a packet that waits for translation service. -/
  | mid
  /-- the packet is complete, and the write of its header and RIDX waits for service. -/
  | pass
  | stopped
deriving DecidableEq, Repr

/-- One queue hart: the binding as it read it for its packet (R312, R316), and what it does (R314). -/
structure Hart where
  bind : DWord
  /-- SYSROOT as it read it for its packet (R311). -/
  root : DWord
  state : HartState
  /-- index and bytes of the packet it read and waits in. -/
  idx : Nat
  packet : List Byte
deriving DecidableEq, Repr

/-- A node of a loaded graph (R321, R323). -/
structure Node where
  record : DWord
  args : DWord
  compl : DWord
  threads : Word
  count : Nat
  succ : List Nat
  started : Bool
  ended : Option Nat
  /-- what its predecessors' accesses publish (R178). -/
  pub : Map Nat
deriving DecidableEq, Repr

/-- A graph residence (R322). -/
structure Graph where
  table : DWord
  compl : DWord
  queue : Nat
  /-- KPOST as the hart read it for the packet (R316). -/
  kpost : Bool
  nodes : List Node
  groups : Nat
  pass : Nat
  fail : Nat
  overs : Nat
deriving DecidableEq, Repr

/-- A completion record to be written (R320): the space it lies in, its fields, and what its STATUS releases; grid is the
key of the grid or none for a graph. -/
structure Completion where
  root : DWord
  world : BitVec 10
  kern : Bool
  addr : DWord
  status : Nat
  number : Nat
  groups : Nat
  pass : Nat
  fail : Nat
  overs : Nat
  grid : Option Nat
  pub : Map Nat
deriving DecidableEq, Repr

/-- A pre-emption request at the collectors (R285). -/
structure Preempt where
  target : PreemptTarget
  compl : DWord
  graceEnd : Nat
deriving DecidableEq, Repr

/-- The front end's registers and lists. -/
structure Front where
  qbind : Vector DWord 32
  qclass : Map DWord
  errstat : Vector DWord 5
  sysroot : DWord
  harts : Vector Hart 32
  graphs : Map Graph
  /-- accepted launches in order: grid keys (R326), and the next $grid (R319). -/
  nextGrid : Nat
  orders : Nat
  preempts : Map Preempt
  /-- completion records not yet written, and structures or code whose fault could not be served, with its cause. -/
  records : Map Completion
  failed : Map Cause
  /-- link and Root event records not yet written, by their writer: address and bytes (R392, R400). -/
  events : Map (DWord × List Byte)
  freq : Nat
  power : Nat
  temp : Nat
  steps : Byte
  /-- the clock in fs when the last power average ended (R402). -/
  windowAt : Nat
deriving DecidableEq, Repr

/-! ### Firmware (R393 to R401) -/

/-- Where the device is in its starts (R397). -/
inductive StartPhase where
  | pending | osLoaded | up
deriving DecidableEq, Repr

/-- A migration this device takes part in (R401). -/
structure Migration where
  world : BitVec 10
  peer : BitVec 9
  /-- this device is the source; else it holds the armed slot. -/
  source : Bool
  handle : DWord
  blob : SealedBlob
  /-- the clock in fs when the source sealed or the destination armed. -/
  since : Nat
  abandoned : Bool
deriving DecidableEq, Repr

/-- The errors of R396 and R399. -/
inductive SidebandError where
  | unsupportedRequest | invalidRequest | busy
deriving DecidableEq, Repr

/-- What Sniquin Root answers over the sideband (R396, R399). -/
inductive SidebandAnswer where
  | version (major minor : Nat)
  | capabilities (v : DWord)
  /-- RSASSA-4096 with SHA-512. -/
  | algorithms
  | noAlgorithms
  | digests (v : DWord)
  | certificate (v : DWord)
  /-- a signature of the nonce with the device identity key. -/
  | challenge (nonce v : DWord)
  | measurements (v : List (Nat × DWord))
  | measurementCount (n : Nat)
  | success
  | error (e : SidebandError)
deriving DecidableEq, Repr

/-- Sniquin Root and Services. -/
structure Firmware where
  phase : StartPhase
  ready : Bool
  kind : BitVec 3
  reason : BitVec 4
  wfail : BitVec 4
  cfail : BitVec 4
  nextWarm : Bool
  loadedAt : Nat
  openKey : Nat
  stackKeys : Nat
  /-- ports that were up at a hot reset, with their peers: their lanes may stay trained (R397). -/
  trained : Map (BitVec 9)
  fuses : Nat
  loaded : Nat
  measured : Map DWord
  rootevt : DWord
  resetEnd : Option Nat
  migrations : Map Migration
  /-- the answers given to sideband requests, in order (R396). -/
  answers : List SidebandAnswer
deriving DecidableEq, Repr

/-! ### The device -/

/-- What the agenda names next (log 2): an issue slot's choice (R71), a control core's next instruction, an event of the
device, or the passing of one cc. -/
inductive Turn where
  | slot (core k : Nat)
  | control (cluster : Nat)
  | event (i : Instr)
  | cc
deriving DecidableEq, Repr

/-- Which agent executes the instruction at hand (R57). -/
inductive Issuer where
  | vector
  | control (cluster : Nat)
deriving DecidableEq, Repr

/-- The state of the device. -/
structure State where
  /-- the issuer, its warp and bundle, its packet's hints, and whether a packet is in progress (R42). -/
  issuer : Issuer
  cur : Nat
  bundle : Mask
  hints : Hints
  inPacket : Bool
  /-- lanes that the packet at hand sent along a taken branch, jump, call or return (R50, R68). -/
  taken : Mask
  /-- its active lanes (R63), and the registers it has renamed (R25). -/
  acted : Mask
  renamed : List Nat
  /-- the v registers that the instruction at hand reads (R43, R363). -/
  reads : List Nat
  /-- the packet at hand could not issue and stays where it is (R31, R72, R281). -/
  stalled : Bool
  /-- where the packet at hand began, the hints it took up there and $issued then: what a packet that stalls goes back to. -/
  start : Word
  startHints : Hints
  startIssued : DWord
  /-- the lanes in which it trapped, and whether its issue has been counted ($issued, windows). -/
  undone : Mask
  counted : Bool
  /-- the next unit key when its instruction began: its results are numbered from here. -/
  base : Nat
  /-- the ready bundles that its slot passes over if it issues (R72). -/
  rivals : List (Nat × Mask)
  warps : Map Warp
  groups : Map Group
  grids : Map Grid
  cores : Map Core
  dies : Map Die
  frames : Map Frames
  clusters : Map Cluster
  rings : Map Ring
  ports : Map Port
  links : Map Link
  routes : Map Nat
  faults : Map FaultReq
  worlds : Map World
  versions : Map Word
  ranges : Map (DWord × DWord × DWord)
  front : Front
  firm : Firmware
  mem : Mem
  races : Map (List RaceRec)
  /-- stacks whose history area is full and has been reported (R195). -/
  full : List Nat
  rels : Map (List Rel)
  agents : Map Agent
  returning : Map Returning
  /-- cc elapsed, device time in fs (R115). -/
  cc : Nat
  clock : Nat
  /-- the fraction of a fs that the clock has counted, in parts of clockParts (R3). -/
  part : Nat
  /-- the next unused unit key. -/
  unit : Nat
  fresh : Nat
  agenda : List Turn
deriving DecidableEq, Repr

/-! ### Units at reset. A unit that a map does not list is one of these. -/

/-- The governor with nothing watched (R78). -/
def Governor.empty : Governor := ⟨[], false, 0, []⟩
/-- All 32 v-registers uniform zero raw (R24). -/
def zeroV : Vector VReg 32 := Vector.replicate 32 VReg.zero
/-- h0 to h7 uniform zero raw (R262). -/
def zeroH : Vector VReg 8 := Vector.replicate 8 VReg.zero
/-- The same value in every lane. -/
def allLanesOf {α : Type} (a : α) : Lanes α := Vector.replicate 32 a
/-- The checkpoint at the kernel entry (R258 $region). -/
def Ckpt.empty : Ckpt :=
  ⟨zeroV, zeroH, Vector.replicate 16 0#32, allLanesOf 0#32, allLanesOf 0#32, allLanesOf 0#4, allLanesOf Wait.none, [], 0#64, []⟩
/-- No origin. -/
def Origin.empty : Origin := ⟨0, 0#2, 0#7, 0#6, 0#5, 0#10⟩
/-- A warp that is not there: no thread, every register at its reset value (R14, R24, R33, R67, R115, R122, R258). -/
def Warp.empty : Warp where
  group := 0
  die := 0
  core := 0
  slot := 0
  no := 0#5
  handler := false
  origin := allLanesOf Origin.empty
  born := 0
  formed := 0
  yielded := false
  withheld := 0#32
  fast := false
  pos := 0
  place := .gone
  real := 0#32
  retired := 0#32
  killed := 0#32
  detached := 0#32
  tid := allLanesOf 0#10
  pc := allLanesOf 0#32
  meet := allLanesOf 0#32
  meetmask := allLanesOf 0#4
  m := Vector.replicate 16 0#32
  v := zeroV
  h := zeroH
  spoiled := []
  fcsr := 0#32
  issued := 0#64
  segSp := Seg.empty
  segCl := Seg.empty
  segStk := Seg.empty
  segFr := Seg.empty
  stkback := 0#64
  kern := false
  trap := false
  cause := allLanesOf 0#32
  tpc := allLanesOf 0#32
  fmask := 0#32
  taddr := allLanesOf 0#64
  omasks := allLanesOf 0#32
  omeet := allLanesOf 0#32
  omeetmask := allLanesOf 0#4
  hbank := false
  done := allLanesOf 0#15
  logpc := allLanesOf Option.none
  logidx := allLanesOf 0
  logla := allLanesOf 0
  outer := allLanesOf (0#15, Option.none, 0, 0)
  outerKept := allLanesOf Option.none
  wait := allLanesOf Wait.none
  suspended := allLanesOf Wait.none
  entered := 0#32
  sysmask := 0#32
  entry := 0
  owing := []
  bundles := []
  gov := Governor.empty
  kept := allLanesOf Option.none
  lu := allLanesOf 0#22
  pend := []
  ckpt := Ckpt.empty
  step := false
  skipBp := allLanesOf Option.none
  skipWatch := allLanesOf Option.none
  skipRace := allLanesOf Option.none
  skipLate := allLanesOf []
  late := []
  waiting := []
  filing := []
  returned := []
  deferred := []
  out := 0#32
  since := 0

/-- A group that is not there (R18, R202, R203, R207, R258). -/
def Group.empty : Group where
  grid := 0
  no := 0#32
  gang := 0#32
  die := 0
  core := 0
  handler := false
  warps := []
  s := Vector.replicate 128 0#64
  sp := []
  spSize := 0
  spLive := false
  spPoison := []
  tags := []
  tagfault := 0#64
  tagcause := 0#6
  tagDone := []
  objs := []
  gen := 0#10
  clgen := 0#6
  tol := 0#32
  preq := false
  graceEnd := 0
  status := .retired
  tile := .none
  tent := []
  tentSectors := []
  tentTags := []
  tentRecs := []
  tileAgents := []
  retiredGen := 0#6

/-- A record that is no object. -/
def Obj.empty : Obj := ⟨false, [], [], []⟩

/-- A record of zeros. -/
def LaunchRec.empty : LaunchRec where
  code := 0#64
  codelen := 0#32
  entry := 0#32
  ctrlpc := 0#32
  regs := 0
  scalars := 0
  groupw := 0
  gang := 0
  flags := 0#16
  qclass := 0
  homearg := 0
  scratch := 0#32
  stack := 0#32
  frame := 0#32
  homestride := 0#64
  keyh := 0#64
  ptroot := 0#64
  stkbase := 0#64
  framebase := 0#64
  exact := 0#64
  tol := 0#32
  tquota := 0#32
  traps := Vector.replicate 64 0#64
  bins := Vector.replicate 64 0#32
  clean := true

/-- A grid that is not there. -/
def Grid.empty : Grid where
  recAddr := 0#64
  argAddr := 0#64
  compl := 0#64
  threads := 0
  inRoot := 0#64
  inWorld := 0#10
  inKern := false
  fromQueue := false
  record := LaunchRec.empty
  args := Vector.replicate 32 0#64
  world := 0#10
  status := .ended
  order := 0
  next := 0
  groups := 0
  retired := 0
  pass := 0
  fail := 0
  overs := 0
  exactOf := Option.none
  exactGrid := Option.none
  todo := []
  running := 0
  controls := 0
  graph := Option.none
  queue := Option.none
  list := 0
  lost := false
  pub := []
  ends := []
  since := 0
  anywhere := false
  reserve := Option.none
  exclusive := false

/-- A core at reset (R115, R274). -/
def Core.empty : Core := ⟨0, Vector.replicate 16 (0#64, 0#64), [], [], [], [], []⟩
/-- A die at reset (R274). -/
def Die.empty : Die := ⟨Vector.replicate 16 (0#64, 0#64, 0#64), 0#64, 0#64, [], []⟩
/-- A frame area with nothing filed (R292). -/
def Frames.empty : Frames := ⟨0, []⟩
/-- An undeclared bin (R292). -/
def Bin.empty : Bin := ⟨false, [], [], [], 0, 0, Option.none, Option.none, [], Option.none⟩
/-- A descriptor at reset (R238). -/
def Desc.empty : Desc := ⟨0#64, 0#64⟩
/-- A Turnstile entry at reset (R232). -/
def TEntry.empty : TEntry := ⟨0#64, 0#64, 0#64, []⟩
/-- A cluster with no stream (R221, R223, R232). -/
def Cluster.empty : Cluster :=
  ⟨Option.none, 0#32, Vector.replicate 32 0#64, Vector.replicate 32 Desc.empty, [], [], Vector.replicate 64 TEntry.empty, [],
    Hints.empty, false, false, [], Option.none, 0⟩
/-- A ring at reset (R364). -/
def Ring.empty : Ring := ⟨0#64, 0#64, 0, 0, [], [], []⟩
/-- A slot never filled (R368). -/
def Slot.empty : Slot := ⟨0#16, false, 0, Option.none, Option.none⟩
/-- A root port at reset: CTO 50, all else 0 (R373, R375). -/
def Port.empty : Port := ⟨50#64, 0#64, Vector.replicate 64 (0#64, 0#64), [], [], [], [], []⟩
/-- A Uluster port that is down (R391). -/
def Link.empty : Link :=
  ⟨false, 0#9, 0, 0, 0, 0, (0, 0), false, false, false, false, false, false, 0, (0, 0, 0), (0, 0, 0), [], 0, 0, 0, false, 0#21, 0#8, 0#8,
    0#64, [], []⟩
/-- A world that is not live (R35). -/
def World.empty : World := ⟨0, 0#64, [], [], []⟩
/-- A queue hart at reset. -/
def Hart.empty : Hart := ⟨0#64, 0#64, .idle, 0, []⟩
/-- The front end at reset (R310, R311, R319, R324, R402). -/
def Front.reset : Front where
  qbind := Vector.replicate 32 0#64
  qclass := []
  errstat := Vector.replicate 5 0#64
  sysroot := 0#64
  harts := Vector.replicate 32 Hart.empty
  graphs := []
  nextGrid := 1
  orders := 0
  preempts := []
  records := []
  failed := []
  events := []
  freq := 600
  power := 0
  temp := 0
  steps := 0#8
  windowAt := 0
/-- The firmware after the first cold start has loaded the OS image: KIND 0, REASON 0, no failure (R397, R398). -/
def Firmware.reset : Firmware where
  phase := .osLoaded
  ready := false
  kind := 0#3
  reason := 0#4
  wfail := 0#4
  cfail := 0#4
  nextWarm := false
  loadedAt := 0
  openKey := 0
  stackKeys := 0
  trained := []
  fuses := 0
  loaded := 0
  measured := []
  rootevt := 0#64
  resetEnd := Option.none
  migrations := []
  answers := []
/-- Memory after the scrub of a cold start: every byte zero (R397; log 4). -/
def Mem.reset : Mem := ⟨[], [], [], []⟩
/-- An agent that has done nothing. -/
def Agent.empty : Agent := ⟨Option.none, Option.none, false, 0, 0, 0, 0, Vector.replicate 6 [], Option.none, [], []⟩

/-- The device right after reset: a cold start has ended, nothing is launched (R397; log 1). -/
def State.reset : State where
  issuer := .vector
  cur := 0
  bundle := 0#32
  hints := Hints.empty
  inPacket := false
  taken := 0#32
  acted := 0#32
  renamed := []
  reads := []
  stalled := false
  start := 0#32
  startHints := Hints.empty
  startIssued := 0#64
  undone := 0#32
  counted := false
  base := 0
  rivals := []
  warps := []
  groups := []
  grids := []
  cores := []
  dies := []
  frames := []
  clusters := []
  rings := []
  ports := []
  links := []
  routes := []
  faults := []
  worlds := []
  versions := []
  ranges := []
  front := Front.reset
  firm := Firmware.reset
  mem := Mem.reset
  races := []
  full := []
  rels := []
  agents := []
  returning := []
  cc := 0
  clock := 0
  part := 0
  unit := 1
  fresh := 0
  agenda := []

end Sys2Proof.Machine
end

