-- ==== Sys2Proof/Machine/Units.lean ====
section
/-! DEFINITION. The named operations over parts of the state: units, registers with their shapes, masks, bundles and
meeting points, physical memory, translation (R341 to R355) and the fetch of an instruction word. -/

namespace Sys2Proof.Machine

/-! ### Units -/

/-- The warp of a key. -/
def State.warp (s : State) (k : Nat) : Warp := mapGet Warp.empty s.warps k
/-- The state with warp k replaced. -/
def State.setWarp (s : State) (k : Nat) (w : Warp) : State := { s with warps := mapPut s.warps k w }
/-- The state with warp k changed by f. -/
def State.modWarp (s : State) (k : Nat) (f : Warp → Warp) : State := s.setWarp k (f (s.warp k))
/-- The issuing warp. -/
def State.me (s : State) : Warp := s.warp s.cur
/-- The state with the issuing warp replaced. -/
def State.setMe (s : State) (w : Warp) : State := s.setWarp s.cur w
/-- The group of a key. -/
def State.group (s : State) (k : Nat) : Group := mapGet Group.empty s.groups k
/-- The state with group k replaced. -/
def State.setGroup (s : State) (k : Nat) (g : Group) : State := { s with groups := mapPut s.groups k g }
/-- The state with group k changed by f. -/
def State.modGroup (s : State) (k : Nat) (f : Group → Group) : State := s.setGroup k (f (s.group k))
/-- The group of the issuing warp. -/
def State.myGroup (s : State) : Group := s.group s.me.group
/-- The grid of a $grid number. -/
def State.grid (s : State) (k : Nat) : Grid := mapGet Grid.empty s.grids k
/-- The state with grid k replaced. -/
def State.setGrid (s : State) (k : Nat) (g : Grid) : State := { s with grids := mapPut s.grids k g }
/-- The state with grid k changed by f. -/
def State.modGrid (s : State) (k : Nat) (f : Grid → Grid) : State := s.setGrid k (f (s.grid k))
/-- The grid of the issuing warp. -/
def State.myGrid (s : State) : Grid := s.grid s.myGroup.grid
/-- The key of a core: 128 to a die (R5, R9). -/
def coreKey (die core : Nat) : Nat := 128 * die + core
/-- The core of a key. -/
def State.core (s : State) (k : Nat) : Core := mapGet Core.empty s.cores k
/-- The state with core k changed by f. -/
def State.modCore (s : State) (k : Nat) (f : Core → Core) : State :=
  { s with cores := mapPut s.cores k (f (s.core k)) }
/-- The compute die of a number. -/
def State.die (s : State) (k : Nat) : Die := mapGet Die.empty s.dies k
/-- The state with die k changed by f. -/
def State.modDie (s : State) (k : Nat) (f : Die → Die) : State := { s with dies := mapPut s.dies k (f (s.die k)) }
/-- The cluster of a key: 32 to a die. -/
def State.cluster (s : State) (k : Nat) : Cluster := mapGet Cluster.empty s.clusters k
/-- The state with cluster k changed by f. -/
def State.modCluster (s : State) (k : Nat) (f : Cluster → Cluster) : State :=
  { s with clusters := mapPut s.clusters k (f (s.cluster k)) }
/-- The cluster of a core (R9). -/
def clusterKey (die core : Nat) : Nat := 32 * die + core / 4
/-- The service ring of a compute die. -/
def State.ring (s : State) (d : Nat) : Ring := mapGet Ring.empty s.rings d
/-- The state with ring d changed by f. -/
def State.modRing (s : State) (d : Nat) (f : Ring → Ring) : State := { s with rings := mapPut s.rings d (f (s.ring d)) }
/-- The root port of a number. -/
def State.port (s : State) (p : Nat) : Port := mapGet Port.empty s.ports p
/-- The state with port p changed by f. -/
def State.modPort (s : State) (p : Nat) (f : Port → Port) : State := { s with ports := mapPut s.ports p (f (s.port p)) }
/-- The Uluster port of a number. -/
def State.link (s : State) (p : Nat) : Link := mapGet Link.empty s.links p
/-- The state with link p changed by f. -/
def State.modLink (s : State) (p : Nat) (f : Link → Link) : State := { s with links := mapPut s.links p (f (s.link p)) }
/-- The live world of a number. -/
def State.world (s : State) (w : BitVec 10) : World := mapGet World.empty s.worlds w.toNat
/-- The frame area of a launch on a die (R291). -/
def frameKey (grid die : Nat) : Nat := 4 * grid + die
/-- The frame area of a key. -/
def State.frame (s : State) (k : Nat) : Frames := mapGet Frames.empty s.frames k
/-- The state with frame area k changed by f. -/
def State.modFrame (s : State) (k : Nat) (f : Frames → Frames) : State :=
  { s with frames := mapPut s.frames k (f (s.frame k)) }
/-- The next unused unit key, and the state after it. -/
def State.newUnit (s : State) : Nat × State := (s.unit, { s with unit := s.unit + 1 })
/-- The next free value (log 3), and the state after it. -/
def State.free (s : State) : DWord × State := (Config.freeWord s.fresh, { s with fresh := s.fresh + 1 })
/-- The next free choice (log 3), and the state after it. -/
def State.choice (s : State) : Bool × State := (Config.freeBool s.fresh, { s with fresh := s.fresh + 1 })

/-! ### Lanes -/

/-- Lane i of a vector of lanes. -/
def Lanes.at {α : Type} (l : Lanes α) (i : Lane) : α := l[i.val]
/-- The vector with lane i replaced. -/
def Lanes.put {α : Type} (l : Lanes α) (i : Lane) (a : α) : Lanes α := l.set i.val a
/-- The lanes of m taken from f, the others from l. -/
def Lanes.where_ {α : Type} (l : Lanes α) (m : Mask) (f : Lane → α) : Lanes α :=
  perLane (fun i => if Mask.has m i then f i else Lanes.at l i)

/-- Unretired real lanes (R15). -/
def Warp.live (w : Warp) : Mask := w.real &&& ~~~w.retired
/-- The lanes of the quad of lane i. -/
def quadOf (i : Lane) : Mask := (15#32) <<< (i.val / 4 * 4)
/-- $helper: lanes that are not live, of a quad that holds a live lane (R15, R290). -/
def Warp.helpers (w : Warp) : Mask := maskOf (fun i => !Mask.has w.live i && (w.live &&& quadOf i) != 0#32)

/-! ### Vector registers (R18 to R28, R263) -/

/-- Lane i of an entry (R20). -/
def Entry.at : Entry → Lane → Word
  | .uniform b, _ => b
  | .affine b d, i => b + BitVec.ofNat 32 i.val * d
  | .general l, i => Lanes.at l i

/-- The shape code of an entry (R20). -/
def Entry.shape : Entry → BitVec 2
  | .uniform _ => 0#2
  | .affine _ _ => 1#2
  | .general _ => 2#2

/-- The 6-bit tag (R19). -/
def VReg.tag (r : VReg) : BitVec 6 := r.entry.shape ++ r.fmt

/-- Words of the narrow store an entry takes (R29). -/
def Entry.words : Entry → Nat
  | .uniform _ => 1
  | .affine _ _ => 2
  | .general _ => 0

/-- Do fields 24 to 31 name h0 to h7 (R263)? -/
def Warp.hNamed (w : Warp) : Bool := (w.trap || w.handler) && !w.hbank

/-- The register a v field names: 0 to 31 for v0 to v31, 32 to 39 for h0 to h7 (R263). -/
def Warp.regNo (w : Warp) (f : Nat) : Nat := if w.hNamed && 24 ≤ f then f + 8 else f

/-- The register of a number. -/
def Warp.reg (w : Warp) (n : Nat) : VReg :=
  if h : n < 32 then w.v[n] else if h' : n - 32 < 8 then w.h[n - 32] else VReg.zero

/-- The warp with register n replaced. -/
def Warp.setReg (w : Warp) (n : Nat) (r : VReg) : Warp :=
  if h : n < 32 then { w with v := w.v.set n r }
  else if h' : n - 32 < 8 then { w with h := w.h.set (n - 32) r } else w

/-- Lane i of the register that field f names. -/
def Warp.lane (w : Warp) (f : Nat) (i : Lane) : Word := (w.reg (w.regNo f)).entry.at i

/-- The declared v-register count (R28); in a handler warp v0 to v(f-1) alone (R270). -/
def State.declared (s : State) (w : Warp) : Nat :=
  let n := (s.grid (s.group w.group).grid).record.regs
  if w.handler then min n 28 else n

/-- The entry after a write of the lanes m by the result e: rule 5 of R21 and R25. -/
def mergeEntry (live m : Mask) (old e : Entry) : Entry :=
  let full := (live &&& ~~~m) == 0#32
  match e with
  | .uniform b =>
    if full then e
    else if old = .uniform b then old
    else .general (perLane (fun i => if Mask.has m i then b else old.at i))
  | .affine _ _ => if full then e else .general (perLane (fun i => if Mask.has m i then e.at i else old.at i))
  | .general _ => .general (perLane (fun i => if Mask.has m i then e.at i else old.at i))

/-- The register of a number, as the checkpoint of the warp's region holds it. -/
def Ckpt.reg (c : Ckpt) (n : Nat) : VReg :=
  if h : n < 32 then c.v[n] else if h' : n - 32 < 8 then c.h[n - 32] else VReg.zero

/-- The entries that a warp holds: those of its mapped registers, and those that its region keeps for registers renamed or
freed since its entry (R25, R27, R111). -/
def Warp.entries (w : Warp) : List Entry :=
  (w.v.toList ++ w.h.toList ++ w.ckpt.moved.map w.ckpt.reg).filterMap (fun r => if r.mapped then .some r.entry else .none)

/-- For each destination of a pending result, is the entry that its instruction allocated uniform (R25, R51)? -/
def Warp.awaited (w : Warp) : List Bool :=
  w.pend.flatMap (fun p => p.dests.map (fun d => p.uniform && (w.live &&& ~~~d.2.2) == 0#32))

/-- Narrow-store words that a warp holds (R29). -/
def Warp.words (w : Warp) : Nat := (w.entries.map Entry.words).sum + (w.awaited.filter (· == true)).length

/-- General entries that a warp holds (R29). -/
def Warp.generals (w : Warp) : Nat :=
  (w.entries.filter (fun e => e.words == 0)).length + (w.awaited.filter (· == false)).length

/-- The warps of the active set of a core (R30). -/
def State.activeSet (s : State) (die core : Nat) : List (Nat × Warp) :=
  s.warps.filter (fun (_, w) => w.fast && w.die == die && w.core == core)

/-- Free words of a core's narrow store (R29). -/
def State.narrowFree (s : State) (die core : Nat) : Nat :=
  1024 - ((s.activeSet die core).map (fun e => e.2.words)).sum

/-- General entries in use in a core's fast file (R29). -/
def State.generals (s : State) (die core : Nat) : Nat := ((s.activeSet die core).map (fun e => e.2.generals)).sum

/-- The entry as it is stored when the narrow store has n free words: without room it is general (R29). -/
def Entry.fit (n : Nat) (e : Entry) : Entry :=
  if e.words ≤ n then e else .general (perLane (fun i => e.at i))

/-- Register n has been renamed or freed since the region's entry (R27). -/
def Warp.renames (w : Warp) (n : Nat) : Warp :=
  if w.ckpt.moved.contains n then w else { w with ckpt := { w.ckpt with moved := n :: w.ckpt.moved } }

/-- A pending result no longer lands in the lanes m of register n: rule 3 of R51. -/
def Pend.overwritten (p : Pend) (n : Nat) (m : Mask) : Pend :=
  { p with dests := p.dests.map (fun d => if d.1 == n then (d.1, d.2.1, d.2.2 &&& ~~~m) else d) }

/-- Register n of warp k holds the result e in the lanes m, with format fmt (R21, R25). No lane: no write. -/
def State.storeReg (s : State) (k n : Nat) (m : Mask) (e : Entry) (fmt : BitVec 4) : State :=
  if m == 0#32 then s
  else
    let w := s.warp k
    let r : VReg := ⟨(mergeEntry w.live m (w.reg n).entry e).fit (s.narrowFree w.die w.core), fmt, true⟩
    let w := (w.setReg n r).renames n
    s.setWarp k (if (w.live &&& ~~~m) == 0#32 then { w with spoiled := w.spoiled.filter (· != n) } else w)

/-- Was a result made before its warp entered its local handler? Until rte its window stands still, it neither lands nor
interlocks, and its failure waits (R262, R283). -/
def Warp.frozen (w : Warp) (p : Pend) : Bool := w.trap && !w.handler && decide (p.id < w.entry)

/-- An instruction writes register n of warp k in the lanes m: the register takes e, and a result still pending for it no
longer lands there (rule 3 of R51). A handler's writes leave what is frozen to land, but in the lanes that have landed. -/
def State.writeReg (s : State) (k n : Nat) (m : Mask) (e : Entry) (fmt : BitVec 4) : State :=
  let s := (s.storeReg k n m e fmt).modWarp k (fun w => { w with pend := w.pend.map (fun p =>
    p.overwritten n (if w.frozen p then m &&& ~~~p.lanes else m)) })
  if m == 0#32 then s else { s with renamed := n :: s.renamed }

/-- The register that field f of the issuing warp names takes e in the lanes m. -/
def State.writeV (s : State) (f : Nat) (m : Mask) (e : Entry) (fmt : BitVec 4) : State :=
  s.writeReg s.cur (s.me.regNo f) m e fmt

/-- Register n is unmapped for the whole warp: it reads uniform zero raw (R24, R26, R111). -/
def Warp.freeReg (w : Warp) (n : Nat) : Warp :=
  { (w.setReg n VReg.zero).renames n with spoiled := w.spoiled.filter (· != n) }

/-- The four windows of a warp (R155). -/
def Warp.segs (w : Warp) : Segs := ⟨w.segSp, w.segCl, w.segStk, w.segFr⟩
/-- The warp under other windows. -/
def Warp.withSegs (w : Warp) (g : Segs) : Warp := { w with segSp := g.sp, segCl := g.cl, segStk := g.stk, segFr := g.fr }

/-! ### Windows (R51) -/

/-- The windows of the lanes m are closed (rule 4 of R51). -/
def Warp.closeWindows (w : Warp) (m : Mask) : Warp :=
  { w with pend := w.pend.map (fun p => if w.frozen p then p else { p with left := Lanes.where_ p.left m (fun _ => 0) }) }

/-- The windows of the results older than unit id are closed (R51, R278). -/
def Warp.closeOlder (w : Warp) (id : Nat) : Warp :=
  { w with pend := w.pend.map (fun p => if p.id < id && !w.frozen p then { p with left := allLanesOf 0 } else p) }

/-- The lanes m have gone past a non-hint instruction that made the results from unit id on, taken of them along a taken
branch (R51, R282): the windows of older results, and DONE for lanes whose access is unresolved. -/
def Warp.countWindows (w : Warp) (m taken : Mask) (id : Nat) : Warp :=
  { w with pend := w.pend.map (fun p =>
      if w.frozen p then p
      else if p.id < id then
        { p with
          left := Lanes.where_ p.left m (fun i => if Mask.has taken i then 0 else Lanes.at p.left i - 1)
          done := Lanes.where_ p.done m (fun i =>
            if Mask.has (p.logged ||| p.remote) i && 0 < Lanes.at p.left i && !Mask.has taken i then
              Lanes.at p.done i ||| BitVec.twoPow 15 (p.la - Lanes.at p.left i)
            else Lanes.at p.done i) }
      else { p with done := perLane (fun i => if Lanes.at w.logpc i == .some p.pc then Lanes.at w.done i else Lanes.at p.done i) }) }

/-- The lanes m have passed one more instruction of the window that their DONE bits describe (R283). -/
def Warp.passWindow (w : Warp) (m : Mask) : Warp :=
  let next (i : Lane) : Nat := Lanes.at w.logidx i + 1
  let out := maskOf (fun i => Mask.has m i && (Lanes.at w.logpc i).isSome && decide (Lanes.at w.logla i < next i))
  { w with
    logidx := Lanes.where_ w.logidx m next
    logpc := Lanes.where_ w.logpc out (fun _ => .none)
    done := Lanes.where_ w.done out (fun _ => 0#15) }

/-- The issue of the packet at hand is counted, in $issued and in the windows of its lanes that did not trap (R51, R115, R283);
once for a packet. A packet that reads $issued does not count itself (log 58). A handler warp's DONE bits are its rows'. -/
def State.account (s : State) : State :=
  if s.counted then s
  else
    let m := s.bundle &&& ~~~s.undone
    { s.modWarp s.cur (fun w =>
        let w := ({ w with issued := w.issued + 1 }.countWindows m s.taken s.base).passWindow (m &&& ~~~s.taken)
        if w.handler || s.taken == 0#32 then w
        else
          { w with
            logpc := Lanes.where_ w.logpc s.taken (fun _ => .none)
            done := Lanes.where_ w.done s.taken (fun _ => 0#15) }) with
      counted := true }

/-! ### Mask registers (R18) -/

/-- The mask register mN: m0 reads all ones. -/
def Warp.mask (w : Warp) (n : Nat) : Mask := if h : 0 < n ∧ n < 16 then w.m[n] else ~~~0#32

/-- The warp with mN written: a write to m0 is ignored. -/
def Warp.setMask (w : Warp) (n : Nat) (x : Mask) : Warp :=
  if h : 0 < n ∧ n < 16 then { w with m := w.m.set n x } else w

/-- The warp with the lanes m of mN taken from x. -/
def Warp.setMaskLanes (w : Warp) (n : Nat) (m x : Mask) : Warp :=
  w.setMask n ((w.mask n &&& ~~~m) ||| (x &&& m))

/-- The warp with the lanes m cleared in m1 to m15. -/
def Warp.clearMasks (w : Warp) (m : Mask) : Warp :=
  { w with m := Vector.ofFn (fun i : Fin 16 => w.m[i.val] &&& ~~~m) }

/-! ### Scalar registers (R18, R112) -/

/-- s-register n of a group: s0 reads zero. -/
def Group.sreg (g : Group) (n : Nat) : DWord := if h : 0 < n ∧ n < 128 then g.s[n] else 0#64

/-- The group with s-register n written: a write to s0 is ignored. -/
def Group.setSreg (g : Group) (n : Nat) (x : DWord) : Group :=
  if h : 0 < n ∧ n < 128 then { g with s := g.s.set n x } else g

/-- s-register n of the issuing group. -/
def State.sreg (s : State) (n : Nat) : DWord := s.myGroup.sreg n

/-- The state with s-register n of the issuing group written; a result still pending for it no longer lands there (rule 3
of R51). -/
def State.setSreg (s : State) (n : Nat) (x : DWord) : State :=
  let w := s.me
  let s := if w.pend.any (fun p => p.sdest == .some n) then
      s.setMe { w with pend := w.pend.map (fun p => if p.sdest == .some n then { p with sdest := .none } else p) }
    else s
  s.modGroup w.group (fun g => g.setSreg n x)

/-! ### Bundles and meeting points (R68 to R76) -/

/-- Is lane i held at its meeting point (R73)? In trap mode no hold counts (R75). -/
def Warp.held (w : Warp) (i : Lane) : Bool :=
  !w.trap && Lanes.at w.meetmask i != 0#4 && Lanes.at w.pc i == Lanes.at w.meet i
    && Mask.has (w.mask (Lanes.at w.meetmask i).toNat) i

/-- The lanes that are held: a waiting lane has not arrived yet. -/
def Warp.heldMask (w : Warp) : Mask :=
  maskOf (fun i => Mask.has w.live i && !Mask.has w.detached i && Lanes.at w.wait i == Wait.none && w.held i)

/-- The lanes in an architected wait other than a hold (R77). -/
def Warp.waitMask (w : Warp) : Mask := maskOf (fun i => Lanes.at w.wait i != Wait.none)

/-- The real lanes that can join a bundle (R16, R68). -/
def Warp.runnable (w : Warp) : Mask := w.live &&& ~~~w.detached &&& ~~~w.heldMask &&& ~~~w.waitMask

/-- The hints that lane i re-applies at its pc (R42). -/
def Warp.carried (w : Warp) (i : Lane) : Hints :=
  match Lanes.at w.kept i with
  | .some (a, h) => if a == Lanes.at w.pc i then h else Hints.empty
  | .none => Hints.empty

/-- The lanes of m by program counter, each set once, in the order of its lowest lane (R16, R68); lanes that re-apply
different hints at one pc issue apart (R42; log 52). -/
def groupLanes (w : Warp) (m : Mask) : List Mask :=
  (lanesOf m).foldl (fun acc i =>
    if acc.any (fun b => Mask.has b i) then acc
    else acc ++ [maskOf (fun j => Mask.has m j && Lanes.at w.pc j == Lanes.at w.pc i
      && w.carried j == w.carried i)]) []

/-- The cc at which a lane last issued, as its bundle kept it. -/
def Warp.lastIssue (w : Warp) (i : Lane) : Nat :=
  match w.bundles.find? (fun b => Mask.has b.lanes i) with
  | some b => b.last
  | none => w.since

/-- Re-formation (R68, R70): runnable lanes that share a PC join one bundle, and outside trap mode each helper lane takes
the PC of the lowest-numbered real lane of its quad that joins one, and joins that bundle. -/
def Warp.reform (w : Warp) (now : Nat) : Warp :=
  let run := w.runnable
  let lead (i : Lane) : Option Lane := lowestLane? (run &&& quadOf i)
  let helps (i : Lane) : Bool := !w.trap && Mask.has w.helpers i
  let pc := perLane (fun i =>
    if helps i then (match lead i with | some j => Lanes.at w.pc j | none => Lanes.at w.pc i) else Lanes.at w.pc i)
  let bundles := (groupLanes w run).map (fun b =>
    { lanes := b ||| maskOf (fun i => helps i && (match lead i with | some j => Mask.has b j | none => false))
      last := (lanesOf b).foldl (fun n i => max n (w.lastIssue i)) 0
      passed := (w.bundles.filter (fun x => (x.lanes &&& b) != 0#32)).foldl (fun n x => max n x.passed) 0
      stuck := false : Bundle })
  { w with pc := pc, bundles := bundles, formed := now }

/-- The lanes enrolled in mN that are live (R74). -/
def Warp.enrolled (w : Warp) (n : Nat) : Mask := w.mask n

/-- The lanes held through mN. -/
def Warp.heldThrough (w : Warp) (n : Nat) : Mask :=
  maskOf (fun i => Mask.has w.heldMask i && (Lanes.at w.meetmask i).toNat == n)

/-- The lanes m are released: their bits in mN and their meeting registers are cleared (R74). -/
def Warp.release (w : Warp) (n : Nat) (m : Mask) : Warp :=
  let w := w.setMaskLanes n m 0#32
  { w with
    meet := Lanes.where_ w.meet m (fun _ => 0#32)
    meetmask := Lanes.where_ w.meetmask m (fun _ => 0#4) }

/-- The loop that has run its 256 qualifying iterations (R78). -/
def Governor.due (g : Governor) : Option Loop := g.loops.find? (fun l => decide (256 ≤ l.count))

/-- Every iteration at hand changed by f, where it qualifies so far. -/
def Governor.inLoops (g : Governor) (f : Loop → Loop) : Governor :=
  { g with loops := g.loops.map (fun l => if l.qualifies then f l else l) }

/-- The iterations at hand do not qualify (R78). -/
def Governor.spoil (g : Governor) : Governor := g.inLoops (fun l => { l with qualifies := false })

/-- Lanes that reached $meet unenrolled pass it, and lose their meeting registers (R73). -/
def Warp.passMeet (w : Warp) : Warp :=
  let m := maskOf (fun i => !w.trap && Mask.has w.live i && !Mask.has w.detached i && Lanes.at w.wait i == Wait.none
    && Lanes.at w.meetmask i != 0#4 && Lanes.at w.pc i == Lanes.at w.meet i && !Mask.has (w.mask (Lanes.at w.meetmask i).toNat) i)
  { w with
    meet := Lanes.where_ w.meet m (fun _ => 0#32)
    meetmask := Lanes.where_ w.meetmask m (fun _ => 0#4) }

/-- The warp's spinning lanes wake and its count restarts at 0 (R79). -/
def Warp.wakeSpin (w : Warp) : Warp :=
  { w with
    gov := Governor.empty
    wait := Lanes.where_ w.wait w.live (fun i => if Lanes.at w.wait i == Wait.spin then Wait.none else Lanes.at w.wait i) : Warp }.passMeet

/-- Release of mN when every enrolled lane is held through it (R74), where a lane that is not live never counts (R70): the lanes released, and the warp after. -/
def Warp.settleMask (w : Warp) (n : Nat) : Mask × Warp :=
  let h := w.heldThrough n
  if h != 0#32 && (w.mask n &&& w.live &&& ~~~h) == 0#32 then (h, w.release n h) else (0#32, w)

/-- Every hold re-evaluated (R75): the lanes released by each mask, and the warp after. -/
def Warp.settle (w : Warp) : List Mask × Warp :=
  (List.range 16).foldl (fun (acc : List Mask × Warp) n =>
    if n = 0 then acc
    else
      let (h, w') := acc.2.settleMask n
      if h == 0#32 then acc else (acc.1 ++ [h], w')) ([], w.passMeet)

/-- The pc of the issuing bundle: that of its lowest lane. -/
def State.pc (s : State) : Word :=
  match lowestLane? s.bundle with
  | some i => Lanes.at s.me.pc i
  | none => 0#32

/-- The lanes m of the issuing warp step past the instruction (R66). -/
def State.advance (s : State) (m : Mask) : State :=
  let w := s.me
  s.setMe { w with pc := Lanes.where_ w.pc m (fun i => Lanes.at w.pc i + 4#32) }

/-- The lanes m of the issuing warp go to the given program counters by a taken branch, jump, call or return. -/
def State.jump (s : State) (m : Mask) (t : Lane → Word) : State :=
  let w := s.me
  { s.setMe { w with pc := Lanes.where_ w.pc m t } with taken := s.taken ||| m }

/-! ### Physical memory (R7, R159, R362) -/

/-- The byte at a physical address: the dirty L2 byte, else HBM's; an unlisted byte is 0 (log 4). -/
def Mem.byte (m : Mem) (a : Nat) : Byte := if mapHas m.l2 a then mapGet 0#8 m.l2 a else mapGet 0#8 m.hbm a

/-- The memory with a byte stored in L2. A byte equal to HBM's leaves no dirty entry. -/
def Mem.setByte (m : Mem) (a : Nat) (b : Byte) : Mem :=
  if mapGet 0#8 m.hbm a = b then { m with l2 := mapDel m.l2 a } else { m with l2 := mapPut m.l2 a b }

/-- n bytes from a, lowest address first. -/
def Mem.bytes (m : Mem) (a : Nat) : Nat → List Byte
  | 0 => []
  | n + 1 => m.byte a :: Mem.bytes m (a + 1) n

/-- The memory with bytes stored from a upward. -/
def Mem.setBytes (m : Mem) : Nat → List Byte → Mem
  | _, [] => m
  | a, b :: t => (m.setByte a b).setBytes (a + 1) t

/-- The number that little-endian bytes hold (R4). -/
def natOfBytes : List Byte → Nat
  | [] => 0
  | b :: t => b.toNat + 256 * natOfBytes t

/-- The n little-endian bytes of a number (R4). -/
def bytesOfNat : Nat → Nat → List Byte
  | 0, _ => []
  | n + 1, x => BitVec.ofNat 8 x :: bytesOfNat n (x / 256)

/-- The n-byte little-endian number at a. -/
def Mem.num (m : Mem) (a n : Nat) : Nat := natOfBytes (m.bytes a n)

/-- The memory with an n-byte little-endian number stored at a. -/
def Mem.setNum (m : Mem) (a n x : Nat) : Mem := m.setBytes a (bytesOfNat n x)

/-- The tag of the 64-byte line at pa becomes that of the write (R354). -/
def Mem.tagLine (m : Mem) (pa : Nat) (t : Option (Nat × Nat)) : Mem :=
  match t with
  | .none => if mapHas m.lines (pa / 64) then { m with lines := mapDel m.lines (pa / 64) } else m
  | .some t => { m with lines := mapPut m.lines (pa / 64) t }

/-- The memory with bytes stored under one tag from a upward (R354). -/
def Mem.setTagged (m : Mem) (t : Option (Nat × Nat)) (a : Nat) (b : List Byte) : Mem :=
  (List.range ((a + b.length - 1) / 64 - a / 64 + 1)).foldl (fun m j => m.tagLine (a + 64 * j) t) (m.setBytes a b)

/-- A byte of L2 written back to HBM (R159). -/
def Mem.cleanByte (m : Mem) (a : Nat) : Mem :=
  if mapHas m.l2 a then
    { m with hbm := mapSet 0#8 m.hbm a (mapGet 0#8 m.l2 a), l2 := mapDel m.l2 a }
  else m

/-- n bytes of L2 written back to HBM. -/
def Mem.clean (m : Mem) (a : Nat) : Nat → Mem
  | 0 => m
  | n + 1 => (m.cleanByte a).clean (a + 1) n

/-- n bytes of L2 dropped, dirty data included. -/
def Mem.drop (m : Mem) (a : Nat) : Nat → Mem
  | 0 => m
  | n + 1 => Mem.drop { m with l2 := mapDel m.l2 a } (a + 1) n

/-- The canonical form: keys rise, HBM lists no zero byte, and no dirty byte equals HBM's. -/
def Mem.wf (m : Mem) : Bool :=
  mapRising m.hbm && m.hbm.all (fun c => c.2 != 0#8) && mapRising m.l2
    && m.l2.all (fun c => mapGet 0#8 m.hbm c.1 != c.2)

/-- Is one of the 32-byte sectors that the n bytes from a touch poisoned (R362)? -/
def Mem.poisoned (m : Mem) (a n : Nat) : Bool :=
  mapGet false m.poison (a / 32) || (0 < n && mapGet false m.poison ((a + n - 1) / 32))

/-- The stack of the granule that holds local physical address a (R7). -/
def stackOf (a : Nat) : Nat :=
  let f (k : Nat) : Nat := a / 2 ^ k % 16
  f 16 ^^^ f 20 ^^^ f 24 ^^^ f 28 ^^^ f 32 ^^^ f 36
/-- The home die of a local physical address (R7). -/
def homeDie (a : Nat) : Nat := stackOf a / 4

/-! ### Translation (R341 to R357) -/

/-- A field of a 64-bit number. -/
def nbits (x lo len : Nat) : Nat := x / 2 ^ lo % 2 ^ len

/-- The outcome of a walk (R343, R348). -/
inductive Walk where
  | leaf (e : Nat) (size : Nat)
  | absent
  | malformed
deriving DecidableEq, Repr

/-- This device's number (R380, R398; log 6). -/
def ownDevice : Nat := Config.deviceNumber.toNat

/-- A leaf is well formed (R343): reserved bits, a PA aligned to its page, memory below 2^40, another device's peer leaf,
and PROT with a buffer exactly on memory. -/
def leafOk (e size : Nat) : Bool :=
  let ty := nbits e 61 2
  let pa := nbits e 16 31 * 65536
  nbits e 47 2 == 0 && pa % size == 0 && (ty != 1 || pa < 2 ^ 40) && (ty == 3 || nbits e 49 9 == 0)
    && (ty != 3 || nbits e 49 9 != ownDevice)
    && ((nbits e 58 1 == 1 && nbits e 0 16 != 0 && ty == 1) || (nbits e 58 1 == 0 && nbits e 0 16 == 0))

/-- The levels below one: the lowest VA bit indexed, the index width, and whether a leaf is allowed (R341). -/
def levels : List (Nat × Nat × Bool) := [(48, 9, false), (39, 9, false), (30, 9, true), (21, 9, true), (16, 5, true)]

/-- The walk from a table (R341, R342). -/
def walkFrom (m : Mem) (va : Nat) : List (Nat × Nat × Bool) → Nat → Walk
  | [], _ => .malformed
  | (lo, len, leafy) :: rest, table =>
    let e := m.num (table + 8 * nbits va lo len) 8
    if nbits e 63 1 == 0 then .absent
    else if nbits e 61 2 == 0 then
      let next := nbits e 8 39 * 256
      if rest.isEmpty || nbits e 47 14 != 0 || nbits e 0 8 != 0 || 2 ^ 40 ≤ next then .malformed
      else walkFrom m va rest next
    else if leafy && leafOk e (2 ^ lo) then .leaf e (2 ^ lo)
    else .malformed

/-- A walk of the root's tables; a root past local memory has none, and faults without service (R343). -/
def walk (m : Mem) (root va : Nat) : Walk := if 2 ^ 40 ≤ root then .malformed else walkFrom m (va % 2 ^ 57) levels root

/-- A cached entry that covers va (R344). -/
def tlbFind (l : List TlbEntry) (root : DWord) (world : BitVec 10) (va : Nat) : Option TlbEntry :=
  l.find? (fun e => e.root == root && e.world == world && e.page == va / e.size)

/-- The translation that a core of a die uses: its L1 TLB, the die's cache, then a walk (R344). -/
def State.lookup (s : State) (die core : Nat) (root : DWord) (world : BitVec 10) (va : Nat) : Walk :=
  match tlbFind (s.core (coreKey die core)).tlb root world va with
  | .some e => .leaf e.leaf.toNat e.size
  | .none =>
    match tlbFind (s.die die).tlb root world va with
    | .some e => .leaf e.leaf.toNat e.size
    | .none => walk s.mem root.toNat va

/-- Where a checked access goes (R342, R355); a buffer number other than 0 is a PROT page's. -/
inductive Place where
  | memory (pa buf : Nat)
  | io (a : Nat)
  | peer (dev pa : Nat)
  | trap (c : Cause)
  /-- sent for service, with its REASON (R348). -/
  | service (reason : Nat)
deriving DecidableEq, Repr

/-- May world w write a page with PROT 0 at va (R356)? -/
def World.egressOk (w : World) (va : Nat) : Bool :=
  w.egress.any (fun (b, n) => decide (b.toNat ≤ va) && decide (va < b.toNat + n.toNat))

/-- Who translates: the die and core whose caches it uses, the root, the world and the mode. -/
structure Ctx where
  die : Nat
  core : Nat
  root : DWord
  world : BitVec 10
  kern : Bool
deriving DecidableEq, Repr

/-- Check 5 of R165 (R355) of the byte at va on a path. -/
def State.place (s : State) (c : Ctx) (path : Nat) (write : Bool) (va : Nat) : Place :=
  match s.lookup c.die c.core c.root c.world va with
  | .absent => .service 1
  | .malformed => .trap .xlat
  | .leaf e size =>
    let ty := nbits e 61 2
    let pa := nbits e 16 31 * 65536 + va % size
    let prot := nbits e 58 1 == 1
    let v := (mapGet 0#32 s.versions (nbits e 0 16)).toNat
    if (path == 3) != (ty == 2) then .trap .prot
    else if nbits e 59 1 == 0 && !c.kern then .trap .prot
    else if write && nbits e 60 1 == 0 then .service 2
    else if prot && (c.world == 0#10 || nbits v 0 10 != c.world.toNat || nbits v 10 2 == 0
      || (write && nbits v 10 2 == 1)) then .trap .prot
    else if ty == 3 && c.world != 0#10 && !(s.world c.world).roster.any (fun d => d.toNat == nbits e 49 9) then .trap .peer
    else if write && c.world != 0#10 && !prot && !(s.world c.world).egressOk va then .trap .egress
    else if ty == 2 then .io pa
    else if ty == 3 then .peer (nbits e 49 9) pa
    else .memory pa (if prot then nbits e 0 16 else 0)

/-- The context of a warp (R319, R344). -/
def State.ctx (s : State) (w : Warp) : Ctx :=
  let g := s.grid (s.group w.group).grid
  ⟨w.die, w.core, g.record.ptroot, g.world, w.kern⟩

/-- The context of world 0's space; while SYSROOT holds 0 it has no tables (R311). -/
def State.sysCtx (s : State) : Ctx := ⟨4, 0, if s.front.sysroot == 0#64 then BitVec.allOnes 64 else s.front.sysroot, 0#10, true⟩

/-- The local physical address of a virtual address, where it is plain memory. -/
def State.physical (s : State) (c : Ctx) (write : Bool) (va : Nat) : Option Nat :=
  match s.place c 0 write va with
  | .memory pa _ => .some pa
  | _ => .none

/-! ### The fetch of a word (R41, R66, R318) -/

/-- A fetched word, or the cause that stands against it: SEGV past the image, XLAT without a mapping (log 20). -/
inductive Fetched where
  | word (w : Word)
  | fails (c : Cause)
deriving DecidableEq, Repr

/-- The word of a grid's image at a program counter, as a core reads it. -/
def State.fetch (s : State) (c : Ctx) (r : LaunchRec) (pc : Word) : Fetched :=
  if r.codelen.toNat ≤ pc.toNat then .fails .segv
  else
    match s.physical { c with kern := true } false ((r.code.toNat + pc.toNat) % 2 ^ 57) with
    | .some pa => .word (BitVec.ofNat 32 (s.mem.num pa 4))
    | .none => .fails .xlat

/-- Is a target a program counter of the image (R66)? ALIGN or SEGV otherwise. -/
def targetCheck (r : LaunchRec) (t : Word) : Option Cause :=
  if t.toNat % 4 != 0 then .some .align else if r.codelen.toNat ≤ t.toNat then .some .segv else .none

/-- Is the word a hint word (R42)? -/
def isHint (w : Word) : Bool := bits w 26 6 == 8

end Sys2Proof.Machine
end

