-- ==== Sys2Proof/Machine/Ops.lean ====
section
/-! DEFINITION. Taking a trap as one operation, takeTraps (R260 to R267), and the return from local trap mode (R264, R283),
with what they rest on: checkpoints, the save area (R288), device records (R365), detaching. -/

namespace Sys2Proof.Machine

/-! ### Regions and saved contexts (R278, R288) -/

/-- A region end: the checkpoint holds the mapping table, each lane's next PC, masks, meeting registers and waits (R278). -/
def Warp.checkpoint (w : Warp) : Warp := { w with ckpt := ⟨w.v, w.h, w.m, w.pc, w.meet, w.meetmask, w.wait, w.pend, w.issued, []⟩ }

/-- The bytes of a register in the save area: 4, 8 or 128 by shape (R288). -/
def saveReg (r : VReg) : List Byte :=
  match r.entry with
  | .uniform b => bytesOfNat 4 b.toNat
  | .affine b d => bytesOfNat 4 b.toNat ++ bytesOfNat 4 d.toNat
  | .general l => allLanes.flatMap (fun i => bytesOfNat 4 (Lanes.at l i).toNat)

/-- The tags of v0 to v31, register n at bits [6n+5:6n] (R288). -/
def Warp.tags (w : Warp) : Nat := (List.range 32).foldr (fun n acc => acc * 64 + (w.reg n).tag.toNat) 0

/-- The lanes held or waiting. -/
def Warp.heldOrWaiting (w : Warp) : Mask := w.heldMask ||| w.waitMask

/-- The save-area image of a warp with n declared registers (R288), with the device's check value c. -/
def Warp.saveBytes (w : Warp) (n : Nat) (c : Word) : List Byte :=
  allLanes.flatMap (fun i => bytesOfNat 4 (Lanes.at w.pc i).toNat)
    ++ allLanes.flatMap (fun i => bytesOfNat 4 (Lanes.at w.meet i).toNat)
    ++ bytesOfNat 16 (allLanes.foldr (fun i acc => acc * 16 + (Lanes.at w.meetmask i).toNat) 0)
    ++ (List.range 15).flatMap (fun k => bytesOfNat 4 (w.mask (k + 1)).toNat)
    ++ bytesOfNat 4 w.fcsr.toNat ++ bytesOfNat 8 w.issued.toNat ++ bytesOfNat 4 w.retired.toNat
    ++ bytesOfNat 4 w.detached.toNat ++ bytesOfNat 4 w.heldOrWaiting.toNat
    ++ bytesOfNat 4 (w.trap.toNat + 2 * w.hbank.toNat + 4 * w.step.toNat)
    ++ bytesOfNat 24 w.tags ++ bytesOfNat 4 c.toNat ++ List.replicate 636 0#8
    ++ (List.range n).flatMap (fun k => saveReg (w.reg k))
    ++ (if w.trap then (List.range 8).flatMap (fun k => saveReg (w.reg (32 + k))) else [])

/-- Where the save area of warp k lies in physical memory (log 7). -/
def saveAddr (k : Nat) : Nat := (Config.saveArea k).toNat % 2 ^ 40

/-- The tag that the save area of a warp of a protected world is written under: its slot key (R36, R266, R354). -/
def State.saveTag (s : State) (w : Warp) : Option (Nat × Nat) :=
  let world := (s.grid (s.group w.group).grid).world
  if world == 0#10 then .none else .some ((s.world world).key, 0)

/-- The image of warp k as the device writes it. -/
def State.saveImage (s : State) (k : Nat) : List Byte := (s.warp k).saveBytes (s.declared (s.warp k)) (Config.checkValue k)

/-- Warp k's context is written to its save area (R265, R288). -/
def State.saveWarp (s : State) (k : Nat) : State :=
  { s with mem := s.mem.setTagged (s.saveTag (s.warp k)) (saveAddr k) (s.saveImage k) }

/-- A queued operation as the save area of a stream holds it (R255; log 7). -/
def MatOp.image (o : MatOp) : List Byte :=
  let d (x : Desc) : List Byte := bytesOfNat 8 x.w0.toNat ++ bytesOfNat 8 x.w1.toNat
  let kind := match o.kind with
    | .mma => 0 | .sparse => 1 | .gathered => 2 | .f64 => 3 | .zero => 4 | .load => 5 | .store => 6
  bytesOfNat 4 kind ++ bytesOfNat 4 o.acc ++ bytesOfNat 4 o.step ++ bytesOfNat 4 (match o.request with | .some j => 64 + j | .none => 0)
    ++ d o.a ++ d o.b ++ d o.meta_

/-- The saved state of a stream, in the order of R255: its PC, k0 to k31, d0 to d31, the twelve accumulators, the queued operations
with a count for each array, and the Turnstile (log 7). -/
def Cluster.image (c : Cluster) : List Byte :=
  bytesOfNat 8 c.pc.toNat ++ c.k.toList.flatMap (fun x => bytesOfNat 8 x.toNat)
    ++ c.d.toList.flatMap (fun x => bytesOfNat 8 x.w0.toNat ++ bytesOfNat 8 x.w1.toNat)
    ++ (List.range 98304).flatMap (fun n => bytesOfNat 4 (mapGet 0#32 c.acc n).toNat)
    ++ (List.range 6).flatMap (fun a => bytesOfNat 8 (mapGet [] c.queues a).length ++ (mapGet [] c.queues a).flatMap MatOp.image)
    ++ c.turn.toList.flatMap (fun e => bytesOfNat 8 e.payload.toNat ++ bytesOfNat 8 e.word1.toNat ++ bytesOfNat 8 e.word2.toNat)

/-- Where the save area of a cluster's stream lies (log 7). -/
def streamAddr (cl : Nat) : Nat := saveAddr (2 ^ 32 + cl)

/-- The stream's state of a cluster is written to its save area (R224, R255). -/
def State.saveStream (s : State) (cl : Nat) : State :=
  let c := s.cluster cl
  let world := match c.gang with | .some (g, _) => (s.grid g).world | .none => 0#10
  { s with mem := s.mem.setTagged (if world == 0#10 then .none else .some ((s.world world).key, 0)) (streamAddr cl) c.image }

/-- A register read back from the save area by its tag: the register, and the bytes after it; no register for a reserved
shape or format (R24). -/
def loadReg (tag : Nat) (b : List Byte) : Option (VReg × List Byte) :=
  let fmt := BitVec.ofNat 4 tag
  if 13 ≤ tag % 16 then .none
  else
    match tag / 16 with
    | 0 => .some (⟨.uniform (BitVec.ofNat 32 (natOfBytes (b.take 4))), fmt, true⟩, b.drop 4)
    | 1 => .some (⟨.affine (BitVec.ofNat 32 (natOfBytes (b.take 4))) (BitVec.ofNat 32 (natOfBytes ((b.drop 4).take 4))),
        fmt, true⟩, b.drop 8)
    | 2 => .some (⟨.general (perLane (fun i => BitVec.ofNat 32 (natOfBytes ((b.drop (4 * i.val)).take 4)))), fmt, true⟩,
        b.drop 128)
    | _ => .none

/-- n registers from k on, read back in order by their tags. -/
def Warp.loadRegs (w : Warp) (tag : Nat → Nat) : Nat → Nat → List Byte → Option (Warp × List Byte)
  | 0, _, b => .some (w, b)
  | n + 1, k, b =>
    match loadReg (tag k) b with
    | .none => .none
    | .some (r, b') =>
      let r' := if (w.reg k).mapped then r else { r with mapped := r.entry != .uniform 0#32 }
      (w.setReg k r').loadRegs tag n (k + 1) b'

/-- Is a saved tag one of a shape and format that exist (R24)? -/
def tagOk (t : Nat) : Bool := t % 16 < 13 && t / 16 % 4 != 3

/-- A saved warp read back from its image b, h0 to h7 too in trap mode, by the tags that the device keeps of them; none where
its check value or a tag does not match (R288). -/
def Warp.restore (w : Warp) (n : Nat) (c : Word) (b : List Byte) : Option Warp :=
  let word (o : Nat) : Nat := natOfBytes ((b.drop o).take 4)
  let flags := word 356
  let tags := natOfBytes ((b.drop 360).take 24)
  if BitVec.ofNat 32 (word 384) != c || !(List.range 32).all (fun k => tagOk (tags / 64 ^ k % 64)) then .none
  else
    let w := { w with
      pc := perLane (fun i => BitVec.ofNat 32 (word (4 * i.val)))
      meet := perLane (fun i => BitVec.ofNat 32 (word (128 + 4 * i.val)))
      meetmask := perLane (fun i => BitVec.ofNat 4 (natOfBytes ((b.drop 256).take 16) / 16 ^ i.val))
      m := Vector.ofFn (fun k : Fin 16 => if k.val = 0 then 0#32 else BitVec.ofNat 32 (word (268 + 4 * k.val)))
      fcsr := BitVec.ofNat 32 (word 332)
      issued := BitVec.ofNat 64 (natOfBytes ((b.drop 336).take 8))
      retired := BitVec.ofNat 32 (word 344)
      detached := BitVec.ofNat 32 (word 348)
      trap := flags % 2 == 1
      hbank := flags / 2 % 2 == 1
      step := flags / 4 % 2 == 1 }
    match w.loadRegs (fun k => tags / 64 ^ k % 64) n 0 (b.drop 1024) with
    | .none => .none
    | .some (w', b') =>
      if w'.trap then (w'.loadRegs (fun k => (w.reg k).tag.toNat) 8 32 b').map (·.1) else .some w'

/-! ### Results that land (R51) -/

/-- The entry of 32 lane values of an operation whose sources are all uniform or not. -/
def entryOf (uniform : Bool) (f : Lane → Word) : Entry := if uniform then .uniform (f 0) else .general (perLane f)

/-- The entry of the lanes m of a load: uniform where their one value is (R21, R167). -/
def entryIn (m : Mask) (uniform : Bool) (f : Lane → Word) : Entry :=
  if uniform then .uniform (f ((lowestLane? m).getD 0)) else .general (perLane f)

/-- Is v the same in every lane of m, as is the address? -/
def sameIn {α : Type} [DecidableEq α] (m : Mask) (l : Lanes α) : Bool :=
  match lowestLane? m with
  | .some i => (lanesOf m).all (fun j => Lanes.at l j = Lanes.at l i)
  | .none => true

/-- The entry that destination values l of result p give the lanes m of a warp whose live lanes are given. -/
def Pend.entry (p : Pend) (live m : Mask) (l : Lanes Word) : Entry :=
  if p.acc.size == 0 then entryOf p.uniform (fun i => Lanes.at l i)
  else entryIn m (p.uniform && (live &&& ~~~m) == 0#32 && sameIn m l) (fun i => Lanes.at l i)

/-- The flags that lanes m of result p raise (R122). -/
def Pend.flagsIn (p : Pend) (m : Mask) : BitVec 5 :=
  match p.flags with
  | .some l => (lanesOf m).foldl (fun f i => f ||| Lanes.at l i) 0#5
  | .none => 0#5

/-- Lanes m of result p of warp k land: each destination takes its values in the lanes that no later write has renamed, and with
the last lanes in all of them together, so that a uniform result is one (R21); an s-register takes them once, $fcsr its flags. -/
def State.landOne (s : State) (k : Nat) (p : Pend) (m : Mask) : State :=
  if m == 0#32 then s
  else
    let live := (s.warp k).live
    let last := (p.lanes &&& ~~~m) == 0#32
    let s := s.modWarp k (fun w => { w with
      fcsr := w.fcsr ||| (p.flagsIn m).setWidth 32
      pend := w.pend.filterMap (fun q =>
        if q.id == p.id then (if last then .none else .some { q with lanes := q.lanes &&& ~~~m, sdest := .none })
        else .some q) })
    let s := (p.dests.zip p.vals).foldl (fun s d =>
      let at_ := d.1.2.2 &&& (if last then live else m)
      s.storeReg k d.1.1 at_ (p.entry live at_ d.2) d.1.2.1) s
    match p.sdest, p.vals with
    | .some n, lo :: hi :: _ => s.modGroup (s.warp k).group (fun g => g.setSreg n (Lanes.at hi 0 ++ Lanes.at lo 0))
    | _, _ => s

/-- The lanes of result p whose window has passed. -/
def Pend.pastWindow (p : Pend) : Mask := maskOf (fun i => Mask.has p.lanes i && Lanes.at p.left i == 0)

/-- Every result of warp k whose window has passed and whose values have come lands; in a saved warp it waits for the restore
(R288). -/
def State.landDue (s : State) (k : Nat) : State :=
  if (s.warp k).place == .running then
    (s.warp k).pend.foldl (fun s p => if (s.warp k).frozen p then s else s.landOne k p (p.pastWindow &&& p.got)) s
  else s

/-! ### Device records (R365, R366) -/

/-- The device records that wait to be filed. -/
def Ring.records (g : Ring) : List DevRec := g.waiting.filterMap (fun f => match f with | .record r => .some r | .call _ => .none)

/-- A device record waits to be filed on a die; codes 3 and 4 are dropped when its buffer of 64 is full (R366). -/
def State.post (s : State) (die : Nat) (r : DevRec) : State :=
  s.modRing die (fun g =>
    if (r.code == 3 || r.code == 4) && 64 ≤ g.records.length then g else { g with waiting := g.waiting ++ [.record r] })

/-- The 64-byte body of R265. -/
def trapRecord (grid : Nat) (world : BitVec 10) (die core slot : Nat) (fmask : Mask) (cause : Word) (taddr : DWord)
    (tpc : Word) (flags area : Nat) : List Byte :=
  bytesOfNat 4 grid ++ bytesOfNat 2 world.toNat ++ bytesOfNat 2 (die + 4 * core + 512 * slot) ++ bytesOfNat 4 fmask.toNat
    ++ bytesOfNat 4 cause.toNat ++ bytesOfNat 8 taddr.toNat ++ bytesOfNat 4 tpc.toNat ++ bytesOfNat 4 flags
    ++ bytesOfNat 8 area ++ List.replicate 24 0#8

/-! ### Taking a trap (R256 to R267) -/

/-- $cause of a trap (R258). -/
def Trap.word (t : Trap) : Word :=
  BitVec.ofNat 32 (t.sw.toNat * 2 ^ 20 + (if t.rb then 128 else 0) + t.cause.code.toNat)

/-- The trap-table entry of a cause in a warp's launch (R259). -/
def State.trapEntry (s : State) (w : Warp) (c : Cause) : Nat :=
  ((s.grid (s.group w.group).grid).record.traps.getD c.code.toNat 0#64).toNat

/-- How a trap is delivered (R259). -/
inductive Mode where
  | system | local_ | gather | ignore
deriving DecidableEq, Repr

/-- The mode of a cause in a warp: the table's, but system in trap mode and in a handler warp (R261), for QUOTA and for
FMTX (R256). -/
def State.mode (s : State) (w : Warp) (c : Cause) : Mode :=
  if w.trap || w.handler || c == .quota || c == .fmtx then .system
  else
    match s.trapEntry w c % 8 with
    | 1 => .local_
    | 2 => .gather
    | 3 => .ignore
    | _ => .system

/-- The handler address of a cause (R259). -/
def State.handler (s : State) (w : Warp) (c : Cause) : Word := BitVec.ofNat 32 (s.trapEntry w c / 2 ^ 32)

/-- The lanes of a list of traps. -/
def trapLanes (ts : List (Lane × Trap)) : Mask := ts.foldr (fun t m => laneBit t.1 ||| m) 0#32

/-- The trap of lane i. -/
def trapOf (ts : List (Lane × Trap)) (i : Lane) : Option Trap := (ts.find? (fun t => t.1 == i)).map (·.2)

/-- Is one of the core's 16 reserve slots free (R262)? -/
def State.reserveFree (s : State) (die core : Nat) : Bool :=
  decide ((s.warps.filter (fun (_, w) => w.trap && !w.handler && w.die == die && w.core == core
    && (w.place == .running || w.place == .system))).length < 16)

/-- Local entry at a handler (R262): every unretired, undetached real lane enters; waits are suspended. -/
def Warp.enterLocal (w : Warp) (ts : List (Lane × Trap)) (handler : Word) : Warp :=
  let inn := w.live &&& ~~~w.detached
  { w with
    tpc := Lanes.where_ w.tpc inn (fun i => Lanes.at w.pc i)
    cause := perLane (fun i => match trapOf ts i with | .some t => t.word | .none => 0#32)
    taddr := perLane (fun i => match trapOf ts i with | .some t => t.addr | .none => 0#64)
    fmask := trapLanes ts
    h := zeroH
    hbank := false
    trap := true
    suspended := w.wait
    outer := perLane (fun i => (Lanes.at w.done i, Lanes.at w.logpc i, Lanes.at w.logidx i, Lanes.at w.logla i))
    outerKept := w.kept
    kept := Lanes.where_ w.kept inn (fun _ => .none)
    done := Lanes.where_ w.done inn (fun _ => 0#15)
    logpc := Lanes.where_ w.logpc inn (fun _ => .none)
    wait := Lanes.where_ w.wait inn (fun _ => .none)
    entered := inn
    pc := Lanes.where_ w.pc inn (fun _ => handler)
    waiting := []
    deferred := [] }

/-- The traps of ts are delivered: the next issue of a breakpoint's, a watch's or a race's instruction by its lane is not
matched (R201, R275, R276). -/
def Warp.marked (w : Warp) (ts : List (Lane × Trap)) : Warp :=
  let put (c : Cause) (l : Lanes (Option Word)) : Lanes (Option Word) :=
    Lanes.where_ l (trapLanes (ts.filter (fun t => t.2.mark && t.2.cause == c))) (fun i => .some (Lanes.at w.pc i))
  if ts.any (fun t => t.2.mark) then
    { w with skipBp := put .bkpt w.skipBp, skipWatch := put .watch w.skipWatch, skipRace := put .race w.skipRace }
  else w

/-- System delivery (R265): the warp is saved, a code-0 record is posted on its die, and the warp waits. rte: the traps follow
the return from a local handler, and are nested by R261 (R264). -/
def State.systemDeliver (s : State) (k : Nat) (ts : List (Lane × Trap)) (rte : Bool := false) : State :=
  let w := s.warp k
  let g := s.group w.group
  let low := ts.foldl (fun (a : Option (Lane × Trap)) t =>
    match a with
    | .none => .some t
    | .some u => if t.1 < u.1 then .some t else a) .none
  let (cause, addr, tpc) : Word × DWord × Word :=
    match low with
    | .some (i, t) => (t.word, t.addr, Lanes.at w.pc i)
    | .none => (0#32, 0#64, 0#32)
  let nested := if w.trap || w.handler || rte then 1 else 0
  let w := { (w.marked ts) with
    fmask := if w.trap || w.handler then w.fmask else trapLanes ts
    place := .system
    sysmask := trapLanes ts
    waiting := []
    deferred := [] }
  let s := s.setWarp k w.checkpoint
  let s := s.saveWarp k
  s.post w.die
    { code := 0
      body := trapRecord g.grid (s.grid g.grid).world w.die w.core w.slot (trapLanes ts) cause addr tpc nested
        (saveAddr k)
      warp := .some k
      cluster := .none }

/-- Steps 3 and 4 of R260 for traps that are not gathered: system delivery of the lanes whose cause has mode system, else
local entry at one handler, when a reserve slot is free. -/
def State.deliver (s : State) (k : Nat) (ts : List (Lane × Trap)) : State :=
  let w := s.warp k
  let sys := ts.filter (fun t => s.mode w t.2.cause == .system)
  match ts with
  | [] => s
  | _ :: _ =>
    if !sys.isEmpty then s.systemDeliver k sys
    else
      match lowestLane? (trapLanes ts) with
      | .none => s
      | .some i =>
        let c := match trapOf ts i with | .some t => t.cause | .none => .none
        let h := s.handler w c
        if s.reserveFree w.die w.core then
          let ts := ts.filter (fun t => s.handler w t.2.cause == h)
          let w := { (w.marked ts).enterLocal ts h with entry := s.unit }
          s.setWarp k (w.checkpoint.reform s.cc)
        else s.setWarp k { w with waiting := ts }

/-- Traps of warp k are delivered, with those that waited (R260): not while it is saved, nor before the older stores of its
region have passed their checks (R278). The delivery ends the region, and with it the windows of its results (R51); gather-mode
lanes detach and wait to be filed (R267). -/
def State.deliverAll (s : State) (k : Nat) (ts : List (Lane × Trap)) : State :=
  let w := s.warp k
  let ts := w.waiting ++ ts
  match ts with
  | [] => s
  | _ :: _ =>
    if w.place != .running || !w.late.isEmpty then s.setWarp k { w with waiting := ts }
    else
      let gat := ts.filter (fun t => s.mode w t.2.cause == .gather)
      let s := (s.setWarp k (w.closeWindows w.live)).landDue k
      let w := { ((s.warp k).marked gat) with
        waiting := []
        detached := w.detached ||| trapLanes gat
        filing := w.filing ++ gat }
      let w := if gat.isEmpty then w else w.checkpoint
      (s.setWarp k w).deliver k (ts.filter (fun t => s.mode w t.2.cause != .gather))

/-- Traps raised in lanes of warp k by the packets whose hints are h: the hints are kept with the trapping lanes (R42). -/
def State.takeTraps (s : State) (k : Nat) (h : Lane → Hints) (ts : List (Lane × Trap)) : State :=
  match ts with
  | [] => s
  | _ :: _ =>
    (s.modWarp k (fun w => { w with
      kept := Lanes.where_ w.kept (trapLanes ts) (fun i => .some (Lanes.at w.pc i, h i)) })).deliverAll k ts

/-- A trap of a cause with no address. -/
def Trap.plain (c : Cause) : Trap := ⟨c, 0#64, 0#12, false, false⟩
/-- A trap of a cause at an address (R258 $taddr). -/
def Trap.atAddr (c : Cause) (a : DWord) : Trap := ⟨c, a, 0#12, false, false⟩

/-! ### Resuming lanes (R42, R264, R283) -/

/-- The position of pc q in the window of the la non-hint instructions after pc p, in fall-through order (R283). -/
def State.windowPos (s : State) (c : Ctx) (r : LaunchRec) (q : Word) : Nat → Nat → Word → Option Nat
  | 0, _, _ => .none
  | fuel + 1, j, p =>
    if p == q then .some j
    else
      match s.fetch c r p with
      | .word x => s.windowPos c r q fuel (if isHint x then j else j + 1) (p + 4#32)
      | .fails _ => .none

/-- The position of pc q in the window of the instruction at p of warp k. -/
def State.windowAt (s : State) (k : Nat) (p q : Word) : Option Nat :=
  let w := s.warp k
  let r := (s.grid (s.group w.group).grid).record
  s.windowPos (s.ctx w) r q (r.codelen.toNat / 4 + 1) 0 (p + 4#32)

/-- Lane i of warp k resumes at its pc: inside the window of its logged instruction it keeps DONE and its place there, and
elsewhere DONE is cleared (R283); hints kept for another address are dropped (R42), and so is what the next issue of
another address would not match (R201, R275, R276). -/
def State.resumeLane (s : State) (k : Nat) (i : Lane) : State :=
  let w := s.warp k
  let q := Lanes.at w.pc i
  let pos : Option Nat :=
    match Lanes.at w.logpc i with
    | .none => .none
    | .some p => if p == q then .some 0 else (s.windowAt k p q).bind
        (fun j => if j < Lanes.at w.logla i then .some (j + 1) else .none)
  let kept := match Lanes.at w.kept i with
    | .some (a, h) => if a == q then .some (a, h) else .none
    | .none => .none
  let keep (l : Lanes (Option Word)) : Lanes (Option Word) :=
    match Lanes.at l i with
    | .some a => if a == q then l else Lanes.put l i .none
    | .none => l
  s.setWarp k { w with
    kept := Lanes.put w.kept i kept
    skipBp := keep w.skipBp
    skipWatch := keep w.skipWatch
    skipRace := keep w.skipRace
    out := w.out &&& ~~~laneBit i
    done := match pos with | .some _ => w.done | .none => Lanes.put w.done i 0#15
    logpc := match pos with | .some _ => w.logpc | .none => Lanes.put w.logpc i .none
    logidx := match pos with | .some j => Lanes.put w.logidx i j | .none => Lanes.put w.logidx i 0 }

/-- The lanes m of warp k resume at their pcs. -/
def State.resumeLanes (s : State) (k : Nat) (m : Mask) : State := (lanesOf m).foldl (fun s i => s.resumeLane k i) s

/-- The return of a local handler (R264): when every handler lane is held at rte, h0 to h7 and the slot are freed, the lanes
go to their $tpc, suspended waits resume, and a $tpc that fails R66 traps in system mode. -/
def State.finishRte (s : State) (k : Nat) : State :=
  let w := s.warp k
  let inn := w.entered &&& w.live &&& ~~~w.detached
  if w.trap && (lanesOf inn).all (fun i => Lanes.at w.wait i == Wait.rte) then
    let r := (s.grid (s.group w.group).grid).record
    let w' := { w with
      trap := false
      h := zeroH
      pc := Lanes.where_ w.pc inn (fun i => Lanes.at w.tpc i)
      wait := Lanes.where_ w.wait inn (fun i => Lanes.at w.suspended i)
      suspended := allLanesOf .none
      done := Lanes.where_ w.done inn (fun i => (Lanes.at w.outer i).1)
      logpc := Lanes.where_ w.logpc inn (fun i => (Lanes.at w.outer i).2.1)
      logidx := Lanes.where_ w.logidx inn (fun i => (Lanes.at w.outer i).2.2.1)
      logla := Lanes.where_ w.logla inn (fun i => (Lanes.at w.outer i).2.2.2)
      kept := Lanes.where_ w.kept inn (fun i => Lanes.at w.outerKept i)
      outerKept := allLanesOf .none
      entered := 0#32
      entry := 0
      fmask := 0#32
      cause := allLanesOf 0#32
      taddr := allLanesOf 0#64 }
    let s := (s.setWarp k w').resumeLanes k inn
    let bad := (lanesOf inn).filterMap (fun i =>
      match targetCheck r (Lanes.at w'.pc i) with
      | .some c => .some (i, Trap.plain c)
      | .none => .none)
    let s := s.modWarp k (fun w => (w.settle.2).checkpoint.reform s.cc)
    if bad.isEmpty then s else s.systemDeliver k bad true
  else s

end Sys2Proof.Machine
end

