-- ==== Sys2Proof/Machine/Operands.lean ====
section
/-! DEFINITION. Every operand form of an instruction word (R39 to R58): predicates, source fields and their permutation,
64-bit operands, immediates, hints and their misuse, and the decode checks of R43 in one place (issue). -/

namespace Sys2Proof.Machine

/-! ### What an instruction uses, and the checks of R43 -/

/-- What the decode checks need to know of an instruction: its v fields, s-registers, own pred field, which hints it takes
(R49 to R52), whether it is privileged, its source formats (R23), and its entry's own ILLEGAL conditions. -/
structure Use where
  v : List Nat := []
  s : List Nat := []
  pred : BitVec 2 := 0#2
  predicated : Bool := false
  selects : Bool := false
  k : Bool := false
  imm : Option Bool := .none
  off : Bool := false
  cache : Bool := false
  scope : Bool := false
  format : BitVec 4 → Bool := fun _ => false
  la : Bool := false
  priv : Bool := false
  bad : Bool := false
  fmts : List (Nat × BitVec 4) := []

/-- Does a perm code take a parameter from hint.k (R47)? -/
def Perm.param : Perm → Bool
  | .broadcast | .rotate | .butterfly | .quadBroadcast | .quadButterfly => true
  | _ => false

/-- The v field of a 32-bit source. -/
def srcV (a : Src) : List Nat := if a.perm == Perm.scalar then [] else [a.reg.toNat]
/-- The v fields of a 64-bit source. -/
def srcV64 (a : Src) : List Nat := if a.perm == Perm.scalar then [] else [a.reg.toNat, a.reg.toNat + 1]
/-- The s-register of a source. -/
def srcS (a : Src) : List Nat := if a.perm == Perm.scalar then [a.reg.toNat] else []
/-- The v fields of a destination pair given by its upper four bits. -/
def pairV (d : BitVec 4) : List Nat := [2 * d.toNat, 2 * d.toNat + 1]
/-- The format a source field is checked for; an s-register carries none (R23). -/
def srcFmt (a : Src) (f : BitVec 4) : List (Nat × BitVec 4) := if a.perm == Perm.scalar then [] else [(a.reg.toNat, f)]
/-- The formats f64-low and f64-high that a 64-bit source is checked for (R22, R23). -/
def srcFmt64 (a : Src) : List (Nat × BitVec 4) :=
  if a.perm == Perm.scalar then [] else [(a.reg.toNat, 8#4), (a.reg.toNat + 1, 9#4)]

/-- The predicate of the packet: mask index and inversion (R45, R49). A hint.pred that the instruction does not take masks no
lane of its ILLEGAL (R50). -/
def State.predicate (s : State) (u : Use) : Nat × Bool :=
  match s.hints.pred with
  | .some (n, m) => if u.predicated && u.pred == 0#2 then (m.toNat, n == 1#1) else (u.pred.toNat, false)
  | .none => (u.pred.toNat, false)

/-- The mask that the predicate selects. -/
def State.predMask (s : State) (u : Use) : Mask :=
  let (m, inv) := s.predicate u
  if inv then ~~~(s.me.mask m) else s.me.mask m

/-- The active lanes: those of the bundle whose predicate is 1, helpers included (R63). A selector is no predicate (R100). -/
def State.active (s : State) (u : Use) : Mask := if u.selects then s.bundle else s.bundle &&& s.predMask u

/-- Is a hint of the packet misused (R49 to R54)? -/
def hintMisuse (h : Hints) (u : Use) : Bool :=
  h.bad
    || (h.k.isSome && !u.k)
    || (match h.imm with | .some _ => u.imm != .some true | .none => false)
    || (h.pred.isSome && !(u.predicated && u.pred == 0#2))
    || (h.off.isSome && !u.off)
    || (match h.cache with
        | .some (sc, f, pol) => !u.cache || (sc != 0#3 && !u.scope) || (f != 0#4 && !u.format f) || 5 ≤ pol.toNat
        | .none => false)
    || (match h.sched with
        | .some (ctl, la) => ctl == 3#2 || (la != 0#4 && !u.la)
        | .none => false)

/-- A v field names a register at or above the declared count; h0 to h7 are exempt (R28, R65, R263). -/
def State.vBeyond (s : State) (f : Nat) : Bool := !(s.me.hNamed && 24 ≤ f && f < 32) && s.declared s.me ≤ f

/-- An s-register at or above .scalars (R65). -/
def State.sBeyond (s : State) (n : Nat) : Bool := n != 0 && s.myGrid.record.scalars ≤ n

/-- A source register's format is neither the instruction's own nor raw (R23). -/
def State.fmtWrong (s : State) (x : Nat × BitVec 4) : Bool :=
  let f := (s.me.reg (s.me.regNo x.1)).fmt
  f != 0#4 && f != x.2

/-- The first failing check of 3 to 6 of R43 for the whole bundle, and then a poisoned register entry that it reads (R363). -/
def State.decodeCheck (s : State) (u : Use) : Option Cause :=
  if hintMisuse s.hints u || u.bad then .some .illegal
  else if u.priv && !s.me.kern then .some .priv
  else if u.v.any s.vBeyond || u.s.any s.sBeyond then .some .regbound
  else if u.fmts.any s.fmtWrong then .some .fmt
  else if s.reads.any (s.me.spoiled.contains ·) then .some .poison
  else .none

/-- What a meaning does once its checks pass: the state, the lanes that trap, the lanes it sent elsewhere than to the next
word, and whether the packet must wait where it is. -/
structure Eff where
  st : State
  traps : List (Lane × Trap) := []
  jumped : Mask := 0#32
  stall : Bool := false

/-- The packet waits: its lanes stand where it began, and it has not issued (R42, R115). -/
def State.stall (s : State) : State :=
  let w := s.me
  let keep := if s.startHints == Hints.empty then .none else .some (s.start, s.startHints)
  { s.setMe { w with
      pc := Lanes.where_ w.pc s.bundle (fun _ => s.start)
      kept := Lanes.where_ w.kept s.bundle (fun _ => keep)
      issued := s.startIssued } with
    stalled := true }

/-- Every lane of m raises the trap t. -/
def trapAll (m : Mask) (t : Trap) : List (Lane × Trap) := (lanesOf m).map (fun i => (i, t))

/-- The lanes of the issuing warp that may trap: its live ones (R15). -/
def State.real (s : State) (m : Mask) : Mask := m &&& s.me.live

/-- A control stream stopped by a trap: its instruction has no effect, its cluster stops with the hints of its packet, its state is
written to its save area, and the record of R224 is sent. -/
def State.controlFault (s : State) (cl : Nat) (c : Cause) (addr : DWord) : State :=
  let k := s.cluster cl
  let grid := match k.gang with | .some (g, _) => g | .none => 0
  let rec_ := trapRecord grid (s.grid grid).world (cl / 32) (cl % 32) 0 0#32 (Trap.plain c).word addr k.pc 4
    (streamAddr cl)
  ((s.saveStream cl).modCluster cl (fun k => { k with stopped := true })).post (cl / 32)
    { code := 0, body := rec_, warp := .none, cluster := .some cl }

/-- The lanes of a result whose failures are still to be raised. -/
def Pend.failing (p : Pend) : Mask := p.failed.foldl (fun m x => m ||| (if p.acc.scalar then p.lanes else laneBit x.1)) 0#32

/-- The lanes of a warp with an operand-log entry that is not resolved (R281). -/
def Warp.loggedLanes (w : Warp) : Mask := w.pend.foldl (fun m p => m ||| p.logged ||| p.failing) 0#32

/-- Traps raised in lanes of warp k, whose packets' hints are h: those of a lane with an older access unresolved wait for it
(R257, R282). -/
def State.raiseIn (s : State) (k : Nat) (h : Lane → Hints) (ts : List (Lane × Trap)) : State :=
  let l := (s.warp k).loggedLanes
  let held := ts.filter (fun t => Mask.has l t.1)
  let s := if held.isEmpty then s
    else s.modWarp k (fun w => { w with
      deferred := w.deferred ++ held
      kept := Lanes.where_ w.kept (trapLanes held) (fun i => .some (Lanes.at w.pc i, h i)) })
  s.takeTraps k h (ts.filter (fun t => !Mask.has l t.1))

/-- The packet at hand traps: its issue is counted, and the traps are raised. -/
def State.raise (s : State) (ts : List (Lane × Trap)) : State :=
  match ts with
  | [] => s
  | _ :: _ => ({ s with undone := s.undone ||| trapLanes ts }.account).raiseIn s.cur (fun _ => s.hints) ts

/-- The state in which an instruction acts: its active lanes noted, nothing counted yet. -/
def State.acting (s : State) (u : Use) : State :=
  { s with acted := s.active u, undone := 0#32, counted := false, base := s.unit }

/-- One vector instruction: on a control core it is ILLEGAL (R57); the decode checks of R43 trap in the active real lanes;
otherwise the body acts, trapping lanes keep their program counter and the other lanes step past the word (R42, R43, R260). -/
def issue (u : Use) (s : State) (body : State → Mask → Eff) : State :=
  match s.issuer with
  | .control cl => s.controlFault cl .illegal 0#64
  | .vector =>
    let s := s.acting u
    match s.decodeCheck u with
    | .some c =>
      let hit := s.real (s.active u)
      (s.advance (s.bundle &&& ~~~hit)).raise (trapAll hit (Trap.plain c))
    | .none =>
      let e := body s (s.active u)
      if e.stall then e.st.stall
      else
        (e.st.advance (s.bundle &&& ~~~e.jumped &&& ~~~trapLanes e.traps)).raise e.traps

/-! ### Architected waits (R77) -/

/-- Lane i of warp k enters an architected wait with the hints of its packet kept for its instruction at pc (R42, R77). -/
def State.enterWait (s : State) (k : Nat) (i : Lane) (pc : Word) (h : Hints) (x : Wait) : State :=
  s.modWarp k (fun w => { w with wait := Lanes.put w.wait i x, kept := Lanes.put w.kept i (.some (pc, h)) })

/-- The wait of lane i is over, for its checkpoint too (R279). -/
def Warp.endWait (w : Warp) (i : Lane) : Warp :=
  { w with wait := Lanes.put w.wait i .none, ckpt := { w.ckpt with wait := Lanes.put w.ckpt.wait i .none } }

/-- Lane i of warp k leaves its wait; at its meeting point it is held or passes it (R73). -/
def State.leaveWait (s : State) (k : Nat) (i : Lane) : State :=
  s.modWarp k (fun w => { w.endWait i with kept := Lanes.put w.kept i .none }.passMeet)

/-- The hints kept with lane i. -/
def Warp.keptHints (w : Warp) (i : Lane) : Hints :=
  match Lanes.at w.kept i with
  | .some (_, h) => h
  | .none => Hints.empty

/-! ### Sources (R47, R48) -/

/-- The parameter of a source: from hint.k, or the default of R47. -/
def State.kOf (s : State) (second : Bool) (p : Perm) : Nat :=
  match s.hints.k with
  | .some (b, a) => if second then b.toNat else a.toNat
  | .none =>
    match p with
    | .rotate | .butterfly | .quadButterfly => 1
    | _ => 0

/-- The lane whose value lane i reads under a perm code with parameter k (R47). -/
def permLane (p : Perm) (k : Nat) (i : Lane) : Lane :=
  match p with
  | .direct => i
  | .broadcast => Fin.ofNat 32 k
  | .rotate => Fin.ofNat 32 (i.val + 32 - k % 32)
  | .butterfly => Fin.ofNat 32 (i.val ^^^ k)
  | .mirror => Fin.ofNat 32 (31 - i.val)
  | .quadBroadcast => Fin.ofNat 32 (i.val / 4 * 4 + k % 4)
  | .quadButterfly => Fin.ofNat 32 (i.val ^^^ (k % 4))
  | .scalar => i

/-- An entry read through a perm code (R21, R48): a broadcast is uniform, any other code keeps a uniform entry and makes
another general. -/
def Entry.permute (e : Entry) (p : Perm) (k : Nat) : Entry :=
  match p with
  | .direct => e
  | .broadcast => .uniform (e.at (permLane p k 0))
  | _ =>
    match e with
    | .uniform b => .uniform b
    | e => .general (perLane (fun i => e.at (permLane p k i)))

/-- The 32-bit source that a field names, for field A, or B when second (R47, R48). -/
def State.src (s : State) (second : Bool) (a : Src) : Entry :=
  match a.perm with
  | .scalar => .uniform ((s.sreg a.reg.toNat).setWidth 32)
  | p => ((s.me.reg (s.me.regNo a.reg.toNat)).entry).permute p (s.kOf second p)

/-- Source A. -/
def State.srcA (s : State) (a : Src) : Entry := s.src false a
/-- Source B. -/
def State.srcB (s : State) (b : Src) : Entry := s.src true b

/-- The format of a source: that of its register, raw for an s-register. -/
def State.srcFormat (s : State) (a : Src) : BitVec 4 :=
  if a.perm == Perm.scalar then 0#4 else (s.me.reg (s.me.regNo a.reg.toNat)).fmt

/-- A 64-bit source: its lanes, and whether it is uniform. -/
structure Wide where
  lanes : Lanes DWord
  uniform : Bool

/-- The 64-bit source of a field: an s-register, or both halves of a pair from one lane (R48). -/
def State.src64 (s : State) (second : Bool) (a : Src) : Wide :=
  match a.perm with
  | .scalar => ⟨allLanesOf (s.sreg a.reg.toNat), true⟩
  | p =>
    let lo := ((s.me.reg (s.me.regNo a.reg.toNat)).entry).permute p (s.kOf second p)
    let hi := ((s.me.reg (s.me.regNo (a.reg.toNat + 1))).entry).permute p (s.kOf second p)
    ⟨perLane (fun i => hi.at i ++ lo.at i), lo.shape == 0#2 && hi.shape == 0#2⟩

/-- A 32-bit entry as a 64-bit source of a form that mixes widths: zero-extended. -/
def Entry.widen (e : Entry) : Wide := ⟨perLane (fun i => (e.at i).setWidth 64), e.shape == 0#2⟩

/-! ### Results (R21, R95) -/

/-- Rules 1 and 4 of R21 for one source. -/
def Entry.map1 (f : Word → Word) (a : Entry) : Entry := entryOf (a.shape == 0#2) (fun i => f (a.at i))
/-- Rules 1 and 4 of R21 for two sources. -/
def Entry.map2 (f : Word → Word → Word) (a b : Entry) : Entry :=
  entryOf (a.shape == 0#2 && b.shape == 0#2) (fun i => f (a.at i) (b.at i))
/-- Rules 1 and 4 of R21 for three sources. -/
def Entry.map3 (f : Word → Word → Word → Word) (a b c : Entry) : Entry :=
  entryOf (a.shape == 0#2 && b.shape == 0#2 && c.shape == 0#2) (fun i => f (a.at i) (b.at i) (c.at i))

/-- A sum: affine with uniform keeps the stride (rule 2 of R21). -/
def Entry.add : Entry → Entry → Entry
  | .affine b d, .uniform u => .affine (b + u) d
  | .uniform u, .affine b d => .affine (u + b) d
  | a, b => Entry.map2 (· + ·) a b
/-- A difference: uniform minus affine negates the stride (rule 2 of R21). -/
def Entry.sub : Entry → Entry → Entry
  | .affine b d, .uniform u => .affine (b - u) d
  | .uniform u, .affine b d => .affine (u - b) (0#32 - d)
  | a, b => Entry.map2 (· - ·) a b
/-- A product: affine times uniform multiplies base and stride (rule 3 of R21). -/
def Entry.mul : Entry → Entry → Entry
  | .affine b d, .uniform u => .affine (b * u) (d * u)
  | .uniform u, .affine b d => .affine (u * b) (u * d)
  | a, b => Entry.map2 (· * ·) a b
/-- A left shift: affine by a uniform count shifts base and stride (rule 3 of R21). -/
def Entry.shl : Entry → Entry → Entry
  | .affine b d, .uniform n => .affine (b <<< (n.toNat % 32)) (d <<< (n.toNat % 32))
  | a, b => Entry.map2 (fun x n => x <<< (n.toNat % 32)) a b

/-- A product and a sum, each by its rule of R21 (R99). -/
def Entry.mad (a b c : Entry) : Entry := (a.mul b).add c

/-- The pair that fields f and f + 1 name takes 64-bit values: one shape for both halves, uniform only for a full write
(R95), with their formats. Where the narrow store has one free word alone, R29 holds for each half by itself: the low half stays
uniform and the high half is general (log 53). -/
def State.writePair (s : State) (f : Nat) (m : Mask) (x : Wide) (lo hi : BitVec 4) : State :=
  let full := (s.me.live &&& ~~~m) == 0#32
  let e (g : DWord → Word) : Entry := entryOf (x.uniform && full) (fun i => g (Lanes.at x.lanes i))
  (s.writeV f m (e (fun v => v.setWidth 32)) lo).writeV (f + 1) m (e (fun v => (v >>> 32).setWidth 32)) hi

/-- The state where helper lanes of m write zero in register field f: general, with a format (R15). -/
def State.helperZero (s : State) (f : Nat) (m : Mask) (fmt : BitVec 4) : State :=
  s.writeV f m (.general (allLanesOf 0#32)) fmt

/-! ### Immediates (R46) -/

/-- An immediate of n bits: sign-extended, or with hint.imm payload and the field's low ten bits. -/
def State.immediate (s : State) {n : Nat} (i : BitVec n) : Word :=
  match s.hints.imm with
  | .some u => (u ++ (i.setWidth 10))
  | .none => i.signExtend 32

/-- Are the field's bits above bit 9 zero, as hint.imm needs (R46)? -/
def immFits {n : Nat} (i : BitVec n) : Bool := decide (i.toNat < 1024)

/-- hint.off's byte offset (R49). -/
def State.offset (s : State) : DWord :=
  match s.hints.off with
  | .some o => o.signExtend 64
  | .none => 0#64

/-- The lookahead of an instruction that takes it from hint.sched (R51). -/
def State.schedLa (s : State) : Nat :=
  match s.hints.sched with
  | .some (_, la) => la.toNat
  | .none => 0

/-- hint.cache's scope, format and policy (R49). -/
def State.cacheHint (s : State) : BitVec 3 × BitVec 4 × BitVec 3 := s.hints.cache.getD (0#3, 0#4, 0#3)

/-- The lowest active lane that is not a helper (R108). -/
def State.first (s : State) (m : Mask) : Option Lane := lowestLane? (s.real m)

/-! ### Long-latency results (R51) -/

/-- No access. -/
def Access.empty : Access :=
  ⟨.load, 0, false, false, allLanesOf 0#64, allLanesOf 0#128, 0#3, 0#3, 0#3, false⟩

/-- A long-latency result computed for the lanes m: written at once when la is 0, and otherwise pending behind its window
of la instructions, with the flags it raises then (R122). Each destination is a register field, its format and its entry. -/
def State.later (s : State) (la : Nat) (m : Mask) (dests : List (Nat × BitVec 4 × Entry))
    (flags : Option (Lanes (BitVec 5)) := .none) : State :=
  if la == 0 then dests.foldl (fun s d => s.writeV d.1 m d.2.2 d.2.1) s
  else if m == 0#32 then s
  else
    let (k, s) := s.newUnit
    let w := s.me
    let p : Pend :=
      { id := k
        pc := s.pc
        hints := s.hints
        dests := dests.map (fun d => (w.regNo d.1, d.2.1, m))
        sdest := .none
        vals := dests.map (fun d => perLane (fun i => d.2.2.at i))
        uniform := dests.all (fun d => d.2.2.shape == 0#2) && dests.length ≤ s.narrowFree w.die w.core
        flags := flags
        lanes := m
        got := m
        logged := 0#32
        remote := 0#32
        left := allLanesOf la
        la := la
        done := allLanesOf 0#15
        acc := Access.empty }
    s.setMe { w with pend := w.pend ++ [p] }

end Sys2Proof.Machine
end

