-- ==== Sys2Proof/Machine/Flags.lean ====
section
/-! DEFINITION. Every flag computation (R121, R122, R127, R128): the controls that $fcsr gives, and the delivery of results
with their flags, traps and sticky bits. -/

namespace Sys2Proof.Machine

/-- The controls of a $fcsr value (R121). -/
def fctlOf (x : Word) : FCtl :=
  ⟨RMode.ofCode (bits x 16 3), x.getLsbD 20, x.getLsbD 19, x.getLsbD 21⟩

/-- The controls of the issuing warp. -/
def State.fctl (s : State) : FCtl := fctlOf s.me.fcsr

/-- The controls under the rounding mode RTZ, for forms that name .rz (R123). -/
def FCtl.rz (c : FCtl) (rz : Bool) : FCtl := if rz then { c with mode := .rtz } else c

/-- The cause that a set of flags raises: the first of INV, DZ, OVF, UNF, INX (R128). -/
def flagCause (t : Flags) : Cause :=
  if t.getLsbD 4 then .fpinv
  else if t.getLsbD 3 then .fpdz
  else if t.getLsbD 2 then .fpovf
  else if t.getLsbD 1 then .fpunf
  else .fpinx

/-- The flags whose trap-table entry has mode ignore (R128, R259). -/
def State.ignored (s : State) : Flags :=
  let one (c : Cause) (f : Flags) : Flags := if s.trapEntry s.me c % 8 == 3 then f else 0#5
  one .fpinv fINV ||| one .fpdz fDZ ||| one .fpovf fOVF ||| one .fpunf fUNF ||| one .fpinx fINX

/-- T of R128: the raised flags that are enabled and not ignored. -/
def State.trapping (s : State) (f : Flags) : Flags := f &&& BitVec.ofNat 5 (bits s.me.fcsr 8 5) &&& ~~~s.ignored

/-- The real lanes of m that trap on their flags. -/
def State.flagTraps (s : State) (m : Mask) (fl : Lane → Flags) : List (Lane × Trap) :=
  (lanesOf (s.real m)).filterMap (fun i =>
    let t := s.trapping (fl i)
    if t == 0#5 then .none else .some (i, Trap.plain (flagCause t)))

/-- The flags that the real lanes of m raise together. -/
def State.flagsOf (s : State) (m : Mask) (fl : Lane → Flags) : Flags :=
  (lanesOf (s.real m)).foldl (fun acc i => acc ||| fl i) 0#5

/-- deliver of R128 over the lanes m: the lanes that do not trap write by w and, where the result is written now, add their flags
to $fcsr. -/
def State.deliverFlags (s : State) (m : Mask) (fl : Lane → Flags) (w : State → Mask → State) (now : Bool := true) : Eff :=
  let traps := s.flagTraps m fl
  let ok := m &&& ~~~trapLanes traps
  let s' := w s ok
  let x := s'.me
  { st := if now then s'.setMe { x with fcsr := x.fcsr ||| (s.flagsOf ok fl).setWidth 32 } else s'
    traps := traps }

end Sys2Proof.Machine
end

