-- ==== Sys2Proof/Machine/Integer.lean ====
section
/-! DEFINITION. Integer and address instructions (R94 to R113), majors 0x10 to 0x1D, rds and wrs aside. -/

namespace Sys2Proof.Machine

abbrev Out := Host.Outcome State Fault Refusal

/-! ### Shared forms -/

/-- The use of a two-source instruction with a v destination. -/
def use2 (d : BitVec 5) (a b : Src) (p : BitVec 2) : Use :=
  { v := d.toNat :: srcV a ++ srcV b, s := srcS a ++ srcS b, pred := p, predicated := true
    k := Perm.param a.perm || Perm.param b.perm }
/-- The use of a one-source instruction with a v destination. -/
def use1 (d : BitVec 5) (a : Src) (p : BitVec 2) : Use :=
  { v := d.toNat :: srcV a, s := srcS a, pred := p, predicated := true, k := Perm.param a.perm }
/-- The use of a two-source instruction with a mask destination. -/
def useMask2 (a b : Src) (p : BitVec 2) : Use :=
  { v := srcV a ++ srcV b, s := srcS a ++ srcS b, pred := p, predicated := true
    k := Perm.param a.perm || Perm.param b.perm }
/-- The use of a 64-bit two-source instruction with the v fields d. -/
def useWide2 (d : List Nat) (a b : Src) (p : BitVec 2) : Use :=
  { v := d ++ srcV64 a ++ srcV64 b, s := srcS a ++ srcS b, pred := p, predicated := true
    k := Perm.param a.perm || Perm.param b.perm }
/-- The use of a form whose A is 64-bit and B 32-bit. -/
def useWide1 (d : List Nat) (a b : Src) (p : BitVec 2) : Use :=
  { v := d ++ srcV64 a ++ srcV b, s := srcS a ++ srcS b, pred := p, predicated := true
    k := Perm.param a.perm || Perm.param b.perm }

/-- The mould of R97 for two sources: vd takes f of the sources, raw. -/
def alu2 (f : Entry → Entry → Entry) (d : BitVec 5) (a b : Src) (p : BitVec 2) (s : State) : State :=
  issue (use2 d a b p) s (fun s m => { st := s.writeV d.toNat m (f (s.srcA a) (s.srcB b)) 0#4 })
/-- The mould of R97 for one source. -/
def alu1 (f : Entry → Entry) (d : BitVec 5) (a : Src) (p : BitVec 2) (s : State) : State :=
  issue (use1 d a p) s (fun s m => { st := s.writeV d.toNat m (f (s.srcA a)) 0#4 })
/-- Forms that count vd as a source (R99, R106). -/
def alu3 (f : Entry → Entry → Entry → Entry) (d : BitVec 5) (a b : Src) (p : BitVec 2) (s : State) : State :=
  issue (use2 d a b p) s (fun s m =>
    { st := s.writeV d.toNat m (f (s.srcA a) (s.srcB b) (s.me.reg (s.me.regNo d.toNat)).entry) 0#4 })
/-- The lanes of two 64-bit sources combined. -/
def Wide.map2 (f : DWord → DWord → DWord) (x y : Wide) : Wide :=
  ⟨perLane (fun i => f (Lanes.at x.lanes i) (Lanes.at y.lanes i)), x.uniform && y.uniform⟩
/-- The mould of R102 for two 64-bit sources. -/
def wide2 (f : DWord → DWord → DWord) (d : BitVec 4) (a b : Src) (p : BitVec 2) (s : State) : State :=
  issue (useWide2 (pairV d) a b p) s (fun s m =>
    { st := s.writePair (2 * d.toNat) m (Wide.map2 f (s.src64 false a) (s.src64 true b)) 0#4 0#4 })
/-- The shifts of R102: a 32-bit count. -/
def wideShift (f : DWord → Nat → DWord) (d : BitVec 4) (a b : Src) (p : BitVec 2) (s : State) : State :=
  issue (useWide1 (pairV d) a b p) s (fun s m =>
    { st := s.writePair (2 * d.toNat) m
        (Wide.map2 (fun x c => f x (c.toNat % 64)) (s.src64 false a) (s.srcB b).widen) 0#4 0#4 })
/-- The state with the lanes m of mask md taken from a condition (R104); a write to m0 is ignored. -/
def State.writeMask (s : State) (d : Nat) (m : Mask) (f : Lane → Bool) : State :=
  s.setMe (s.me.setMaskLanes d m (maskOf f))
/-- The compare of R104 on 32 bits. -/
def cmp32 (f : Word → Word → Bool) (d : BitVec 4) (a b : Src) (p : BitVec 2) (s : State) : State :=
  issue (useMask2 a b p) s (fun s m =>
    let x := s.srcA a
    let y := s.srcB b
    { st := s.writeMask d.toNat m (fun i => f (x.at i) (y.at i)) })
/-- The compare of R104 on 64 bits. -/
def cmp64 (f : DWord → DWord → Bool) (d : BitVec 4) (a b : Src) (p : BitVec 2) (s : State) : State :=
  issue (useWide2 [] a b p) s (fun s m =>
    let x := s.src64 false a
    let y := s.src64 true b
    { st := s.writeMask d.toNat m (fun i => f (Lanes.at x.lanes i) (Lanes.at y.lanes i)) })
/-- The mould of R101: lanes whose divisor is 0 raise IDIV0 and keep vd; helper lanes write 0 there (R15). -/
def divide (f : Word → Word → Word) (d : BitVec 5) (a b : Src) (p : BitVec 2) (s : State) : State :=
  issue { use2 d a b p with la := true } s (fun s m =>
    let x := s.srcA a
    let y := s.srcB b
    let zero := maskOf (fun i => Mask.has m i && y.at i == 0#32)
    let bad := s.real zero
    let e := Entry.map2 (fun u v => if v == 0#32 then 0#32 else f u v) x y
    let e := if (zero &&& ~~~bad) == 0#32 then e else .general (perLane (fun i => e.at i))
    { st := s.later s.schedLa (m &&& ~~~bad) [(d.toNat, 0#4, e)], traps := trapAll bad (Trap.plain .idiv0) })
/-- The scalar mould of R112, once an issue. -/
def scalar2 (f : DWord → DWord → DWord) (d a b : BitVec 7) (s : State) : State :=
  issue { s := [d.toNat, a.toNat, b.toNat] } s (fun s _ =>
    { st := s.setSreg d.toNat (f (s.sreg a.toNat) (s.sreg b.toNat)) })

/-! ### Values -/

/-- The signed value clamped to 32 bits (R63). -/
def satS32 (x : Int) : Word :=
  if x < -2147483648 then 0x80000000#32 else if 2147483647 < x then 0x7FFFFFFF#32 else BitVec.ofInt 32 x
/-- The unsigned value clamped to 32 bits (R63). -/
def satN32 (x : Nat) : Word := if 4294967295 < x then 0xFFFFFFFF#32 else BitVec.ofNat 32 x
/-- The number of 1 bits (R97). -/
def onesOf (x : Word) : Word := BitVec.ofNat 32 (popCount x)
/-- The number of leading 0 bits (R97). -/
def leadingZeros (x : Word) : Word :=
  BitVec.ofNat 32 (match (allLanes.reverse).find? (fun i => x.getLsbD i.val) with | .some i => 31 - i.val | .none => 32)
/-- Bit j moved to bit 31 - j (R97). -/
def bitReverse (x : Word) : Word := maskOf (fun i => x.getLsbD (31 - i.val))
/-- A field of b: position and length (R106). -/
def fieldOf (b : Word) : Nat × Nat := (bits b 0 5, min (bits b 8 6) (32 - bits b 0 5))
/-- The low n bits of x, sign-extended; 0 when n is 0 (R106). -/
def sextLow (x : Word) (n : Nat) : Word :=
  if n == 0 then 0#32 else ((x <<< (32 - min n 32)).sshiftRight (32 - min n 32))
/-- The low n bits of x (R106). -/
def zextLow (x : Word) (n : Nat) : Word := BitVec.ofNat 32 (x.toNat % 2 ^ (min n 32))
/-- vbfi of R106. -/
def insertField (a b old : Word) : Word :=
  let (p, l) := fieldOf b
  let f := BitVec.ofNat 32 ((2 ^ l - 1) * 2 ^ p)
  (old &&& ~~~f) ||| ((a <<< p) &&& f)

/-! ### Major 0x10 to 0x13 (R97 to R101) -/

def execVadd (d : BitVec 5) (a b : Src) (p : BitVec 2) (s : State) : Out := .next (alu2 Entry.add d a b p s)
def execVsub (d : BitVec 5) (a b : Src) (p : BitVec 2) (s : State) : Out := .next (alu2 Entry.sub d a b p s)
def execVaddSatS32 (d : BitVec 5) (a b : Src) (p : BitVec 2) (s : State) : Out :=
  .next (alu2 (Entry.map2 (fun x y => satS32 (x.toInt + y.toInt))) d a b p s)
def execVaddSatN32 (d : BitVec 5) (a b : Src) (p : BitVec 2) (s : State) : Out :=
  .next (alu2 (Entry.map2 (fun x y => satN32 (x.toNat + y.toNat))) d a b p s)
/-- vaddc adds with the carry held in bit 0 of the high register (R98). -/
def execVaddc (d : BitVec 4) (a b : Src) (p : BitVec 2) (s : State) : Out :=
  .next (issue { useMask2 a b p with v := pairV d ++ srcV a ++ srcV b } s (fun s m =>
    let x := s.srcA a
    let y := s.srcB b
    let c := (s.me.reg (s.me.regNo (2 * d.toNat + 1))).entry
    let sum : Wide :=
      ⟨perLane (fun i => BitVec.ofNat 64 ((x.at i).toNat + (y.at i).toNat + (c.at i).toNat % 2)),
        x.shape == 0#2 && y.shape == 0#2 && c.shape == 0#2⟩
    { st := s.writePair (2 * d.toNat) m sum 0#4 0#4 }))
def execVmulLo (d : BitVec 5) (a b : Src) (p : BitVec 2) (s : State) : Out := .next (alu2 Entry.mul d a b p s)
def execVmulHiS32 (d : BitVec 5) (a b : Src) (p : BitVec 2) (s : State) : Out :=
  .next (alu2 (Entry.map2 (fun x y => BitVec.ofInt 32 (x.toInt * y.toInt / 4294967296))) d a b p s)
def execVmulHiN32 (d : BitVec 5) (a b : Src) (p : BitVec 2) (s : State) : Out :=
  .next (alu2 (Entry.map2 (fun x y => BitVec.ofNat 32 (x.toNat * y.toNat / 4294967296))) d a b p s)
def execVmad (d : BitVec 5) (a b : Src) (p : BitVec 2) (s : State) : Out :=
  .next (alu3 Entry.mad d a b p s)
def execVdivS32 (d : BitVec 5) (a b : Src) (p : BitVec 2) (s : State) : Out :=
  .next (divide (fun x y => BitVec.ofInt 32 (x.toInt.tdiv y.toInt)) d a b p s)
def execVdivN32 (d : BitVec 5) (a b : Src) (p : BitVec 2) (s : State) : Out :=
  .next (divide (fun x y => x / y) d a b p s)
def execVremS32 (d : BitVec 5) (a b : Src) (p : BitVec 2) (s : State) : Out :=
  .next (divide (fun x y => BitVec.ofInt 32 (x.toInt.tmod y.toInt)) d a b p s)
def execVremN32 (d : BitVec 5) (a b : Src) (p : BitVec 2) (s : State) : Out :=
  .next (divide (fun x y => x % y) d a b p s)
def execVminS32 (d : BitVec 5) (a b : Src) (p : BitVec 2) (s : State) : Out :=
  .next (alu2 (Entry.map2 (fun x y => if x.slt y then x else y)) d a b p s)
def execVminN32 (d : BitVec 5) (a b : Src) (p : BitVec 2) (s : State) : Out :=
  .next (alu2 (Entry.map2 (fun x y => if x.ult y then x else y)) d a b p s)
def execVmaxS32 (d : BitVec 5) (a b : Src) (p : BitVec 2) (s : State) : Out :=
  .next (alu2 (Entry.map2 (fun x y => if x.slt y then y else x)) d a b p s)
def execVmaxN32 (d : BitVec 5) (a b : Src) (p : BitVec 2) (s : State) : Out :=
  .next (alu2 (Entry.map2 (fun x y => if x.ult y then y else x)) d a b p s)
def execVabsS32 (d : BitVec 5) (a : Src) (p : BitVec 2) (s : State) : Out :=
  .next (alu1 (Entry.map1 (fun x => if x.slt 0#32 then 0#32 - x else x)) d a p s)
/-- vneg counts as 0 minus A (R95). -/
def execVneg (d : BitVec 5) (a : Src) (p : BitVec 2) (s : State) : Out :=
  .next (alu1 (Entry.sub (.uniform 0#32)) d a p s)
def execVand (d : BitVec 5) (a b : Src) (p : BitVec 2) (s : State) : Out :=
  .next (alu2 (Entry.map2 (· &&& ·)) d a b p s)
def execVor (d : BitVec 5) (a b : Src) (p : BitVec 2) (s : State) : Out :=
  .next (alu2 (Entry.map2 (· ||| ·)) d a b p s)
def execVxor (d : BitVec 5) (a b : Src) (p : BitVec 2) (s : State) : Out :=
  .next (alu2 (Entry.map2 (· ^^^ ·)) d a b p s)
def execVnot (d : BitVec 5) (a : Src) (p : BitVec 2) (s : State) : Out :=
  .next (alu1 (Entry.map1 (~~~ ·)) d a p s)
/-- vsel takes A where the selector is 1 and B where it is 0, in every lane of the bundle (R100). -/
def execVsel (d : BitVec 5) (a b : Src) (c : BitVec 2) (s : State) : Out :=
  .next (issue { use2 d a b c with selects := true } s (fun s m =>
    let u : Use := { pred := c }
    let sel := s.predMask u
    let one := (sel &&& s.bundle) == s.bundle || (sel &&& s.bundle) == 0#32
    let x := s.srcA a
    let y := s.srcB b
    let i0 := (lowestLane? s.bundle).getD 0
    let e : Entry :=
      if one && x.shape == 0#2 && y.shape == 0#2 then .uniform (if Mask.has sel i0 then x.at 0 else y.at 0)
      else .general (perLane (fun i => if Mask.has sel i then x.at i else y.at i))
    let f := if s.srcFormat a == s.srcFormat b then s.srcFormat a else 0#4
    { st := s.writeV d.toNat m e f }))
def execVshl (d : BitVec 5) (a b : Src) (p : BitVec 2) (s : State) : Out := .next (alu2 Entry.shl d a b p s)
def execVshr (d : BitVec 5) (a b : Src) (p : BitVec 2) (s : State) : Out :=
  .next (alu2 (Entry.map2 (fun x n => x >>> (n.toNat % 32))) d a b p s)
def execVsra (d : BitVec 5) (a b : Src) (p : BitVec 2) (s : State) : Out :=
  .next (alu2 (Entry.map2 (fun x n => x.sshiftRight (n.toNat % 32))) d a b p s)
def execVrot (d : BitVec 5) (a b : Src) (p : BitVec 2) (s : State) : Out :=
  .next (alu2 (Entry.map2 (fun x n => x.rotateLeft (n.toNat % 32))) d a b p s)
def execVpopc (d : BitVec 5) (a : Src) (p : BitVec 2) (s : State) : Out := .next (alu1 (Entry.map1 onesOf) d a p s)
def execVclz (d : BitVec 5) (a : Src) (p : BitVec 2) (s : State) : Out :=
  .next (alu1 (Entry.map1 leadingZeros) d a p s)
def execVbrev (d : BitVec 5) (a : Src) (p : BitVec 2) (s : State) : Out :=
  .next (alu1 (Entry.map1 bitReverse) d a p s)
/-- vmov copies the whole tag of its source (R97). -/
def execVmov (d : BitVec 5) (a : Src) (p : BitVec 2) (s : State) : Out :=
  .next (issue (use1 d a p) s (fun s m => { st := s.writeV d.toNat m (s.srcA a) (s.srcFormat a) }))

/-! ### Major 0x14 and 0x15 (R102, R103, R107, R108) -/

def execVadd64 (d : BitVec 4) (a b : Src) (p : BitVec 2) (s : State) : Out := .next (wide2 (· + ·) d a b p s)
def execVsub64 (d : BitVec 4) (a b : Src) (p : BitVec 2) (s : State) : Out := .next (wide2 (· - ·) d a b p s)
def execVmulLo64 (d : BitVec 4) (a b : Src) (p : BitVec 2) (s : State) : Out := .next (wide2 (· * ·) d a b p s)
def execVminS64 (d : BitVec 4) (a b : Src) (p : BitVec 2) (s : State) : Out :=
  .next (wide2 (fun x y => if x.slt y then x else y) d a b p s)
def execVminN64 (d : BitVec 4) (a b : Src) (p : BitVec 2) (s : State) : Out :=
  .next (wide2 (fun x y => if x.ult y then x else y) d a b p s)
def execVmaxS64 (d : BitVec 4) (a b : Src) (p : BitVec 2) (s : State) : Out :=
  .next (wide2 (fun x y => if x.slt y then y else x) d a b p s)
def execVmaxN64 (d : BitVec 4) (a b : Src) (p : BitVec 2) (s : State) : Out :=
  .next (wide2 (fun x y => if x.ult y then y else x) d a b p s)
def execVshl64 (d : BitVec 4) (a b : Src) (p : BitVec 2) (s : State) : Out :=
  .next (wideShift (fun x n => x <<< n) d a b p s)
def execVshr64 (d : BitVec 4) (a b : Src) (p : BitVec 2) (s : State) : Out :=
  .next (wideShift (fun x n => x >>> n) d a b p s)
def execVsra64 (d : BitVec 4) (a b : Src) (p : BitVec 2) (s : State) : Out :=
  .next (wideShift (fun x n => x.sshiftRight n) d a b p s)
/-- vlea adds a 32-bit offset to a 64-bit base; its low half follows R21 for the sum (R103). -/
def execVlea (d : BitVec 4) (a b : Src) (p : BitVec 2) (s : State) : Out :=
  .next (issue (useWide1 (pairV d) a b p) s (fun s m =>
    let x := s.src64 false a
    let low := s.src false a
    let y := s.srcB b
    let full := (s.me.live &&& ~~~m) == 0#32
    let hi (i : Lane) : Word := ((Lanes.at x.lanes i + (y.at i).setWidth 64) >>> 32).setWidth 32
    { st := (s.writeV (2 * d.toNat) m (low.add y) 0#4).writeV (2 * d.toNat + 1) m
        (entryOf (x.uniform && y.shape == 0#2 && full) hi) 0#4 }))
/-- vmovrel reads the register that each lane's index names; an index at or above the declared count raises REGBOUND in
its lane (R107, R263). -/
def execVmovrel (d r : BitVec 5) (b : Src) (p : BitVec 2) (s : State) : Out :=
  .next (issue { use1 d b p with v := [d.toNat, r.toNat] ++ srcV b } s (fun s m =>
    let w := s.me
    let y := s.srcB b
    let n (i : Lane) : Nat := r.toNat + (y.at i).toNat
    let out := maskOf (fun i => Mask.has m i && (decide (32 ≤ n i) || s.vBeyond (n i)))
    let bad := s.real out
    let n0 := n ((lowestLane? m).getD 0)
    let same := out == 0#32 && (lanesOf m).all (fun i => n i == n0) && (w.live &&& ~~~m) == 0#32
    let reg := w.reg (w.regNo n0)
    let e : Entry := .general (perLane (fun i => if Mask.has out i then 0#32 else w.lane (n i) i))
    { st := if same then s.writeV d.toNat m reg.entry reg.fmt else s.writeV d.toNat (m &&& ~~~bad) e 0#4
      traps := trapAll bad (Trap.plain .regbound) }))
/-- vreadl copies one lane's value into an s-register (R108). -/
def execVreadl (d : BitVec 5) (a b : Src) (p : BitVec 2) (s : State) : Out :=
  .next (issue { useMask2 a b p with s := d.toNat :: srcS a ++ srcS b } s (fun s m =>
    match s.first m with
    | .none => { st := s }
    | .some i => { st := s.setSreg d.toNat (((s.srcA a).at (Fin.ofNat 32 ((s.srcB b).at i).toNat)).setWidth 64) }))
/-- One value for a write that is uniform only when it is full, and general otherwise (R108, R109, R142). -/
def State.fullOr (s : State) (m : Mask) (b : Word) : Entry :=
  if (s.me.live &&& ~~~m) == 0#32 then .uniform b else .general (allLanesOf b)
/-- vbcs gives every active lane the value of the lowest active real lane (R108). -/
def execVbcs (d : BitVec 5) (a : Src) (p : BitVec 2) (s : State) : Out :=
  .next (issue (use1 d a p) s (fun s m =>
    match s.first m with
    | .none => { st := s }
    | .some i => { st := s.writeV d.toNat m (s.fullOr m ((s.srcA a).at i)) (s.srcFormat a) }))

/-! ### Compares and immediates (R104, R105) -/

def execVcmpEq (d : BitVec 4) (a b : Src) (p : BitVec 2) (s : State) : Out := .next (cmp32 (· == ·) d a b p s)
def execVcmpNe (d : BitVec 4) (a b : Src) (p : BitVec 2) (s : State) : Out := .next (cmp32 (· != ·) d a b p s)
def execVcmpLtS32 (d : BitVec 4) (a b : Src) (p : BitVec 2) (s : State) : Out := .next (cmp32 BitVec.slt d a b p s)
def execVcmpLeS32 (d : BitVec 4) (a b : Src) (p : BitVec 2) (s : State) : Out := .next (cmp32 BitVec.sle d a b p s)
def execVcmpLtN32 (d : BitVec 4) (a b : Src) (p : BitVec 2) (s : State) : Out := .next (cmp32 BitVec.ult d a b p s)
def execVcmpLeN32 (d : BitVec 4) (a b : Src) (p : BitVec 2) (s : State) : Out := .next (cmp32 BitVec.ule d a b p s)
def execVcmpEq64 (d : BitVec 4) (a b : Src) (p : BitVec 2) (s : State) : Out := .next (cmp64 (· == ·) d a b p s)
def execVcmpNe64 (d : BitVec 4) (a b : Src) (p : BitVec 2) (s : State) : Out := .next (cmp64 (· != ·) d a b p s)
def execVcmpLtS64 (d : BitVec 4) (a b : Src) (p : BitVec 2) (s : State) : Out := .next (cmp64 BitVec.slt d a b p s)
def execVcmpLeS64 (d : BitVec 4) (a b : Src) (p : BitVec 2) (s : State) : Out := .next (cmp64 BitVec.sle d a b p s)
def execVcmpLtN64 (d : BitVec 4) (a b : Src) (p : BitVec 2) (s : State) : Out := .next (cmp64 BitVec.ult d a b p s)
def execVcmpLeN64 (d : BitVec 4) (a b : Src) (p : BitVec 2) (s : State) : Out := .next (cmp64 BitVec.ule d a b p s)
/-- The immediate form of vadd: its predicate comes through hint.pred alone (R45, R105). -/
def execVaddImm (d : BitVec 5) (a : Src) (i : BitVec 13) (s : State) : Out :=
  .next (issue { use1 d a 0#2 with imm := .some (immFits i) } s (fun s m =>
    { st := s.writeV d.toNat m ((s.srcA a).add (.uniform (s.immediate i))) 0#4 }))
/-- vmovi takes no predicate (R105). -/
def execVmovi (d : BitVec 5) (i : BitVec 13) (s : State) : Out :=
  .next (issue { v := [d.toNat], imm := .some (immFits i) } s (fun s m =>
    { st := s.writeV d.toNat m (.uniform (s.immediate i)) 0#4 }))

/-! ### The scalar unit (R96, R112, R113) -/

def execSadd (d a b : BitVec 7) (s : State) : Out := .next (scalar2 (· + ·) d a b s)
def execSsub (d a b : BitVec 7) (s : State) : Out := .next (scalar2 (· - ·) d a b s)
def execSmul (d a b : BitVec 7) (s : State) : Out := .next (scalar2 (· * ·) d a b s)
def execSand (d a b : BitVec 7) (s : State) : Out := .next (scalar2 (· &&& ·) d a b s)
def execSor (d a b : BitVec 7) (s : State) : Out := .next (scalar2 (· ||| ·) d a b s)
def execSxor (d a b : BitVec 7) (s : State) : Out := .next (scalar2 (· ^^^ ·) d a b s)
def execSshl (d a b : BitVec 7) (s : State) : Out := .next (scalar2 (fun x y => x <<< (y.toNat % 64)) d a b s)
def execSshr (d a b : BitVec 7) (s : State) : Out := .next (scalar2 (fun x y => x >>> (y.toNat % 64)) d a b s)
/-- 1 or 0 as a 64-bit value. -/
def oneIf (b : Bool) : DWord := if b then 1#64 else 0#64
def execScmpEq (d a b : BitVec 7) (s : State) : Out := .next (scalar2 (fun x y => oneIf (x == y)) d a b s)
def execScmpLtS64 (d a b : BitVec 7) (s : State) : Out := .next (scalar2 (fun x y => oneIf (x.slt y)) d a b s)
def execScmpLtN64 (d a b : BitVec 7) (s : State) : Out := .next (scalar2 (fun x y => oneIf (x.ult y)) d a b s)
def execSmov (d a : BitVec 7) (s : State) : Out := .next (scalar2 (fun x _ => x) d a 0#7 s)
def execSaddImm (d a : BitVec 7) (i : BitVec 10) (s : State) : Out :=
  .next (issue { s := [d.toNat, a.toNat], imm := .some true } s (fun s _ =>
    { st := s.setSreg d.toNat (s.sreg a.toNat + (s.immediate i).signExtend 64) }))
def execSmovi (d : BitVec 7) (i : BitVec 10) (s : State) : Out :=
  .next (issue { s := [d.toNat], imm := .some true } s (fun s _ =>
    { st := s.setSreg d.toNat ((s.immediate i).signExtend 64) }))

/-! ### Tags, affine values and freeing (R109 to R111) -/

def execVshape (d v : BitVec 5) (p : BitVec 2) (s : State) : Out :=
  .next (issue { v := [d.toNat, v.toNat], pred := p, predicated := true } s (fun s m =>
    { st := s.writeV d.toNat m (s.fullOr m ((s.me.reg (s.me.regNo v.toNat)).tag.setWidth 32)) 0#4 }))
/-- vfmt copies A under the format that B names; a reserved code raises FMT and helper lanes write zero (R15, R109). -/
def execVfmt (d : BitVec 5) (a b : Src) (p : BitVec 2) (s : State) : Out :=
  .next (issue (use2 d a b p) s (fun s m =>
    match s.first m with
    | .none => { st := s }
    | .some i =>
      let f := ((s.srcB b).at i).setWidth 4
      if 13 ≤ f.toNat then
        { st := s.helperZero d.toNat (m &&& ~~~s.real m) 0#4, traps := trapAll (s.real m) (Trap.plain .fmt) }
      else { st := s.writeV d.toNat m (s.srcA a) f }))
/-- vaffine builds b + i * d from lane 0's reads (R110). -/
def execVaffine (d : BitVec 5) (a b : Src) (p : BitVec 2) (s : State) : Out :=
  .next (issue (use2 d a b p) s (fun s m =>
    { st := s.writeV d.toNat m (.affine ((s.srcA a).at 0) ((s.srcB b).at 0)) 0#4 }))
def execVidx (d : BitVec 5) (p : BitVec 2) (s : State) : Out :=
  .next (issue { v := [d.toNat], pred := p, predicated := true } s (fun s m =>
    { st := s.writeV d.toNat m (.affine 0#32 1#32) 0#4 }))
/-- vfree unmaps a register for the whole warp; a result pending for it no longer lands (R111). -/
def execVfree (d : BitVec 5) (s : State) : Out :=
  .next (issue { v := [d.toNat] } s (fun s _ =>
    let w := s.me
    let n := w.regNo d.toNat
    let w := w.freeReg n
    { st := s.setMe { w with pend := w.pend.map (fun q => q.overwritten n (~~~0#32)) } }))

/-! ### Bit fields and extension (R106) -/

def execVbfeS32 (d : BitVec 5) (a b : Src) (p : BitVec 2) (s : State) : Out :=
  .next (alu2 (Entry.map2 (fun x y => sextLow (x >>> (fieldOf y).1) (fieldOf y).2)) d a b p s)
def execVbfeN32 (d : BitVec 5) (a b : Src) (p : BitVec 2) (s : State) : Out :=
  .next (alu2 (Entry.map2 (fun x y => zextLow (x >>> (fieldOf y).1) (fieldOf y).2)) d a b p s)
def execVbfi (d : BitVec 5) (a b : Src) (p : BitVec 2) (s : State) : Out := .next (alu3 (Entry.map3 insertField) d a b p s)
def execVsext (d : BitVec 5) (a b : Src) (p : BitVec 2) (s : State) : Out :=
  .next (alu2 (Entry.map2 (fun x y => sextLow x (bits y 0 6))) d a b p s)
def execVzext (d : BitVec 5) (a b : Src) (p : BitVec 2) (s : State) : Out :=
  .next (alu2 (Entry.map2 (fun x y => zextLow x (bits y 0 6))) d a b p s)

end Sys2Proof.Machine
end

