-- ==== Sys2Proof/Machine/FloatOps.lean ====
section
/-! DEFINITION. Floating-point and number-format instructions (R117 to R140), majors 0x20 to 0x2B. -/

namespace Sys2Proof.Machine

/-! ### Shared forms -/

/-- A function of three codes applied to each element of a lane word: one element of 32 bits, or two of 16 (R117, R130). -/
def elements (f : FFmt) (g : Nat → Nat → Nat → FRes) (x y z : Word) : Word × Flags :=
  if f.width == 32 then
    let r := g x.toNat y.toNat z.toNat
    (BitVec.ofNat 32 r.1, r.2)
  else
    let lo := g (bits x 0 16) (bits y 0 16) (bits z 0 16)
    let hi := g (bits x 16 16) (bits y 16 16) (bits z 16 16)
    (BitVec.ofNat 32 (hi.1 % 65536 * 65536 + lo.1 % 65536), lo.2 ||| hi.2)

/-- The flags that a result of the lanes m raises when it lands (R122): those of its real lanes. -/
def State.lateFlags {α : Type} (s : State) (m : Mask) (r : Lanes (α × Flags)) : Option (Lanes (BitVec 5)) :=
  .some (perLane (fun i => if Mask.has (s.real m) i then (Lanes.at r i).2 else 0#5))

/-- Results of the lanes m with their flags, delivered to vd (R128); a long-latency form lands behind its window. -/
def State.deliverV (s : State) (d : Nat) (m : Mask) (fmt : BitVec 4) (uniform : Bool) (la : Nat)
    (r : Lanes (Word × Flags)) : Eff :=
  s.deliverFlags m (fun i => (Lanes.at r i).2)
    (fun s ok => s.later la ok [(d, fmt, entryOf uniform (fun i => (Lanes.at r i).1))] (s.lateFlags ok r)) (la == 0)
/-- The same for a pair, whose halves follow R21 each. -/
def State.deliverPair (s : State) (d : Nat) (m : Mask) (uniform : Bool) (la : Nat) (r : Lanes (DWord × Flags)) : Eff :=
  s.deliverFlags m (fun i => (Lanes.at r i).2)
    (fun s ok =>
      s.later la ok
        [(d, 8#4, entryOf uniform (fun i => (Lanes.at r i).1.setWidth 32)),
          (d + 1, 9#4, entryOf uniform (fun i => ((Lanes.at r i).1 >>> 32).setWidth 32))] (s.lateFlags ok r)) (la == 0)

/-- A two-source form of a lane-word format (R130). -/
def fp2 (f : FFmt) (code : BitVec 4) (g : FCtl → Nat → Nat → FRes) (d : BitVec 5) (a b : Src) (p : BitVec 2)
    (s : State) : State :=
  issue { use2 d a b p with fmts := srcFmt a code ++ srcFmt b code } s (fun s m =>
    let c := s.fctl
    let x := s.srcA a
    let y := s.srcB b
    s.deliverV d.toNat m code (x.shape == 0#2 && y.shape == 0#2) 0
      (perLane (fun i => elements f (fun u v _ => g c u v) (x.at i) (y.at i) 0#32)))
/-- vfma counts vd as a source (R129, R130). -/
def fp3 (f : FFmt) (code : BitVec 4) (d : BitVec 5) (a b : Src) (p : BitVec 2) (s : State) : State :=
  issue { use2 d a b p with fmts := srcFmt a code ++ srcFmt b code ++ [(d.toNat, code)] } s (fun s m =>
    let c := s.fctl
    let x := s.srcA a
    let y := s.srcB b
    let z := (s.me.reg (s.me.regNo d.toNat)).entry
    s.deliverV d.toNat m code (x.shape == 0#2 && y.shape == 0#2 && z.shape == 0#2) 0
      (perLane (fun i => elements f (f.fma c) (x.at i) (y.at i) (z.at i))))
/-- A one-source form. -/
def fp1 (f : FFmt) (code : BitVec 4) (long : Bool) (g : FCtl → Nat → FRes) (d : BitVec 5) (a : Src) (p : BitVec 2)
    (s : State) : State :=
  issue { use1 d a p with fmts := srcFmt a code, la := long } s (fun s m =>
    let c := s.fctl
    let x := s.srcA a
    s.deliverV d.toNat m code (x.shape == 0#2) s.schedLa
      (perLane (fun i => elements f (fun u _ _ => g c u) (x.at i) 0#32 0#32)))
/-- A two-source FP64 form. -/
def fpw2 (g : FCtl → Nat → Nat → FRes) (d : BitVec 4) (a b : Src) (p : BitVec 2) (s : State) : State :=
  issue { useWide2 (pairV d) a b p with fmts := srcFmt64 a ++ srcFmt64 b } s (fun s m =>
    let c := s.fctl
    let x := s.src64 false a
    let y := s.src64 true b
    s.deliverPair (2 * d.toNat) m (x.uniform && y.uniform) 0
      (perLane (fun i =>
        let r := g c (Lanes.at x.lanes i).toNat (Lanes.at y.lanes i).toNat
        (BitVec.ofNat 64 r.1, r.2))))
/-- The FP64 value of the pair that field f names. -/
def State.pairOf (s : State) (f : Nat) : Wide := s.src64 false ⟨.direct, BitVec.ofNat 5 f⟩
def fpw3 (d : BitVec 4) (a b : Src) (p : BitVec 2) (s : State) : State :=
  issue { useWide2 (pairV d) a b p with
    fmts := srcFmt64 a ++ srcFmt64 b ++ [(2 * d.toNat, 8#4), (2 * d.toNat + 1, 9#4)] } s (fun s m =>
    let c := s.fctl
    let x := s.src64 false a
    let y := s.src64 true b
    let z := s.pairOf (2 * d.toNat)
    s.deliverPair (2 * d.toNat) m (x.uniform && y.uniform && z.uniform) 0
      (perLane (fun i =>
        let r := f64.fma c (Lanes.at x.lanes i).toNat (Lanes.at y.lanes i).toNat (Lanes.at z.lanes i).toNat
        (BitVec.ofNat 64 r.1, r.2))))
/-- A one-source FP64 form. -/
def fpw1 (long : Bool) (g : FCtl → Nat → FRes) (d : BitVec 4) (a : Src) (p : BitVec 2) (s : State) : State :=
  issue { v := pairV d ++ srcV64 a, s := srcS a, pred := p, predicated := true, k := Perm.param a.perm
          fmts := srcFmt64 a, la := long } s (fun s m =>
    let c := s.fctl
    let x := s.src64 false a
    s.deliverPair (2 * d.toNat) m x.uniform s.schedLa
      (perLane (fun i =>
        let r := g c (Lanes.at x.lanes i).toNat
        (BitVec.ofNat 64 r.1, r.2))))
/-- The compare of R131: element 0 of each lane. -/
def fpCmp (f : FFmt) (code : BitVec 4) (cc : FCmp) (d : BitVec 4) (a b : Src) (p : BitVec 2) (s : State) : State :=
  issue { useMask2 a b p with fmts := srcFmt a code ++ srcFmt b code } s (fun s m =>
    let c := s.fctl
    let x := s.srcA a
    let y := s.srcB b
    let r : Lanes (Bool × Flags) :=
      perLane (fun i => f.cmp cc c ((x.at i).toNat % 2 ^ f.width) ((y.at i).toNat % 2 ^ f.width))
    s.deliverFlags m (fun i => (Lanes.at r i).2) (fun s ok => s.writeMask d.toNat ok (fun i => (Lanes.at r i).1)))
def fpwCmp (cc : FCmp) (d : BitVec 4) (a b : Src) (p : BitVec 2) (s : State) : State :=
  issue { useWide2 [] a b p with fmts := srcFmt64 a ++ srcFmt64 b } s (fun s m =>
    let c := s.fctl
    let x := s.src64 false a
    let y := s.src64 true b
    let r : Lanes (Bool × Flags) :=
      perLane (fun i => f64.cmp cc c (Lanes.at x.lanes i).toNat (Lanes.at y.lanes i).toNat)
    s.deliverFlags m (fun i => (Lanes.at r i).2) (fun s ok => s.writeMask d.toNat ok (fun i => (Lanes.at r i).1)))
/-- vfclass writes one class bit for each element, raw, with no flag (R132). -/
def fpClass (f : FFmt) (code : BitVec 4) (d : BitVec 5) (a : Src) (p : BitVec 2) (s : State) : State :=
  issue { use1 d a p with fmts := srcFmt a code } s (fun s m =>
    { st := s.writeV d.toNat m (Entry.map1 (fun x =>
        (elements f (fun u _ _ => (2 ^ f.classOf u, 0#5)) x 0#32 0#32).1) (s.srcA a)) 0#4 })
/-- vfdot2: the exact sum of two products and an FP32 accumulator, rounded once (R133). -/
def dot2 (f : FFmt) (c : FCtl) (x y z : Word) : Word × Flags :=
  let a0 := f.src c.daz (bits x 0 16)
  let a1 := f.src c.daz (bits x 16 16)
  let b0 := f.src c.daz (bits y 0 16)
  let b1 := f.src c.daz (bits y 16 16)
  let d := f32.src c.daz z.toNat
  let term (a b : FVal) : Option FVal := if a.isNan || b.isNan then .some (.nan false false) else a.times b
  let p0 := term a0 b0
  let p1 := term a1 b1
  let sig := a0.snan ||| a1.snan ||| b0.snan ||| b1.snan ||| d.snan
  let terms := [p0, p1, .some d]
  let plusInf := terms.any (fun t => t == .some (FVal.inf false))
  let minusInf := terms.any (fun t => t == .some (FVal.inf true))
  let inv := p0.isNone || p1.isNone || (plusInf && minusInf)
  let nan := terms.any (fun t => match t with | .some v => v.isNan | .none => true)
  if nan || inv then (BitVec.ofNat 32 (f32.nanCode false), if inv then sig ||| fINV else sig)
  else
    let sum := (p0.bind (fun u => p1.bind (fun v => u.plus c.mode v))).bind (fun u => u.plus c.mode d)
    let r := f32.finish c sum
    (BitVec.ofNat 32 r.1, r.2)
def fpDot (f : FFmt) (code : BitVec 4) (d : BitVec 5) (a b : Src) (p : BitVec 2) (s : State) : State :=
  issue { use2 d a b p with fmts := srcFmt a code ++ srcFmt b code ++ [(d.toNat, 1#4)] } s (fun s m =>
    let c := s.fctl
    let x := s.srcA a
    let y := s.srcB b
    let z := (s.me.reg (s.me.regNo d.toNat)).entry
    s.deliverV d.toNat m 1#4 (x.shape == 0#2 && y.shape == 0#2 && z.shape == 0#2) 0
      (perLane (fun i => dot2 f c (x.at i) (y.at i) (z.at i))))

/-! ### Conversions, packing and scaling (R134 to R139) -/

/-- The format of a code that vfcvt and vfround name (R22). -/
def fmtOfCode (t : BitVec 4) : FFmt :=
  if t == 8#4 then f64 else if t == 2#4 then f16 else if t == 3#4 then bf16 else f32
/-- The conversion of R134. -/
def fpConvert (rz : Bool) (d : BitVec 5) (a : Src) (t f : BitVec 4) (p : BitVec 2) (s : State) : State :=
  let wideIn := f == 8#4
  let wideOut := t == 8#4
  let src := fmtOfCode f
  let dst := fmtOfCode t
  issue { v := d.toNat :: (if wideOut then [d.toNat + 1] else []) ++ (if wideIn then srcV64 a else srcV a)
          s := srcS a, pred := p, predicated := true, k := Perm.param a.perm
          fmts := if wideIn then srcFmt64 a else srcFmt a f } s (fun s m =>
    let c := s.fctl.rz rz
    let x : Wide := if wideIn then s.src64 false a else (s.srcA a).widen
    let r (i : Lane) : FRes := convert src dst c ((Lanes.at x.lanes i).toNat % 2 ^ src.width)
    if wideOut then
      s.deliverPair d.toNat m x.uniform 0 (perLane (fun i => (BitVec.ofNat 64 (r i).1, (r i).2)))
    else s.deliverV d.toNat m t x.uniform 0 (perLane (fun i => (BitVec.ofNat 32 (r i).1, (r i).2))))

/-- A packed element format: its width, its count, and its number format; none for INT8 (R117). -/
structure Packed where
  width : Nat
  count : Nat
  fmt : Option FFmt
/-- The packed format of a tag code; codes that vfpack and vfunpack do not take have none (R129). -/
def packedOf (c : BitVec 4) : Option Packed :=
  match c.toNat with
  | 2 => .some ⟨16, 2, .some f16⟩
  | 3 => .some ⟨16, 2, .some bf16⟩
  | 4 => .some ⟨8, 4, .some e4m3⟩
  | 5 => .some ⟨8, 4, .some e5m2⟩
  | 6 => .some ⟨4, 8, .some e2m1⟩
  | 7 => .some ⟨8, 4, .none⟩
  | 11 => .some ⟨6, 5, .some e3m2⟩
  | 12 => .some ⟨6, 5, .some e2m3⟩
  | _ => .none
/-- The sign of the NaN that a product of two values carries: that of its only NaN source; with two of different signs the
spec names none, and the sign is free (log 10). -/
def productNan (a b : FVal) (x y : Word) : FVal :=
  let sig := a.snan != 0#5 || b.snan != 0#5
  let sign :=
    if a.isNan && b.isNan then (if a.neg == b.neg then a.neg else Config.nanSign x y)
    else if a.isNan then a.neg else b.neg
  .nan sig sign
/-- One element of vfpack: the exact product converted by one rounding (R135). -/
def packElement (k : Packed) (c : FCtl) (rz : Bool) (x y : Word) : FRes :=
  let a := f32.src c.daz x.toNat
  let b := f32.src c.daz y.toNat
  let v : Option FVal := if a.isNan || b.isNan then .some (productNan a b x y) else a.times b
  let mode := if rz then RMode.rtz else match k.fmt with
    | .some f => if f.flushes then c.mode else .rne
    | .none => .rne
  match k.fmt with
  | .some f =>
    if f.flushes then
      (match v with
      | .some (.nan sig _) => (f.nanCode false, if sig then fINV else 0#5)
      | v => f.finish { c with mode := mode } v)
    else f.narrow mode false v
  | .none =>
    match v with
    | .none => (0, fINV)
    | .some v =>
      let r := toInt mode (-128) 127 v
      ((r.1 % 256).toNat, r.2)
/-- The packed word with an element shifted in at the top (R135); of a word of five, bits 31:30 are not read (R117). -/
def packWord (k : Packed) (w : Word) (e : Nat) : Word :=
  if k.width * k.count == 30 then (w &&& 0x3FFFFFFF#32) >>> 6 ||| BitVec.ofNat 32 (e % 64) <<< 24
  else w >>> k.width ||| BitVec.ofNat 32 e <<< (32 - k.width)
def fpPack (rz : Bool) (d : BitVec 5) (a b : Src) (p : BitVec 2) (s : State) : State :=
  issue { use2 d a b p with fmts := srcFmt a 1#4 ++ srcFmt b 1#4 } s (fun s m =>
    let old := s.me.reg (s.me.regNo d.toNat)
    match packedOf old.fmt with
    | .none => { st := s, traps := trapAll (s.real m) (Trap.plain .fmt) }
    | .some k =>
      let c := s.fctl
      let x := s.srcA a
      let y := s.srcB b
      s.deliverV d.toNat m old.fmt (x.shape == 0#2 && y.shape == 0#2 && old.entry.shape == 0#2) 0
        (perLane (fun i =>
          let e := packElement k c rz (x.at i) (y.at i)
          (packWord k (old.entry.at i) e.1, e.2))))
/-- One element of a packed word as FP32 (R136). -/
def unpackElement (k : Packed) (c : FCtl) (x : Word) (e : Nat) : Word × Flags :=
  if k.count ≤ e then (0#32, 0#5)
  else
    let u := x.toNat / 2 ^ (k.width * e) % 2 ^ k.width
    match k.fmt with
    | .none =>
      let neg := 128 ≤ u
      (BitVec.ofNat 32 (f32.round .rne false neg (if neg then 256 - u else u) 0).1, 0#5)
    | .some f =>
      let u := if c.ftzn && !f.flushes && f.subnormal u then f.signed (f.neg u) 0 else u
      let r := convert f f32 { c with ftz := false } u
      (BitVec.ofNat 32 r.1, r.2)
/-- vfunpack. The element index in B is an integer and carries no format to be checked: the spec's table names A alone (R129;
log 54). -/
def execVfunpack (d : BitVec 5) (a b : Src) (p : BitVec 2) (s : State) : Out :=
  .next (issue (use2 d a b p) s (fun s m =>
    match packedOf (s.srcFormat a) with
    | .none => { st := s, traps := trapAll (s.real m) (Trap.plain .fmt) }
    | .some k =>
      let c := s.fctl
      let x := s.srcA a
      let y := s.srcB b
      s.deliverV d.toNat m 1#4 (x.shape == 0#2 && y.shape == 0#2) 0
        (perLane (fun i => unpackElement k c (x.at i) (bits (y.at i) 0 3)))))
def execVfcvt (d : BitVec 5) (a : Src) (t f : BitVec 4) (p : BitVec 2) (s : State) : Out :=
  .next (fpConvert false d a t f p s)
def execVfcvtRz (d : BitVec 5) (a : Src) (t f : BitVec 4) (p : BitVec 2) (s : State) : Out :=
  .next (fpConvert true d a t f p s)
def execVfpack (d : BitVec 5) (a b : Src) (p : BitVec 2) (s : State) : Out := .next (fpPack false d a b p s)
def execVfpackRz (d : BitVec 5) (a b : Src) (p : BitVec 2) (s : State) : Out := .next (fpPack true d a b p s)
/-- vfscale multiplies by 2^n, n clamped to -512 to 511 (R137). -/
def execVfscale (d : BitVec 5) (a b : Src) (p : BitVec 2) (s : State) : Out :=
  .next (issue { use2 d a b p with fmts := srcFmt a 1#4 } s (fun s m =>
    let c := s.fctl
    let x := s.srcA a
    let y := s.srcB b
    s.deliverV d.toNat m 1#4 (x.shape == 0#2 && y.shape == 0#2) 0
      (perLane (fun i =>
        let n := (y.at i).toInt
        let n := if n < -512 then -512 else if 511 < n then 511 else n
        let r := f32.scale c (x.at i).toNat n
        (BitVec.ofNat 32 r.1, r.2)))))
/-- vfround rounds each element to an integral value by RM; INX is never set (R138). -/
def execVfround (d : BitVec 5) (a : Src) (f : BitVec 4) (p : BitVec 2) (s : State) : Out :=
  .next (
    if f == 8#4 then
      issue { v := [d.toNat, d.toNat + 1] ++ srcV64 a, s := srcS a, pred := p, predicated := true
              k := Perm.param a.perm, fmts := srcFmt64 a } s (fun s m =>
        let c := s.fctl
        let x := s.src64 false a
        s.deliverPair d.toNat m x.uniform 0 (perLane (fun i =>
          let r := f64.roundIntegral c (Lanes.at x.lanes i).toNat
          (BitVec.ofNat 64 r.1, r.2))))
    else fp1 (fmtOfCode f) f false (fun c u => (fmtOfCode f).roundIntegral c u) d a p s)
/-- vftoi rounds to an integer by RM or RTZ, clamped with INV (R124, R139). -/
def fpToInt (signed : Bool) (d : BitVec 5) (a : Src) (r : BitVec 1) (p : BitVec 2) (s : State) : State :=
  issue { use1 d a p with fmts := srcFmt a 1#4 } s (fun s m =>
    let c := s.fctl.rz (r == 1#1)
    let x := s.srcA a
    s.deliverV d.toNat m (if signed then 10#4 else 0#4) (x.shape == 0#2) 0
      (perLane (fun i =>
        let v := f32.src c.daz (x.at i).toNat
        let q := if signed then toInt c.mode (-2147483648) 2147483647 v else toInt c.mode 0 4294967295 v
        (BitVec.ofInt 32 q.1, q.2))))
/-- vitof rounds an integer to FP32 by RM (R139). -/
def fpOfInt (signed : Bool) (d : BitVec 5) (a : Src) (p : BitVec 2) (s : State) : State :=
  issue { use1 d a p with fmts := srcFmt a 10#4 } s (fun s m =>
    let c := s.fctl
    let x := s.srcA a
    s.deliverV d.toNat m 1#4 (x.shape == 0#2) 0
      (perLane (fun i =>
        let v : Int := if signed then (x.at i).toInt else (x.at i).toNat
        let r := f32.round c.mode c.ftz (decide (v < 0)) v.natAbs 0
        (BitVec.ofNat 32 r.1, r.2))))
def execVftoiS32 (d : BitVec 5) (a : Src) (r : BitVec 1) (p : BitVec 2) (s : State) : Out :=
  .next (fpToInt true d a r p s)
def execVftoiN32 (d : BitVec 5) (a : Src) (r : BitVec 1) (p : BitVec 2) (s : State) : Out :=
  .next (fpToInt false d a r p s)
def execVitofS32 (d : BitVec 5) (a : Src) (p : BitVec 2) (s : State) : Out := .next (fpOfInt true d a p s)
def execVitofN32 (d : BitVec 5) (a : Src) (p : BitVec 2) (s : State) : Out := .next (fpOfInt false d a p s)

/-! ### The forms of .f32 (R130 to R133) -/

def execVfaddF32 (d : BitVec 5) (a b : Src) (p : BitVec 2) (s : State) : Out := .next (fp2 f32 1#4 f32.add d a b p s)
def execVfsubF32 (d : BitVec 5) (a b : Src) (p : BitVec 2) (s : State) : Out := .next (fp2 f32 1#4 f32.sub d a b p s)
def execVfmulF32 (d : BitVec 5) (a b : Src) (p : BitVec 2) (s : State) : Out := .next (fp2 f32 1#4 f32.mul d a b p s)
def execVfmaF32 (d : BitVec 5) (a b : Src) (p : BitVec 2) (s : State) : Out := .next (fp3 f32 1#4 d a b p s)
def execVfminF32 (d : BitVec 5) (a b : Src) (p : BitVec 2) (s : State) : Out := .next (fp2 f32 1#4 (f32.minmax false) d a b p s)
def execVfmaxF32 (d : BitVec 5) (a b : Src) (p : BitVec 2) (s : State) : Out := .next (fp2 f32 1#4 (f32.minmax true) d a b p s)
def execVfabsF32 (d : BitVec 5) (a : Src) (p : BitVec 2) (s : State) : Out :=
  .next (fp1 f32 1#4 false (fun _ u => (f32.abs u, 0#5)) d a p s)
def execVfnegF32 (d : BitVec 5) (a : Src) (p : BitVec 2) (s : State) : Out :=
  .next (fp1 f32 1#4 false (fun _ u => (f32.negCode u, 0#5)) d a p s)
def execVfcmpEqF32 (d : BitVec 4) (a b : Src) (p : BitVec 2) (s : State) : Out :=
  .next (fpCmp f32 1#4 .eq d a b p s)
def execVfcmpNeF32 (d : BitVec 4) (a b : Src) (p : BitVec 2) (s : State) : Out :=
  .next (fpCmp f32 1#4 .ne d a b p s)
def execVfcmpLtF32 (d : BitVec 4) (a b : Src) (p : BitVec 2) (s : State) : Out :=
  .next (fpCmp f32 1#4 .lt d a b p s)
def execVfcmpLeF32 (d : BitVec 4) (a b : Src) (p : BitVec 2) (s : State) : Out :=
  .next (fpCmp f32 1#4 .le d a b p s)
def execVfcmpUnF32 (d : BitVec 4) (a b : Src) (p : BitVec 2) (s : State) : Out :=
  .next (fpCmp f32 1#4 .un d a b p s)
def execVfclassF32 (d : BitVec 5) (a : Src) (p : BitVec 2) (s : State) : Out := .next (fpClass f32 1#4 d a p s)

/-! ### The forms of .f16 (R130 to R133) -/

def execVfaddF16 (d : BitVec 5) (a b : Src) (p : BitVec 2) (s : State) : Out := .next (fp2 f16 2#4 f16.add d a b p s)
def execVfsubF16 (d : BitVec 5) (a b : Src) (p : BitVec 2) (s : State) : Out := .next (fp2 f16 2#4 f16.sub d a b p s)
def execVfmulF16 (d : BitVec 5) (a b : Src) (p : BitVec 2) (s : State) : Out := .next (fp2 f16 2#4 f16.mul d a b p s)
def execVfmaF16 (d : BitVec 5) (a b : Src) (p : BitVec 2) (s : State) : Out := .next (fp3 f16 2#4 d a b p s)
def execVfminF16 (d : BitVec 5) (a b : Src) (p : BitVec 2) (s : State) : Out := .next (fp2 f16 2#4 (f16.minmax false) d a b p s)
def execVfmaxF16 (d : BitVec 5) (a b : Src) (p : BitVec 2) (s : State) : Out := .next (fp2 f16 2#4 (f16.minmax true) d a b p s)
def execVfabsF16 (d : BitVec 5) (a : Src) (p : BitVec 2) (s : State) : Out :=
  .next (fp1 f16 2#4 false (fun _ u => (f16.abs u, 0#5)) d a p s)
def execVfnegF16 (d : BitVec 5) (a : Src) (p : BitVec 2) (s : State) : Out :=
  .next (fp1 f16 2#4 false (fun _ u => (f16.negCode u, 0#5)) d a p s)
def execVfcmpEqF16 (d : BitVec 4) (a b : Src) (p : BitVec 2) (s : State) : Out :=
  .next (fpCmp f16 2#4 .eq d a b p s)
def execVfcmpNeF16 (d : BitVec 4) (a b : Src) (p : BitVec 2) (s : State) : Out :=
  .next (fpCmp f16 2#4 .ne d a b p s)
def execVfcmpLtF16 (d : BitVec 4) (a b : Src) (p : BitVec 2) (s : State) : Out :=
  .next (fpCmp f16 2#4 .lt d a b p s)
def execVfcmpLeF16 (d : BitVec 4) (a b : Src) (p : BitVec 2) (s : State) : Out :=
  .next (fpCmp f16 2#4 .le d a b p s)
def execVfcmpUnF16 (d : BitVec 4) (a b : Src) (p : BitVec 2) (s : State) : Out :=
  .next (fpCmp f16 2#4 .un d a b p s)
def execVfclassF16 (d : BitVec 5) (a : Src) (p : BitVec 2) (s : State) : Out := .next (fpClass f16 2#4 d a p s)
def execVfdot2F16 (d : BitVec 5) (a b : Src) (p : BitVec 2) (s : State) : Out := .next (fpDot f16 2#4 d a b p s)

/-! ### The forms of .bf16 (R130 to R133) -/

def execVfaddBf16 (d : BitVec 5) (a b : Src) (p : BitVec 2) (s : State) : Out := .next (fp2 bf16 3#4 bf16.add d a b p s)
def execVfsubBf16 (d : BitVec 5) (a b : Src) (p : BitVec 2) (s : State) : Out := .next (fp2 bf16 3#4 bf16.sub d a b p s)
def execVfmulBf16 (d : BitVec 5) (a b : Src) (p : BitVec 2) (s : State) : Out := .next (fp2 bf16 3#4 bf16.mul d a b p s)
def execVfmaBf16 (d : BitVec 5) (a b : Src) (p : BitVec 2) (s : State) : Out := .next (fp3 bf16 3#4 d a b p s)
def execVfminBf16 (d : BitVec 5) (a b : Src) (p : BitVec 2) (s : State) : Out := .next (fp2 bf16 3#4 (bf16.minmax false) d a b p s)
def execVfmaxBf16 (d : BitVec 5) (a b : Src) (p : BitVec 2) (s : State) : Out := .next (fp2 bf16 3#4 (bf16.minmax true) d a b p s)
def execVfabsBf16 (d : BitVec 5) (a : Src) (p : BitVec 2) (s : State) : Out :=
  .next (fp1 bf16 3#4 false (fun _ u => (bf16.abs u, 0#5)) d a p s)
def execVfnegBf16 (d : BitVec 5) (a : Src) (p : BitVec 2) (s : State) : Out :=
  .next (fp1 bf16 3#4 false (fun _ u => (bf16.negCode u, 0#5)) d a p s)
def execVfcmpEqBf16 (d : BitVec 4) (a b : Src) (p : BitVec 2) (s : State) : Out :=
  .next (fpCmp bf16 3#4 .eq d a b p s)
def execVfcmpNeBf16 (d : BitVec 4) (a b : Src) (p : BitVec 2) (s : State) : Out :=
  .next (fpCmp bf16 3#4 .ne d a b p s)
def execVfcmpLtBf16 (d : BitVec 4) (a b : Src) (p : BitVec 2) (s : State) : Out :=
  .next (fpCmp bf16 3#4 .lt d a b p s)
def execVfcmpLeBf16 (d : BitVec 4) (a b : Src) (p : BitVec 2) (s : State) : Out :=
  .next (fpCmp bf16 3#4 .le d a b p s)
def execVfcmpUnBf16 (d : BitVec 4) (a b : Src) (p : BitVec 2) (s : State) : Out :=
  .next (fpCmp bf16 3#4 .un d a b p s)
def execVfclassBf16 (d : BitVec 5) (a : Src) (p : BitVec 2) (s : State) : Out := .next (fpClass bf16 3#4 d a p s)
def execVfdot2Bf16 (d : BitVec 5) (a b : Src) (p : BitVec 2) (s : State) : Out := .next (fpDot bf16 3#4 d a b p s)

/-! ### The forms of .f64 (R130 to R132) -/

def execVfaddF64 (d : BitVec 4) (a b : Src) (p : BitVec 2) (s : State) : Out := .next (fpw2 f64.add d a b p s)
def execVfsubF64 (d : BitVec 4) (a b : Src) (p : BitVec 2) (s : State) : Out := .next (fpw2 f64.sub d a b p s)
def execVfmulF64 (d : BitVec 4) (a b : Src) (p : BitVec 2) (s : State) : Out := .next (fpw2 f64.mul d a b p s)
def execVfmaF64 (d : BitVec 4) (a b : Src) (p : BitVec 2) (s : State) : Out := .next (fpw3 d a b p s)
def execVfminF64 (d : BitVec 4) (a b : Src) (p : BitVec 2) (s : State) : Out := .next (fpw2 (f64.minmax false) d a b p s)
def execVfmaxF64 (d : BitVec 4) (a b : Src) (p : BitVec 2) (s : State) : Out := .next (fpw2 (f64.minmax true) d a b p s)
def execVfabsF64 (d : BitVec 4) (a : Src) (p : BitVec 2) (s : State) : Out := .next (fpw1 false (fun _ u => (f64.abs u, 0#5)) d a p s)
def execVfnegF64 (d : BitVec 4) (a : Src) (p : BitVec 2) (s : State) : Out := .next (fpw1 false (fun _ u => (f64.negCode u, 0#5)) d a p s)
def execVfcmpEqF64 (d : BitVec 4) (a b : Src) (p : BitVec 2) (s : State) : Out := .next (fpwCmp .eq d a b p s)
def execVfcmpNeF64 (d : BitVec 4) (a b : Src) (p : BitVec 2) (s : State) : Out := .next (fpwCmp .ne d a b p s)
def execVfcmpLtF64 (d : BitVec 4) (a b : Src) (p : BitVec 2) (s : State) : Out := .next (fpwCmp .lt d a b p s)
def execVfcmpLeF64 (d : BitVec 4) (a b : Src) (p : BitVec 2) (s : State) : Out := .next (fpwCmp .le d a b p s)
def execVfcmpUnF64 (d : BitVec 4) (a b : Src) (p : BitVec 2) (s : State) : Out := .next (fpwCmp .un d a b p s)
def execVfclassF64 (d : BitVec 5) (a : Src) (p : BitVec 2) (s : State) : Out :=
  .next (issue { v := d.toNat :: srcV64 a, s := srcS a, pred := p, predicated := true, k := Perm.param a.perm
                 fmts := srcFmt64 a } s (fun s m =>
    let x := s.src64 false a
    { st := s.writeV d.toNat m
        (entryOf x.uniform (fun i => BitVec.ofNat 32 (2 ^ f64.classOf (Lanes.at x.lanes i).toNat))) 0#4 }))

/-! ### Transcendentals (R140) -/

def execVfrcpF32 (d : BitVec 5) (a : Src) (p : BitVec 2) (s : State) : Out :=
  .next (fp1 f32 1#4 true (f32.trans .rcp) d a p s)
def execVfrsqF32 (d : BitVec 5) (a : Src) (p : BitVec 2) (s : State) : Out :=
  .next (fp1 f32 1#4 true (f32.trans .rsq) d a p s)
def execVfsqrtF32 (d : BitVec 5) (a : Src) (p : BitVec 2) (s : State) : Out :=
  .next (fp1 f32 1#4 true (f32.trans .sqrt) d a p s)
def execVfexp2F32 (d : BitVec 5) (a : Src) (p : BitVec 2) (s : State) : Out :=
  .next (fp1 f32 1#4 true (f32.trans .exp2) d a p s)
def execVflog2F32 (d : BitVec 5) (a : Src) (p : BitVec 2) (s : State) : Out :=
  .next (fp1 f32 1#4 true (f32.trans .log2) d a p s)
def execVftanhF32 (d : BitVec 5) (a : Src) (p : BitVec 2) (s : State) : Out :=
  .next (fp1 f32 1#4 true (f32.trans .tanh) d a p s)
def execVfrcpF64 (d : BitVec 4) (a : Src) (p : BitVec 2) (s : State) : Out :=
  .next (fpw1 true (f64.trans .rcp) d a p s)
def execVfrsqF64 (d : BitVec 4) (a : Src) (p : BitVec 2) (s : State) : Out :=
  .next (fpw1 true (f64.trans .rsq) d a p s)
def execVfsqrtF64 (d : BitVec 4) (a : Src) (p : BitVec 2) (s : State) : Out :=
  .next (fpw1 true (f64.trans .sqrt) d a p s)
def execVfexp2F16 (d : BitVec 5) (a : Src) (p : BitVec 2) (s : State) : Out :=
  .next (fp1 f16 2#4 true (f16.trans .exp2) d a p s)
def execVflog2F16 (d : BitVec 5) (a : Src) (p : BitVec 2) (s : State) : Out :=
  .next (fp1 f16 2#4 true (f16.trans .log2) d a p s)
def execVftanhF16 (d : BitVec 5) (a : Src) (p : BitVec 2) (s : State) : Out :=
  .next (fp1 f16 2#4 true (f16.trans .tanh) d a p s)

end Sys2Proof.Machine
end

