-- ==== Sys2Proof/Machine/Control.lean ====
section
/-! DEFINITION. Control and divergence instructions and the hint words (R66 to R93), wait.addr aside. -/

namespace Sys2Proof.Machine

/-! ### Branches (R83, R85, R86) -/

/-- A B-format target: the branch address plus 4 times the signed displacement (R46). -/
def State.target (s : State) (i : BitVec 18) : Word := s.pc + (i.signExtend 32 <<< 2)

/-- The real active lanes that satisfy c go to t; the others fall through (R83). -/
def branchIf (u : Use) (i : BitVec 18) (c : State → Mask → Lane → Bool) (s : State) : State :=
  issue u s (fun s m =>
    let r := s.real m
    let go := maskOf (fun j => Mask.has r j && c s r j)
    { st := s.jump go (fun _ => s.target i), jumped := go })

def execBra (i : BitVec 18) (s : State) : Out :=
  .next (branchIf { predicated := true } i (fun _ _ _ => true) s)
/-- The OR of the mask over the contributing lanes (R83). -/
def execBrcAny (m : BitVec 4) (i : BitVec 18) (s : State) : Out :=
  .next (branchIf {} i (fun s r _ => (s.me.mask m.toNat &&& r) != 0#32) s)
/-- The AND of the mask over the contributing lanes (R83). -/
def execBrcAll (m : BitVec 4) (i : BitVec 18) (s : State) : Out :=
  .next (branchIf {} i (fun s r _ => (s.me.mask m.toNat &&& r) == r) s)
/-- The NOR of the mask over the contributing lanes (R83). -/
def execBrcNone (m : BitVec 4) (i : BitVec 18) (s : State) : Out :=
  .next (branchIf {} i (fun s r _ => (s.me.mask m.toNat &&& r) == 0#32) s)
def execBrz (r : BitVec 5) (i : BitVec 18) (s : State) : Out :=
  .next (branchIf { v := [r.toNat], predicated := true } i (fun s _ j => s.me.lane r.toNat j == 0#32) s)
def execBrnz (r : BitVec 5) (i : BitVec 18) (s : State) : Out :=
  .next (branchIf { v := [r.toNat], predicated := true } i (fun s _ j => s.me.lane r.toNat j != 0#32) s)
/-- park records the meeting point and the mask, and goes there (R85). -/
def execPark (m : BitVec 4) (i : BitVec 18) (s : State) : Out :=
  .next (issue { predicated := true } s (fun s a =>
    let r := s.real a
    let t := s.target i
    let w := s.me
    let s := s.setMe { w with
      meet := Lanes.where_ w.meet r (fun _ => t)
      meetmask := Lanes.where_ w.meetmask r (fun _ => m) }
    { st := s.jump r (fun _ => t), jumped := r }))

/-- call writes the link and goes to the target (R86). -/
def execCall (r : BitVec 5) (i : BitVec 18) (s : State) : Out :=
  .next (issue { v := [r.toNat], predicated := true } s (fun s m =>
    let t := s.target i
    let go := s.real m
    { st := (s.writeV r.toNat m (.uniform (s.pc + 4#32)) 0#4).jump go (fun _ => t), jumped := go }))

/-- The lanes of m whose target fails R66, with their traps. -/
def State.badTargets (s : State) (m : Mask) (t : Lane → Word) : List (Lane × Trap) :=
  (lanesOf m).filterMap (fun i => (targetCheck s.myGrid.record (t i)).map (fun c => (i, Trap.plain c)))

/-- An indirect jump; with a link its register takes the next address, and a helper lane whose target fails writes 0
(R15, R66, R86). -/
def indirect (u : Use) (r : BitVec 5) (link : Bool) (s : State) : State :=
  issue u s (fun s m =>
    let w := s.me
    let t (i : Lane) : Word := w.lane r.toNat i
    let traps := s.badTargets (s.real m) t
    let help := trapLanes (s.badTargets (m &&& ~~~s.real m) t)
    let go := s.real m &&& ~~~trapLanes traps
    let e : Entry :=
      if help == 0#32 then .uniform (s.pc + 4#32)
      else .general (perLane (fun i => if Mask.has help i then 0#32 else s.pc + 4#32))
    let s' := if link then s.writeV r.toNat (m &&& ~~~trapLanes traps) e 0#4 else s
    { st := s'.jump go t, traps := traps, jumped := go })

def execRet (r : BitVec 5) (s : State) : Out := .next (indirect { v := [r.toNat] } r false s)
def execBix (r : BitVec 5) (s : State) : Out := .next (indirect { v := [r.toNat], predicated := true } r false s)
def execCallx (r : BitVec 5) (s : State) : Out := .next (indirect { v := [r.toNat], predicated := true } r true s)

/-! ### Rejoin masks and votes (R84, R87, R88) -/

/-- A mask instruction: the real active lanes of md take a condition. -/
def maskOp (d : BitVec 4) (p : BitVec 2) (f : Warp → Lane → Bool) (s : State) : State :=
  issue { pred := p, predicated := true } s (fun s m =>
    { st := s.writeMask d.toNat (s.real m) (f s.me) })

def execEnrol (m : BitVec 4) (p : BitVec 2) (s : State) : Out := .next (maskOp m p (fun _ _ => true) s)
/-- strike removes the lanes from the mask and clears their meeting registers (R84). -/
def execStrike (m : BitVec 4) (p : BitVec 2) (s : State) : Out :=
  .next (issue { pred := p, predicated := true } s (fun s a =>
    { st := s.setMe (s.me.release m.toNat (s.real a)) }))
def execMand (d a b : BitVec 4) (p : BitVec 2) (s : State) : Out :=
  .next (maskOp d p (fun w i => Mask.has (w.mask a.toNat) i && Mask.has (w.mask b.toNat) i) s)
def execMor (d a b : BitVec 4) (p : BitVec 2) (s : State) : Out :=
  .next (maskOp d p (fun w i => Mask.has (w.mask a.toNat) i || Mask.has (w.mask b.toNat) i) s)
def execMxor (d a b : BitVec 4) (p : BitVec 2) (s : State) : Out :=
  .next (maskOp d p (fun w i => Mask.has (w.mask a.toNat) i != Mask.has (w.mask b.toNat) i) s)
def execMnot (d a : BitVec 4) (p : BitVec 2) (s : State) : Out :=
  .next (maskOp d p (fun w i => !Mask.has (w.mask a.toNat) i) s)
/-- A count over all 32 bits of a mask, written in the real active lanes (R87). -/
def maskCount (d : BitVec 5) (p : BitVec 2) (f : Warp → Word) (s : State) : State :=
  issue { v := [d.toNat], pred := p, predicated := true } s (fun s m =>
    { st := s.writeV d.toNat (s.real m) (.uniform (f s.me)) 0#4 })
def execMpop (d : BitVec 5) (a : BitVec 4) (p : BitVec 2) (s : State) : Out :=
  .next (maskCount d p (fun w => onesOf (w.mask a.toNat)) s)
def execMfirst (d : BitVec 5) (a : BitVec 4) (p : BitVec 2) (s : State) : Out :=
  .next (maskCount d p (fun w => match lowestLane? (w.mask a.toNat) with
    | .some i => BitVec.ofNat 32 i.val
    | .none => 32#32) s)

/-- The ballot of R88: the contributing lanes, and those of them whose value is nonzero. -/
def State.ballot (s : State) (m : Mask) (a : Src) : Mask × Mask :=
  let c := s.real m
  let x := s.srcA a
  (c, maskOf (fun i => Mask.has c i && x.at i != 0#32))
/-- The use of a vote. -/
def voteUse (v : List Nat) (a : Src) (p : BitVec 2) : Use :=
  { v := v ++ srcV a, s := srcS a, pred := p, predicated := true, k := Perm.param a.perm }
def execVoteAny (d : BitVec 4) (a : Src) (p : BitVec 2) (s : State) : Out :=
  .next (issue (voteUse [] a p) s (fun s m =>
    let (_, b) := s.ballot m a
    { st := s.writeMask d.toNat m (fun _ => b != 0#32) }))
def execVoteAll (d : BitVec 4) (a : Src) (p : BitVec 2) (s : State) : Out :=
  .next (issue (voteUse [] a p) s (fun s m =>
    let (c, b) := s.ballot m a
    { st := s.writeMask d.toNat m (fun _ => b == c) }))
def execVoteBallot (d : BitVec 5) (a : Src) (p : BitVec 2) (s : State) : Out :=
  .next (issue (voteUse [d.toNat] a p) s (fun s m =>
    { st := s.writeV d.toNat m (.uniform (s.ballot m a).2) 0#4 }))

/-! ### Ending and yielding (R89 to R91) -/

/-- The lanes m retire: their mask bits, pending results, marks, waits and kept hints go; a warp with no live lane left
frees its entries (R89). -/
def Warp.retire (w : Warp) (m : Mask) : Warp :=
  let without (l : List Pend) : List Pend := (l.map (fun p => { p with
    dests := p.dests.map (fun d => (d.1, d.2.1, d.2.2 &&& ~~~m))
    lanes := p.lanes &&& ~~~m, logged := p.logged &&& ~~~m, remote := p.remote &&& ~~~m })).filter (fun p => p.lanes != 0#32)
  let w := w.clearMasks m
  let w := { w with
    retired := w.retired ||| (m &&& w.real)
    detached := w.detached &&& ~~~m
    waiting := w.waiting.filter (fun t => !Mask.has m t.1)
    filing := w.filing.filter (fun t => !Mask.has m t.1)
    deferred := w.deferred.filter (fun t => !Mask.has m t.1)
    out := w.out &&& ~~~m
    withheld := w.withheld &&& ~~~m
    wait := Lanes.where_ w.wait m (fun _ => .none)
    kept := Lanes.where_ w.kept m (fun _ => .none)
    lu := Lanes.where_ w.lu m (fun _ => 0#22)
    done := Lanes.where_ w.done m (fun _ => 0#15)
    logpc := Lanes.where_ w.logpc m (fun _ => .none)
    pend := without w.pend
    ckpt := { w.ckpt with pend := without w.ckpt.pend }
    bundles := w.bundles.filterMap (fun b =>
      if (b.lanes &&& ~~~m) == 0#32 then .none else .some { b with lanes := b.lanes &&& ~~~m }) }
  if w.live == 0#32 then { w with v := zeroV, h := zeroH, bundles := [], place := .gone } else w

/-- exit retires the real active lanes, which go on with their quads as helper lanes (R290); in a handler warp it raises ILLEGAL (R89, R270). -/
def execExit (p : BitVec 2) (s : State) : Out :=
  .next (issue { pred := p, predicated := true, bad := s.me.handler } s (fun s m =>
    let r := s.real m
    { st := s.setMe (s.me.retire r) }))
/-- yield makes the warp the youngest of its class until it next issues (R90). -/
def execYield (p : BitVec 2) (s : State) : Out :=
  .next (issue { pred := p, predicated := true } s (fun s _ => { st := s.setMe { s.me with yielded := true } }))
/-- region waits for the warp's pending results, in a local handler those made in it, then checkpoints it at the next instruction (R91, R278). -/
def execRegion (s : State) : Out :=
  .next (issue {} s (fun s _ =>
    if s.me.pend.all s.me.frozen then
      let s := s.advance s.bundle
      { st := s.setMe s.me.checkpoint, jumped := s.bundle }
    else { st := s, stall := true }))

/-! ### Hint words (R49, R50, R93) -/

/-- A hint word: its payload joins the packet's hints, and the issuer steps past it (R42, R93). -/
def hintWord (f : Hints → Hints) (s : State) : State :=
  match s.issuer with
  | .vector => { (s.advance s.bundle) with hints := f s.hints, inPacket := true }
  | .control cl =>
    { s.modCluster cl (fun c => { c with hints := f c.hints, pc := c.pc + 4#32 }) with inPacket := true }

/-- A hint of a kind that the packet already holds breaks rule 3 of R50. -/
def Hints.spoil (h : Hints) (dup : Bool) : Hints := { h with bad := h.bad || dup }

def execNop (s : State) : Out := .next (hintWord id s)
def execHintK (b a : BitVec 5) (s : State) : Out :=
  .next (hintWord (fun h => { (h.spoil h.k.isSome) with k := .some (b, a) }) s)
def execHintImm (i : BitVec 22) (s : State) : Out :=
  .next (hintWord (fun h => { (h.spoil h.imm.isSome) with imm := .some i }) s)
def execHintLu (l : BitVec 22) (s : State) : Out :=
  .next (hintWord (fun h => { (h.spoil h.lu.isSome) with lu := .some l }) s)
def execHintPred (n : BitVec 1) (m : BitVec 4) (s : State) : Out :=
  .next (hintWord (fun h => { (h.spoil h.pred.isSome) with pred := .some (n, m) }) s)
def execHintOff (o : BitVec 22) (s : State) : Out :=
  .next (hintWord (fun h => { (h.spoil h.off.isSome) with off := .some o }) s)
def execHintCache (sc : BitVec 3) (f : BitVec 4) (c : BitVec 3) (s : State) : Out :=
  .next (hintWord (fun h => { (h.spoil h.cache.isSome) with cache := .some (sc, f, c) }) s)
/-- hint.sched also withholds the 8 cc re-formation of its warp until the instruction it stands before has issued; the re-formation that control 2 asks for comes before the
packet begins (R42, R69; Issue). -/
def execHintSched (c : BitVec 2) (l : BitVec 4) (s : State) : Out :=
  let s := hintWord (fun h => { (h.spoil h.sched.isSome) with sched := .some (c, l) }) s
  match s.issuer with
  | .control _ => .next s
  | .vector =>
    if c == 1#2 then .next (s.setMe { s.me with withheld := s.me.withheld ||| s.bundle }) else .next s

/-- A word that decodes to no instruction (R43, R52). A malformed hint word spoils the hints of its packet, whose instruction
then raises ILLEGAL (rule 4 of R50); any other such word raises ILLEGAL itself. -/
def execUnassignedEncoding (w : Word) (s : State) : Out :=
  .next (if isHint w then hintWord (fun h => { h with bad := true }) s
    else issue { bad := true } s (fun s _ => { st := s }))

end Sys2Proof.Machine
end

