-- ==== Sys2Proof/Machine/Net.lean ====
section
/-! DEFINITION. Sending over Uluster (R381 to R388): the route of a device, the packets that wait for credits and buffer
room, and the flits that carry them. The receive side is in Links. -/

namespace Sys2Proof.Machine

/-- The port that carries traffic to a device, when its route is set and the port is up (R382). -/
def State.routeTo (s : State) (dev : Nat) : Option Nat :=
  if mapHas s.routes dev then
    let p := mapGet 0 s.routes dev
    if (s.link p).up then .some p else .none
  else .none

/-- The channel of a packet: 0 request, 1 response, 2 ordered (R384). -/
def channelOf : LinkPacket → Nat
  | .request _ _ _ => 0
  | .response _ _ => 1
  | .refusal _ _ => 1
  | .hold _ => 1
  | .faultRecord _ _ _ _ _ _ _ => 0
  | .faultReply _ _ => 1
  | .keyMessage => 2

/-- The size of a packet in 16-byte units: a header and its data (log 11). -/
def packetUnits : LinkPacket → Nat
  | .request _ _ (.write _ b) => 2 + (b.length + 15) / 16
  | .request _ _ (.atomic _ _ _ _) => 3
  | .request _ _ _ => 2
  | .response _ b => 1 + (b.length + 15) / 16
  | .refusal _ _ => 1
  | .hold _ => 1
  | .faultRecord _ _ _ _ _ _ _ => 2
  | .faultReply _ _ => 1
  | .keyMessage => 1

/-- The credits of a channel. -/
def Link.credit (l : Link) (c : Nat) : Nat :=
  match c with
  | 0 => l.credits.1
  | 1 => l.credits.2.1
  | _ => l.credits.2.2

/-- The link with n credits of a channel spent. -/
def Link.spend (l : Link) (c n : Nat) : Link :=
  match c with
  | 0 => { l with credits := (l.credits.1 - n, l.credits.2.1, l.credits.2.2) }
  | 1 => { l with credits := (l.credits.1, l.credits.2.1 - n, l.credits.2.2) }
  | _ => { l with credits := (l.credits.1, l.credits.2.1, l.credits.2.2 - n) }

/-- A flit sent under the active key: it takes the next counter, stays in the retry buffer, returns credits, and acknowledges what
was verified, after which a receiver's old key is erased (R383, R384, R385, R387, R388). -/
def Link.sendFlit (l : Link) (kind : BitVec 4) (ps : List LinkPacket) : Link :=
  let (o0, o1, o2) := l.owed
  let f : Flit :=
    { epoch := l.txEpoch, counter := l.txCounter, kind := kind, reservedZero := true
      cred0 := BitVec.ofNat 8 (min 255 o0), cred1 := BitVec.ofNat 8 (min 255 o1), cred2 := BitVec.ofNat 8 (min 255 o2)
      ack := l.rxLast.2, ackEpoch := l.rxLast.1, packets := ps }
  { l with sent := l.sent ++ [⟨l.txEpoch, l.txCounter, f⟩], txCounter := l.txCounter + 1, oldRx := false
           owed := (o0 - 255, o1 - 255, o2 - 255) }

/-- The last counter of an epoch, kept for the key marker (R388). -/
def lastCounter : Nat := 2 ^ 32 - 1

/-- Has the counter reached the stall threshold without the next key (R388)? -/
def Link.keyLate (l : Link) : Bool := decide (2 ^ 32 - 2 ^ 16 ≤ l.txCounter) && !l.nextKey

/-- May a packet go now: the port up, room in the retry buffer, a counter left, credits for all of it, and while stalled only key
messages (R384, R385, R388)? -/
def Link.mayGo (l : Link) (p : LinkPacket) : Bool :=
  l.up && decide (l.sent.length < 64) && decide (l.txCounter < lastCounter) && decide (packetUnits p ≤ l.credit (channelOf p))
    && (p == .keyMessage || !(l.stalled || l.keyLate))

/-- Waiting packets sent in order, each channel on its own (R384). -/
def Link.pump : List LinkPacket → Link → Link
  | [], l => l
  | p :: t, l =>
    if l.mayGo p && !(l.out.any (fun q => channelOf q == channelOf p)) then
      Link.pump t ((l.spend (channelOf p) (packetUnits p)).sendFlit 1#4 [p])
    else Link.pump t { l with out := l.out ++ [p] }

/-- With the next key installed at both ends, the marker goes out under the old key, and later flits use the new slot (R388). -/
def Link.mark (l : Link) : Link :=
  if l.up && l.nextKey && decide (l.sent.length < 64) then
    let l := l.sendFlit 2#4 []
    { l with txEpoch := l.txEpoch + 1, txCounter := 0, nextKey := false, oldTx := true, stalled := false, stalledAt := 0 }
  else l

/-- A port sends what it can. -/
def Link.flush (l : Link) : Link :=
  let l := l.mark
  Link.pump l.out { l with out := [] }

/-- A packet handed to a port. -/
def State.sendPacket (s : State) (p : Nat) (x : LinkPacket) : State :=
  s.modLink p (fun l => { l with out := l.out ++ [x] }.flush)

/-- The key identity of a world's handle that its peer accesses carry, 0 for world 0 (R357). -/
def State.worldKey (s : State) (w : BitVec 10) : Nat := if w == 0#10 then 0 else (s.world w).handle.toNat

/-- A request to a device for a requester: none when no port reaches it (R382, R390). -/
def State.request (s : State) (dev : Nat) (w : BitVec 10) (op : PeerOp) (who : Requester) : Option State :=
  match s.routeTo dev with
  | .none => .none
  | .some p =>
    let (k, s) := s.newUnit
    let s := s.modLink p (fun l => { l with reqs := mapPut l.reqs k ⟨who, 0⟩ })
    .some (s.sendPacket p (.request k (s.worldKey w) op))

end Sys2Proof.Machine
end

