-- ==== Sys2Proof/Machine/Race.lean ====
section
/-! DEFINITION. The ordering model (R174 to R191) as clocks of agents, and the race detector (R192 to R201). Memory itself is
sequentially consistent (log 5); what the rules leave visible is which access conflicts. -/

namespace Sys2Proof.Machine

/-! ### Agents and clocks (R174, R175, R193) -/

/-- The agent of a key. -/
def State.agent (s : State) (k : Nat) : Agent := mapGet Agent.empty s.agents k
/-- The state with agent k changed by f. -/
def State.modAgent (s : State) (k : Nat) (f : Agent → Agent) : State :=
  { s with agents := mapPut s.agents k (f (s.agent k)) }

/-- The agent of a thread: its group and its $tid, which it keeps wherever it goes (R200). -/
def threadAgent (w : Warp) (i : Lane) : Nat := w.group * 1024 + (Lanes.at w.tid i).toNat
/-- The agent of lane i of warp k, with its place in scopes brought up to date (R175). -/
def State.touch (s : State) (k : Nat) (i : Lane) : Nat × State :=
  let w := s.warp k
  let g := s.group w.group
  let a := threadAgent w i
  (a, s.modAgent a (fun x => { x with warp := k, group := w.group, gang := g.grid * 2 ^ 32 + g.gang.toNat }))

/-- The later of two clocks, entry by entry. -/
def joinClock (a b : Map Nat) : Map Nat := b.foldl (fun m (k, v) => if mapGet 0 m k < v then mapPut m k v else m) a
/-- What is ordered before an agent's accesses of class c. Class 6 stands for an engine's reads, which every class of its issue's
clock precedes (R189). -/
def Agent.of (a : Agent) (c : Nat) : Map Nat := if h : c < 6 then a.know[c] else a.know[5]
/-- The agent with a clock joined into class c. -/
def Agent.learn (a : Agent) (c : Nat) (m : Map Nat) : Agent :=
  if h : c < 6 then { a with know := a.know.set c (joinClock a.know[c] m) } else a
/-- The agent with a clock joined into every class. -/
def Agent.learnAll (a : Agent) (m : Map Nat) : Agent := { a with know := Vector.ofFn (fun c : Fin 6 => joinClock a.know[c.val] m) }
/-- What agent k's accesses of class c so far publish. -/
def State.published (s : State) (k c : Nat) : Map Nat :=
  let a := s.agent k
  joinClock (a.of c) [(k * 8 + c, a.region + 1)]
/-- What agent k's accesses of every class so far publish. -/
def State.publishedAll (s : State) (k : Nat) : Map Nat :=
  (List.range 6).foldl (fun m c => joinClock m (s.published k c)) []
/-- Agent k's synchronisation-free region ends (R193). -/
def State.endRegion (s : State) (k : Nat) : State := s.modAgent k (fun a => { a with region := a.region + 1 })

/-! ### Releases and acquires (R176, R178, R184) -/

/-- A scope code, 0 meaning device (R49). -/
def scopeOf (c : BitVec 3) : Nat := if c == 0#3 then 5 else c.toNat
/-- Is an agent an endpoint below a root port? The agents of the ports are the last ones. -/
def endpoint (a : Nat) : Bool := decide ((2 ^ 40 + 64) * 1024 ≤ a)

/-- The threads of the warp that agent a is in now. -/
def State.mates (s : State) (a : Nat) : List Nat :=
  let w := s.warp (s.agent a).warp
  (lanesOf w.live).map (threadAgent w)

/-- Does scope c of agent a, whose warp holds the threads given, reach agent b (R175)? A peer device is no agent here (log 5). -/
def State.within (s : State) (c : BitVec 3) (a : Nat) (mates : List Nat) (b : Nat) : Bool :=
  let x := s.agent a
  let y := s.agent b
  match scopeOf c with
  | 1 => a == b
  | 2 => a == b || mates.contains b
  | 3 => x.group == y.group
  | 4 => x.gang == y.gang
  | 7 => true
  | _ => !endpoint b

/-- The granules that n bytes at a location touch. -/
def granules (loc n : Nat) : List Nat := if n = 0 then [] else (List.range ((loc + n - 1) / 4 - loc / 4 + 1)).map (loc / 4 + ·)

/-- The releases that n bytes at a location carry. -/
def State.relsAt (s : State) (loc n : Nat) : List Rel := (granules loc n).flatMap (fun g => mapGet [] s.rels g)

/-- A release by agent k at a scope that publishes a clock, in its warp as it now stands (R175). -/
def State.release (s : State) (k : Nat) (scope : BitVec 3) (clock : Map Nat) : Rel :=
  ⟨k, scope, clock, if scopeOf scope == 2 then s.mates k else []⟩

/-- A release at n bytes of a location: what it publishes stays for acquires of this write or a later one (R176). -/
def State.addRel (s : State) (loc n : Nat) (r : Rel) : State :=
  let same (x : Rel) : Bool := x.agent == r.agent && x.scope == r.scope && x.mates == r.mates
  let put (l : List Rel) : List Rel :=
    let old := (l.find? same).map (·.clock)
    l.filter (fun x => !same x) ++ [{ r with clock := joinClock (old.getD []) r.clock }]
  { s with rels := (granules loc n).foldl (fun m g => mapPut m g (put (mapGet [] m g))) s.rels }

/-- Agent k releases at n bytes of a location of class c (R178). -/
def State.releaseAt (s : State) (k loc n c : Nat) (scope : BitVec 3) : State :=
  (s.addRel loc n (s.release k scope (s.published k c))).endRegion k

/-- What agent k acquires from a list of releases at a scope (R176): each holds the other in its scope, a release's scope judged when
it was made and an acquire's now (R175). -/
def State.acquired (s : State) (k : Nat) (scope : BitVec 3) (l : List Rel) : Map Nat :=
  let mates := if scopeOf scope == 2 then s.mates k else []
  l.foldl (fun m r =>
    if s.within r.scope r.agent r.mates k && s.within scope k mates r.agent then joinClock m r.clock else m) []

/-- Agent k acquires at n bytes of a location of class c (R178, R186). -/
def State.acquireAt (s : State) (k loc n c : Nat) (scope : BitVec 3) : State :=
  (s.modAgent k (fun a => a.learn c (s.acquired k scope (s.relsAt loc n)))).endRegion k

/-- An access of class c by agent k at n bytes of a location: a load remembers the releases it read for a later fence, and a store
carries the fences before it (R184). -/
def State.noteAccess (s : State) (k loc n c : Nat) (load store : Bool) : State :=
  let a := s.agent k
  let fences := a.fences.map (fun f => if f.1 == 7 then (c, f.2) else f)
  let seen := if load then a.seen ++ ((s.relsAt loc n).map (fun r => (c, r))) else a.seen
  let s := s.modAgent k (fun a => { a with last := .some c, fences := fences, seen := seen })
  if store then (fences.filter (fun f => f.1 == c)).foldl (fun s f => s.addRel loc n f.2) s
  else s

/-- The agent with a fence over class c: a later fence publishes what an earlier one of its scope did, and more. -/
def Agent.fence (a : Agent) (c : Nat) (r : Rel) : Agent :=
  { a with fences := a.fences.filter (fun f => !(f.1 == c && f.2.scope == r.scope && f.2.mates == r.mates)) ++ [(c, r)] }

/-- A fence of agent k at a scope (R184): it covers the class of the agent's last access, or the class of its first
access after it. -/
def State.fenceOf (s : State) (k : Nat) (scope : BitVec 3) : State :=
  let a := s.agent k
  let c := a.last.getD 7
  let m := s.acquired k scope ((a.seen.filter (fun r => r.1 == c)).map (·.2))
  let s := s.modAgent k (fun a => a.learn c m)
  let r := s.release k scope (if c == 7 then s.publishedAll k else s.published k c)
  (s.modAgent k (fun a => a.fence c r)).endRegion k

/-- Agent k acquires every release it has read at a scope, in every class. -/
def State.acquireSeen (s : State) (k : Nat) (scope : BitVec 3) : State :=
  let m := s.acquired k scope ((s.agent k).seen.map (·.2))
  s.modAgent k (fun a => a.learnAll m)

/-- Agent k knows a clock in every class, and its later stores of every class publish it at a scope; its region ends. -/
def State.coverAll (s : State) (k : Nat) (scope : BitVec 3) (u : Map Nat) : State :=
  let r := s.release k scope u
  (s.modAgent k (fun a => (List.range 6).foldl (fun a c => a.fence c r) (a.learnAll u))).endRegion k

/-- A fence.path of agent k at a scope: it covers every class (R184, R185). -/
def State.fencePathOf (s : State) (k : Nat) (scope : BitVec 3) : State :=
  let s := s.acquireSeen k scope
  s.coverAll k scope (s.publishedAll k)

/-- A barrier of R178 at a scope: everything each agent did is ordered before everything each does next, and it is a fence.path of
each at that scope (R186). -/
def State.barrierOf (s : State) (scope : BitVec 3) (ks : List Nat) : State :=
  let s := ks.foldl (fun s k => s.acquireSeen k scope) s
  let u := ks.foldl (fun m k => joinClock m (s.publishedAll k)) []
  ks.foldl (fun s k => s.coverAll k scope u) s

/-- A barrier of the lanes m of warp k. -/
def State.laneBarrier (s : State) (k : Nat) (m : Mask) : State :=
  let s := (lanesOf m).foldl (fun s i => (s.touch k i).2) s
  s.barrierOf 2#3 ((lanesOf m).map (threadAgent (s.warp k)))

/-! ### Engine operations (R187 to R190) -/

/-- A new engine agent for an operation of an engine: its issuers' earlier accesses are ordered before it, and each
issuer's region ends (R189, R193). -/
def State.newEngine (s : State) (engine : Nat) (issuers : List Nat) : Nat × State :=
  let (u, s) := s.newUnit
  let k := u * 1024
  let clock := issuers.foldl (fun m i => joinClock m (s.publishedAll i)) []
  let first := s.agent (issuers.headD 0)
  let s := s.modAgent k (fun a => { a.learnAll clock with engine := .some engine, group := first.group, gang := first.gang })
  (k, issuers.foldl (fun s i => s.endRegion i) s)

/-- What engine agent e's accesses counted up to now are: those of its regions below this number. What it does next is not counted
yet. -/
def State.counted_ (s : State) (e : Nat) : Nat := (s.agent e).region + 1

/-- The completion edge to observer k of the writes of engine agents that are counted up to the given regions, and of nothing else
of theirs: their reads are of class 6 (R187). -/
def State.observe (s : State) (k : Nat) (es : Map Nat) : State :=
  s.modAgent k (fun a => a.learnAll (es.flatMap (fun e => (List.range 6).map (fun c => (e.1 * 8 + c, e.2)))))

/-! ### The detector (R192 to R194) -/

/-- Are two agents one agent of R174: the same, or operations of one engine? -/
def State.sameAgent (s : State) (a b : Nat) : Bool :=
  a == b || ((s.agent a).engine.isSome && (s.agent a).engine == (s.agent b).engine)

/-- Does an access of class c by agent k, a lane of instruction instr, to a granule conflict with a recorded one (R194)? The lanes
of one instruction never conflict (R166). -/
def State.conflicts (s : State) (k c instr : Nat) (write : Bool) (granule : Nat) : Bool :=
  let know := (s.agent k).of c
  (mapGet [] s.races granule).any (fun r =>
    !s.sameAgent r.agent k && !(instr != 0 && r.instr == instr) && (r.write || write)
      && mapGet 0 know (r.agent * 8 + r.cls) < r.region + 1)

/-- Does an access of n bytes conflict? -/
def State.racy (s : State) (k c instr : Nat) (write : Bool) (loc n : Nat) : Bool :=
  (granules loc n).any (fun g => s.conflicts k c instr write g)

/-- A tracked access joins the history of its granules: the newest region of its agent, class and kind. -/
def State.record (s : State) (k c instr : Nat) (write : Bool) (grid loc n : Nat) : State :=
  let r : RaceRec := ⟨k, c, (s.agent k).region, write, grid, instr⟩
  { s with races := (granules loc n).foldl (fun m g =>
      mapPut m g ((mapGet [] m g).filter (fun x => !(x.agent == k && x.cls == c && x.write == write)) ++ [r])) s.races }

/-- The number that the detector knows the instruction at hand of warp k by (R166). -/
def State.instrNo (s : State) (k : Nat) : Nat := k * 2 ^ 64 + (s.warp k).issued.toNat + 1

/-- The history that the granules of a stack hold (R7, R195). -/
def stackHistory (m : Map (List RaceRec)) (k : Nat) : List RaceRec :=
  (m.filter (fun e => 4 * e.1 < 2 ^ 40 && stackOf (4 * e.1) == k)).flatMap (·.2)

/-- The entries that the area of a stack has room for (log 51). -/
def historyCap (k : Nat) : Nat := 2 ^ 20 + Config.historyRoom k

/-- The history of granules all of whose launches have completed is cleared (R194), and the room this frees on a stack ends
its being full (R195). -/
def State.clearHistory (s : State) : State :=
  let m := s.races.filter (fun (_, l) =>
    l.any (fun r => !((s.grid r.grid).status == .complete || (s.grid r.grid).status == .ended)))
  { s with races := m, full := s.full.filter (fun k => decide (historyCap k ≤ (stackHistory m k).length)) }

/-! ### The history area (R195; log 51) -/

/-- Can no stack's area be full yet? -/
def State.historyShort (s : State) : Bool := decide (s.races.foldl (fun n e => n + e.2.length) 0 < 2 ^ 20)

/-- Does a tracked access of n bytes at a physical location need a new entry for which its stack has no room? -/
def State.noRoom (s : State) (k c : Nat) (write : Bool) (loc n : Nat) : Bool :=
  !s.historyShort && decide (loc < 2 ^ 40) && (granules loc n).any (fun g =>
    !(mapGet [] s.races g).any (fun x => x.agent == k && x.cls == c && x.write == write)
      && decide (historyCap (stackOf (4 * g)) ≤ (stackHistory s.races (stackOf (4 * g))).length))

/-- The stacks on which what took the device from b to t needs a new entry that has no room. -/
def State.overfull (b t : State) : List Nat :=
  if t.historyShort then []
  else (List.range 16).filter (fun k =>
    let n := (stackHistory t.races k).length
    decide ((stackHistory b.races k).length < n) && decide (historyCap k < n))

/-- The $grid that holds the most of a history, the lowest of equals. -/
def topGrid (l : List RaceRec) : Nat :=
  let count (g : Nat) : Nat := (l.filter (fun r => r.grid == g)).length
  (l.foldl (fun (best : Option Nat) r =>
    match best with
    | .none => .some r.grid
    | .some g => if count g < count r.grid || (count g == count r.grid && r.grid < g) then .some r.grid else .some g) .none).getD 0

/-- A stack found full is reported once on die 0, by a code-5 record (R195, R365). -/
def State.tellFull (s : State) (k : Nat) : State :=
  if s.full.contains k then s
  else { s.post 0 ⟨5, [BitVec.ofNat 8 (k / 4), BitVec.ofNat 8 k, 0, 0] ++ bytesOfNat 4 (topGrid (stackHistory s.races k))
        ++ List.replicate 56 0, .none, .none⟩ with full := s.full ++ [k] }

/-- Each stack whose area has become full is reported (R195). -/
def State.reportFull (s : State) : State :=
  if s.historyShort then s
  else ((List.range 16).filter (fun k => decide (historyCap k ≤ (stackHistory s.races k).length))).foldl State.tellFull s

/-- What an engine, a commit or a control core does that took the device from b to t has no effect yet where it needs an entry for
which a stack has no room (R195). -/
def State.unlessFull (b t : State) : State := if (b.overfull t).isEmpty then t else b

end Sys2Proof.Machine
end

