-- ==== Sys2Proof/Machine/IoRegs.lean ====
section
/-! DEFINITION. The registers of I/O space (R310, R311, R324, R347, R363, R364, R372 to R375, R391, R398, R400, R402): one
read and one write of each, which path 0x3 accesses and the register-write events share. -/

namespace Sys2Proof.Machine

/-! ### The values of the registers -/

/-- Bits lo to lo + n - 1 of a register value. -/
def fieldBits (v : DWord) (lo n : Nat) : Nat := v.toNat / 2 ^ lo % 2 ^ n
/-- The bits hi to lo of v alone. -/
def keepBits (v : DWord) (hi lo : Nat) : DWord := BitVec.ofNat 64 (fieldBits v lo (hi - lo + 1) * 2 ^ lo)

/-- ULSTAT.p (R391). -/
def Link.ulstat (l : Link) : DWord :=
  BitVec.ofNat 64 ((if l.up then 2 ^ 63 else 0) + l.txEpoch % 2 * 2 ^ 62 + l.peer.toNat * 2 ^ 53 + l.retries.toNat * 2 ^ 32
    + l.authf.toNat * 2 ^ 24 + l.downs.toNat * 2 ^ 16 + l.txEpoch % 2 ^ 16)
/-- STARTREC (R398). -/
def Firmware.startrec (f : Firmware) : DWord :=
  BitVec.ofNat 64 ((if f.ready then 2 ^ 63 else 0) + f.kind.toNat * 2 ^ 60 + f.reason.toNat * 2 ^ 56 + f.wfail.toNat * 2 ^ 52
    + f.cfail.toNat * 2 ^ 48 + ownDevice * 2 ^ 39)
/-- PWRSTAT (R402). -/
def Front.pwrstat (f : Front) : DWord :=
  BitVec.ofNat 64 (f.freq % 1024 * 2 ^ 42 + f.power % 2 ^ 14 * 2 ^ 28 + f.temp % 256 * 2 ^ 20 + f.steps.toNat * 2 ^ 12
    + (if f.freq < 600 then 1 else 0))

/-- A register of the front end's block by its address; an address that no register occupies reads zero (R310). -/
def State.frontRead (s : State) (a : Nat) : DWord :=
  if a % 8 != 0 then 0#64
  else if h : a / 8 < 32 then s.front.qbind[a / 8]
  else if a < 0x900 then mapGet 0#64 s.front.qclass ((a - 0x100) / 8)
  else if a < 0x1000 then 0#64
  else if h : (a - 0x1000) / 8 < 5 then s.front.errstat[(a - 0x1000) / 8]
  else if 0x1040 ≤ a && a < 0x1080 then
    let r := s.ring ((a - 0x1040) / 16)
    if a % 16 == 0 then r.w0 else r.w1
  else if 0x1200 ≤ a && a < 0x12C0 then (s.link ((a - 0x1200) / 8)).ulstat
  else if 0x1300 ≤ a && a < 0x13C0 then (s.link ((a - 0x1300) / 8)).evt
  else if a == 0x1400 then s.firm.startrec
  else if a == 0x1408 then s.firm.rootevt
  else if a == 0x1410 then s.front.sysroot
  else if a == 0x1418 then s.front.pwrstat
  else 0#64

/-- A register of root port p's block (R373, R375). -/
def State.portRead (s : State) (p off : Nat) : DWord :=
  let q := s.port p
  if off == 0 then q.ctl
  else if off == 8 then q.stat
  else if h : 0x100 ≤ off ∧ (off - 0x100) / 16 < 64 then
    let c := q.ctx[(off - 0x100) / 16]'h.2
    if off % 16 == 0 then c.1 else if off % 16 == 8 then c.2 else 0#64
  else 0#64

/-! ### Writes -/

/-- QBIND.q: a stopped queue may run again, and EN 0 abandons a WAIT or BAR wait at once; a hart within another packet looks at it
when that is finished (R312, R316). -/
def State.writeQbind (s : State) (q : Nat) (v : DWord) : State :=
  if h : q < 32 then
    let v' := BitVec.ofNat 64 (fieldBits v 61 3 * 2 ^ 61) ||| keepBits v 56 6
    let hart := s.front.harts[q]
    let off := fieldBits v 63 1 == 0
    let hart' : Hart :=
      match hart.state with
      | .stopped | .idle | .waitHeader => { hart with state := if off then .idle else .waitHeader }
      | .waitBar | .waitCond => if off then { hart with state := .idle } else hart
      | .waitGraph | .mid | .pass => hart
    { s with front := { s.front with qbind := s.front.qbind.set q v', harts := s.front.harts.set q hart' } }
  else s

/-- SYSROOT; a hart within a packet, and a writer within a record, goes on with the root it began with (R311). -/
def State.writeSysroot (s : State) (v : DWord) : State :=
  { s with front := { s.front with sysroot := keepBits v 39 12 } }

/-- ERRSTAT.d: any write clears CE and UE (R363). -/
def State.writeErrstat (s : State) (d : Nat) (_v : DWord) : State :=
  if h : d < 5 then
    { s with front := { s.front with errstat := s.front.errstat.set d (keepBits s.front.errstat[d] 31 28) } }
  else s

/-- SVCCFG.d: BASE and SIZE change only while EN is 0; enabling restarts the ring (R364). -/
def State.writeSvccfg (s : State) (d : Nat) (second : Bool) (v : DWord) : State :=
  s.modRing d (fun r =>
    let on := fieldBits r.w0 63 1 == 1
    if second then
      let v' := keepBits v 35 0
      if on && keepBits v' 35 32 != keepBits r.w1 35 32 then r else { r with w1 := v' }
    else
      let en := keepBits v 63 63
      let base := keepBits v 56 6
      let w0 := if on && base != keepBits r.w0 56 6 then en ||| keepBits r.w0 56 6 else en ||| base
      if !on && fieldBits w0 63 1 == 1 then { r with w0 := w0, next := 0, slots := [] } else { r with w0 := w0 })

/-- ULSTAT.p: any write clears RETRY, AUTHF and DOWNS (R391). -/
def State.writeUlstat (s : State) (p : Nat) (_v : DWord) : State :=
  s.modLink p (fun l => { l with retries := 0#21, authf := 0#8, downs := 0#8 })
/-- ULEVT.p (R391). -/
def State.writeUlevt (s : State) (p : Nat) (v : DWord) : State :=
  s.modLink p (fun l => { l with evt := keepBits v 63 63 ||| keepBits v 56 4 })

/-- 60 s from OS load, in fs (R397). -/
def startLimit : Nat := 60 * 10 ^ 15

/-- STARTREC: writing 1 to READY within 60 s of OS load ends the start with success, which clears both counts and raises
the fuse counters of the images it loaded (R394, R397, R398). -/
def State.writeStartrec (s : State) (v : DWord) : State :=
  if fieldBits v 63 1 == 1 then
    let f := s.firm
    if f.phase == .osLoaded && decide (s.clock < f.loadedAt + startLimit) then
      { s with firm := { f with ready := true, phase := .up, wfail := 0#4, cfail := 0#4, fuses := max f.fuses f.loaded
                                measured := mapPut f.measured 6 ({ f with ready := true, wfail := 0#4, cfail := 0#4 }).startrec } }
    else { s with firm := { f with ready := true } }
  else s

/-- ROOTEVT: EN and ADDR are kept; ACK ends a pending reset's grace (R399, R400). -/
def State.writeRootevt (s : State) (v : DWord) : State :=
  let f := s.firm
  let f := { f with rootevt := keepBits v 63 63 ||| keepBits v 56 4 }
  let f := if fieldBits v 62 1 == 1 && f.resetEnd.isSome then { f with resetEnd := .some s.clock } else f
  { s with firm := f }

/-- PWRSTAT: any write clears STEPS (R402). -/
def State.writePwrstat (s : State) (_v : DWord) : State := { s with front := { s.front with steps := 0#8 } }

/-- A write to the front end's block; an address that no register occupies ignores it (R310). -/
def State.frontWrite (s : State) (a : Nat) (v : DWord) : State :=
  if a % 8 != 0 then s
  else if a < 0x100 then s.writeQbind (a / 8) v
  else if a < 0x900 then
    { s with front := { s.front with qclass := mapSet 0#64 s.front.qclass ((a - 0x100) / 8) (keepBits v 63 26) } }
  else if a < 0x1000 then s
  else if a < 0x1028 then s.writeErrstat ((a - 0x1000) / 8) v
  else if 0x1040 ≤ a && a < 0x1080 then s.writeSvccfg ((a - 0x1040) / 16) (a % 16 == 8) v
  else if 0x1200 ≤ a && a < 0x12C0 then s.writeUlstat ((a - 0x1200) / 8) v
  else if 0x1300 ≤ a && a < 0x13C0 then s.writeUlevt ((a - 0x1300) / 8) v
  else if a == 0x1400 then s.writeStartrec v
  else if a == 0x1408 then s.writeRootevt v
  else if a == 0x1410 then s.writeSysroot v
  else if a == 0x1418 then s.writePwrstat v
  else s

/-- An inbound context word of a port (R375); whether Root confirms a nonzero WORLD is told with the write. -/
def State.writeContext (s : State) (p e : Nat) (second : Bool) (v : DWord) (confirmed : Bool) : State :=
  s.modPort p (fun q =>
    if h : e < 64 then
      let c := q.ctx[e]
      let c' := if second then (c.1, v) else (keepBits v 63 63 ||| keepBits v 41 0, c.2)
      { q with ctx := q.ctx.set e c', confirmed := mapSet false q.confirmed e confirmed }
    else q)

/-- A write to root port p's block (R373, R375). -/
def State.portWrite (s : State) (p off : Nat) (v : DWord) : State :=
  if off == 0 then s.modPort p (fun q => { q with ctl := keepBits v 63 63 ||| keepBits v 7 0 })
  else if off == 8 then s.modPort p (fun q => { q with stat := q.stat &&& ~~~keepBits v 63 60 })
  else if 0x100 ≤ off && off < 0x500 && off % 8 == 0 then s.writeContext p ((off - 0x100) / 16) (off % 16 == 8) v false
  else s

/-! ### Where an I/O address lies (R372) -/

inductive IoPlace where
  | front (a : Nat)
  | block (p off : Nat)
  | window (p : Nat)
  | nowhere
deriving DecidableEq, Repr

/-- The range of an I/O address (R372). -/
def ioPlace (a : Nat) : IoPlace :=
  if a < 0x10000 then .front a
  else if a < 0x14000 then .block ((a - 0x10000) / 0x1000) (a % 0x1000)
  else if 2 ^ 44 ≤ a && a < 5 * 2 ^ 44 then .window (a / 2 ^ 44 - 1)
  else .nowhere

/-- May an access of n bytes be made there: the blocks take one d access alone (R310, R373). -/
def ioAllowed (a n : Nat) : Bool :=
  match ioPlace a with
  | .front _ | .block _ _ => n == 8
  | .window _ => true
  | .nowhere => false

/-- A register write by I/O address (R310, R373). -/
def State.ioWriteReg (s : State) (a : Nat) (v : DWord) : State :=
  match ioPlace a with
  | .front a => s.frontWrite a v
  | .block p off => s.portWrite p off v
  | _ => s

/-- Does any link of a port decode its window (R373, R374)? -/
def State.portUp (s : State) (p : Nat) : Bool := fieldBits (s.port p).stat 32 4 != 0

end Sys2Proof.Machine
end

