-- ==== Sys2Proof/Machine/Memory.lean ====
section
/-! DEFINITION. Memory access instructions (R151 to R173): windows, the checks of R165 in order, the performance of loads,
stores and atomics at the scratchpad, home L2, I/O space and peers, and what waits for service (R281). -/

namespace Sys2Proof.Machine

/-! ### The frame area as loads see it (R291 to R293) -/

/-- Byte o of a row of bits. -/
def bitsByte (f : Nat → Bool) (o : Nat) : Byte :=
  BitVec.ofNat 8 ((List.range 8).foldl (fun n j => if f (8 * o + j) then n + 2 ^ j else n) 0)
/-- Byte o of a little-endian number. -/
def byteOf (x o : Nat) : Byte := BitVec.ofNat 8 (x / 256 ^ o)

/-- Rows awake in a bin. -/
def Bin.awake (b : Bin) : Nat := (b.rows.filter (fun r => r.2.awake)).length

/-- Byte o of a bin descriptor (R292). -/
def Bin.byte (b : Bin) (o : Nat) : Byte :=
  if o < 256 then bitsByte (fun r => !mapHas b.rows r) o
  else if o < 512 then bitsByte (fun r => match mapFind b.rows r with | .some x => x.awake | .none => false) (o - 256)
  else if o < 640 then byteOf (b.chain.getD ((o - 512) / 2) 0xFFFF) (o % 2)
  else if o < 644 then byteOf (b.cap * 65536 + b.window) (o - 640)
  else if o < 648 then byteOf (b.chain.length * 2 ^ 24 + b.awake * 4096 + b.rows.length) (o - 644)
  else 0#8

/-- The words of a row (R293). -/
def Row.words (r : Row) : List Word :=
  [r.rpc, r.live,
    BitVec.ofNat 32 ((if r.edit then 65536 else 0) + r.kind.toNat * 16384 + r.tid.toNat), r.arg]
    ++ r.regs ++ List.replicate (28 - r.regs.length) 0#32

/-- Byte o of a row of a frame tile, or of its side record when side, with the $group of a group key (R293). -/
def Row.byte (no : Nat → Word) (r : Row) (side : Bool) (o : Nat) : Byte :=
  if !side then byteOf ((r.words.getD (o / 4) 0#32).toNat) (o % 4)
  else if o < 14 then BitVec.ofNat 8 ((r.fmts.getD (2 * o) 0#4).toNat + 16 * (r.fmts.getD (2 * o + 1) 0#4).toNat)
  else if o < 16 then 0#8
  else if o < 24 then byteOf r.waddr.toNat (o - 16)
  else if o < 28 then byteOf (no r.group).toNat (o - 24)
  else if o == 28 then r.fault.setWidth 8
  else 0#8

/-- Where in its chain a bin holds a tile. -/
def chainPos : List Nat → Nat → Option Nat
  | [], _ => .none
  | t :: l, x => if t = x then .some 0 else (chainPos l x).map (· + 1)

/-- Byte o of a frame area (R291). A tile of the free pool reads zero (R296). -/
def Frames.byte (f : Frames) (no : Nat → Word) (o : Nat) : Byte :=
  if o < 65536 then (mapGet Bin.empty f.bins (o / 1024)).byte (o % 1024)
  else
    let t := (o - 65536) / 6144
    let p := (o - 65536) % 6144
    let (side, r, q) := if p < 4096 then (false, p / 128, p % 128) else (true, (p - 4096) / 64, (p - 4096) % 64)
    match f.bins.findSome? (fun (_, b) => (chainPos b.chain t).map (fun j => (b, j))) with
    | .none => 0#8
    | .some (b, j) =>
      match mapFind b.rows (32 * j + r) with
      | .some x => x.byte no side q
      | .none => match mapFind b.old (32 * j + r) with
        | .some x => x.byte no side q
        | .none => 0#8

/-! ### Windows and the checks 1 to 4 of R165 -/

inductive Window where
  | scratch | cluster | stack | frame
deriving DecidableEq, Repr

/-- Is a virtual address in a span from the segment's base (R154)? -/
def Seg.holds (g : Seg) (span va : Nat) : Bool := decide (g.base.toNat ≤ va) && decide (va < g.base.toNat + span)

/-- The window of a warp whose span holds a virtual address. -/
def Warp.window (w : Warp) (va : Nat) : Option Window :=
  if w.segSp.holds (2 ^ 19) va then .some .scratch
  else if w.segCl.holds (2 ^ 21) va then .some .cluster
  else if w.segStk.holds (2 ^ 32) va then .some .stack
  else if w.segFr.holds (2 ^ 32) va then .some .frame
  else .none

/-- The gang size of a group's launch. -/
def State.gangSize (s : State) (g : Group) : Nat := max 1 (s.grid g.grid).record.gang

/-- The group whose allocation is sub-window j of a group's gang, while it is live (R162, R163). -/
def State.member (s : State) (g : Group) (j : Nat) : Option Nat :=
  (s.groups.find? (fun (_, x) => !x.handler && x.grid == g.grid && x.gang == g.gang
    && x.no.toNat % s.gangSize g == j && x.spLive)).map (·.1)

/-- The surrogate group whose open tile lane i of a warp acts for (R332, R333). -/
def State.tileOf (s : State) (w : Warp) (i : Lane) : Option Nat :=
  let g := if w.handler then (s.warp (Lanes.at w.origin i).warp).group else w.group
  if (s.group g).tile == .open then .some g else .none

/-- Where an access goes before translation, or the check of 1 to 4 that fails. -/
inductive Aim where
  | scratch (g o : Nat)
  | frame (o : Nat)
  /-- virtual ranges: the address itself, or the backing words of a stack access (R156). -/
  | ranges (path : Nat) (l : List (Nat × Nat))
  | fails (c : Cause)
deriving DecidableEq, Repr

/-- Does the access write? -/
def Access.writes (x : Access) : Bool :=
  match x.kind with
  | .store | .atomic _ => true
  | .probe w => w
  | _ => false
/-- Is it a cctl, which is checked by checks 1 to 5 alone (R173)? -/
def Access.isCctl (x : Access) : Bool :=
  match x.kind with
  | .cctl _ => true
  | _ => false
/-- Is it an atomic? -/
def Access.isAtomic (x : Access) : Bool :=
  match x.kind with
  | .atomic _ => true
  | _ => false

/-- The backing ranges of n bytes at offset o of lane i's stack (R156). -/
def stackRanges (back : DWord) (i : Lane) (o n : Nat) : List (Nat × Nat) :=
  (List.range ((n + 3) / 4)).map (fun k =>
    ((back.toNat + 128 * ((o + 4 * k) / 4) + 4 * i.val + o % 4) % 2 ^ 57, min n 4))

/-- Checks 1 to 4 of R165 for lane i of a warp. -/
def State.aim (s : State) (w : Warp) (i : Lane) (x : Access) : Aim :=
  let a := (Lanes.at x.addr i).toNat
  let va := a % 2 ^ 57
  let given := nbits a 60 4
  if x.offset then
    if a % x.size != 0 then .fails .align
    else if w.segSp.lim.toNat < a + x.size then .fails .segv
    else .scratch w.group a
  else
    let win := w.window va
    let path : Nat :=
      match x.kind with
      | .readOnly => if given < 3 && !(given == 0 && win.isSome) then 1 else given
      | .streamLoad => if given < 3 && !(given == 0 && win.isSome) then 2 else given
      | _ => given
    let forced := x.kind == .readOnly || x.kind == .streamLoad
    if 4 ≤ path || nbits a 57 3 != 0 || (win.isSome && path != 0) then .fails .segv
    else if a % x.size != 0 then .fails .align
    else if path == 1 && x.writes then .fails .prot
    else if path == 3 && (x.isAtomic || forced || !(x.size == 4 || x.size == 8)) then .fails .prot
    else if path == 3 && x.writes && (s.tileOf w i).isSome then .fails .prot
    else if win == .some .frame && (!w.kern || x.writes) then .fails .prot
    else if x.isAtomic && (s.tileOf w i).isSome && (win == .none || win == .some .stack) then .fails .snetatom
    else
      match win with
      | .none => .ranges path [(va, x.size)]
      | .some .scratch =>
        let o := va - w.segSp.base.toNat
        if w.segSp.lim.toNat < o + x.size then .fails .segv else .scratch w.group o
      | .some .cluster =>
        let o := (va - w.segCl.base.toNat) % 2 ^ 19
        let j := (va - w.segCl.base.toNat) / 2 ^ 19
        if w.segCl.lim.toNat < o + x.size || s.gangSize (s.group w.group) ≤ j then .fails .segv
        else
          match s.member (s.group w.group) j with
          | .some g => .scratch g o
          | .none => .fails .segv
      | .some .stack =>
        let o := va - w.segStk.base.toNat
        if w.segStk.lim.toNat < o + x.size then .fails .segv else .ranges 0 (stackRanges w.stkback i o x.size)
      | .some .frame =>
        let o := va - w.segFr.base.toNat
        if w.segFr.lim.toNat < o + x.size then .fails .segv else .frame o

/-! ### Checks 5 and 6 of R165 -/

/-- A piece of an access where it is performed: n bytes of a group's scratchpad, of the frame area, of local memory under
a buffer number (0 for an open page) and a path, of I/O space, or of a peer device. -/
inductive Spot where
  | scratch (g o n : Nat)
  | frame (o n : Nat)
  | memory (pa n buf path : Nat)
  | io (a n : Nat)
  | peer (dev pa n path : Nat)
deriving DecidableEq, Repr

/-- The outcome of the checks of one lane. -/
inductive Reach where
  | spots (l : List Spot)
  | fails (c : Cause)
  /-- sent for service with its REASON, for the range that failed (R348). -/
  | service (reason va : Nat)
deriving DecidableEq, Repr

/-- How a 64-byte line answers the key and version of an access (R354, R360). -/
inductive LineState where
  | good | stale | bad
deriving DecidableEq, Repr

/-- The version of a buffer (R358). -/
def State.version (s : State) (buf : Nat) : Nat := (mapGet 0#32 s.versions buf).toNat / 4096

/-- The key and version an access of world w to a buffer writes under; none for the open key. -/
def State.lineTag (s : State) (w : BitVec 10) (buf : Nat) : Option (Nat × Nat) :=
  if buf == 0 then .none else .some ((s.world w).key, s.version buf)

/-- The MAC check of the line at pa for an access of world w under a buffer number (R360). -/
def State.lineState (s : State) (w : BitVec 10) (buf pa : Nat) : LineState :=
  match mapFind s.mem.lines (pa / 64), s.lineTag w buf with
  | .none, .none => .good
  | .some (k, v), .some (k', v') =>
    if k != k' then .bad else if v == v' then .good else if v + 1 == v' then .stale else .bad
  | _, _ => .bad

/-- The translation of one range (check 5). -/
def State.reachRange (s : State) (c : Ctx) (path : Nat) (x : Access) (tile : Bool) (r : Nat × Nat) : Reach :=
  match s.place c path x.writes r.1 with
  | .trap e => .fails e
  | .service n => .service n r.1
  | .io a => if ioAllowed a r.2 then .spots [.io a r.2] else .fails .prot
  | .peer dev pa => if tile && x.writes then .fails .prot else .spots [.peer dev pa r.2 path]
  | .memory pa buf => .spots [.memory pa r.2 buf path]

/-- Does a poisoned sector of the scratchpad hold one of n bytes at o (R363)? -/
def Group.sectorBad (g : Group) (o n : Nat) : Bool := g.spPoison.any (fun q => decide (q * 32 < o + n) && decide (o < q * 32 + 32))

/-- Does a store or the probe of one write without reading? -/
def Access.blind (x : Access) : Bool := x.kind == .store || x.kind == .probe true

/-- The data check of a spot (check 6): of a read; a cctl has none (R173). -/
def State.dataFails (s : State) (c : Ctx) (x : Access) (p : Spot) : Option Cause :=
  if x.isCctl then .none
  else
    match p with
    | .scratch g o n => if !x.blind && (s.group g).sectorBad o n then .some .poison else .none
    | .peer dev _ _ _ => if (s.routeTo dev).isNone then .some .link else .none
    | .memory pa n buf path =>
      if x.blind then .none
      else
        match s.lineState c.world buf pa with
        | .stale => .some .stale
        | .bad => .some .poison
        | .good =>
          if s.mem.poisoned pa n || (path == 1 && (s.core (coreKey c.die c.core)).roBad.contains (pa / 32)) then .some .poison
          else .none
    | _ => .none

/-- Check 5 of the ranges of one access in order; the first that fails decides. -/
def State.reachAll (s : State) (c : Ctx) (path : Nat) (x : Access) (tile : Bool) : List (Nat × Nat) → Reach
  | [] => .spots []
  | r :: t =>
    match s.reachRange c path x tile r with
    | .spots l => match s.reachAll c path x tile t with
      | .spots l' => .spots (l ++ l')
      | e => e
    | e => e

/-- Checks 1 to 6 of R165 for lane i of warp k: check 5 of every range before check 6 of any. -/
def State.reach (s : State) (k : Nat) (x : Access) (i : Lane) : Reach :=
  let w := s.warp k
  let placed : Reach :=
    match s.aim w i x with
    | .fails c => .fails c
    | .scratch g o => .spots [.scratch g o x.size]
    | .frame o => .spots [.frame o x.size]
    | .ranges path l => s.reachAll (s.ctx w) path x (s.tileOf w i).isSome l
  match placed with
  | .spots l => match l.findSome? (s.dataFails (s.ctx w) x) with
    | .some c => .fails c
    | .none => .spots l
  | r => r

/-! ### Checks 7 and 8 of R165 -/

/-- The location that the detector and releases use for a spot: physical, scratchpad or peer. -/
def Spot.loc : Spot → Nat
  | .scratch g o _ => 2 ^ 60 * (g + 1) + o
  | .frame o _ => 2 ^ 59 + o
  | .memory pa _ _ _ => pa
  | .io a _ => 2 ^ 57 + a
  | .peer dev pa _ _ => 2 ^ 58 + dev * 2 ^ 45 + pa
/-- The bytes of a spot. -/
def Spot.size : Spot → Nat
  | .scratch _ _ n | .frame _ n | .memory _ n _ _ | .io _ n | .peer _ _ n _ => n
/-- The path class of a spot (R185). -/
def Spot.cls : Spot → Nat
  | .scratch _ _ _ => 4
  | .frame _ _ => 5
  | .memory _ _ _ p | .peer _ _ _ p => p
  | .io _ _ => 3

/-- Is an access of a spot an ordinary one that the detector tracks (R180, R192)? -/
def State.tracked (s : State) (x : Access) (p : Spot) : Bool :=
  !x.isAtomic && x.acq == 0#3 && x.rel == 0#3 &&
    match p with
    | .scratch g o _ => !(mapGet Obj.empty (s.group g).objs (o / 16)).marked
    | .frame _ _ => true
    | .memory _ _ _ path | .peer _ _ _ path => path != 1
    | .io _ _ => false

/-- Does a watch triple of the home die match (R274, R276)? -/
def State.watched (s : State) (grid : Nat) (tid : BitVec 10) (rd wr : Bool) (pa n : Nat) : Bool :=
  ((s.die (homeDie pa)).wp.toList).any (fun (lo, hi, ctl) =>
    let c := ctl.toNat
    nbits c 63 1 == 1 && ((rd && nbits c 62 1 == 1) || (wr && nbits c 61 1 == 1))
      && decide (pa < hi.toNat) && decide (lo.toNat < pa + n)
      && (nbits c 60 1 == 0 || nbits c 10 32 == grid) && (nbits c 59 1 == 0 || nbits c 0 10 == tid.toNat))

/-- What one lane's access comes to: it is performed, or it is a store whose check fails after it retires. -/
inductive Verdict where
  | go (l : List Spot)
  | fails (c : Cause)
  | late (c : Cause) (l : List Spot)
  | service (reason va : Nat)
deriving DecidableEq, Repr

/-- Is a store to the spot checked only after it retires (R197)? -/
def Spot.checkedLate : Spot → Bool
  | .memory _ _ _ _ | .peer _ _ _ _ => true
  | _ => false

/-- The 64-bit operand x and operand y of an atomic. -/
def Access.opX (x : Access) (i : Lane) : DWord := (Lanes.at x.data i).setWidth 64
def Access.opY (x : Access) (i : Lane) : DWord := ((Lanes.at x.data i) >>> 64).setWidth 64

/-- The value that an atomic stores over old, or none for a comparison that fails (R171). -/
def atomicNew (aop : BitVec 4) (old x y : Nat) : Option Nat :=
  let lo (f : Word → Word → Word) : Nat := (f (BitVec.ofNat 32 old) (BitVec.ofNat 32 x)).toNat
  let c : FCtl := ⟨.rne, false, false, false⟩
  match aop.toNat with
  | 0 => .some (lo (· + ·))
  | 1 => .some ((old + x) % 2 ^ 64)
  | 2 => .some (lo (fun a b => if b.slt a then b else a))
  | 3 => .some (lo (fun a b => if b.ult a then b else a))
  | 4 => .some (lo (fun a b => if a.slt b then b else a))
  | 5 => .some (lo (fun a b => if a.ult b then b else a))
  | 6 => .some (lo (· &&& ·))
  | 7 => .some (lo (· ||| ·))
  | 8 => .some (lo (· ^^^ ·))
  | 9 => .some (x % 2 ^ 32)
  | 10 => .some x
  | 11 => if old == x % 2 ^ 32 then .some (y % 2 ^ 32) else .none
  | 12 => if old == x then .some y else .none
  | 13 => .some (f32.add c old (x % 2 ^ 32)).1
  | _ => .some (f64.add c old x).1

/-- Bytes of the group's tentative sectors over those of memory (R332). -/
def State.memBytes (s : State) (tile : Option Nat) (pa n : Nat) : List Byte :=
  match tile with
  | .none => s.mem.bytes pa n
  | .some g => (List.range n).map (fun j => (mapFind (s.group g).tent (pa + j)).getD (s.mem.byte (pa + j)))

/-- The bytes that lane i of warp k reads at a spot; a path 0x1 sector that L1 holds is not kept coherent (R152, R158). -/
def State.readSpot (s : State) (k : Nat) (i : Lane) (x : Access) : Spot → List Byte
  | .scratch g o n => (List.range n).map (fun j => mapGet 0#8 (s.group g).sp (o + j))
  | .frame o n =>
    let w := s.warp k
    let f := s.frame (frameKey (s.group w.group).grid w.die)
    (List.range n).map (fun j => f.byte (fun g => (s.group g).no) (o + j))
  | .memory pa n _ path =>
    let w := s.warp k
    let now := s.memBytes (s.tileOf w i) pa n
    if path == 1 && x.policy != 1#3 then
      match mapFind (s.core (coreKey w.die w.core)).ro (pa / 32) with
      | .some b => (b.drop (pa % 32)).take n
      | .none => now
    else now
  | .io a n =>
    match ioPlace a with
    | .front r => bytesOfNat n (s.frontRead r).toNat
    | .block p off => bytesOfNat n (s.portRead p off).toNat
    | _ => List.replicate n 0xFF#8
  | .peer _ _ n _ => List.replicate n 0#8

/-- The value of an access by its spots, lowest address first. -/
def State.readSpots (s : State) (k : Nat) (i : Lane) (x : Access) (l : List Spot) : BitVec 128 :=
  BitVec.ofNat 128 (natOfBytes (l.flatMap (s.readSpot k i x)))

/-- The checks 7 and 8 for lane i of warp k at the instruction pc, numbered instr; a helper lane has none (R15). -/
def State.judge (s : State) (k instr : Nat) (pc : Word) (x : Access) (i : Lane) : Verdict :=
  let w := s.warp k
  match s.reach k x i with
  | .fails c => .fails c
  | .service r va => .service r va
  | .spots l =>
    if !Mask.has w.live i || x.isCctl then .go l
    else
      let a := threadAgent w i
      let tent := (s.tileOf w i).isSome
      let checked := !(Lanes.at w.skipRace i == .some pc || (Lanes.at w.skipLate i).contains pc)
      let races := l.filter (fun p => checked && s.tracked x p && s.racy a p.cls instr x.writes p.loc p.size)
      let races := if x.writes && tent then races.filter (fun p => !p.checkedLate) else races
      let old := (s.readSpots k i x l).toNat
      let wr := match x.kind with
        | .atomic op => (atomicNew op old (x.opX i).toNat (x.opY i).toNat).isSome
        | .store | .probe true => true
        | _ => false
      let hit := Lanes.at w.skipWatch i != .some pc && l.any (fun p =>
        match p with
        | .memory pa n _ _ => s.watched (s.group w.group).grid (Lanes.at w.tid i) (!x.blind) wr pa n
        | _ => false)
      if races.any (fun p => !(x.writes && p.checkedLate)) then .fails .race
      else if hit then .fails .watch
      else if !races.isEmpty then .late .racelate l
      else .go l

/-! ### Writing (R159, R332 to R334, R360, R362) -/

/-- A write to a location wakes the warps that the governor tracks it for (R79). -/
def State.wrote (s : State) (loc n : Nat) : State :=
  let hit (w : Warp) : Bool := w.gov.demoted && w.gov.tracked.any (fun x => decide (loc / 32 ≤ x) && decide (x ≤ (loc + n - 1) / 32))
  if s.warps.any (fun e => hit e.2) then
    { s with warps := mapAll s.warps (fun _ w =>
        if hit w then w.wakeSpin else w) }
  else s

/-- Bytes written at the home L2 under a line tag. -/
def State.writePhys (s : State) (t : Option (Nat × Nat)) (pa : Nat) (b : List Byte) : State :=
  let m := (s.mem.setBytes pa b).tagLine pa t
  let m := if pa / 64 == (pa + b.length - 1) / 64 then m else m.tagLine (pa + b.length - 1) t
  State.wrote { s with mem := m } pa b.length

/-- Bytes of a scratchpad written. -/
def State.writeScratch (s : State) (g o : Nat) (b : List Byte) : State :=
  (s.modGroup g (fun x => { x with sp := (b.foldl (fun (acc : Map Byte × Nat) v =>
    (mapSet 0#8 acc.1 acc.2 v, acc.2 + 1)) (x.sp, o)).1, spPoison := x.spPoison.filter (fun q => !(decide (o ≤ 32 * q) && decide (32 * q + 32 ≤ o + b.length))) })).wrote (2 ^ 60 * (g + 1) + o) b.length

/-- A tile overflows (R334): it is discarded, and its group's threads retire at their next packet boundaries. -/
def State.overflowTile (s : State) (g : Nat) : State :=
  s.modGroup g (fun x => { x with tile := .overflowed, tent := [], tentSectors := [], tentTags := [], tentRecs := [] })

/-- Tentative sectors of a home die in use; those of a saved group are spilled (R336). -/
def State.tentUsed (s : State) (die : Nat) : Nat :=
  s.groups.foldl (fun n e => if e.2.status == .preempted || e.2.status == .evicted then n
    else n + (e.2.tentSectors.filter (fun x => homeDie (32 * x) == die)).length) 0

/-- A tentative store of the tile of group g (R332, R334). -/
def State.writeTent (s : State) (g : Nat) (tag : Option (Nat × Nat)) (pa : Nat) (b : List Byte) : State :=
  let x := s.group g
  let sec := ((List.range b.length).map (fun j => (pa + j) / 32)).eraseDups.filter (fun q => !x.tentSectors.contains q)
  let quota := (s.grid x.grid).record.tquota.toNat
  if quota < 32 * (x.tentSectors.length + sec.length)
      || sec.any (fun q => 262144 ≤ s.tentUsed (homeDie (32 * q))) then s.overflowTile g
  else
    s.setGroup g { x with
      tentSectors := x.tentSectors ++ sec
      tentTags := mapPut (mapPut x.tentTags (pa / 64) tag) ((pa + b.length - 1) / 64) tag
      tent := (b.foldl (fun (acc : Map Byte × Nat) v => (mapPut acc.1 acc.2 v, acc.2 + 1)) (x.tent, pa)).1 }

/-- Do ranges cover n bytes from a? -/
def covers (l : List (Nat × Nat)) (a n : Nat) : Bool :=
  (List.range n).all (fun j => l.any (fun r => decide (r.1 ≤ a + j) && decide (a + j < r.1 + r.2)))

/-- Must a store of lane ranges l to pa stop at the old line: a poisoned sector, or a line that fails its MAC, that the
store does not cover (R360, R362)? -/
def State.storePoison (s : State) (w : BitVec 10) (buf pa : Nat) (l : List (Nat × Nat)) : Bool :=
  (mapGet false s.mem.poison (pa / 32) && !covers l (pa / 32 * 32) 32)
    || (s.lineState w buf pa == .bad && !covers l (pa / 64 * 64) 64)

/-- A poisoned sector that a store covers takes a new check value. -/
def State.healSector (s : State) (pa : Nat) (l : List (Nat × Nat)) : State :=
  if mapGet false s.mem.poison (pa / 32) && covers l (pa / 32 * 32) 32 then
    { s with mem := { s.mem with poison := mapDel s.mem.poison (pa / 32) } }
  else s

/-- The physical ranges of spots in local memory. -/
def memRanges (l : List Spot) : List (Nat × Nat) :=
  l.filterMap (fun p => match p with | .memory pa n _ _ => .some (pa, n) | _ => .none)

/-- The bytes b stored at a spot by lane i of warp k; a peer or endpoint takes its store posted (R153, R374, R390). -/
def State.writeSpot (s : State) (k : Nat) (i : Lane) (addr : DWord) (b : List Byte) : Spot → State
  | .scratch g o _ => s.writeScratch g o b
  | .frame _ _ => s
  | .memory pa _ buf _ =>
    match s.tileOf (s.warp k) i with
    | .some g => s.writeTent g (s.lineTag (s.ctx (s.warp k)).world buf) pa b
    | .none => s.writePhys (s.lineTag (s.ctx (s.warp k)).world buf) pa b
  | .io a n =>
    match ioPlace a with
    | .window p => if s.portUp p then s.modPort p (fun q => { q with posted := q.posted ++ [(a, n, BitVec.ofNat 64 (natOfBytes b))] }) else s
    | _ => s.ioWriteReg a (BitVec.ofNat 64 (natOfBytes b))
  | .peer dev pa _ _ =>
    (s.request dev (s.ctx (s.warp k)).world (.write pa b) (.store k i addr)).getD s

/-- The bytes of a value dealt to spots in order. -/
def State.writeSpots (s : State) (k : Nat) (i : Lane) (addr : DWord) : List Byte → List Spot → State
  | _, [] => s
  | b, p :: t => (s.writeSpot k i addr (b.take p.size) p).writeSpots k i addr (b.drop p.size) t

/-! ### The ordering effects of an access (R176, R184, R194) -/

/-- The trap of a failed access of lane i: its address is generic (R258). -/
def Access.trap (x : Access) (w : Warp) (i : Lane) (c : Cause) : Trap :=
  Trap.atAddr c (if x.offset then w.segSp.base + Lanes.at x.addr i else Lanes.at x.addr i)

/-- An access inside an open tile by agent a: tentative stores of the tile that it conflicts with, in the regions they were
made in, are marked for the commit, and a tentative store is kept for it; lanes of one instruction never conflict (R166,
R199). addr is the generic address of loc. -/
def State.tileAccess (s : State) (g a cls instr : Nat) (write : Bool) (addr : DWord) (loc n : Nat) : State :=
  let x := s.group g
  let know := (s.agent a).of cls
  let apart (b c r : Nat) : Bool := !s.sameAgent a b && mapGet 0 know (b * 8 + c) < r + 1
  let hit (t : TentRec) : Bool := t.instr != instr && (granules loc n).contains t.granule && apart t.agent t.cls t.region
  let read (q : Nat) : Bool := (mapGet [] s.races q).any (fun r =>
    x.tileAgents.contains r.agent && !r.write && apart r.agent r.cls r.region)
  let new_ := if !write then [] else (granules loc n).map (fun q =>
    ({ granule := q, addr := addr + BitVec.ofNat 64 (4 * q) - BitVec.ofNat 64 loc, agent := a, cls := cls
       region := (s.agent a).region, instr := instr
       bad := x.tentRecs.any (fun t => t.granule == q && hit t) || read q } : TentRec))
  s.setGroup g { x with
    tentRecs := x.tentRecs.map (fun t => if hit t then { t with bad := true } else t) ++ new_
    tileAgents := if x.tileAgents.contains a then x.tileAgents else a :: x.tileAgents }

/-- The scope at which an ordering operation at a spot acts: domain at least at a peer, system on path 0x3 (R176). -/
def Spot.scope (p : Spot) (c : BitVec 3) : BitVec 3 :=
  match p with
  | .peer _ _ _ _ => if scopeOf c < 6 then 6#3 else c
  | p => if p.cls == 3 then 7#3 else c

/-- What a performed access of lane i of warp k, instruction instr, at a spot, off bytes into the access, leaves in clocks and
history. -/
def State.order (s : State) (k instr : Nat) (i : Lane) (x : Access) (off : Nat) (p : Spot) : State :=
  let (a, s) := s.touch k i
  let grid := (s.group (s.warp k).group).grid
  let s := s.noteAccess a p.loc p.size p.cls (x.kind != .store) x.writes
  let s := if x.acq != 0#3 then s.acquireAt a p.loc p.size p.cls (p.scope x.acq) else s
  let s := if x.rel != 0#3 then s.releaseAt a p.loc p.size p.cls (p.scope x.rel) else s
  if x.isAtomic && x.acq == 0#3 && x.rel == 0#3 then s
  else if s.tracked x p then
    let w := s.warp k
    match p.checkedLate, s.tileOf w i with
    | true, .some g =>
      let s := s.tileAccess g a p.cls instr x.writes ((x.trap w i .none).addr + BitVec.ofNat 64 off) p.loc p.size
      if x.writes then s else s.record a p.cls instr false grid p.loc p.size
    | _, _ => s.record a p.cls instr x.writes grid p.loc p.size
  else s

/-- The same for the spots of an access in order. -/
def State.orderAll (s : State) (k instr : Nat) (i : Lane) (x : Access) : Nat → List Spot → State
  | _, [] => s
  | off, p :: t => (s.order k instr i x off p).orderAll k instr i x (off + p.size) t

/-- A path 0x1 load brings its sector into L1 unless its policy keeps it out (R158, R161). -/
def State.fillRo (s : State) (k : Nat) (i : Lane) (x : Access) (p : Spot) : State :=
  match p with
  | .memory pa _ _ 1 =>
    let w := s.warp k
    let c := coreKey w.die w.core
    if x.policy == 1#3 || x.policy == 4#3 || mapHas (s.core c).ro (pa / 32) || (s.tileOf w i).isSome then s
    else s.modCore c (fun q => { q with ro := mapPut q.ro (pa / 32) (s.mem.bytes (pa / 32 * 32) 32) })
  | _ => s

/-- A store updates the copy of its sector that its core's L1 holds (R158); a tentative one is in no L1. -/
def State.updateRo (s : State) (k : Nat) (i : Lane) (b : List Byte) (p : Spot) : State :=
  match p with
  | .memory pa n _ _ =>
    let w := s.warp k
    let c := coreKey w.die w.core
    if (s.tileOf w i).isSome || !mapHas (s.core c).ro (pa / 32) then s
    else s.modCore c (fun q => { q with ro := mapAll q.ro (fun sec old =>
      if sec == pa / 32 then old.take (pa % 32) ++ b.take n ++ old.drop (pa % 32 + n) else old) })
  | _ => s

/-- The same for the spots of a store in order. -/
def State.updateRos (s : State) (k : Nat) (i : Lane) : List Byte → List Spot → State
  | _, [] => s
  | b, p :: t => (s.updateRo k i b p).updateRos k i (b.drop p.size) t

/-- The governor's record of where a load goes: its sectors, and that a path 0x3 load disqualifies (R78). -/
def State.govern (s : State) (k : Nat) (l : List Spot) : State :=
  s.modWarp k (fun w => { w with gov := w.gov.inLoops (fun g =>
    let secs := (g.sectors ++ l.map (fun (p : Spot) => p.loc / 32)).eraseDups
    { g with sectors := secs, qualifies := decide (secs.length ≤ 8) && !l.any (fun p => p.cls == 3) }) })

/-- The governor's record of what a load returned (R78). -/
def State.governValue (s : State) (k : Nat) (pc : Word) (i : Lane) (v : BitVec 128) : State :=
  s.modWarp k (fun w => { w with gov := w.gov.inLoops (fun g => { g with loads := g.loads ++ [(pc, i.val, v)] }) })

/-! ### Cache lines (R159, R173) -/

/-- Drop, write back or both of the 128-byte L2 line at pa. -/
def State.cctlLine (s : State) (op : BitVec 2) (core pa : Nat) : State :=
  let b := pa / 128 * 128
  match op.toNat with
  | 0 => s.modCore core (fun c => { c with
      ro := c.ro.filter (fun e => e.1 / 4 != pa / 128), roBad := c.roBad.filter (fun q => q / 4 != pa / 128) })
  | 1 => { s with mem := s.mem.clean b 128 }
  | 2 => { s with mem := s.mem.drop b 128 }
  | _ => { s with mem := s.mem.clean b 128 }

/-- Is a line tentative in some tile, or tagged by another world (R173, R353)? -/
def State.lineAway (s : State) (w : BitVec 10) (buf pa : Nat) : Bool :=
  s.groups.any (fun e => e.2.tentSectors.any (fun q => q / 4 == pa / 128))
    || (List.range 2).any (fun j =>
      match mapFind s.mem.lines (pa / 128 * 2 + j) with
      | .some (k, _) => k != (s.world w).key || buf == 0
      | .none => buf != 0)

/-! ### One instruction's accesses -/

/-- What the lanes of an access have come to so far. -/
structure Tally where
  st : State
  traps : List (Lane × Trap) := []
  got : Mask := 0#32
  /-- helper lanes that fail and read zero (R15). -/
  zero : Mask := 0#32
  logged : Mask := 0#32
  remote : Mask := 0#32
  /-- lanes of remote that a full history area holds back (R195). -/
  held : Mask := 0#32
  vals : Lanes (BitVec 128) := allLanesOf 0#128
  /-- what lanes of a store have stored. -/
  stored : List (Nat × Nat × Nat) := []
  /-- does a lower lane's access on path 0x3 wait, so that higher lanes' do too (R153)? -/
  io : Bool := false

/-- A request for lane i's values: each range read at the peer, an atomic performed there, or the port's read. -/
def State.ask (s : State) (k id : Nat) (i : Lane) (x : Access) : Nat → List Spot → State
  | _, [] => s
  | off, p :: t =>
    let s := match p with
      | .peer dev pa n _ =>
        let op := match x.kind with
          | .atomic o => if n == x.size then PeerOp.atomic pa o (x.opX i) (x.opY i) else .read pa n
          | _ => .read pa n
        (s.request dev (s.ctx (s.warp k)).world op (.lane k id i off)).getD s
      | .io a n =>
        match ioPlace a with
        | .window q =>
          let (u, s) := s.newUnit
          s.modPort q (fun r => { r with reads := mapPut r.reads u ⟨id, k, i, a, n, s.clock⟩ })
        | _ => s
      | _ => s
    s.ask k id i x (off + p.size) t

/-- Do the spots need an answer from a peer or an endpoint? -/
def State.needsAnswer (s : State) (l : List Spot) : Bool :=
  l.any (fun p => match p with
    | .peer _ _ _ _ => true
    | .io a _ => match ioPlace a with | .window q => s.portUp q | _ => false
    | _ => false)

/-- A path 0x3 read that no link decodes completes Unsupported Request and sets UR (R374). -/
def State.noteUr (s : State) (l : List Spot) : State :=
  l.foldl (fun s p => match p with
    | .io a _ => match ioPlace a with
      | .window q => if s.portUp q then s else s.modPort q (fun r => { r with stat := r.stat ||| BitVec.twoPow 64 63 })
      | _ => s
    | _ => s) s

/-- The device whose fault harts serve an address of a root (R347): the home of the lowest valid range that holds it. -/
def State.homeOf (s : State) (va : Nat) (root : DWord) : Nat :=
  match s.ranges.find? (fun (_, w0, w1, w2) =>
      w0.getLsbD 63 && decide (nbits w0.toNat 0 41 ≤ nbits va 16 41) && decide (nbits va 16 41 ≤ nbits w1.toNat 0 41)
        && (w2 == 0#64 || w2 == root)) with
  | .some (_, w0, _, _) => nbits w0.toNat 41 9
  | .none => ownDevice

/-- A walk sent for service for a requester, once while it waits (R348): to this device's fault harts, or over Uluster to another home. -/
def State.sendFault (s : State) (c : Ctx) (va : Nat) (kind reason : Nat) (who : Requester) : State :=
  if s.faults.any (fun f => f.2.who == .some who) then s
  else
  let (u, s) := s.newUnit
  let home := s.homeOf va c.root
  let s := { s with faults := mapPut s.faults u ⟨u, BitVec.ofNat 64 va, c.root, c.world, Config.deviceNumber, BitVec.ofNat 8 kind,
      BitVec.ofNat 8 reason, .some who, BitVec.ofNat 9 home, false, 0⟩ }
  if home == ownDevice then s
  else
    match s.routeTo home with
    | .some p => s.sendPacket p (.faultRecord u (BitVec.ofNat 64 va) c.root c.world Config.deviceNumber (BitVec.ofNat 8 kind)
        (BitVec.ofNat 8 reason))
    | .none => s

/-- The lanes m of warp k have executed the instruction at pc again without its check, which the next execution makes (R201, R276). -/
def Warp.checkAgain (w : Warp) (m : Mask) (pc : Word) : Warp :=
  let drop (l : Lanes (Option Word)) : Lanes (Option Word) :=
    Lanes.where_ l m (fun i => if Lanes.at l i == .some pc then .none else Lanes.at l i)
  { w with
    skipRace := drop w.skipRace
    skipWatch := drop w.skipWatch
    skipLate := Lanes.where_ w.skipLate m (fun i => (Lanes.at w.skipLate i).erase pc) }

/-- The path of an address. -/
def pathOf (a : DWord) : Nat := nbits a.toNat 60 4

/-- What lane i stores: bytes that a higher lane of the instruction has stored already stay (R166). -/
def State.under (s : State) (k : Nat) (i : Lane) (kept : List (Nat × Nat × Nat)) : List Byte → List Spot → List Byte
  | _, [] => []
  | b, p :: t =>
    let own := b.take p.size
    let own := match p with
      | .memory pa n _ _ =>
        let now := s.memBytes (s.tileOf (s.warp k) i) pa n
        ((List.range n).zip (own.zip now)).map (fun x =>
          if kept.any (fun q => decide (i.val < q.1) && decide (q.2.1 ≤ pa + x.1) && decide (pa + x.1 < q.2.1 + q.2.2)) then x.2.2
          else x.2.1)
      | _ => own
    own ++ s.under k i kept (b.drop p.size) t

/-- Lane i's access performed (R165 to R171): id is its pending result and instr its instruction, cover what the lanes store that
pass checks 1 to 5, ranges what is stored of it, and kept what higher lanes have stored before. -/
def Tally.lane (k id instr : Nat) (pc : Word) (x : Access) (vs : Lanes Verdict) (cover ranges : List (Nat × Nat))
    (kept : List (Nat × Nat × Nat)) (t : Tally) (i : Lane) : Tally :=
  let s := t.st
  let w := s.warp k
  let a := (x.trap w i .none).addr
  let helper := !Mask.has w.live i
  let world := (s.ctx w).world
  let tent := (s.tileOf w i).isSome
  let io := pathOf (Lanes.at x.addr i) == 3 && !x.offset
  -- a store to a poisoned sector or a bad line that the instruction does not cover
  let spoils (l : List Spot) : Bool := x.kind == .store && !tent
    && l.any (fun p => match p with | .memory pa _ buf _ => s.storePoison world buf pa cover | _ => false)
  let late (c : Cause) : Tally :=
    { t with st := s.modWarp k (fun w => { w with late := w.late ++ [⟨i, c, a, pc⟩] }), got := t.got ||| laneBit i }
  match Lanes.at vs i with
  | .fails c =>
    if helper then { t with zero := t.zero ||| laneBit i }
    else { t with traps := t.traps ++ [(i, { x.trap w i c with mark := c == .race || c == .watch })] }
  | .late c l => if spoils l then late .poison else late c
  | .service r va =>
    if helper then { t with zero := t.zero ||| laneBit i }
    else if io && t.io then { t with logged := t.logged ||| laneBit i }
    else
      let kind := match x.kind with | .store | .probe true => 1 | .atomic _ => 2 | _ => 0
      { t with st := s.sendFault (s.ctx w) va kind r (.lane k id i 0), logged := t.logged ||| laneBit i, io := t.io || io }
  | .go l =>
    if io && t.io && helper then { t with zero := t.zero ||| laneBit i }
    else if io && t.io then { t with logged := t.logged ||| laneBit i }
    else if spoils l then late .poison
    else if !helper && (x.kind == .load || x.kind == .streamLoad || x.kind == .store) && l.any (fun p => s.tracked x p
        && !(tent && x.writes && p.checkedLate) && s.noRoom (threadAgent w i) p.cls x.writes p.loc p.size) then
      { t with remote := t.remote ||| laneBit i, held := t.held ||| laneBit i }
    else
    let s := s.modWarp k (fun w => w.checkAgain (laneBit i) pc)
    match x.kind with
    | .probe _ => { t with st := s, got := t.got ||| laneBit i }
    | .store =>
      let s := if tent then s
        else l.foldl (fun s p => match p with | .memory pa _ _ _ => s.healSector pa ranges | _ => s) s
      let b := bytesOfNat x.size (Lanes.at x.data i).toNat
      let b := if kept.isEmpty then b else s.under k i kept b l
      let s := (s.writeSpots k i a b l).updateRos k i b l
      let t := { t with got := t.got ||| laneBit i, stored := t.stored ++ (memRanges l).map (fun (r : Nat × Nat) => (i.val, r.1, r.2)) }
      if tent && (s.tileOf w i).isNone then { t with st := s }
      else { t with st := s.orderAll k instr i x 0 l }
    | .cctl op =>
      let s := l.foldl (fun s p => match p with
        | .memory pa _ buf _ =>
          if op == 2#2 && s.lineAway world buf pa then s else s.cctlLine op (coreKey w.die w.core) pa
        | _ => s) s
      { t with st := s, got := t.got ||| laneBit i }
    | .atomic op =>
      let old := s.readSpots k i x l
      if s.needsAnswer l then
        { t with st := (s.ask k id i x 0 l).orderAll k instr i x 0 l, remote := t.remote ||| laneBit i
                 vals := Lanes.put t.vals i old }
      else
        let s := match atomicNew op old.toNat (x.opX i).toNat (x.opY i).toNat with
          | .some v => s.writeSpots k i a (bytesOfNat x.size v) l
          | .none => s
        { t with st := s.orderAll k instr i x 0 l, got := t.got ||| laneBit i, vals := Lanes.put t.vals i old }
    | _ =>
      let s := s.noteUr l
      let s := if helper then s else s.orderAll k instr i x 0 l
      let s := l.foldl (fun s p => s.fillRo k i x p) s
      let v := s.readSpots k i x l
      let t := { t with vals := Lanes.put t.vals i v }
      if s.needsAnswer l then { t with st := (s.ask k id i x 0 l).govern k l, remote := t.remote ||| laneBit i }
      else { t with st := (s.govern k l).governValue k pc i v, got := t.got ||| laneBit i }

/-- The accesses of the lanes m of warp k at the instruction pc, numbered instr, in ascending lane order (R153, R166, R171); kept is
what higher lanes of a replayed store have stored. -/
def State.accessAll (s : State) (k id instr : Nat) (pc : Word) (x : Access) (m : Mask) (kept : List (Nat × Nat × Nat) := []) :
    Tally :=
  let s := (lanesOf (m &&& (s.warp k).live)).foldl (fun s i => (s.touch k i).2) s
  let vs := perLane (fun i => if Mask.has m i then s.judge k instr pc x i else Verdict.go [])
  let at_ (f : Verdict → List Spot) : List (Nat × Nat) :=
    if x.kind == .store then (lanesOf m).flatMap (fun i => memRanges (f (Lanes.at vs i))) else []
  let ranges := at_ (fun v => match v with | .go l => l | _ => [])
  let cover := at_ (fun v => match v with | .go l | .late _ l => l | _ => [])
  (lanesOf m).foldl (Tally.lane k id instr pc x vs cover ranges kept) { st := s }

/-- Late failures of warp k beyond the first n are those of every lane of m: sst is one access for all of them (R170). -/
def State.spreadLate (s : State) (k n : Nat) (m : Mask) : State :=
  if (s.warp k).late.length ≤ n then s
  else s.modWarp k (fun w => { w with
    late := w.late.take n ++ (w.late.drop n).flatMap (fun e => (lanesOf m).map (fun i => { e with lane := i })) })

/-- Does a lane of m access path 0x3 while an older such access of the warp waits for service? Then the instruction stalls: the path
0x3 accesses of a thread are performed in program order (R153). -/
def Warp.ioWaits (w : Warp) (x : Access) (m : Mask) : Bool :=
  !x.offset && (lanesOf m).any (fun i => pathOf (Lanes.at x.addr i) == 3)
    && w.pend.any (fun p => !p.acc.offset && (lanesOf p.logged).any (fun i => pathOf (Lanes.at p.acc.addr i) == 3))

/-! ### Loads, stores and atomics as instructions -/

/-- The words that an access's value gives its destination registers (R167). -/
def Access.words (x : Access) (v : BitVec 128) : List Word :=
  match x.size with
  | 1 => [if x.sext then (v.setWidth 8).signExtend 32 else (v.setWidth 8).setWidth 32]
  | 2 => [if x.sext then (v.setWidth 16).signExtend 32 else (v.setWidth 16).setWidth 32]
  | 4 => [v.setWidth 32]
  | 8 => [v.setWidth 32, (v >>> 32).setWidth 32]
  | _ => [v.setWidth 32, (v >>> 32).setWidth 32, (v >>> 64).setWidth 32, (v >>> 96).setWidth 32]

/-- The unit key id, reserved for a pending result, goes back when nothing was numbered after it. -/
def State.unitOr (s : State) (id : Nat) : State := if s.unit == id + 1 then { s with unit := id } else s

/-- A vector access of the lanes m with lookahead la and destination fields (field and format): what has come lands or
pends, and lanes that wait for service or an answer keep the result open (R51, R281). A full load from one address is uniform
(R167), but where its lanes have read differing values, as their own stacks or a device give them, it is general (log 62). -/
def State.vectorAccess (s : State) (la : Nat) (x : Access) (dests : List (Nat × BitVec 4)) (m : Mask) : Eff :=
  if s.me.ioWaits x m then { st := s, stall := true }
  else
  let id := s.unit
  let pc := s.pc
  let instr := s.instrNo s.cur
  let t := { s with unit := id + 1 }.accessAll s.cur id instr pc x m
  let s := t.st
  let ok := t.got ||| t.zero
  let open_ := t.logged ||| t.remote
  let words := perLane (fun i => x.words (Lanes.at t.vals i))
  let vals := (List.range dests.length).map (fun j => perLane (fun i => (Lanes.at words i).getD j 0#32))
  let uniform := !x.isAtomic && t.zero == 0#32 && sameIn m x.addr
  if open_ == 0#32 && (la == 0 || ok == 0#32 || dests.isEmpty) then
    let full := (s.me.live &&& ~~~ok) == 0#32
    let s := s.unitOr id
    { st := (dests.zip vals).foldl (fun s d =>
        s.writeV d.1.1 ok (entryIn ok (uniform && full && sameIn ok d.2) (fun i => Lanes.at d.2 i)) d.1.2) s
      traps := t.traps }
  else
    let w := s.me
    let lanes := ok ||| open_
    let p : Pend :=
      { id := id
        pc := pc
        hints := s.hints
        dests := dests.map (fun d => (w.regNo d.1, d.2, lanes))
        sdest := .none
        vals := vals
        uniform := uniform
        lanes := lanes
        got := ok
        logged := t.logged
        remote := t.remote
        left := allLanesOf la
        la := la
        done := allLanesOf 0#15
        acc := x
        segs := w.segs
        instr := instr
        held := t.held
        stored := t.stored }
    { st := s.setMe { w with pend := w.pend ++ [p] }, traps := t.traps }

/-- One access for the whole issue by the lowest active non-helper lane (R169, R170): sld's destination, if any. A failure is
raised in every active non-helper lane. -/
def State.scalarAccess (s : State) (la : Nat) (x : Access) (sd : Option Nat) (m : Mask) : Eff :=
  match s.first m with
  | .none => { st := s }
  | .some f =>
    if s.me.ioWaits x (laneBit f) then { st := s, stall := true }
    else
    let id := s.unit
    let pc := s.pc
    let instr := s.instrNo s.cur
    let n := s.me.late.length
    let t := { s with unit := id + 1 }.accessAll s.cur id instr pc x (laneBit f)
    let s := t.st
    match t.traps with
    | (_, tr) :: _ => { st := s.unitOr id, traps := trapAll (s.real m) tr }
    | [] =>
      let s := (s.spreadLate s.cur n (s.real m)).modWarp s.cur (fun w => w.checkAgain (s.real m) pc)
      let v : DWord := (Lanes.at t.vals f).setWidth 64
      let open_ := t.logged ||| t.remote
      if open_ == 0#32 && (la == 0 || sd.isNone) then
        let s := s.unitOr id
        { st := match sd with | .some n => s.setSreg n v | .none => s }
      else
        let w := s.me
        let lanes := s.real m
        let p : Pend :=
          { id := id
            pc := pc
            hints := s.hints
            dests := []
            sdest := sd
            vals := [allLanesOf (v.setWidth 32), allLanesOf ((v >>> 32).setWidth 32)]
            uniform := true
            lanes := lanes
            got := if open_ == 0#32 then lanes else 0#32
            logged := t.logged
            remote := t.remote
            left := allLanesOf la
            la := la
            done := allLanesOf 0#15
            acc := x
            segs := w.segs
            instr := instr
            held := t.held }
        { st := s.setMe { w with pend := w.pend ++ [p] } }

/-- Is the operand log full, so that memory instructions stall (R281)? -/
def Warp.logFull (w : Warp) : Bool := decide (4 ≤ (w.pend.filter (fun p => p.logged != 0#32 || p.failing != 0#32)).length)

/-- ea of R164: S[sbase] + hint.off + V[voff], a pair when pair. -/
def State.ea (s : State) (sb : Nat) (vo : Nat) (pair : Bool) : Lanes DWord :=
  let base := s.sreg sb + s.offset
  let lo := (s.me.reg (s.me.regNo vo)).entry
  let hi := (s.me.reg (s.me.regNo (vo + 1))).entry
  perLane (fun i => base + (if pair then hi.at i ++ lo.at i else (lo.at i).setWidth 64))

/-- The bytes of a width code (R54). -/
def widthBytes (w : BitVec 3) : Nat := 2 ^ w.toNat
/-- The registers that a width takes. -/
def widthRegs (w : BitVec 3) : Nat := if w == 4#3 then 4 else if w == 3#3 then 2 else 1
/-- The v fields of a width from field d. -/
def widthV (d : BitVec 5) (w : BitVec 3) : List Nat := (List.range (widthRegs w)).map (d.toNat + ·)
/-- The v fields of an offset. -/
def offV (o : BitVec 5) (pair : Bool) : List Nat := if pair then [o.toNat, o.toNat + 1] else [o.toNat]
/-- Does a format code of hint.cache fit a load of the width (R54)? -/
def formatFits (w : BitVec 3) (f : BitVec 4) : Bool :=
  (w == 2#3 && ((1 ≤ f.toNat && f.toNat ≤ 7) || (10 ≤ f.toNat && f.toNat ≤ 12))) || (w == 3#3 && f == 8#4)
/-- The destination fields of a load with their formats (R54, R167). -/
def loadDests (d : BitVec 5) (w : BitVec 3) (f : BitVec 4) : List (Nat × BitVec 4) :=
  (List.range (widthRegs w)).map (fun j => (d.toNat + j, if w == 3#3 && f == 8#4 then (if j == 0 then 8#4 else 9#4) else f))

/-- The mould of the loads (R167 to R169). -/
def load (kind : AccKind) (offset acq sext pair : Bool) (d sb o : BitVec 5) (l : BitVec 4) (p : BitVec 2) (w : BitVec 3)
    (s : State) : State :=
  issue { v := widthV d w ++ offV o pair, s := [sb.toNat], pred := p, predicated := true, off := true, cache := true
          scope := acq, format := formatFits w } s (fun s m =>
    if s.me.logFull then { st := s, stall := true }
    else
      let (sc, f, pol) := s.cacheHint
      let x : Access := ⟨kind, widthBytes w, sext, offset, s.ea sb.toNat o.toNat pair, allLanesOf 0#128,
        if acq then (if sc == 0#3 then 5#3 else sc) else 0#3, 0#3, pol, false⟩
      s.vectorAccess l.toNat x (loadDests d w f) m)

/-- ld (R167). -/
def execLd (d s o : BitVec 5) (l : BitVec 4) (p : BitVec 2) (w : BitVec 3) (v : BitVec 2) (st : State) : Out :=
  .next (load .load false false (v.getLsbD 0) (v.getLsbD 1) d s o l p w st)
/-- ld.acq (R167). -/
def execLdAcq (d s o : BitVec 5) (l : BitVec 4) (p : BitVec 2) (w : BitVec 3) (v : BitVec 2) (st : State) : Out :=
  .next (load .load false true (v.getLsbD 0) (v.getLsbD 1) d s o l p w st)
/-- ld.ro (R168). -/
def execLdRo (d s o : BitVec 5) (l : BitVec 4) (p : BitVec 2) (w : BitVec 3) (x : BitVec 1) (st : State) : Out :=
  .next (load .readOnly false false (x.getLsbD 0) false d s o l p w st)
/-- ld.stream (R168). -/
def execLdStream (d s o : BitVec 5) (l : BitVec 4) (p : BitVec 2) (w : BitVec 3) (x : BitVec 1) (st : State) : Out :=
  .next (load .streamLoad false false (x.getLsbD 0) false d s o l p w st)
/-- ld.sp (R169). -/
def execLdSp (d s o : BitVec 5) (l : BitVec 4) (p : BitVec 2) (w : BitVec 3) (x : BitVec 1) (st : State) : Out :=
  .next (load .load true false (x.getLsbD 0) false d s o l p w st)
/-- sld (R169): the address has no offset register, and the destination is s0 to s31. -/
def execSld (d s : BitVec 5) (l : BitVec 4) (p : BitVec 2) (w : BitVec 3) (st : State) : Out :=
  .next (issue { s := [s.toNat, d.toNat], pred := p, predicated := true, off := true, cache := true
                 format := formatFits w } st (fun st m =>
    if st.me.logFull then { st := st, stall := true }
    else
      let (_, _, pol) := st.cacheHint
      let x : Access := ⟨.load, widthBytes w, false, false, allLanesOf (st.sreg s.toNat + st.offset), allLanesOf 0#128,
        0#3, 0#3, pol, true⟩
      st.scalarAccess l.toNat x (.some d.toNat) m))

/-- The data that lane i stores from field v: the registers of the width, lowest first (R170). -/
def State.storeData (s : State) (v n : Nat) : Lanes (BitVec 128) :=
  perLane (fun i => BitVec.ofNat 128 ((List.range n).foldr (fun j acc => acc * 2 ^ 32 + (s.me.lane (v + j) i).toNat) 0))

/-- The mould of the vector stores (R170). -/
def store (offset rel pair : Bool) (d sb o : BitVec 5) (p : BitVec 2) (w : BitVec 3) (s : State) : State :=
  issue { v := widthV d w ++ offV o pair, s := [sb.toNat], pred := p, predicated := true, off := true, cache := true
          scope := rel } s (fun s m =>
    if s.me.logFull then { st := s, stall := true }
    else
      let (sc, _, pol) := s.cacheHint
      let x : Access := ⟨.store, widthBytes w, false, offset, s.ea sb.toNat o.toNat pair, s.storeData d.toNat (widthRegs w),
        0#3, if rel then (if sc == 0#3 then 5#3 else sc) else 0#3, pol, false⟩
      s.vectorAccess 0 x [] (s.real m))

/-- st (R170). -/
def execSt (d s o : BitVec 5) (p : BitVec 2) (w : BitVec 3) (v : BitVec 1) (st : State) : Out :=
  .next (store false false (v.getLsbD 0) d s o p w st)
/-- st.rel (R170). -/
def execStRel (d s o : BitVec 5) (p : BitVec 2) (w : BitVec 3) (v : BitVec 1) (st : State) : Out :=
  .next (store false true (v.getLsbD 0) d s o p w st)
/-- st.sp (R170). -/
def execStSp (d s o : BitVec 5) (p : BitVec 2) (w : BitVec 3) (st : State) : Out :=
  .next (store true false false d s o p w st)
/-- sst (R170). -/
def execSst (d s : BitVec 5) (p : BitVec 2) (w : BitVec 3) (st : State) : Out :=
  .next (issue { s := [s.toNat, d.toNat], pred := p, predicated := true, off := true, cache := true } st (fun st m =>
    if st.me.logFull then { st := st, stall := true }
    else
      let (_, _, pol) := st.cacheHint
      let x : Access := ⟨.store, widthBytes w, false, false, allLanesOf (st.sreg s.toNat + st.offset),
        allLanesOf ((st.sreg d.toNat).setWidth 128), 0#3, 0#3, pol, true⟩
      st.scalarAccess 0 x .none m))

/-- The mould of the atomics (R171): aop, bytes, v fields of the destination and of the operands, and the format written. -/
def atomic (aop : BitVec 4) (n : Nat) (d sb o v : Nat) (nv : Nat) (fmt : BitVec 4) (r : BitVec 2) (s : State) : State :=
  let ds := (List.range (n / 4)).map (d + ·)
  issue { v := ds ++ [o] ++ (List.range nv).map (v + ·), s := [sb], predicated := true, off := true, cache := true
          scope := r != 0#2, la := true } s (fun s m =>
    if s.me.logFull then { st := s, stall := true }
    else
      let (sc, _, pol) := s.cacheHint
      let sc := if sc == 0#3 then 5#3 else sc
      let word (i : Lane) (j : Nat) : Nat := (s.me.lane (v + j) i).toNat
      let data := perLane (fun i =>
        if n == 4 then BitVec.ofNat 128 (word i 0 + (if nv == 2 then word i 1 * 2 ^ 64 else 0))
        else BitVec.ofNat 128 (word i 0 + word i 1 * 2 ^ 32
          + (if nv == 4 then word i 2 * 2 ^ 64 + word i 3 * 2 ^ 96 else 0)))
      let x : Access := ⟨.atomic aop, n, false, false, s.ea sb o false, data,
        if r.getLsbD 0 then sc else 0#3, if r.getLsbD 1 then sc else 0#3, pol, false⟩
      s.vectorAccess s.schedLa x
        (ds.map (fun f => (f, if fmt == 8#4 && f != d then 9#4 else fmt))) (s.real m))

def execAtomAdd32 (d s o v : BitVec 5) (r : BitVec 2) (st : State) : Out :=
  .next (atomic 0#4 4 d.toNat s.toNat o.toNat v.toNat 1 0#4 r st)
def execAtomAdd64 (d s o v : BitVec 5) (r : BitVec 2) (st : State) : Out :=
  .next (atomic 1#4 8 d.toNat s.toNat o.toNat v.toNat 2 0#4 r st)
def execAtomMinS32 (d s o v : BitVec 5) (r : BitVec 2) (st : State) : Out :=
  .next (atomic 2#4 4 d.toNat s.toNat o.toNat v.toNat 1 0#4 r st)
def execAtomMinN32 (d s o v : BitVec 5) (r : BitVec 2) (st : State) : Out :=
  .next (atomic 3#4 4 d.toNat s.toNat o.toNat v.toNat 1 0#4 r st)
def execAtomMaxS32 (d s o v : BitVec 5) (r : BitVec 2) (st : State) : Out :=
  .next (atomic 4#4 4 d.toNat s.toNat o.toNat v.toNat 1 0#4 r st)
def execAtomMaxN32 (d s o v : BitVec 5) (r : BitVec 2) (st : State) : Out :=
  .next (atomic 5#4 4 d.toNat s.toNat o.toNat v.toNat 1 0#4 r st)
def execAtomAnd (d s o v : BitVec 5) (r : BitVec 2) (st : State) : Out :=
  .next (atomic 6#4 4 d.toNat s.toNat o.toNat v.toNat 1 0#4 r st)
def execAtomOr (d s o v : BitVec 5) (r : BitVec 2) (st : State) : Out :=
  .next (atomic 7#4 4 d.toNat s.toNat o.toNat v.toNat 1 0#4 r st)
def execAtomXor (d s o v : BitVec 5) (r : BitVec 2) (st : State) : Out :=
  .next (atomic 8#4 4 d.toNat s.toNat o.toNat v.toNat 1 0#4 r st)
def execAtomXchg32 (d s o v : BitVec 5) (r : BitVec 2) (st : State) : Out :=
  .next (atomic 9#4 4 d.toNat s.toNat o.toNat v.toNat 1 0#4 r st)
def execAtomXchg64 (d s o v : BitVec 5) (r : BitVec 2) (st : State) : Out :=
  .next (atomic 10#4 8 d.toNat s.toNat o.toNat v.toNat 2 0#4 r st)
/-- atom.cas.32: the field counts register pairs (R56). -/
def execAtomCas32 (d s o : BitVec 5) (v : BitVec 4) (r : BitVec 2) (st : State) : Out :=
  .next (atomic 11#4 4 d.toNat s.toNat o.toNat (2 * v.toNat) 2 0#4 r st)
/-- atom.cas.64: the field counts blocks of four registers (R56). -/
def execAtomCas64 (d s o : BitVec 5) (v : BitVec 3) (r : BitVec 2) (st : State) : Out :=
  .next (atomic 12#4 8 d.toNat s.toNat o.toNat (4 * v.toNat) 4 0#4 r st)
def execAtomFaddF32 (d s o v : BitVec 5) (r : BitVec 2) (st : State) : Out :=
  .next (atomic 13#4 4 d.toNat s.toNat o.toNat v.toNat 1 1#4 r st)
def execAtomFaddF64 (d s o v : BitVec 5) (r : BitVec 2) (st : State) : Out :=
  .next (atomic 14#4 8 d.toNat s.toNat o.toNat v.toNat 2 8#4 r st)

/-! ### Fences (R172) -/

/-- A fence of the active non-helper lanes; a hint.cache scope that differs from the word's raises ILLEGAL. -/
def fenceForm (path : Bool) (p : BitVec 2) (sc : BitVec 3) (s : State) : State :=
  issue { pred := p, predicated := true, cache := true, scope := true
          bad := (s.cacheHint.1 != 0#3 && s.cacheHint.1 != sc) } s (fun s m =>
    if s.me.logFull then { st := s, stall := true }
    else { st := (lanesOf (s.real m)).foldl (fun s i =>
        let (a, s) := s.touch s.cur i
        if path then s.fencePathOf a sc else s.fenceOf a sc) s })
def execFence (p : BitVec 2) (sc : BitVec 3) (s : State) : Out := .next (fenceForm false p sc s)
def execFencePath (p : BitVec 2) (sc : BitVec 3) (s : State) : Out := .next (fenceForm true p sc s)

/-! ### cctl and prefetch (R173) -/

/-- cctl (R173). -/
def execCctl (sb o : BitVec 5) (p c : BitVec 2) (s : State) : Out :=
  .next (issue { v := [o.toNat], s := [sb.toNat], pred := p, predicated := true, off := true, cache := true
                 priv := c == 2#2 } s (fun s m =>
    if s.me.logFull then { st := s, stall := true }
    else
      let x : Access := ⟨.cctl c, 1, false, false, s.ea sb.toNat o.toNat false, allLanesOf 0#128, 0#3, 0#3, 0#3, false⟩
      s.vectorAccess 0 x [] (s.real m)))

/-- prefetch never traps, and changes no value (R173). -/
def execPrefetch (sb o : BitVec 5) (p : BitVec 2) (_l : BitVec 1) (s : State) : Out :=
  .next (issue { v := [o.toNat], s := [sb.toNat], pred := p, predicated := true, off := true, cache := true } s
    (fun s _ => { st := s, stall := s.me.logFull }))

/-! ### Instructions that stay where they are for service, and those that an open tile forbids (R281, R333) -/

/-- Lanes of m whose access x needs service stay at the instruction, which they execute again once it has come (R281, R348):
the state and those lanes. -/
def State.awaitService (s : State) (x : Access) (m : Mask) : State × Mask :=
  let k := s.cur
  let id := s.unit
  let pc := s.pc
  let (t, hit) := (lanesOf (s.real m)).foldl (fun (acc : State × Mask) i =>
    match s.judge k (s.instrNo k) pc x i with
    | .service r va =>
      (acc.1.sendFault (s.ctx s.me) va (if x.writes then 1 else 0) r (.lane k id i 0), acc.2 ||| laneBit i)
    | _ => acc) ({ s with unit := id + 1 }, 0#32)
  if hit == 0#32 then (s, hit)
  else
    let p : Pend := ⟨id, pc, s.hints, [], .none, [], false, hit, 0#32, hit, 0#32, allLanesOf 0, 0, allLanesOf 0#15,
      { x with kind := .probe x.writes }, [], s.me.segs, .none, s.instrNo k, 0#32, []⟩
    (t.modWarp k (fun w => { w with
      pend := w.pend ++ [p]
      kept := Lanes.where_ w.kept hit (fun _ => .some (pc, s.hints)) }), hit)

/-- Lanes that act for an open tile raise SNETATOM, and the body acts for the others, if any (R333). -/
def State.tileGuard (s : State) (m : Mask) (f : State → Mask → Eff) : Eff :=
  let bad := maskOf (fun i => Mask.has (s.real m) i && (s.tileOf s.me i).isSome)
  if bad == 0#32 then f s m
  else if s.real m == bad then { st := s, traps := trapAll bad (Trap.plain .snetatom) }
  else
    let e := f s (m &&& ~~~bad)
    { e with traps := trapAll bad (Trap.plain .snetatom) ++ e.traps }

/-! ### wait.addr (R92) -/

/-- What a wait of lane i of warp k reads: the word, the cause it fails with, or a word that service or a peer must answer. -/
inductive WaitRead where
  | word (w : Word)
  | fails (c : Cause)
  | service (reason va : Nat)
  | peer (dev pa : Nat)
deriving DecidableEq, Repr

/-- The read of a wait at a generic address (R92): path 0x0 or 0x2, or a scratchpad window, exempt from the detector. -/
def State.waitRead (s : State) (k : Nat) (i : Lane) (a : DWord) : WaitRead :=
  let x : Access := ⟨.load, 4, false, false, allLanesOf a, allLanesOf 0#128, 0#3, 0#3, 0#3, false⟩
  let path := nbits a.toNat 60 4
  match s.reach k x i with
  | .fails c => .fails c
  | .service r va => if path == 1 || path == 3 then .fails .prot else .service r va
  | .spots l =>
    if path == 1 || path == 3 then .fails .prot
    else
      match l with
      | [.peer dev pa _ _] => .peer dev pa
      | l => .word ((s.readSpots k i x l).setWidth 32)

/-- Lane i of warp k, whose wait.addr at pc has the hints h, reads its word once and waits while it equals x (R92); the cause
where a check fails. -/
def State.waitOn (s : State) (k : Nat) (i : Lane) (pc : Word) (h : Hints) (a : DWord) (x : Word) : State × Option Cause :=
  match s.waitRead k i a with
  | .fails c => (s, .some c)
  | .word v => (if v == x then s.enterWait k i pc h (.addr a x) else s.leaveWait k i, .none)
  | .service r va => ((s.enterWait k i pc h (.addr a x)).sendFault (s.ctx (s.warp k)) va 0 r (.wait k i), .none)
  | .peer dev pa =>
    let s' := s.enterWait k i pc h (.addr a x)
    ((s'.request dev (s.ctx (s.warp k)).world (.read pa 4) (.wait k i)).getD s', .none)

/-- wait.addr (R92). -/
def execWaitAddr (a b : Src) (p : BitVec 2) (s : State) : Out :=
  .next (issue { v := srcV64 a ++ srcV b, s := srcS a ++ srcS b, pred := p, predicated := true
                 k := Perm.param a.perm || Perm.param b.perm } s (fun s m =>
    let ad := s.src64 false a
    let x := s.srcB b
    let pc := s.pc
    (lanesOf (s.real m)).foldl (fun (e : Eff) i =>
      let (s', c) := e.st.waitOn s.cur i pc s.hints (Lanes.at ad.lanes i) (x.at i)
      match c with
      | .some c => { e with st := s', traps := e.traps ++ [(i, Trap.atAddr c (Lanes.at ad.lanes i))] }
      | .none => { e with st := s' }) { st := s }))

end Sys2Proof.Machine
end

