-- ==== Sys2Proof/Machine/Barrier.lean ====
section
/-! DEFINITION. Barrier objects (R207 to R213), observations of engine operations (R187, R188, R198), group and cluster
barriers (R214) and reorder (R149, R150). -/

namespace Sys2Proof.Machine

/-! ### Observing engine operations (R187, R198, R201) -/

/-- Agent a of lane i of warp k acquires engine operations, each up to a region: the first of them that conflicted, if any, raises
RACE at its address, unless this execution is not checked (R201). -/
def State.observeAll (s : State) (k : Nat) (i : Lane) (pc : Word) (es : Map Nat) : State × Option Trap :=
  let (a, s) := s.touch k i
  let s := (s.observe a es).endRegion a
  let bad := (es.map (·.1)).filter (fun e => (s.agent e).raced.isSome)
  let s := bad.foldl (fun s e => s.modAgent e (fun x => { x with observed := true })) s
  let skip := Lanes.at (s.warp k).skipRace i == .some pc
  let s := s.modWarp k (fun w => w.checkAgain (laneBit i) pc)
  match bad with
  | e :: _ => if skip then (s, .none) else (s, .some { Trap.atAddr .race ((s.agent e).raced.getD 0#64) with mark := true })
  | [] => (s, .none)

/-- What an instruction that may wait comes to for one lane. -/
inductive Seen where
  | wait
  | done
  | trap (t : Trap)
deriving DecidableEq, Repr

/-- Waiting lanes of warp k whose instruction now traps: each stands at its instruction again, and the traps are taken. -/
def State.trapWaiting (s : State) (k : Nat) (ts : List (Lane × Trap)) : State :=
  match ts with
  | [] => s
  | _ :: _ =>
    let h := (s.warp k).keptHints
    let m := trapLanes ts
    let s := s.modWarp k (fun w => { w with
      wait := Lanes.where_ w.wait m (fun _ => .none)
      pc := Lanes.where_ w.pc m (fun i => Lanes.at w.pc i - 4#32) })
    s.takeTraps k h ts

/-! ### Barrier objects (R207 to R209) -/

/-- Word n of the object at offset o of a group's scratchpad. -/
def State.objWord (s : State) (g o n : Nat) : Nat :=
  natOfBytes ((List.range 4).map (fun j => mapGet 0#8 (s.group g).sp (o + 4 * n + j)))
/-- The four words of an object written. -/
def State.setObj (s : State) (g o w0 w1 w2 w3 : Nat) : State :=
  s.writeScratch g o (bytesOfNat 4 w0 ++ bytesOfNat 4 w1 ++ bytesOfNat 4 w2 ++ bytesOfNat 4 w3)
/-- What the scratchpad keeps beside an object's words. -/
def State.obj (s : State) (g o : Nat) : Obj := mapGet Obj.empty (s.group g).objs (o / 16)
/-- That record changed. -/
def State.modObj (s : State) (g o : Nat) (f : Obj → Obj) : State :=
  s.modGroup g (fun x => { x with objs := mapPut x.objs (o / 16) (f (mapGet Obj.empty x.objs (o / 16))) })

/-- The phase of an object. -/
def State.phase (s : State) (g o : Nat) : Nat := s.objWord g o 3 % 2 ^ 25
/-- The recorded CAUSE of an object. -/
def State.objCause (s : State) (g o : Nat) : Nat := s.objWord g o 3 / 2 ^ 26

/-- The end of an update: the phase completes when its counts meet its expectations (R208). -/
def State.objSettle (s : State) (g o : Nat) : State :=
  let arrb := s.objWord g o 0
  let expb := s.objWord g o 1
  let expa := s.objWord g o 2 / 65536
  let arra := s.objWord g o 2 % 65536
  let w3 := s.objWord g o 3
  if expa + expb != 0 && arra == expa && arrb == expb then
    (s.setObj g o 0 0 (expa * 65536) (w3 / 2 ^ 25 * 2 ^ 25 + (w3 + 1) % 2 ^ 25)).modObj g o (fun x =>
      { x with arrivals := [], engines := [], phases := mapPut x.phases (w3 % 2 ^ 25) (x.arrivals, x.engines) })
  else s

/-- What an observation that the object is past phase x acquires: the arrivals and the counted operations of that phase and of those
completed since (R187, R190). -/
def State.objSeen (s : State) (g o x : Nat) : List Rel × Map Nat :=
  let n := (s.phase g o + 2 ^ 25 - x % 2 ^ 25) % 2 ^ 25
  let l := (s.obj g o).phases.filter (fun p => decide ((p.1 + 2 ^ 25 - x % 2 ^ 25) % 2 ^ 25 < n))
  (l.flatMap (·.2.1), l.foldl (fun m p => joinClock m p.2.2) [])

/-- The scope of an object for a thread of a group: group for the group's own, gang for another member's (R212). -/
def objScope (group g : Nat) : BitVec 3 := if g == group then 3#3 else 4#3

/-- Word 3 with OVR set. -/
def withOvr (w3 : Nat) : Nat := if w3 / 2 ^ 25 % 2 == 1 then w3 else w3 + 2 ^ 25

/-- An expectation of n more bytes (R209, R211). -/
def State.objExpect (s : State) (g o n : Nat) : State :=
  let e := s.objWord g o 1 + n
  let w3 := s.objWord g o 3
  (s.setObj g o (s.objWord g o 0) (min e (2 ^ 32 - 1)) (s.objWord g o 2) (if 2 ^ 32 ≤ e then withOvr w3 else w3)).objSettle g o

/-- An arrival with its release (R190, R209, R211): it adds 1 to ARRA alone. -/
def State.objArrive (s : State) (g o : Nat) (r : Rel) : State :=
  let w2 := s.objWord g o 2
  let w3 := s.objWord g o 3
  if w2 % 65536 == w2 / 65536 then (s.setObj g o (s.objWord g o 0) (s.objWord g o 1) w2 (withOvr w3)).objSettle g o
  else
    ((s.setObj g o (s.objWord g o 0) (s.objWord g o 1) (w2 / 65536 * 65536 + (w2 + 1) % 65536) w3).modObj g o (fun x =>
      { x with arrivals := x.arrivals ++ [r] })).objSettle g o

/-- n bytes counted by engine agent e (R209): they are what it has written so far, and what it writes next is of a later region, so
that this phase's edge does not carry it (R187). -/
def State.objCount (s : State) (g o n e : Nat) : State :=
  let c := s.objWord g o 0 + n
  let w3 := s.objWord g o 3
  (((s.setObj g o (min c (2 ^ 32 - 1)) (s.objWord g o 1) (s.objWord g o 2) (if 2 ^ 32 ≤ c then withOvr w3 else w3)).modObj g o
    (fun x => { x with engines := mapPut x.engines e (s.counted_ e) })).endRegion e).objSettle g o

/-- The cause of a failed operation recorded when CAUSE is 0, with the bytes it leaves counted as arrived (R215). -/
def State.objFail (s : State) (g o n e : Nat) (c : Cause) : State :=
  let w3 := s.objWord g o 3
  let w3 := if w3 / 2 ^ 26 == 0 then w3 + c.code.toNat * 2 ^ 26 else w3
  (s.setObj g o (s.objWord g o 0) (s.objWord g o 1) (s.objWord g o 2) w3).objCount g o n e

/-- The object that a generic address names for a warp, or the check of R211 it fails. -/
def State.objAt (s : State) (w : Warp) (a : DWord) : Cause ⊕ (Nat × Nat) :=
  let va := a.toNat
  if va % 16 != 0 then .inl .align
  else
    match w.window va with
    | .some .scratch =>
      let o := va - w.segSp.base.toNat
      if w.segSp.lim.toNat < o + 16 then .inl .segv else .inr (w.group, o)
    | .some .cluster =>
      let o := (va - w.segCl.base.toNat) % 2 ^ 19
      let j := (va - w.segCl.base.toNat) / 2 ^ 19
      if w.segCl.lim.toNat < o + 16 || s.gangSize (s.group w.group) ≤ j then .inl .segv
      else
        match s.member (s.group w.group) j with
        | .some g => .inr (g, o)
        | .none => .inl .segv
    | _ => .inl .segv

/-- The cause of a code (R256). -/
def causeOf (n : Nat) : Cause :=
  match n with
  | 1 => .illegal | 2 => .priv | 3 => .regbound | 4 => .fmt | 5 => .fmtx | 6 => .fpinv | 7 => .fpdz
  | 8 => .fpovf | 9 => .fpunf | 10 => .fpinx | 11 => .idiv0 | 12 => .align | 13 => .segv | 14 => .xlat | 15 => .prot
  | 16 => .race | 17 => .racelate | 18 => .poison | 19 => .bkpt | 20 => .watch | 21 => .step | 22 => .swtrap
  | 23 => .frameovf | 24 => .egress | 25 => .peer | 26 => .stale | 27 => .svcerr | 28 => .snetatom | 29 => .link
  | 30 => .quota | _ => .none

/-- Lane i of warp k at the instruction pc observes that the object at address a is past phase x: it acquires the arrivals and
the counted bytes, and traps on a recorded cause (R187, R190, R198, R211). -/
def State.seePhase (s : State) (k : Nat) (i : Lane) (pc : Word) (a : DWord) (x : Word) (g o : Nat) : State × Option Trap :=
  let (t, s) := s.touch k i
  let (rels, es) := s.objSeen g o x.toNat
  let s := s.modAgent t (fun y => y.learnAll (s.acquired t (objScope (s.warp k).group g) rels))
  let (s, r) := s.observeAll k i pc es
  match r with
  | .some t => (s, .some t)
  | .none => (s, if s.objCause g o == 0 then .none else .some (Trap.atAddr (causeOf (s.objCause g o)) a))

/-- One read of bar.wait by lane i of warp k (R211, R213): it waits while the phase equals x. -/
def State.lookBar (s : State) (k : Nat) (i : Lane) (pc : Word) (a : DWord) (x : Word) : State × Seen :=
  match s.objAt (s.warp k) a with
  | .inl c => (s, .trap (Trap.atAddr c a))
  | .inr (g, o) =>
    if s.phase g o == x.toNat % 2 ^ 25 then (s, .wait)
    else
      match s.seePhase k i pc a x g o with
      | (s, .some t) => (s, .trap t)
      | (s, .none) => (s, .done)

/-- The use of a bar.* instruction with the v fields d. -/
def barUse (d : List Nat) (a : Src) (b : Option Src) (p : BitVec 2) : Use :=
  let bv := match b with | .some b => srcV b | .none => []
  let bs := match b with | .some b => srcS b | .none => []
  { v := d ++ srcV64 a ++ bv, s := srcS a ++ bs, pred := p, predicated := true
    k := Perm.param a.perm || (match b with | .some b => Perm.param b.perm | .none => false) }

/-- The mould of the forms that update an object per active lane in ascending order, and the phase each lane read. -/
def objLanes (s : State) (m : Mask) (ad : Lanes DWord) (f : State → Lane → Nat → Nat → State) :
    State × List (Lane × Trap) × Lanes Word :=
  (lanesOf (s.real m)).foldl (fun (acc : State × List (Lane × Trap) × Lanes Word) i =>
    let s := acc.1
    match s.objAt s.me (Lanes.at ad i) with
    | .inl c => (s, acc.2.1 ++ [(i, Trap.atAddr c (Lanes.at ad i))], acc.2.2)
    | .inr (g, o) => (f s i g o, acc.2.1, Lanes.put acc.2.2 i (BitVec.ofNat 32 (s.phase g o)))) (s, [], allLanesOf 0#32)

/-- bar.init (R211). -/
def execBarInit (a b : Src) (p : BitVec 2) (s : State) : Out :=
  .next (issue (barUse [] a (.some b) p) s (fun s m =>
    let x := s.srcB b
    let (s', ts, _) := objLanes s m (s.src64 false a).lanes (fun s i g o =>
      (s.setObj g o 0 0 ((x.at i).toNat % 65536 * 65536) 0).modObj g o (fun _ => { Obj.empty with marked := true }))
    { st := s', traps := ts }))

/-- The result of bar.expect and bar.arrive: uniform when every active lane names one object and reads one phase (R211). -/
def State.writePhase (s : State) (d : BitVec 5) (m : Mask) (ts : List (Lane × Trap)) (ad : Lanes DWord) (ph : Lanes Word) : State :=
  let ok := s.real m &&& ~~~trapLanes ts
  if ts.isEmpty && sameIn ok ad && sameIn ok ph then
    match lowestLane? ok with
    | .some i => s.writeV d.toNat ok (s.fullOr ok (Lanes.at ph i)) 0#4
    | .none => s
  else s.writeV d.toNat ok (.general ph) 0#4

/-- bar.expect (R211). -/
def execBarExpect (d : BitVec 5) (a b : Src) (p : BitVec 2) (s : State) : Out :=
  .next (issue (barUse [d.toNat] a (.some b) p) s (fun s m =>
    let x := s.srcB b
    let ad := (s.src64 false a).lanes
    let (s', ts, ph) := objLanes s m ad (fun s i g o => s.objExpect g o (x.at i).toNat)
    { st := s'.writePhase d m ts ad ph, traps := ts }))

/-- bar.arrive, a release (R190, R211). -/
def execBarArrive (d : BitVec 5) (a : Src) (p : BitVec 2) (s : State) : Out :=
  .next (issue (barUse [d.toNat] a .none p) s (fun s m =>
    let ad := (s.src64 false a).lanes
    let (s', ts, ph) := objLanes s m ad (fun s i g o =>
      let (t, s) := s.touch s.cur i
      (s.objArrive g o (s.release t (objScope s.me.group g) (s.publishedAll t))).endRegion t)
    { st := s'.writePhase d m ts ad ph, traps := ts }))

/-- bar.wait (R211, R213). -/
def execBarWait (a b : Src) (p : BitVec 2) (s : State) : Out :=
  .next (issue (barUse [] a (.some b) p) s (fun s m =>
    let ad := (s.src64 false a).lanes
    let x := s.srcB b
    let pc := s.pc
    (lanesOf (s.real m)).foldl (fun (e : Eff) i =>
      match e.st.lookBar s.cur i pc (Lanes.at ad i) (x.at i) with
      | (s', .wait) => { e with st := s'.enterWait s.cur i pc s.hints (.bar (Lanes.at ad i) (x.at i)) }
      | (s', .done) => { e with st := s' }
      | (s', .trap t) => { e with st := s', traps := e.traps ++ [(i, t)] }) { st := s }))

/-- The lowest real lane of the quad of lane i (R206, R211). -/
def Warp.quadLead (w : Warp) (i : Lane) : Lane := (lowestLane? (w.live &&& quadOf i)).getD i

/-- bar.test (R211): each helper lane writes the bit of its quad's lowest real lane. -/
def execBarTest (d : BitVec 4) (a b : Src) (p : BitVec 2) (s : State) : Out :=
  .next (issue (barUse [] a (.some b) p) s (fun s m =>
    let ad := (s.src64 false a).lanes
    let x := s.srcB b
    let pc := s.pc
    let flip (s : State) (i : Lane) : Bool :=
      match s.objAt s.me (Lanes.at ad i) with
      | .inl _ => false
      | .inr (g, o) => s.phase g o != (x.at i).toNat % 2 ^ 25
    let e := (lanesOf (s.real m)).foldl (fun (e : Eff) i =>
      let s := e.st
      match s.objAt s.me (Lanes.at ad i) with
      | .inl c => { e with traps := e.traps ++ [(i, Trap.atAddr c (Lanes.at ad i))] }
      | .inr (g, o) =>
        if flip s i then
          match s.seePhase s.cur i pc (Lanes.at ad i) (x.at i) g o with
          | (s', .some t) => { e with st := s', traps := e.traps ++ [(i, t)] }
          | (s', .none) => { e with st := s' }
        else e) { st := s }
    let bits := maskOf (fun i => flip s (if Mask.has s.me.live i then i else s.me.quadLead i))
    { e with st := e.st.setMe (e.st.me.setMaskLanes d.toNat (m &&& ~~~trapLanes e.traps) bits) }))

/-! ### Group and cluster barriers (R149, R186, R214) -/

/-- The members of a group's barriers: every unretired real thread, by warp and lane. -/
def State.members (s : State) (g : Nat) : List (Nat × Lane) :=
  (s.group g).warps.flatMap (fun k => (lanesOf (s.warp k).live).map (fun i => (k, i)))

/-- Members whose wait, suspended ones counted, satisfies f. -/
def State.arrived (s : State) (g : Nat) (f : Wait → Bool) : Nat :=
  ((s.members g).filter (fun x => f (Lanes.at (s.warp x.1).wait x.2) || f (Lanes.at (s.warp x.1).suspended x.2))).length

/-- The groups of a gang that have not retired. -/
def State.gangGroups (s : State) (g : Nat) : List Nat :=
  let x := s.group g
  (s.groups.filter (fun e => !e.2.handler && e.2.grid == x.grid && e.2.gang == x.gang && e.2.status != .retired)).map (·.1)

/-- $barstate of a group (R203). -/
def State.barstate (s : State) (g : Nat) : Word :=
  BitVec.ofNat 32 ((s.group g).gen.toNat * 2 ^ 22 + (s.members g).length % 2048 * 2 ^ 11
    + s.arrived g (· == .group) % 2048)
/-- $clbarstate of a group's gang (R203). -/
def State.clbarstate (s : State) (g : Nat) : Word :=
  let l := s.gangGroups g
  let n := (l.map (fun k => (s.members k).length)).sum
  let a := (l.map (fun k => s.arrived k (· == .cluster))).sum
  BitVec.ofNat 32 ((s.group g).clgen.toNat * 2 ^ 26 + n % 8192 * 2 ^ 13 + a % 8192)

/-- The members continue at their next instruction after a barrier, their accesses ordered across it (R186, R214). -/
def State.passBarrier (s : State) (scope : BitVec 3) (l : List (Nat × Lane)) : State :=
  let s := l.foldl (fun s x => (s.touch x.1 x.2).2) s
  let s := s.barrierOf scope (l.map (fun x => threadAgent (s.warp x.1) x.2))
  l.foldl (fun s x => s.leaveWait x.1 x.2) s

/-- bar.group completes when every member has arrived (R214). -/
def State.settleGroup (s : State) (g : Nat) : State :=
  let l := s.members g
  if !l.isEmpty && l.all (fun x => Lanes.at (s.warp x.1).wait x.2 == .group) then
    (s.passBarrier 3#3 l).modGroup g (fun x => { x with gen := x.gen + 1 })
  else s

/-- The allocation of a retired group is released (R163). -/
def State.releaseScratch (s : State) (g : Nat) : State :=
  s.modGroup g (fun x => { x with spLive := false, sp := [], spPoison := [], objs := [] })

/-- bar.cluster completes when every member of every unretired group of the gang has arrived (R214); allocations that R163
keeps until it are released. -/
def State.settleCluster (s : State) (g : Nat) : State :=
  let l := (s.gangGroups g).flatMap s.members
  if !l.isEmpty && l.all (fun x => Lanes.at (s.warp x.1).wait x.2 == .cluster) then
    let x := s.group g
    let s := s.passBarrier 4#3 l
    let gang := s.groups.filter (fun e => !e.2.handler && e.2.grid == x.grid && e.2.gang == x.gang)
    let s := gang.foldl (fun s e => s.modGroup e.1 (fun y => { y with clgen := y.clgen + 1 })) s
    gang.foldl (fun s e => if e.2.status == .retired && e.2.retiredGen == e.2.clgen + 1 then s.releaseScratch e.1 else s) s
  else s

/-- Active lanes arrive at a barrier and wait (R77, R214). -/
def arrive (x : Wait) (s : State) (m : Mask) : State :=
  let pc := s.pc
  (lanesOf (s.real m)).foldl (fun t i => t.enterWait s.cur i pc s.hints x) s

/-- bar.group (R214). -/
def execBarGroup (s : State) : Out :=
  .next (issue {} s (fun s m =>
    let s' := (arrive .group s m).advance s.bundle
    { st := s'.settleGroup s.me.group, jumped := s.bundle }))
/-- bar.cluster (R214). -/
def execBarCluster (s : State) : Out :=
  .next (issue {} s (fun s m =>
    let s' := (arrive .cluster s m).advance s.bundle
    { st := s'.settleCluster s.me.group, jumped := s.bundle }))

/-! ### reorder (R149, R150) -/

/-- A member's place in the order of R150: key, then old position. -/
def insertKey (x : Nat × Nat × Nat × Lane) : List (Nat × Nat × Nat × Lane) → List (Nat × Nat × Nat × Lane)
  | [] => [x]
  | y :: t => if x.1 < y.1 || (x.1 == y.1 && x.2.1 < y.2.1) then x :: y :: t else y :: insertKey x t

/-- Register n of new warp j: the values that its members bring, uniform when they are one value, with the format that every
source warp shows (R150). A lane that no member fills has never written it and reads 0 (R141). -/
def movedReg (src : List (Warp × Lane)) (n : Nat) : VReg :=
  let val (r : Nat) : Word := match src[r]? with | .some (w, i) => (w.reg n).entry.at i | .none => 0#32
  let f := match src with | (w, _) :: _ => (w.reg n).fmt | [] => 0#4
  let fmt := if src.all (fun x => (x.1.reg n).fmt == f) then f else 0#4
  let e : Entry :=
    if src.all (fun x => (x.1.reg n).entry.at x.2 == val 0) then .uniform (val 0)
    else .general (perLane (fun i => val i.val))
  ⟨e, fmt, true⟩

/-- New warp j after the move, its registers still to be filled (R150). The registers of a handler warp's lanes that R258 gives them
for a trap describe the lane and stay there (log 63); a register that moves brings the poison of its sources (R363). -/
def movedWarp (src : List (Warp × Lane)) (old : Warp) (live : Word) (pc : Word) : Warp :=
  let fill := maskOf (fun i => decide (i.val < src.length))
  let w := { old with
    v := zeroV
    spoiled := (List.range 32).filter (fun n => live.getLsbD n && src.any (fun x => x.1.spoiled.contains n))
      ++ old.spoiled.filter (fun n => decide (32 ≤ n))
    real := fill
    retired := 0#32
    detached := 0#32
    tid := perLane (fun i => match src[i.val]? with | .some (w, j) => Lanes.at w.tid j | .none => Lanes.at old.tid i)
    pc := allLanesOf pc
    meet := allLanesOf 0#32
    meetmask := allLanesOf 0#4
    m := Vector.replicate 16 0#32
    wait := allLanesOf .none
    kept := allLanesOf .none
    lu := allLanesOf 0#22
    done := allLanesOf 0#15
    logpc := allLanesOf .none
    skipBp := allLanesOf .none
    skipWatch := allLanesOf .none
    skipRace := allLanesOf .none
    skipLate := allLanesOf [] }
  if src.isEmpty then { w with h := zeroH, bundles := [], place := .gone } else w

/-- Warp k takes the registers that its members bring, each as the narrow store has room (R29), and its region is new. -/
def State.refill (s : State) (k : Nat) (src : List (Warp × Lane)) (live : Word) : State :=
  let s := ((List.range 32).filter (fun n => live.getLsbD n && !src.isEmpty)).foldl (fun s n =>
    s.modWarp k (fun w =>
      let r := movedReg src n
      w.setReg n { r with entry := r.entry.fit (s.narrowFree w.die w.core) })) s
  s.modWarp k (fun w => if src.isEmpty then w else (w.checkpoint).reform s.cc)

/-- reorder completes when every member has arrived (R149, R150). W are the warps that have not retired (log 63). -/
def State.settleReorder (s : State) (g : Nat) : State :=
  let l := s.members g
  let arg (x : Nat × Lane) : Option (BitVec 5 × BitVec 5) :=
    match Lanes.at (s.warp x.1).wait x.2 with
    | .reorder k l => .some (k, l)
    | _ => .none
  if l.isEmpty || !l.all (fun x => (arg x).isSome) then s
  else
    let pcs := l.map (fun x => Lanes.at (s.warp x.1).pc x.2)
    let pc := pcs.headD 0#32
    let (kreg, lreg) := (arg (l.headD (0, 0))).getD (0#5, 0#5)
    let live : Word := ((s.group g).sreg lreg.toNat).setWidth 32
    let warps := (s.group g).warps.filter (fun k => (s.warp k).place != .gone)
    let fail (c : Cause) : State := warps.foldl (fun s k =>
      s.trapWaiting k (trapAll (s.warp k).live (Trap.plain c))) s
    if !pcs.all (· == pc) then fail .illegal
    else if live.toNat / 2 ^ (s.grid (s.group g).grid).record.regs != 0 then fail .regbound
    else
      let order := (l.map (fun x =>
        let w := s.warp x.1
        ((w.lane kreg.toNat x.2).toNat, 32 * w.no.toNat + x.2.val, x.1, x.2))).foldr insertKey []
      let src := order.map (fun x => (s.warp x.2.2.1, x.2.2.2))
      let s := l.foldl (fun s x => (s.touch x.1 x.2).2) s
      let s := s.barrierOf 3#3 (l.map (fun x => threadAgent (s.warp x.1) x.2))
      let sorted := (warps.map (fun k => ((s.warp k).no.toNat, k, k, (0 : Lane)))).foldr insertKey []
      let new_ := ((List.range sorted.length).zip sorted).map (fun e => (e.2.2.1, (src.drop (32 * e.1)).take 32))
      let t := new_.foldl (fun t e => t.setWarp e.1 (movedWarp e.2 (s.warp e.1) live pc)) s
      new_.foldl (fun t e => t.refill e.1 e.2 live) t

/-- reorder: threads wait for their pending results, then arrive (R149, R150). -/
def execReorder (k l : BitVec 5) (s : State) : Out :=
  .next (issue { v := [k.toNat], s := [l.toNat] } s (fun s m =>
    if s.me.pend.any (fun p => (p.lanes &&& s.bundle) != 0#32) then { st := s, stall := true }
    else
      let s' := (arrive (.reorder k l) s m).advance s.bundle
      { st := s'.settleReorder s.me.group, jumped := s.bundle }))

end Sys2Proof.Machine
end

