-- ==== Sys2Proof/Machine/Copy.lean ====
section
/-! DEFINITION. The copy engine (R202 to R206, R215 to R219): per-thread copies and their tags, bulk copies, gathers and
collectives, and what their requests, chunks and steps do when they complete. -/

namespace Sys2Proof.Machine

/-! ### Engine accesses -/

/-- The engine of a core's copies, the collective unit of a die, and the matrix engine and the gather unit of a cluster, each one
agent of R174. -/
def copyEngine (core : Nat) : Nat := core
def matrixEngine (cl : Nat) : Nat := 100000 + cl
def collectiveUnit (die : Nat) : Nat := 200000 + die
def gatherUnit (cl : Nat) : Nat := 300000 + cl

/-- A debug event record (R276, R198): a code-0 record that stops nothing. -/
def State.debugEvent (s : State) (die grid : Nat) (world : BitVec 10) (c : Cause) (a : DWord) : State :=
  s.post die { code := 0, body := trapRecord grid world die 0 0 0#32 (Trap.plain c).word a 0#32 2 0, warp := .none, cluster := .none }

/-- An engine's access to local memory, which reads, writes or does both, compared with the watch triples of its home die: the first hit is recorded, later ones
are counted, and each sends a debug event (R276). -/
def State.watchEngine (s : State) (src core dev grid : Nat) (world : BitVec 10) (rd wr : Bool) (pa n : Nat) : State :=
  let d := homeDie pa
  let hit (t : DWord × DWord × DWord) : Bool :=
    let c := t.2.2.toNat
    nbits c 63 1 == 1 && ((wr && nbits c 61 1 == 1) || (rd && nbits c 62 1 == 1)) && decide (pa < t.2.1.toNat)
      && decide (t.1.toNat < pa + n) && (nbits c 60 1 == 0 || nbits c 10 32 == grid) && nbits c 59 1 == 0
  match (List.range 16).find? (fun j => hit ((s.die d).wp.toList.getD j (0#64, 0#64, 0#64))) with
  | .none => s
  | .some j =>
    let s := s.modDie d (fun x =>
      if nbits x.whitAddr.toNat 63 1 == 1 then
        let lost := nbits x.whitInfo.toNat 40 8
        if lost < 255 then { x with whitInfo := x.whitInfo + BitVec.twoPow 64 40 } else x
      else
        { x with
          whitAddr := BitVec.ofNat 64 (2 ^ 63 + pa)
          whitInfo := BitVec.ofNat 64 (j * 2 ^ 60 + src * 2 ^ 58 + (if wr then 2 ^ 57 else 0) + dev * 2 ^ 48
            + core % 128 * 2 ^ 32 + (if src < 2 then grid else 0)) })
    s.debugEvent d (if src < 2 then grid else 0) world .watch (BitVec.ofNat 64 pa)

/-- An engine operation's access joins the history, its reads in class 6; one that conflicts is performed and marks its operation
(R187, R198). A path 0x1 access is not tracked (R192). -/
def State.trackEngine (s : State) (e : Nat) (cls : Nat) (wr : Bool) (grid : Nat) (addr : DWord) (loc n : Nat) : State :=
  if cls == 1 then s
  else
    let c := if wr then cls else 6
    let s := if s.racy e c 0 wr loc n then s.modAgent e (fun x => { x with raced := .some (x.raced.getD addr) }) else s
    s.record e c 0 wr grid loc n

/-- What an engine finds at a virtual range. -/
inductive EngineAt where
  | here (pa buf : Nat)
  | away (dev pa : Nat)
  | fails (c : Cause)
  | service (reason : Nat)
deriving DecidableEq, Repr

/-- Translation and, for a read, the data check of n bytes at va for an engine (R205, R215). -/
def State.engineAt (s : State) (c : Ctx) (tile wr : Bool) (path va n : Nat) : EngineAt :=
  match s.place c path wr va with
  | .trap e => .fails e
  | .service r => .service r
  | .io _ => .fails .prot
  | .peer dev pa => if tile && wr then .fails .prot else if (s.routeTo dev).isNone then .fails .link else .away dev pa
  | .memory pa buf =>
    if wr then .here pa buf
    else
      match s.lineState c.world buf pa with
      | .stale => .fails .stale
      | .bad => .fails .poison
      | .good => if s.mem.poisoned pa n then .fails .poison else .here pa buf

/-! ### Per-thread copies (R204, R205) -/

/-- The checks of cp.async for a lane of a warp: destination offset o, source a, n valid bytes. -/
def State.copyCheck (s : State) (w : Warp) (o : Nat) (a : DWord) (n : Nat) : Reach :=
  let va := a.toNat % 2 ^ 57
  let path := nbits a.toNat 60 4
  if o % 32 != 0 || a.toNat % 4 != 0 then .fails .align
  else if w.segSp.lim.toNat < o + 32 then .fails .segv
  else if n == 0 then .spots []
  else
    let win := (w.window va).isSome || (w.window (va + n - 1)).isSome
    if 4 ≤ path || nbits a.toNat 57 3 != 0 || (win && path != 0) then .fails .segv
    else if path == 3 || win then .fails .prot
    else
      let one (x : Nat) : Reach :=
        match s.place (s.ctx w) path false x with
        | .trap c => .fails c
        | .service r => .service r x
        | .io _ => .fails .prot
        | _ => .spots []
      match one va with
      | .spots _ => one ((va + n - 1) % 2 ^ 57)
      | e => e

/-- Lane i of warp k queues its copy under a tag: the counter rises, and the engine's operation begins (R189, R202). -/
def State.queueCopy (s : State) (k : Nat) (i : Lane) (o : Nat) (a : DWord) (n tag : Nat) : State :=
  let (t, s) := s.touch k i
  let w := s.warp k
  let core := coreKey w.die w.core
  let (e, s) := s.newEngine (copyEngine core) [t]
  let s := s.modGroup w.group (fun g => { g with tags := mapSet 0 g.tags tag (mapGet 0 g.tags tag + 1) })
  let (u, s) := s.newUnit
  s.modCore core (fun c => { c with reqs := mapPut c.reqs u ⟨w.group, w.kern, o, a, n, tag, e, false, []⟩ })

/-- Work of a saved group is saved with it (R219). -/
def State.groupActive (s : State) (g : Nat) : Bool :=
  match (s.group g).status with
  | .evicted | .preempted => false
  | _ => true

/-- The per-thread requests and the bulk operations that a core's engine holds (R219). -/
def State.copiesHeld (s : State) (core : Nat) : Nat := ((s.core core).reqs.filter (fun e => s.groupActive e.2.group)).length
def State.bulkHeld (s : State) (core : Nat) : Nat := ((s.core core).bulk.filter (fun e => s.groupActive e.2.group)).length

/-- cp.async (R204): it stalls where a counter or the engine's 512 requests would overflow (R202, R219). -/
def execCpAsync (d sb o v : BitVec 5) (t : BitVec 6) (s : State) : Out :=
  .next (issue { v := [d.toNat, o.toNat, v.toNat], s := [sb.toNat], predicated := true, off := true, cache := true } s
    (fun s m =>
      let w := s.me
      let lanes := lanesOf (s.real m)
      let queued := s.copiesHeld (coreKey w.die w.core)
      if w.logFull || 65535 < mapGet 0 s.myGroup.tags t.toNat + lanes.length || 512 < queued + lanes.length then
        { st := s, stall := true }
      else
        let ea := s.ea sb.toNat o.toNat false
        let dst (i : Lane) : Nat := (w.lane d.toNat i).toNat
        let n (i : Lane) : Nat := min ((w.lane v.toNat i).toNat % 64) 32
        let id := s.unit
        let pc := s.pc
        let (e, logged) := lanes.foldl (fun (acc : Eff × Mask) i =>
          let s := acc.1.st
          match s.copyCheck s.me (dst i) (Lanes.at ea i) (n i) with
          | .fails c => ({ acc.1 with traps := acc.1.traps ++ [(i, Trap.atAddr c (Lanes.at ea i))] }, acc.2)
          | .service r va =>
            ({ acc.1 with st := s.sendFault (s.ctx s.me) va 0 r (.lane s.cur id i 0) }, acc.2 ||| laneBit i)
          | .spots _ => ({ acc.1 with st := s.queueCopy s.cur i (dst i) (Lanes.at ea i) (n i) t.toNat }, acc.2))
          ({ st := { s with unit := id + 1 } }, 0#32)
        if logged == 0#32 then { e with st := e.st.unitOr id }
        else
          let x : Access := ⟨.copy t.toNat, 4, false, false, ea, perLane (fun i => BitVec.ofNat 128 (dst i + n i * 2 ^ 32)),
            0#3, 0#3, (s.cacheHint).2.2, false⟩
          let p : Pend := ⟨id, pc, s.hints, [], .none, [], false, logged, 0#32, logged, 0#32, allLanesOf 0, 0, allLanesOf 0#15, x, [], s.me.segs, .none, s.instrNo s.cur, 0#32, []⟩
          { e with st := e.st.setMe { e.st.me with pend := e.st.me.pend ++ [p] } }))

/-- A copy under a tag has ended: the counter falls, and observers of the tag acquire it (R188, R202). -/
def State.endCopy (s : State) (r : CopyReq) : State :=
  s.modGroup r.group (fun g => { g with
    tags := mapSet 0 g.tags r.tag (mapGet 0 g.tags r.tag - 1)
    tagDone := mapPut g.tagDone r.tag (mapGet [] g.tagDone r.tag ++ [r.agent]) })

/-- The 32 destination bytes of a request are written from its n source bytes, zero-filled (R204). -/
def State.landCopy (s : State) (r : CopyReq) (b : List Byte) : State :=
  let g := s.group r.group
  let s := s.trackEngine r.agent 4 true g.grid r.src (2 ^ 60 * (r.group + 1) + r.dst) 32
  (s.writeScratch r.group r.dst (b.take r.n ++ List.replicate (32 - (b.take r.n).length) 0#8)).endCopy r

/-- A request that ends with a data error (R205). An XLAT, PROT, PEER or EGRESS that the engine meets, since a page has changed after
the issue's check, is recorded as one is (log 64). -/
def State.failCopy (s : State) (r : CopyReq) (c : Cause) : State :=
  let s := s.modGroup r.group (fun g => { g with
    tagfault := g.tagfault ||| BitVec.twoPow 64 r.tag
    tagcause := if g.tagcause == 0#6 then c.code else g.tagcause })
  s.landCopy { r with n := 0 } []

/-- The context of an engine's operation for a group: its core, and the user or kernel mode of its issuer. -/
def State.engineCtx (s : State) (g : Nat) (kern : Bool) : Ctx :=
  let x := s.group g
  let r := s.grid x.grid
  ⟨x.die, x.core, r.record.ptroot, r.world, kern⟩

/-- The tile whose tentative bytes an engine operation of a group sees and writes (R332). -/
def State.groupTile (s : State) (g : Nat) : Option Nat := if (s.group g).tile == .open then .some g else .none

/-- Has the group's tile been discarded, so that nothing more of it leaves it (R333 to R335)? -/
def State.groupLost (s : State) (g : Nat) : Bool :=
  (s.group g).tile == .failed || (s.group g).tile == .overflowed

/-- The bytes of up to n source bytes read line by line, or the first failure; a peer's bytes are asked for as one read. -/
def State.engineRead (s : State) (c : Ctx) (g e path va n : Nat) (src core : Nat) : State × (EngineAt ⊕ List Byte) :=
  let grid := (s.group g).grid
  let tile := s.groupTile g
  match s.engineAt c tile.isSome false path va n with
  | .here pa _ =>
    let s := s.trackEngine e path false grid (BitVec.ofNat 64 va) pa n
    let s := match tile with | .some g => s.tileAccess g e path 0 false (BitVec.ofNat 64 va) pa n | .none => s
    let s := s.watchEngine src core 0 grid c.world true false pa n
    (s, .inr (s.memBytes tile pa n))
  | .away dev pa =>
    (s.trackEngine e path false grid (BitVec.ofNat 64 va) (Spot.peer dev pa n path).loc n, .inl (.away dev pa))
  | x => (s, .inl x)

/-- The parts of a request's source: what lies in its first 32-byte sector, and what in the next. -/
def CopyReq.source (r : CopyReq) : List (Nat × Nat × Nat) :=
  let va := r.src.toNat % 2 ^ 57
  let n := min r.n (32 - va % 32)
  [(0, va, n), (1, (va + n) % 2 ^ 57, r.n - n)].filter (fun p => p.2.2 != 0)

/-- Is part p of request k of a core asked for at a peer? -/
def State.copyAsked (s : State) (core k p : Nat) : Bool :=
  s.links.any (fun e => e.2.reqs.any (fun q => q.2.who == .copy core k p))

/-- A request whose parts have all been read writes its block (R204). -/
def State.settleCopy (s : State) (core k : Nat) : State :=
  match mapFind (s.core core).reqs k with
  | .none => s
  | .some r =>
    if r.source.all (fun p => mapHas r.parts p.1) then
      (s.modCore core (fun x => { x with reqs := mapDel x.reqs k })).landCopy r (r.source.flatMap (fun p => mapGet [] r.parts p.1))
    else s

/-- Part p of request k has been read. -/
def State.putPart (s : State) (core k p : Nat) (b : List Byte) : State :=
  s.modCore core (fun x => { x with reqs := mapAll x.reqs (fun j r =>
    if j == k then { r with begun := true, parts := mapPut r.parts p b } else r) })

/-- The engine reads a part of request k, unless it has, or asks a peer for it. -/
def State.readPart (s : State) (core k : Nat) (p : Nat × Nat × Nat) : State :=
  match mapFind (s.core core).reqs k with
  | .none => s
  | .some r =>
    let c := s.engineCtx r.group r.kern
    if mapHas r.parts p.1 || s.copyAsked core k p.1 then s
    else
      match s.engineRead c r.group r.agent (nbits r.src.toNat 60 4) p.2.1 p.2.2 0 core with
      | (s, .inr b) => s.putPart core k p.1 b
      | (s, .inl (.fails e)) => (s.modCore core (fun x => { x with reqs := mapDel x.reqs k })).failCopy r e
      | (s, .inl (.service rs)) => s.sendFault c p.2.1 3 rs (.copy core k p.1)
      | (s, .inl (.away dev pa)) =>
        let s' := s.modCore core (fun x => { x with reqs := mapPut x.reqs k { r with begun := true } })
        (s'.request dev c.world (.read pa p.2.2) (.copy core k p.1)).getD s'
      | (s, .inl (.here _ _)) => s

/-- CP_ASYNC_REQUEST_COMPLETE (R204, R205): the engine reads the source of request k of a core and writes its block. A source
that spans two sectors is read as two parts. Requests of a saved group do not proceed (R219). -/
def State.copyStep (s : State) (core k : Nat) : State :=
  match mapFind (s.core core).reqs k with
  | .none => s
  | .some r =>
    if !s.groupActive r.group then s
    else (r.source.foldl (fun s p => s.readPart core k p) s).settleCopy core k

def execCpAsyncRequestComplete (core k : Nat) (s : State) : Out := .next (s.copyStep core k)

/-! ### Tags (R203, R206) -/

/-- The tags of a set, in ascending order. -/
def tagsOf (t : DWord) : List Nat := (List.range 64).filter (fun j => t.getLsbD j)
/-- $tags of a group: the tags whose counter is 0. -/
def Group.doneTags (g : Group) : DWord :=
  BitVec.ofNat 64 ((List.range 64).foldl (fun n j => if mapGet 0 g.tags j == 0 then n + 2 ^ j else n) 0)

/-- Lane i of warp k at pc acquires the copies under tags, and traps on a conflict or a recorded data error (R188, R198, R205). -/
def State.seeTags (s : State) (k : Nat) (i : Lane) (pc : Word) (tags : List Nat) : State × Option Trap :=
  let g := s.group (s.warp k).group
  let es := (tags.flatMap (fun t => mapGet [] g.tagDone t)).map (fun e => (e, s.counted_ e))
  let (s, r) := s.observeAll k i pc es
  match r with
  | .some t => (s, .some t)
  | .none =>
    (s, if tags.any (fun t => g.tagfault.getLsbD t) then .some (Trap.plain (causeOf g.tagcause.toNat)) else .none)

/-- One look of a tag wait by lane i of warp k at pc. -/
def State.lookTags (s : State) (k : Nat) (i : Lane) (pc : Word) (t : DWord) (any : Bool) : State × Seen :=
  let d := (s.group (s.warp k).group).doneTags
  let ready := if any then t == 0#64 || (t &&& d) != 0#64 else (t &&& ~~~d) == 0#64
  if !ready then (s, .wait)
  else
    match s.seeTags k i pc (tagsOf (t &&& d)) with
    | (s, .some t) => (s, .trap t)
    | (s, .none) => (s, .done)

/-- The use of a tag instruction with the v fields d. -/
def tagUse (d : List Nat) (a : Src) (p : BitVec 2) : Use :=
  { v := d ++ srcV64 a, s := srcS a, pred := p, predicated := true, k := Perm.param a.perm }

/-- Active lanes wait on their tag sets. -/
def tagWait (any : Bool) (a : Src) (s : State) (m : Mask) : Eff :=
  let set := (s.src64 false a).lanes
  let pc := s.pc
  (lanesOf (s.real m)).foldl (fun (e : Eff) i =>
    match e.st.lookTags s.cur i pc (Lanes.at set i) any with
    | (s', .wait) =>
      { e with st := s'.enterWait s.cur i pc s.hints (if any then .tagAny (Lanes.at set i) else .tagAll (Lanes.at set i)) }
    | (s', .done) => { e with st := s' }
    | (s', .trap t) => { e with st := s', traps := e.traps ++ [(i, t)] }) { st := s }

/-- tag.wait.any (R206). -/
def execTagWaitAny (a : Src) (p : BitVec 2) (s : State) : Out := .next (issue (tagUse [] a p) s (tagWait true a))
/-- tag.wait.all (R206). -/
def execTagWaitAll (a : Src) (p : BitVec 2) (s : State) : Out := .next (issue (tagUse [] a p) s (tagWait false a))

/-- The lowest tag of a set, or 64. -/
def firstTag (t : DWord) : Word := BitVec.ofNat 32 ((tagsOf t).headD 64)

/-- tag.first (R206): helper lanes write as their quad's lowest real lane does. -/
def execTagFirst (d : BitVec 5) (a : Src) (p : BitVec 2) (s : State) : Out :=
  .next (issue (tagUse [d.toNat] a p) s (fun s m =>
    let set := (s.src64 false a).lanes
    let done := s.myGroup.doneTags
    let pc := s.pc
    let val (i : Lane) : Word :=
      firstTag (Lanes.at set (if Mask.has s.me.live i then i else s.me.quadLead i) &&& done)
    let e := (lanesOf (s.real m)).foldl (fun (e : Eff) i =>
      if val i == 64#32 then e
      else
        match e.st.seeTags s.cur i pc [(val i).toNat] with
        | (s', .some t) => { e with st := s', traps := e.traps ++ [(i, t)] }
        | (s', .none) => { e with st := s' }) { st := s }
    { e with st := e.st.writeV d.toNat (m &&& ~~~trapLanes e.traps) (.general (perLane val)) 0#4 }))

/-- tag.poll (R206). -/
def execTagPoll (d : BitVec 4) (a : Src) (p : BitVec 2) (s : State) : Out :=
  .next (issue (tagUse [] a p) s (fun s m =>
    let set := (s.src64 false a).lanes
    let done := s.myGroup.doneTags
    let pc := s.pc
    let val (i : Lane) : Bool :=
      (Lanes.at set (if Mask.has s.me.live i then i else s.me.quadLead i) &&& ~~~done) == 0#64
    let e := (lanesOf (s.real m)).foldl (fun (e : Eff) i =>
      if val i then
        match e.st.seeTags s.cur i pc (tagsOf (Lanes.at set i)) with
        | (s', .some t) => { e with st := s', traps := e.traps ++ [(i, t)] }
        | (s', .none) => { e with st := s' }
      else e) { st := s }
    { e with st := e.st.setMe (e.st.me.setMaskLanes d.toNat (m &&& ~~~trapLanes e.traps) (maskOf val)) }))

/-- The queued requests of a group under the tags of a set are dropped, but for those the engine has begun: which, the spec
leaves to timing (R206; log 3). -/
def State.dropCopies (s : State) (group : Nat) (t : DWord) : State :=
  let g := s.group group
  let core := coreKey g.die g.core
  ((s.core core).reqs.filter (fun e => e.2.group == group && t.getLsbD e.2.tag && !e.2.begun)).foldl (fun s e =>
    let (begun, s) := s.choice
    if begun then s
    else
      (s.modCore core (fun c => { c with reqs := mapDel c.reqs e.1 })).modGroup group (fun g =>
        { g with tags := mapSet 0 g.tags e.2.tag (mapGet 0 g.tags e.2.tag - 1) })) s

/-- tag.clear (R206). -/
def execTagClear (a : Src) (p : BitVec 2) (s : State) : Out :=
  .next (issue (tagUse [] a p) s (fun s m =>
    let set := (s.src64 false a).lanes
    let t := (lanesOf (s.real m)).foldl (fun t i => t ||| Lanes.at set i) 0#64
    tagWait false a (s.dropCopies s.me.group t) m))

/-! ### Bulk operations (R215, R216) -/

/-- The windows and mode of a bulk operation's issuer, as a warp. -/
def BulkOp.asWarp (b : BulkOp) (s : State) : Warp :=
  let g := s.group b.group
  { Warp.empty with group := b.group, die := g.die, core := g.core, kern := b.kern
                    segSp := b.segSp, segCl := b.segCl, segStk := b.segStk, segFr := b.segFr }

/-- An engine's access at a generic address: no stack or frame span, no path 0x3 (R215). -/
def State.bulkAim (s : State) (w : Warp) (write : Bool) (a : DWord) : Aim :=
  let x : Access := ⟨if write then .store else .load, 1, false, false, allLanesOf a, allLanesOf 0#128, 0#3, 0#3, 0#3, false⟩
  let path := nbits a.toNat 60 4
  let win := w.window (a.toNat % 2 ^ 57)
  if path == 3 && nbits a.toNat 57 3 == 0 && win.isNone then .fails .prot
  else if path == 0 && nbits a.toNat 57 3 == 0 && (win == .some .stack || win == .some .frame) then .fails .prot
  else s.aim { w with origin := allLanesOf Origin.empty, handler := false } 0 x

/-- Checks 1 to 4 of a range at its first and last byte; a range of no bytes has neither, and none is checked (log 65). -/
def State.bulkRange (s : State) (w : Warp) (write : Bool) (a : DWord) (n : Nat) : Option Cause :=
  if n == 0 then .none
  else
    match s.bulkAim w write a with
    | .fails c => .some c
    | _ =>
      match s.bulkAim w write (a + BitVec.ofNat 64 (n - 1)) with
      | .fails c => .some c
      | _ => .none

/-- The numbers of a row gather's index list, or SEGV where it does not lie in one scratchpad window (R216). -/
def State.indexList (s : State) (w : Warp) (a : DWord) (c : Nat) : Option (List Nat × Nat × Nat) :=
  let va := a.toNat
  let read (g o : Nat) : List Nat × Nat × Nat :=
    ((List.range c).map (fun j => natOfBytes ((List.range 4).map (fun b => mapGet 0#8 (s.group g).sp (o + 4 * j + b)))), g, o)
  match w.window va with
  | .some .scratch =>
    let o := va - w.segSp.base.toNat
    if w.segSp.lim.toNat < o + 4 * c then .none else .some (read w.group o)
  | .some .cluster =>
    let o := (va - w.segCl.base.toNat) % 2 ^ 19
    let j := (va - w.segCl.base.toNat) / 2 ^ 19
    if w.segCl.lim.toNat < o + 4 * c || s.gangSize (s.group w.group) ≤ j then .none
    else (s.member (s.group w.group) j).map (fun g => read g o)
  | _ => .none

/-- The parameter block of a bulk instruction (R215). -/
def State.block (s : State) (p : BitVec 5) (j : Nat) : DWord := s.sreg (p.toNat + j)

/-- A checked bulk operation queued, with the issuing lanes' accesses ordered before it (R189, R219). -/
def State.queueBulk (s : State) (m : Mask) (kind : BulkKind) (dst src : DWord) (total g o : Nat) : State :=
  let w := s.me
  let s := (lanesOf (s.real m)).foldl (fun s i => (s.touch s.cur i).2) s
  let core := coreKey w.die w.core
  let unit_ := match kind with | .collective _ => collectiveUnit w.die | _ => copyEngine core
  let (e, s) := s.newEngine unit_ ((lanesOf (s.real m)).map (threadAgent w))
  let (u, s) := s.newUnit
  let b : BulkOp :=
    { kind := kind, group := w.group, segSp := w.segSp, segCl := w.segCl, segStk := w.segStk, segFr := w.segFr
      kern := w.kern, dst := dst, src := src, total := total
      chunks := List.range ((total + 4095) / 4096), left := total, barGroup := g, barOff := o, agent := e, held := 0
      rest := [] }
  s.modCore core (fun c => { c with bulk := mapPut c.bulk u b })

/-- The mould of a bulk instruction: parameter checks, barrier object, source and destination ranges in the order of R215. -/
def bulkForm (n : Nat) (p : BitVec 5) (pr : BitVec 2) (s : State) (bad : State → Bool)
    (body : State → Mask → Eff) : State :=
  issue { s := (List.range n).map (p.toNat + ·), pred := pr, predicated := true } s (fun s m =>
    if (s.first m).isNone then { st := s }
    else if bad s then { st := s, traps := trapAll (s.real m) (Trap.plain .illegal) }
    else if 16 ≤ s.bulkHeld (coreKey s.me.die s.me.core) then { st := s, stall := true }
    else body s m)

/-- Every active non-helper lane raises the cause at an address. -/
def failAll (s : State) (m : Mask) (c : Cause) (a : DWord) : Eff := { st := s, traps := trapAll (s.real m) (Trap.atAddr c a) }

/-- The checks 2, 4 and 5 of R215, the last of span bytes, and the queueing. -/
def State.bulkIssue (s : State) (m : Mask) (kind : BulkKind) (dst src bar : DWord) (total span : Nat) (srcCheck : Option Cause) : Eff :=
  match s.objAt s.me bar with
  | .inl c => failAll s m c bar
  | .inr (g, o) =>
    match srcCheck with
    | .some c => failAll s m c src
    | .none =>
      match s.bulkRange s.me true dst span with
      | .some c => failAll s m c dst
      -- an operation of no bytes has ended
      | .none => { st := if total == 0 then s else s.queueBulk m kind dst src total g o }

/-- Is a value not a multiple of 16? -/
def mis16 (x : DWord) : Bool := x.toNat % 16 != 0

/-- bulk.copy (R216). -/
def execBulkCopy (n : BitVec 5) (p : BitVec 2) (s : State) : Out :=
  .next (bulkForm 4 n p s (fun s =>
    let c := (s.block n 2).toNat
    mis16 (s.block n 0) || mis16 (s.block n 1) || c % 16 != 0 || 2 ^ 24 < c) (fun s m =>
      let len := (s.block n 2).toNat
      s.bulkIssue m .copy (s.block n 0) (s.block n 1) (s.block n 3) len len (s.bulkRange s.me false (s.block n 1) len)))

/-- bulk.gather (R216): the index list is read at issue; the rows named are the source range. -/
def execBulkGather (n : BitVec 5) (p : BitVec 2) (s : State) : Out :=
  .next (bulkForm 6 n p s (fun s =>
    let q := (s.block n 4).toNat
    let r := q % 65536
    let c := q / 65536
    mis16 (s.block n 0) || mis16 (s.block n 1) || (s.block n 2).toNat % 4 != 0 || r % 16 != 0 || r < 16 || 65520 < r
      || c < 1 || 4096 < c || mis16 (s.block n 5)) (fun s m =>
      let q := (s.block n 4).toNat
      let r := q % 65536
      let c := q / 65536
      match s.objAt s.me (s.block n 3) with
      | .inl e => failAll s m e (s.block n 3)
      | .inr _ =>
        match s.indexList s.me (s.block n 2) c with
        | .none => failAll s m .segv (s.block n 2)
        | .some (rows, g, o) =>
          let pitch := (s.block n 5).toNat
          let first := rows.foldl (fun a k => min a k) (rows.headD 0)
          let last := rows.foldl (fun a k => max a k) 0
          let src := s.block n 1
          let at_ (k : Nat) : DWord := src + BitVec.ofNat 64 (k * pitch)
          let chk := match s.bulkRange s.me false (at_ first) 1 with
            | .some c => .some c
            | .none => s.bulkRange s.me false (at_ last) r
          match s.first m with
          | .none => { st := s }
          | .some f =>
            let x : Access := ⟨.load, 4, false, false, allLanesOf (s.block n 2), allLanesOf 0#128, 0#3, 0#3, 0#3, false⟩
            let (a, s) := s.touch s.cur f
            let p : Spot := .scratch g o (4 * c)
            let fail (c : Cause) : Eff :=
              { st := s, traps := trapAll (s.real m) { Trap.atAddr c (s.block n 2) with mark := c == .race } }
            if (s.group g).sectorBad o (4 * c) then fail .poison
            else if s.tracked x p && s.racy a 4 (s.instrNo s.cur) false p.loc p.size && Lanes.at s.me.skipRace f != .some s.pc then
              fail .race
            else
              let s := (s.order s.cur (s.instrNo s.cur) f x 0 p).modWarp s.cur (fun w => w.checkAgain (s.real m) s.pc)
              s.bulkIssue m (.gather r rows pitch) (s.block n 0) src (s.block n 3) (r * c) (r * c) chk))

/-! ### Landing (R215, R216, R218) -/

/-- A bulk operation stops: its cause is recorded and its unwritten bytes count as arrived (R215). -/
def State.failBulk (s : State) (core k : Nat) (b : BulkOp) (c : Cause) : State :=
  (s.modCore core (fun x => { x with bulk := mapDel x.bulk k })).objFail b.barGroup b.barOff b.left b.agent c

/-- n destination bytes have landed: they count, and an operation with none left ends. -/
def State.countBulk (s : State) (core k n : Nat) : State :=
  match mapFind (s.core core).bulk k with
  | .none => s
  | .some b =>
    let b' := { b with left := b.left - n }
    let s := s.modCore core (fun x => { x with
      bulk := if b'.left == 0 && b'.chunks.isEmpty then mapDel x.bulk k else mapPut x.bulk k b' })
    s.objCount b.barGroup b.barOff n b.agent

/-- What comes of a piece: it has landed, a request for it has left, it fails, or a walk must be served. -/
inductive Moved where
  | landed | sent
  | fails (c : Cause)
  | walk (r va : Nat)

/-- Bytes written by operation k at destination offset off: scratchpad, tentative sector, home L2 or a peer. -/
def State.landBulk (s : State) (core k : Nat) (b : BulkOp) (off : Nat) (bytes : List Byte) : State × Moved :=
  let a := b.dst + BitVec.ofNat 64 off
  let n := bytes.length
  let c := s.engineCtx b.group b.kern
  let grid := (s.group b.group).grid
  let tile := s.groupTile b.group
  match s.bulkAim (b.asWarp s) true a with
  | .fails e => (s, .fails e)
  | .frame _ => (s, .fails .prot)
  | .scratch g o =>
    let s := s.trackEngine b.agent 4 true grid a (2 ^ 60 * (g + 1) + o) n
    (s.writeScratch g o bytes, .landed)
  | .ranges path l =>
    let va := (l.headD (0, 0)).1
    match s.engineAt c (tile.isSome || s.groupLost b.group) true path va n with
    | .fails e => (s, .fails e)
    | .service r => (s, .walk r va)
    | .away dev pa =>
      let s := s.trackEngine b.agent path true grid a (Spot.peer dev pa n path).loc n
      (((s.request dev c.world (.write pa bytes) (.bulk core k off n)).getD s), .sent)
    | .here pa buf =>
      let s := s.watchEngine 0 core 0 grid c.world false true pa n
      match tile with
      | .some g =>
        ((s.tileAccess g b.agent path 0 true a pa n).writeTent g (s.lineTag c.world buf) pa bytes, .landed)
      | .none =>
        if s.groupLost b.group then (s, .landed) else
        let s := s.trackEngine b.agent path true grid a pa n
        let before := min (off % 4096) 16
        ((s.healSector pa [(pa - before, n + before)]).writePhys (s.lineTag c.world buf) pa bytes, .landed)

/-- Where the source byte of destination offset off lies. -/
def BulkOp.srcAt (b : BulkOp) (off : Nat) : DWord :=
  match b.kind with
  | .gather r rows pitch => b.src + BitVec.ofNat 64 (rows.getD (off / r) 0 * pitch + off % r)
  | _ => b.src + BitVec.ofNat 64 off

/-- One 16-byte piece of a chunk moved. -/
def State.movePiece (s : State) (core k : Nat) (b : BulkOp) (off n : Nat) : State × Moved :=
  let a := b.srcAt off
  let c := s.engineCtx b.group b.kern
  match s.bulkAim (b.asWarp s) false a with
  | .fails e => (s, .fails e)
  | .frame _ => (s, .fails .prot)
  | .scratch g o =>
    if (s.group g).sectorBad o n then (s, .fails .poison) else
    let s := s.trackEngine b.agent 4 false (s.group b.group).grid a (2 ^ 60 * (g + 1) + o) n
    s.landBulk core k b off ((List.range n).map (fun j => mapGet 0#8 (s.group g).sp (o + j)))
  | .ranges path l =>
    let va := (l.headD (0, 0)).1
    match s.engineRead c b.group b.agent path va n 0 core with
    | (s, .inr bytes) => s.landBulk core k b off bytes
    | (s, .inl (.fails e)) => (s, .fails e)
    | (s, .inl (.service r)) => (s, .walk r va)
    | (s, .inl (.away dev pa)) => (((s.request dev c.world (.read pa n) (.bulk core k off n)).getD s), .sent)
    | (s, .inl (.here _ _)) => (s, .sent)

/-- Bytes for destination offset off are written, or wait for the service of their page (R215). -/
def State.landPiece (s : State) (core k off : Nat) (bytes : List Byte) : State :=
  match mapFind (s.core core).bulk k with
  | .none => s
  | .some b =>
    match s.landBulk core k b off bytes with
    | (s, .landed) => s.countBulk core k bytes.length
    | (s, .sent) => s
    | (s, .fails c) => s.failBulk core k b c
    | (s, .walk r va) =>
      let who : Requester := .bulk core k off bytes.length
      let first := !s.faults.any (fun f => f.2.who == .some who)
      (s.modCore core (fun x => { x with bulk := mapAll x.bulk (fun j y =>
        if j == k then { y with rest := y.rest ++ [(off, bytes)], held := if first then y.held + 1 else y.held } else y) })).sendFault
        (s.engineCtx b.group b.kern) va 4 r who

/-- What an operation has read and not yet written is written now. -/
def State.landRest (s : State) (core k : Nat) : State :=
  match mapFind (s.core core).bulk k with
  | .none => s
  | .some b =>
    b.rest.foldl (fun s p => s.landPiece core k p.1 p.2) (s.modCore core (fun x => { x with
      bulk := mapAll x.bulk (fun j y => if j == k then { y with rest := [] } else y) }))

/-- The pieces of a chunk from offset off on, whose landed bytes, got of them so far, count in one update; a walk to be served
stops the engine there, with the rest kept as the chunk. -/
def State.moveChunk (s : State) (core k off got : Nat) : Nat → State
  | 0 => if got == 0 then s else s.countBulk core k got
  | fuel + 1 =>
    match mapFind (s.core core).bulk k with
    | .none => s
    | .some b =>
      let n := min 16 (b.total - off)
      if n == 0 then (if got == 0 then s else s.countBulk core k got)
      else
        match s.movePiece core k b off n with
        | (s, .landed) => s.moveChunk core k (off + n) (got + n) fuel
        | (s, .sent) => s.moveChunk core k (off + n) got fuel
        | (s, .fails c) => s.failBulk core k b c
        | (s, .walk r va) =>
          let s := if got == 0 then s else s.countBulk core k got
          let b := { b with left := b.left - got }
          let b' : BulkOp := { b with held := b.held + 1, chunks := (off / 16 + 2 ^ 24) :: b.chunks }
          (s.modCore core (fun x => { x with bulk := mapPut x.bulk k b' })).sendFault
            (s.engineCtx b.group b.kern) va 4 r (.bulk core k off n)

/-- BULK_CHUNK_LAND (R216): a chunk of operation k of a core lands; which of those that remain, the spec leaves to timing. A
chunk number of 2^24 or more stands for the rest of a chunk from a 16-byte piece on. -/
def State.bulkStep (s : State) (core k : Nat) : State :=
  match mapFind (s.core core).bulk k with
  | .none => s
  | .some b =>
    if !s.groupActive b.group || b.held != 0 || !b.rest.isEmpty then s
    else
      match b.kind with
      | .collective _ => s
      | _ =>
        let (f, s) := s.free
        match b.chunks[f.toNat % max 1 b.chunks.length]? with
        | .none => s
        | .some c =>
          let s := s.modCore core (fun x => { x with bulk := mapPut x.bulk k { b with chunks := b.chunks.erase c } })
          if 2 ^ 24 ≤ c then s.moveChunk core k (16 * (c - 2 ^ 24)) 0 (256 - (c - 2 ^ 24) % 256)
          else s.moveChunk core k (4096 * c) 0 256

def execBulkChunkLand (core k : Nat) (s : State) : Out := .next (s.bulkStep core k)

/-! ### Collectives (R217, R218) -/

/-- The operation with its collective changed. -/
def State.modColl (s : State) (core k : Nat) (f : Coll → Coll) : State :=
  s.modCore core (fun x => { x with bulk := mapAll x.bulk (fun j b =>
    if j == k then (match b.kind with | .collective y => { b with kind := .collective (f y) } | _ => b) else b) })

/-- A piece that the engine of collective k reads at a base, unless it has: its communicator record, which the detector does not
track, or its own source. A page to be served or a peer to be asked holds the engine. -/
def State.collPiece (s : State) (core k : Nat) (base : DWord) (tracked : Bool) (p : Nat × Nat) : State :=
  match mapFind (s.core core).bulk k with
  | .none => s
  | .some b =>
    let a := base + BitVec.ofNat 64 p.1
    let c := s.engineCtx b.group b.kern
    let put (s : State) (v : List Byte) : State := s.modColl core k (fun y => { y with own := mapPut y.own p.1 v })
    let hold (s : State) : State := s.modCore core (fun x => { x with bulk := mapAll x.bulk (fun j y =>
      if j == k then { y with held := y.held + 1 } else y) })
    let have_ := match b.kind with | .collective y => mapHas y.own p.1 | _ => true
    if have_ || b.held != 0 then s
    else
      match s.bulkAim (b.asWarp s) false a with
      | .fails e => s.failBulk core k b e
      | .frame _ => s.failBulk core k b .prot
      | .scratch g o =>
        if (s.group g).sectorBad o p.2 then s.failBulk core k b .poison
        else
          let s := if tracked then s.trackEngine b.agent 4 false (s.group b.group).grid a (2 ^ 60 * (g + 1) + o) p.2 else s
          put s ((List.range p.2).map (fun j => mapGet 0#8 (s.group g).sp (o + j)))
      | .ranges path l =>
        let va := (l.headD (0, 0)).1
        let (t, r) := s.engineRead c b.group b.agent path va p.2 1 core
        let s := if tracked then t else { t with races := s.races, agents := s.agents }
        match r with
        | .inr v => put s v
        | .inl (.fails e) => s.failBulk core k b e
        | .inl (.service rs) => (hold s).sendFault c va 4 rs (.bulk core k p.1 p.2)
        | .inl (.away dev pa) => ((hold s).request dev c.world (.read pa p.2) (.bulk core k p.1 p.2)).getD s
        | .inl (.here _ _) => s

/-- The 16-byte pieces of n bytes from an offset on. -/
def pieces (off n : Nat) : List (Nat × Nat) :=
  (List.range ((n + 15) / 16)).map (fun j => (off + 16 * j, min 16 (n - 16 * j)))

/-- The bytes that a collective has read of pieces, once it has them all. -/
def Coll.have (x : Coll) (l : List (Nat × Nat)) : Option (List Byte) :=
  if l.all (fun p => mapHas x.own p.1) then .some (l.flatMap (fun p => mapGet [] x.own p.1)) else .none

/-- Segment j of a vector's bytes, which the steps of a reduction move, or the block of member j of a gather (log 61). -/
def Coll.segment (x : Coll) (j : Nat) : Nat × Nat :=
  let n := x.devs.length
  if x.gather then (j * x.size, x.size)
  else
    let m := x.size / 4
    (4 * (j * m / n), 4 * ((j + 1) * m / n) - 4 * (j * m / n))

/-- The segment that step t receives: along the ranks, N - 1 steps of reduce-scatter, which a gather has none of, and N - 1 of
gather (R218, log 61). -/
def Coll.receives (x : Coll) (t : Nat) : Nat :=
  let n := x.devs.length
  (x.rank + 2 * n - 1 - t) % n

/-- The steps of a collective. -/
def Coll.steps (x : Coll) : Nat := if x.gather then x.devs.length - 1 else 2 * (x.devs.length - 1)

/-- One element of a reduction (R218). -/
def Coll.combine (x : Coll) (a b : Word) : Word :=
  let c : FCtl := ⟨.rne, false, false, false⟩
  if x.float then
    BitVec.ofNat 32 (match x.op with
      | 0 => (f32.add c a.toNat b.toNat).1
      | 1 => (f32.minmax false c a.toNat b.toNat).1
      | _ => (f32.minmax true c a.toNat b.toNat).1)
  else
    match x.op with
    | 0 => a + b
    | 1 => if b.slt a then b else a
    | _ => if a.slt b then b else a

/-- The elements of two segments combined. -/
def Coll.combineAll (x : Coll) (a b : List Byte) : List Byte :=
  (List.range (a.length / 4)).flatMap (fun j =>
    let w (l : List Byte) : Word := BitVec.ofNat 32 (natOfBytes ((l.drop (4 * j)).take 4))
    bytesOfNat 4 (x.combine (w a) (w b)).toNat)

/-- Bytes for the destination of operation k, from an offset on, are written piece by piece. -/
def State.landAll (s : State) (core k off : Nat) (b : List Byte) : State :=
  (pieces 0 b.length).foldl (fun s p => s.landPiece core k (off + p.1) ((b.drop p.1).take p.2)) s

/-- The step that has received its segment is done once the engine has its own source bytes for it (R218): a step of reduce-scatter
combines them, the last of which writes its segment, and a step of gather writes what it received; a member's own block is written
with the first step of a gather. -/
def State.collRun (s : State) (core k : Nat) : State :=
  match mapFind (s.core core).bulk k with
  | .none => s
  | .some b =>
    match b.kind with
    | .collective x =>
      match x.inbox with
      | .none => s
      | .some v =>
        let j := x.receives x.step
        let (off, n) := x.segment j
        let reduces := !x.gather && decide (x.step < x.devs.length - 1)
        let need := if reduces then pieces off n else if x.gather && x.step == 0 then pieces 0 x.size else []
        let s := need.foldl (fun s p => s.collPiece core k b.src true p) s
        match mapFind (s.core core).bulk k with
        | .none => s
        | .some b =>
          match b.kind with
          | .collective y =>
            match y.have need with
            | .none => s
            | .some own =>
              let s := s.modColl core k (fun y => { y with inbox := .none, step := y.step + 1, own := [] })
              if reduces then (if x.step + 2 == x.devs.length then s.landAll core k off (x.combineAll own v) else s)
              else
                let s := if x.gather && x.step == 0 then s.landAll core k (x.rank * x.size) own else s
                s.landAll core k off v
          | _ => s
    | _ => s

/-- A collective's start by its engine (R217): its record is read and SEQ advances; a device off the roster stops it, and with one
member it is a copy of the source. -/
def State.collStart (s : State) (core k : Nat) : State :=
  match mapFind (s.core core).bulk k with
  | .none => s
  | .some b =>
    match b.kind with
    | .collective x =>
      if !x.devs.isEmpty then s
      else
        let s := s.collPiece core k x.comm false (0, 16)
        let num (l : List Byte) (o n : Nat) : Nat := natOfBytes ((l.drop o).take n)
        match mapFind (s.core core).bulk k with
        | .none => s
        | .some b =>
          match b.kind with
          | .collective x =>
            match x.have [(0, 16)] with
            | .none => s
            | .some h =>
              let n := num h 8 2
              let s := ((pieces 0 (2 * n)).map (fun p => (16 + p.1, p.2))).foldl (fun s p => s.collPiece core k x.comm false p) s
              match mapFind (s.core core).bulk k with
              | .none => s
              | .some b =>
                match b.kind with
                | .collective x =>
                  match x.have ((pieces 0 (2 * n)).map (fun p => (16 + p.1, p.2))) with
                  | .none => s
                  | .some l =>
                    let c := s.engineCtx b.group b.kern
                    let devs := (List.range n).map (fun j => num l (2 * j) 2 % 512)
                    let total := if x.gather then n * x.size else x.size
                    let x := { x with ident := BitVec.ofNat 64 (num h 0 8), rank := num h 10 2, seq := num h 12 4, devs := devs, own := [] }
                    let b := { b with total := total, left := total, chunks := [], kind := .collective x }
                    let put (b : BulkOp) : State := s.modCore core (fun y => { y with bulk := mapPut y.bulk k b })
                    let a := x.comm.toNat % 2 ^ 57 + 12
                    let next := bytesOfNat 4 (x.seq + 1)
                    let go (s : State) : State :=
                      if c.world != 0#10 && devs.any (fun d => d != ownDevice && !(s.world c.world).roster.any (fun r => r.toNat == d)) then
                        s.failBulk core k b .peer
                      else if devs.any (fun d => d != ownDevice && (s.routeTo d).isNone) then s.failBulk core k b .link
                      else s
                    match s.engineAt c false true (pathOf x.comm) a 4 with
                    | .fails e => (put b).failBulk core k b e
                    | .service r =>
                      (s.modCore core (fun y => { y with bulk := mapAll y.bulk (fun j z =>
                        if j == k then { z with held := z.held + 1 } else z) })).sendFault c a 4 r (.bulk core k 12 4)
                    | .here pa buf =>
                      go ((put (if n ≤ 1 then { b with kind := .copy, chunks := List.range ((total + 4095) / 4096) } else b)).writePhys
                        (s.lineTag c.world buf) pa next)
                    | .away dev pa =>
                      let t := put (if n ≤ 1 then { b with kind := .copy, chunks := List.range ((total + 4095) / 4096) } else b)
                      go ((t.request dev c.world (.write pa next) (.bulk core k 12 0)).getD t)
                | _ => s
          | _ => s
    | _ => s

/-- What a collective waited for has come: it goes on from where it stands. -/
def State.collOn (s : State) (core k : Nat) : State := (s.collStart core k).collRun core k

/-- The member count of a communicator record, when the engine can read it at once. -/
def State.commCount (s : State) (c : Ctx) (a : DWord) : Nat :=
  match s.engineAt c false false (pathOf a) (a.toNat % 2 ^ 57) 16 with
  | .here pa _ => s.mem.num (pa + 8) 2
  | _ => 1

/-- The mould of the two collectives: a group with an open tile raises SNETATOM (R333). A gather's destination is checked for the
blocks of every member, when the engine can read their number at issue. -/
def collective (gather : Bool) (n : BitVec 5) (p : BitVec 2) (s : State) : State :=
  let len (s : State) : Nat := (s.block n 2).toNat % 2 ^ 32
  bulkForm 5 n p s (fun s =>
    let q := (s.block n 2).toNat
    let m := q % 2 ^ 32
    mis16 (s.block n 0) || mis16 (s.block n 1) || (s.block n 4).toNat % 64 != 0 ||
      (if gather then 2 ^ 32 ≤ q || m % 16 != 0 || m < 16 || 2 ^ 24 < m
       else m < 1 || 2 ^ 24 < m || 1 < q / 2 ^ 32 % 16 || 2 < q / 2 ^ 36 % 16 || 2 ^ 40 ≤ q)) (fun s m =>
      let size := if gather then len s else 4 * len s
      let q := (s.block n 2).toNat
      let x : Coll :=
        { comm := s.block n 4, ident := 0#64, rank := 0, seq := 0, devs := [], gather := gather, float := q / 2 ^ 32 % 16 == 1
          op := q / 2 ^ 36 % 16, size := size, step := 0, own := [], inbox := .none }
      if (s.first m).any (fun i => (s.tileOf s.me i).isSome) then
        { st := s, traps := trapAll (s.real m) (Trap.plain .snetatom) }
      else
        let span := if gather then max 1 (s.commCount (s.engineCtx s.me.group s.me.kern) (s.block n 4)) * size else size
        let e := s.bulkIssue m (.collective x) (s.block n 0) (s.block n 1) (s.block n 3) size span
          (s.bulkRange s.me false (s.block n 1) size)
        if e.traps.isEmpty then { e with st := e.st.collStart (coreKey s.me.die s.me.core) (e.st.unit - 1) }
        else e)

/-- coll.reduce (R218). -/
def execCollReduce (n : BitVec 5) (p : BitVec 2) (s : State) : Out := .next (collective false n p s)
/-- coll.gather (R218). -/
def execCollGather (n : BitVec 5) (p : BitVec 2) (s : State) : Out := .next (collective true n p s)

/-- COLLECTIVE_STEP (R218): a step receives its segment from the partners, or what they bring stops the operation. -/
def State.collStep (s : State) (core k : Nat) (r : CollStep) : State :=
  match mapFind (s.core core).bulk k with
  | .none => s
  | .some b =>
    match b.kind with
    | .collective x =>
      if !s.groupActive b.group then s
      else
        match r with
        | .mismatch => s.failBulk core k b .peer
        | .linkFailed => s.failBulk core k b .link
        | .receive bytes =>
          if x.devs.isEmpty || x.inbox.isSome || x.steps ≤ x.step || b.held != 0 || !b.rest.isEmpty
              || bytes.length != (x.segment (x.receives x.step)).2 then s
          else (s.modColl core k (fun y => { y with inbox := .some bytes })).collRun core k
    | _ => s

def execCollectiveStep (core k : Nat) (r : CollStep) (s : State) : Out := .next (s.collStep core k r)

/-- The bytes of a read that operation k asked of a peer have come: they go to its destination, or to a collective. -/
def State.bulkAnswer (s : State) (core k off : Nat) (b : List Byte) : State :=
  match mapFind (s.core core).bulk k with
  | .none => s
  | .some o =>
    match o.kind with
    | .collective _ =>
      ((s.modCore core (fun x => { x with bulk := mapAll x.bulk (fun j y => if j == k then { y with held := y.held - 1 } else y) })).modColl
        core k (fun y => { y with own := mapPut y.own off b })).collOn core k
    | _ => s.landPiece core k off b

/-- The page that operation k waited for has been served: what it has read is written, and a collective goes on. -/
def State.bulkServed (s : State) (core k : Nat) : State :=
  let s := s.modCore core (fun x => { x with bulk := mapAll x.bulk (fun j b => if j == k then { b with held := b.held - 1 } else b) })
  (s.landRest core k).collOn core k

end Sys2Proof.Machine
end

