-- ==== Sys2Proof/Machine/Special.lean ====
section
/-! DEFINITION. Special registers (R58): what each number names, its reads and writes, and rds and wrs (R114). -/

namespace Sys2Proof.Machine

/-- A special register: 64 bits wide, per lane, privileged (PRW), read-only, a counter (R64, R114). -/
structure Special where
  wide : Bool := false
  lane : Bool := false
  prw : Bool := false
  ro : Bool := true
  counter : Bool := false

/-- The register of a number for a warp in trap mode or a handler warp; none where it is reserved or does not exist there
(R58, R67, R115, R121, R155, R203, R258, R274). -/
def specialOf (trap handler : Bool) (n : Nat) : Option Special :=
  match n with
  | 0x000 | 0x001 | 0x003 => .some { lane := true }
  | 0x002 | 0x004 | 0x005 | 0x006 | 0x007 | 0x008 | 0x009 => .some {}
  | 0x00A | 0x00B => .some { lane := true }
  | 0x00C | 0x00D => .some {}
  | 0x040 => .some { ro := false }
  | 0x041 => .some {}
  | 0x080 | 0x082 | 0x084 | 0x086 => .some { wide := true }
  | 0x081 | 0x083 | 0x085 | 0x087 => .some {}
  | 0x088 => .some { wide := true, prw := true, ro := false }
  | 0x0C0 => .some { wide := true }
  | 0x0C1 => .some { wide := true, ro := false }
  | 0x0C2 | 0x0C3 | 0x0C4 => .some {}
  | 0x100 => if trap || handler then .some { lane := true } else .none
  | 0x101 => if trap || handler then .some { lane := true, ro := false } else .none
  | 0x102 => if trap || handler then .some {} else .none
  | 0x103 => if trap || handler then .some { lane := true, wide := true } else .none
  | 0x104 => if handler then .some { lane := true } else .none
  | 0x105 | 0x106 | 0x107 => if handler then .some { lane := true, ro := false } else .none
  | 0x108 => if trap || handler then .some { ro := false } else .none
  | 0x109 | 0x10A => .some { lane := true }
  | 0x10B => .some {}
  | 0x170 => .some { wide := true, prw := true, ro := false }
  | 0x171 => .some { wide := true, prw := true }
  | 0x200 | 0x201 | 0x202 => .some { wide := true, counter := true }
  | n =>
    if 0x120 ≤ n && n < 0x170 then .some { wide := true, prw := true, ro := false } else .none

/-- $helper of a warp: outside trap mode its helper lanes; in trap mode they stay idle (R15, R70, R262). -/
def Warp.helperWord (w : Warp) : Word := w.helpers

/-- $prio of a launch (R67). -/
def LaunchRec.prio (r : LaunchRec) : Word :=
  BitVec.ofNat 32 ((if r.flags.getLsbD 0 then 4 else 0) + bits (r.flags.setWidth 32) 4 2)

/-- $clock in ns of a device time in fs (R115). -/
def State.clockNs (s : State) : DWord := BitVec.ofNat 64 (s.clock / 1000000)

/-- Unresolved operand-log entries of lane i, and the DONE bits it reads: in trap mode and in a handler warp those of the entry
that trapped (R258 $oplog, R282). -/
def Warp.oplog (w : Warp) (i : Lane) : Word :=
  let l := w.pend.filter (fun p => Mask.has (p.logged ||| p.failing) i)
  let done :=
    if w.handler then Lanes.at w.done i
    else if w.trap then (if (Lanes.at w.logpc i).isSome then Lanes.at w.done i else (Lanes.at w.outer i).1)
    else match l with | p :: _ => Lanes.at p.done i | [] => Lanes.at w.done i
  BitVec.ofNat 32 (l.length % 8 * 65536 + done.toNat)

/-- $origin (R258). -/
def Origin.word (o : Origin) : Word := o.die ++ o.core ++ o.slot ++ o.lane ++ 0#2 ++ o.tid

/-- A warp-wide, group-wide, core or die register of warp k. -/
def State.readSpecial (s : State) (k n : Nat) : DWord :=
  let w := s.warp k
  let g := s.group w.group
  let r := s.grid g.grid
  let core := s.core (coreKey w.die w.core)
  let die := s.die w.die
  let z (x : Word) : DWord := x.setWidth 64
  match n with
  | 0x002 => w.no.setWidth 64
  | 0x004 => z g.no
  | 0x005 => z g.gang
  | 0x006 => BitVec.ofNat 64 (g.grid % 2 ^ 32)
  | 0x007 => z w.helperWord
  | 0x008 => BitVec.ofNat 64 ((if w.trap then 2 else 0) + (if w.kern then 1 else 0))
  | 0x009 => r.world.setWidth 64
  | 0x00C => z r.record.prio
  | 0x00D => z s.bundle
  | 0x040 => z w.fcsr
  | 0x041 => z g.tol
  | 0x080 => w.segSp.base
  | 0x081 => z w.segSp.lim
  | 0x082 => w.segCl.base
  | 0x083 => z w.segCl.lim
  | 0x084 => w.segStk.base
  | 0x085 => z w.segStk.lim
  | 0x086 => w.segFr.base
  | 0x087 => z w.segFr.lim
  | 0x088 => w.stkback
  | 0x0C0 => g.doneTags
  | 0x0C1 => g.tagfault
  | 0x0C2 => g.tagcause.setWidth 64
  | 0x0C3 => z (s.barstate w.group)
  | 0x0C4 => z (s.clbarstate w.group)
  | 0x102 => z w.fmask
  | 0x108 => if w.hbank then 1#64 else 0#64
  | 0x10B => if g.preq then 1#64 else 0#64
  | 0x170 => die.whitAddr
  | 0x171 => die.whitInfo
  | 0x200 => BitVec.ofNat 64 (s.cc - core.resetAt)
  | 0x201 => s.clockNs
  | 0x202 => w.issued
  | n =>
    if h : 0x120 ≤ n ∧ (n - 0x120) / 2 < 16 then
      let b := core.bp[(n - 0x120) / 2]'h.2
      if n % 2 == 0 then b.1 else b.2
    else if h : 0x140 ≤ n ∧ (n - 0x140) / 3 < 16 then
      let b := die.wp[(n - 0x140) / 3]'h.2
      if (n - 0x140) % 3 == 0 then b.1 else if (n - 0x140) % 3 == 1 then b.2.1 else b.2.2
    else 0#64

/-- A per-lane register of lane i of warp k. -/
def State.readSpecialLane (s : State) (k n : Nat) (i : Lane) : DWord :=
  let w := s.warp k
  let z (x : Word) : DWord := x.setWidth 64
  match n with
  | 0x000 => BitVec.ofNat 64 i.val
  | 0x001 => BitVec.ofNat 64 (i.val / 4)
  | 0x003 => if Mask.has w.live i then (Lanes.at w.tid i).setWidth 64 else BitVec.ofNat 64 ((32 * w.no.toNat + i.val) % 1024)
  | 0x00A => z (Lanes.at w.meet i)
  | 0x00B => (Lanes.at w.meetmask i).setWidth 64
  | 0x100 => z (Lanes.at w.cause i)
  | 0x101 => z (Lanes.at w.tpc i)
  | 0x103 => Lanes.at w.taddr i
  | 0x104 => z (Lanes.at w.origin i).word
  | 0x105 => z (Lanes.at w.omasks i)
  | 0x106 => z (Lanes.at w.omeet i)
  | 0x107 => (Lanes.at w.omeetmask i).setWidth 64
  | 0x109 => z (w.oplog i)
  | 0x10A => z (Lanes.at w.ckpt.pc i)
  | _ => 0#64

/-- A read or write of $fcsr waits until the warp's older floating-point results have been written: their windows close here
(R122, log 23). Any other special register waits for none. -/
def State.awaitFlags (s : State) (n : Nat) : State :=
  if n == 0x040 then
    s.me.pend.foldl (fun s p => if p.flags.isSome then s.landOne s.cur p p.lanes else s) s
  else s

/-- rds (R114): once per issue into an s-register; per lane or uniform into v-registers; a counter may land later (R51). -/
def execRds (r : BitVec 7) (n : BitVec 12) (v : BitVec 1) (s : State) : Out :=
  let info := specialOf s.me.trap s.me.handler n.toNat
  let x := info.getD {}
  let vec := v == 1#1
  let reg := r.toNat
  let bad := info.isNone || (vec && (32 ≤ reg || (x.wide && reg % 2 == 1))) || (!vec && x.lane)
  let u : Use :=
    { v := if vec then (if x.wide then [reg, reg + 1] else [reg]) else []
      s := if vec then [] else [reg]
      la := x.counter, priv := x.prw, bad := bad }
  .next (issue u s (fun s m =>
    let s := (if x.counter then s.modWarp s.cur (fun w => { w with gov := w.gov.spoil }) else s).awaitFlags n.toNat
    let la := if x.counter then s.schedLa else 0
    if vec then
      let val (i : Lane) : DWord := if x.lane then s.readSpecialLane s.cur n.toNat i else s.readSpecial s.cur n.toNat
      let e (f : DWord → Word) : Entry := entryOf (!x.lane) (fun i => f (val i))
      let lo := (reg, 0#4, e (fun d => d.setWidth 32))
      let hi := (reg + 1, 0#4, e (fun d => (d >>> 32).setWidth 32))
      { st := s.later la m (if x.wide then [lo, hi] else [lo]) }
    else
      let d := s.readSpecial s.cur n.toNat
      if la == 0 then { st := s.setSreg reg d }
      else
        let (k, s) := s.newUnit
        let w := s.me
        let lanes := s.real m
        let p : Pend := ⟨k, s.pc, s.hints, [], .some reg, [allLanesOf (d.setWidth 32), allLanesOf ((d >>> 32).setWidth 32)],
          true, lanes, lanes, 0#32, 0#32, allLanesOf la, la, allLanesOf 0#15, Access.empty, [], w.segs, .none, 0, 0#32, []⟩
        if lanes == 0#32 then { st := s.setSreg reg d } else { st := s.setMe { w with pend := w.pend ++ [p] } }))

/-- Does a written value set a reserved bit, or RM 5 to 7 of $fcsr (R64, R121)? -/
def specialBad (n : Nat) (v : DWord) : Bool :=
  let x := v.toNat
  match n with
  | 0x040 => nbits x 22 10 != 0 || nbits x 13 3 != 0 || nbits x 5 3 != 0 || 4 < nbits x 16 3
  | 0x088 => nbits x 0 7 != 0
  | 0x101 | 0x106 => nbits x 0 2 != 0
  | 0x105 => nbits x 16 16 != 0 || nbits x 0 1 != 0
  | 0x107 => nbits x 4 28 != 0
  | 0x108 => nbits x 1 31 != 0
  | 0x170 => nbits x 40 23 != 0
  | n =>
    if 0x120 ≤ n && n < 0x140 then (if n % 2 == 0 then nbits x 0 2 != 0 else nbits x 32 24 != 0)
    else if 0x140 ≤ n && n < 0x170 then (if (n - 0x140) % 3 == 2 then nbits x 42 17 != 0 else nbits x 40 24 != 0)
    else false

/-- $whit.addr written with bit 63: VALID and LOST are cleared (R274). -/
def Die.clearWhit (d : Die) (v : DWord) : Die :=
  if nbits v.toNat 63 1 == 1 then
    { d with whitAddr := d.whitAddr &&& ~~~BitVec.twoPow 64 63
             whitInfo := d.whitInfo &&& ~~~BitVec.ofNat 64 (255 * 2 ^ 40) }
  else d

/-- A warp-wide, group-wide, core or die register of warp k written. -/
def State.writeSpecial (s : State) (k n : Nat) (v : DWord) : State :=
  let w := s.warp k
  match n with
  | 0x040 => s.setWarp k { w with fcsr := v.setWidth 32 }
  | 0x088 => s.setWarp k { w with stkback := v }
  | 0x0C1 => s.modGroup w.group (fun g =>
      let f := g.tagfault &&& ~~~v
      { g with tagfault := f, tagcause := if f == 0#64 then 0#6 else g.tagcause })
  | 0x108 => s.setWarp k { w with hbank := v.getLsbD 0 }
  | 0x170 => s.modDie w.die (fun d => d.clearWhit v)
  | n =>
    if h : 0x120 ≤ n ∧ (n - 0x120) / 2 < 16 then
      s.modCore (coreKey w.die w.core) (fun c =>
        let b := c.bp[(n - 0x120) / 2]'h.2
        let b' := if n % 2 == 0 then (v, b.2) else (b.1, v)
        { c with bp := c.bp.set ((n - 0x120) / 2) b' h.2 })
    else if h : 0x140 ≤ n ∧ (n - 0x140) / 3 < 16 then
      s.modDie w.die (fun d =>
        let b := d.wp[(n - 0x140) / 3]'h.2
        let j := (n - 0x140) % 3
        let b' := if j == 0 then (v, b.2.1, b.2.2) else if j == 1 then (b.1, v, b.2.2) else (b.1, b.2.1, v)
        { d with wp := d.wp.set ((n - 0x140) / 3) b' h.2 })
    else s

/-- A per-lane register of the lanes m of warp k written. -/
def State.writeSpecialLanes (s : State) (k n : Nat) (m : Mask) (v : Lane → Word) : State :=
  let w := s.warp k
  match n with
  | 0x101 => s.setWarp k { w with tpc := Lanes.where_ w.tpc m v }
  | 0x105 => s.setWarp k { w with omasks := Lanes.where_ w.omasks m v }
  | 0x106 => s.setWarp k { w with omeet := Lanes.where_ w.omeet m v }
  | 0x107 => s.setWarp k { w with omeetmask := Lanes.where_ w.omeetmask m (fun i => (v i).setWidth 4) }
  | _ => s

/-- wrs (R114): a per-lane register from a v-register lane by lane; any other once per issue, from the lowest active non-helper
lane or the s-register. A value that sets a reserved bit raises ILLEGAL and writes nothing (R64). -/
def execWrs (r : BitVec 7) (n : BitVec 12) (v : BitVec 1) (s : State) : Out :=
  let info := specialOf s.me.trap s.me.handler n.toNat
  let x := info.getD {}
  let vec := v == 1#1
  let reg := r.toNat
  let bad := info.isNone || (x.ro && !(x.prw && !s.me.kern)) || (vec && (32 ≤ reg || (x.wide && reg % 2 == 1)))
    || (!vec && x.lane)
  let u : Use :=
    { v := if vec then (if x.wide then [reg, reg + 1] else [reg]) else []
      s := if vec then [] else [reg]
      priv := x.prw, bad := bad }
  .next (issue u s (fun s m =>
    let s := s.awaitFlags n.toNat
    let val (i : Lane) : DWord :=
      if vec then (if x.wide then s.me.lane (reg + 1) i ++ s.me.lane reg i else (s.me.lane reg i).setWidth 64)
      else if x.wide then s.sreg reg else ((s.sreg reg).setWidth 32).setWidth 64
    if x.lane then
      let fails := maskOf (fun i => Mask.has (s.real m) i && specialBad n.toNat (val i))
      { st := s.writeSpecialLanes s.cur n.toNat (s.real m &&& ~~~fails) (fun i => (val i).setWidth 32)
        traps := trapAll fails (Trap.plain .illegal) }
    else
      match (if vec then s.first m else .some 0) with
      | .none => { st := s }
      | .some f =>
        if specialBad n.toNat (val f) then { st := s, traps := trapAll (s.real m) (Trap.plain .illegal) }
        else { st := s.writeSpecial s.cur n.toNat (val f) }))

end Sys2Proof.Machine
end

