-- ==== Sys2Proof/Machine/Pending.lean ====
section
/-! DEFINITION. Results after their instruction: landing (R51), answers from peers and endpoints, replays of the operand log
(R281 to R284), and the rollback of a region (R279, R280). -/

namespace Sys2Proof.Machine

/-! ### Landing (R51) -/

/-- The lanes that interlock: a result whose window has passed has not come, or their trap waits for an older access (R51,
R282). -/
def Warp.blocked (w : Warp) : Mask :=
  w.pend.foldl (fun m p => if w.frozen p then m else m ||| (p.pastWindow &&& ~~~p.got)) 0#32 ||| trapLanes w.deferred

/-- LONG_LATENCY_RESULT: the results of warp k that are due land (R51). -/
def execLongLatencyResult (k : Nat) (s : State) : Out := .next (s.landDue k)

/-! ### Values that arrive -/

/-- The result with n bytes at offset off of lane i's value. -/
def Pend.put (p : Pend) (i : Lane) (off : Nat) (b : List Byte) : Pend :=
  let ws : List (Nat × Word) :=
    if p.acc.size < 4 then (p.acc.words (BitVec.ofNat 128 (natOfBytes b))).map (fun x => (0, x))
    else (List.range (b.length / 4)).map (fun j => (off / 4 + j, BitVec.ofNat 32 (natOfBytes ((b.drop (4 * j)).take 4))))
  let m := if p.acc.scalar then allLanes.foldl (fun m j => m ||| laneBit j) 0#32 else laneBit i
  { p with vals := ((List.range p.vals.length).zip p.vals).map (fun (j, l) =>
      match ws.find? (fun x => x.1 == j) with
      | .some x => Lanes.where_ l m (fun _ => x.2)
      | .none => l) }

/-- The lanes that one lane's access stands for: all of them for sld and sst (R169). -/
def Pend.owners (p : Pend) (i : Lane) : Mask := if p.acc.scalar then p.lanes else laneBit i

/-- The result with lane i's values complete. -/
def Pend.arrive (p : Pend) (i : Lane) : Pend :=
  let m := p.owners i
  { p with got := p.got ||| (m &&& p.lanes), logged := p.logged &&& ~~~m, remote := p.remote &&& ~~~m, held := p.held &&& ~~~m }

/-- The pending result of warp k by key. -/
def Warp.pending (w : Warp) (id : Nat) : Option Pend := w.pend.find? (fun p => p.id == id)

/-- Pending result id of warp k changed by f, in its checkpoint too (R279). -/
def State.modPend (s : State) (k id : Nat) (f : Pend → Pend) : State :=
  let g (l : List Pend) : List Pend := l.map (fun p => if p.id == id then f p else p)
  s.modWarp k (fun w => { w with pend := g w.pend, ckpt := { w.ckpt with pend := g w.ckpt.pend } })

/-- A result with no destination and nothing outstanding is gone, and traps that waited for an older access are delivered once it
is resolved (R282). -/
def State.tidyPend (s : State) (k : Nat) : State :=
  let s := s.modWarp k (fun w => { w with pend := w.pend.filter (fun p => p.lanes != 0#32
    && !(p.dests.isEmpty && p.sdest.isNone && (p.lanes &&& ~~~p.got) == 0#32)) })
  let w := s.warp k
  let due := w.deferred.filter (fun t => !Mask.has w.loggedLanes t.1)
  if due.isEmpty || w.place != .running then s
  else (s.setWarp k { w with deferred := w.deferred.filter (fun t => Mask.has w.loggedLanes t.1) }).deliverAll k due

/-- The accesses of result p in the lanes m cannot be served: their causes are raised by raiseFailed. -/
def State.failLater (s : State) (k : Nat) (p : Pend) (m : Mask) (c : Lane → Cause) : State :=
  s.modPend k p.id (fun q => { q with
    failed := q.failed ++ (lanesOf (m &&& q.lanes)).map (fun i => (i, c i))
    logged := q.logged &&& ~~~m
    remote := q.remote &&& ~~~m })

/-- A lane that has trapped at an older logged instruction does not trap again for result p: the instruction of p, in that
one's window, has not completed, and the lane executes it again when it returns (R257, R282, R283). -/
def State.dropFailed (s : State) (k : Nat) (p : Pend) (i : Lane) : State :=
  let w := s.warp k
  let frozen := w.frozen p
  let (d, at_, n, l) := if frozen then Lanes.at w.outer i else (Lanes.at w.done i, Lanes.at w.logpc i, Lanes.at w.logidx i, Lanes.at w.logla i)
  let d' := match at_.bind (fun q => s.windowAt k q p.pc) with
    | .some j => d &&& ~~~BitVec.twoPow 15 j
    | .none => d
  let s := s.modPend k p.id (fun q => { q with
    lanes := q.lanes &&& ~~~laneBit i
    dests := q.dests.map (fun x => (x.1, x.2.1, x.2.2 &&& ~~~laneBit i)) })
  s.modWarp k (fun w => if frozen then { w with outer := Lanes.put w.outer i (d', at_, n, l) } else { w with done := Lanes.put w.done i d' })

/-- The accesses of result p of a running warp fail in the lanes m: each lane stands at the instruction again with its hints, its
DONE bits kept for $oplog, and the causes are raised there (R281, R283). -/
def State.failPend (s : State) (k : Nat) (p : Pend) (m : Mask) (c : Lane → Cause) : State :=
  let w := s.warp k
  let m := m &&& w.live &&& p.lanes
  let s := (lanesOf (m &&& w.out)).foldl (fun s i => s.dropFailed k p i) s
  let m := m &&& ~~~w.out
  if m == 0#32 then s.tidyPend k
  else if w.frozen p then
    let s := s.modPend k p.id (fun q => { q with logged := q.logged &&& ~~~m, remote := q.remote &&& ~~~m })
    s.modWarp k (fun w => { w with owing := w.owing ++ (lanesOf m).map (fun i => (p.id, i, c i)) })
  else
    let from_ (i : Lane) : Lane := if p.acc.scalar then (lowestLane? p.lanes).getD i else i
    let ts := (lanesOf m).map (fun i => (i, { p.acc.trap w (from_ i) (c i) with mark := c i == .race || c i == .watch }))
    let s := s.modPend k p.id (fun q => { q with
      lanes := q.lanes &&& ~~~m, logged := q.logged &&& ~~~m, remote := q.remote &&& ~~~m
      dests := q.dests.map (fun x => (x.1, x.2.1, x.2.2 &&& ~~~m)) })
    let s := s.modWarp k (fun w => { w with
      pc := Lanes.where_ w.pc m (fun _ => p.pc)
      wait := Lanes.where_ w.wait m (fun _ => .none)
      done := Lanes.where_ w.done m (fun i => Lanes.at p.done i)
      logpc := Lanes.where_ w.logpc m (fun _ => .some p.pc)
      logidx := Lanes.where_ w.logidx m (fun _ => 0)
      logla := Lanes.where_ w.logla m (fun _ => p.la)
      deferred := w.deferred.filter (fun t => !Mask.has m t.1)
      out := w.out ||| m })
    (s.tidyPend k).takeTraps k (fun _ => p.hints) ts

/-- The lanes of running warp k whose accesses cannot be served raise their causes, instruction by instruction, once no lane of
the instruction waits at a fault hart (R281) and, in each lane, no older access is unresolved (R257). -/
def State.raiseFailed (s : State) (k : Nat) : State :=
  if (s.warp k).place != .running then s
  else
  (s.warp k).pend.foldl (fun s p =>
    let busy := s.faults.any (fun e => match e.2.who with | .some (.lane k' id _ _) => k' == k && id == p.id | _ => false)
    match p.failed with
    | [] => s
    | l =>
      if busy then s
      else
        let older := (s.warp k).pend.foldl (fun m q => if q.id < p.id then m ||| q.logged ||| q.failing else m) 0#32
        let m := l.foldl (fun m x => m ||| p.owners x.1) 0#32 &&& ~~~older
        let s := s.modPend k p.id (fun q => { q with failed := l.filter (fun x => (p.owners x.1 &&& m) == 0#32) })
        s.failPend k { p with failed := [] } m (fun i =>
          ((l.find? (fun x => Mask.has (p.owners x.1) i)).map (·.2)).getD .none)) s

/-- Those of every warp. -/
def State.raiseAllFailed (s : State) : State :=
  s.warps.foldl (fun s e => if e.2.pend.any (fun p => !p.failed.isEmpty) then s.raiseFailed e.1 else s) s

/-- After rte of warp k, the failures that waited for it are raised. -/
def State.raiseOwing (s : State) (k : Nat) : State :=
  let w := s.warp k
  if w.trap || w.owing.isEmpty then s
  else
    (w.pend.foldl (fun s p =>
      let l := w.owing.filter (fun o => o.1 == p.id)
      let m := l.foldl (fun m o => m ||| laneBit o.2.1) 0#32
      s.failPend k p m (fun i => ((l.find? (fun o => o.2.1 == i)).map (·.2.2)).getD .none))
      (s.setWarp k { w with owing := [] }))

/-- Lane i's access of result id of warp k is complete, with a value of size bytes. -/
def State.arriveLane (s : State) (k id : Nat) (i : Lane) (b : List Byte) : State :=
  (s.modPend k id (fun p => (p.put i 0 b).arrive i)).tidyPend k

/-- The whole of lane i's answer has come for result p of warp k: an atomic on stack words that are not all at one peer stores its
value now (R156, R171), and the spin governor sees a load's (R78). -/
def State.answered (s : State) (k : Nat) (p : Pend) (i : Lane) : State :=
  let v := p.vals.foldr (fun l n => n * 2 ^ 32 + (Lanes.at l i).toNat) 0
  match p.acc.kind with
  | .atomic op =>
    let own := (s.warp k).segs
    let t := s.modWarp k (fun w => w.withSegs p.segs)
    match t.reach k p.acc i, atomicNew op v (p.acc.opX i).toNat (p.acc.opY i).toNat with
    | .spots l, .some n =>
      if 1 < l.length then
        (t.writeSpots k i (Lanes.at p.acc.addr i) (bytesOfNat p.acc.size n) l).modWarp k (fun w => w.withSegs own)
      else s
    | _, _ => s
  | .load | .readOnly | .streamLoad => s.governValue k p.pc i (BitVec.ofNat 128 v)
  | _ => s

/-- A piece of lane i's answer has come for result id of warp k; last when no other piece is outstanding. -/
def State.answerLane (s : State) (k id : Nat) (i : Lane) (off : Nat) (b : List Byte) (last : Bool) : State :=
  let s := s.modPend k id (fun p => p.put i off b)
  if !last then s.tidyPend k
  else
    let s := match (s.warp k).pending id with | .some p => s.answered k p i | .none => s
    (s.modPend k id (fun p => p.arrive i)).tidyPend k

/-! ### Replay of the operand log (R281) -/

/-- Is lane i's access of result id of warp k still at a fault hart? -/
def State.atHart (s : State) (k id : Nat) (i : Lane) : Bool :=
  s.faults.any (fun e => match e.2.who with
    | .some (.lane k' id' i' _) => k' == k && id' == id && i' == i
    | _ => false)

/-- The logged access of lane i of result p executes again, under the windows it was issued under (R281, R289); a copy waits while
its tag or the engine has no room for it (R202, R219). -/
def State.replayLane (s : State) (k : Nat) (p : Pend) (i : Lane) : State :=
  let w := s.warp k
  match p.acc.kind with
  | .copy tag =>
    let a := Lanes.at p.acc.addr i
    let d := (Lanes.at p.acc.data i).toNat
    if 512 ≤ s.copiesHeld (coreKey w.die w.core) || 65535 ≤ mapGet 0 (s.group w.group).tags tag then s
    else
      match s.copyCheck (w.withSegs p.segs) (d % 2 ^ 32) a (d / 2 ^ 32) with
      | .fails c => s.failLater k p (laneBit i) (fun _ => c)
      | .service r va => s.sendFault (s.ctx w) va 0 r (.lane k p.id i 0)
      | .spots _ => (s.queueCopy k i (d % 2 ^ 32) a (d / 2 ^ 32) tag).arriveLane k p.id i []
  | _ =>
    let t := (s.modWarp k (fun w => w.withSegs p.segs)).accessAll k p.id p.instr p.pc p.acc (laneBit i) p.stored
    let s := t.st.modWarp k (fun x => x.withSegs w.segs)
    let s := if p.acc.scalar then s.spreadLate k w.late.length p.lanes else s
    let v := bytesOfNat p.acc.size (Lanes.at t.vals i).toNat
    match t.traps with
    | (_, tr) :: _ => s.failLater k p (laneBit i) (fun _ => tr.cause)
    | [] =>
      if Mask.has t.logged i then
        s.modPend k p.id (fun q => { q with
          logged := q.logged ||| laneBit i, remote := q.remote &&& ~~~laneBit i, held := q.held &&& ~~~laneBit i })
      else if Mask.has t.remote i then
        s.modPend k p.id (fun q => { (q.put i 0 v) with
          logged := q.logged &&& ~~~laneBit i, remote := q.remote ||| laneBit i
          held := (q.held &&& ~~~laneBit i) ||| t.held })
      else s.arriveLane k p.id i v

/-- May lane i's access of result p of a warp be performed now: its thread's older accesses and those of lower lanes of its instruction
wait no more (R153, R166, R171)? -/
def Warp.replays (w : Warp) (p : Pend) (i : Lane) : Bool :=
  let waits (q : Pend) : Mask := q.logged ||| q.held
  Mask.has (waits p) i && (lanesOf (waits p)).all (fun j => decide (i.val ≤ j.val))
    && w.pend.all (fun q => decide (p.id ≤ q.id) || !Mask.has (waits q) i)

/-- Every access of warp k in the operand log that no fault hart holds executes again, oldest first and in ascending lane order, and so
does one that a full history area has kept at its home L2 (R195, R281). -/
def State.replayLog (s : State) (k : Nat) : State :=
  (s.warp k).pend.foldl (fun s p =>
    (lanesOf (p.logged ||| p.held)).foldl (fun s i =>
      match (s.warp k).pending p.id with
      | .some q => if (s.warp k).replays q i && !s.atHart k p.id i then s.replayLane k q i else s
      | .none => s) s) s

/-- Accesses of running warps that a full history area holds back are tried again (R195). -/
def State.retryHeld (s : State) : State :=
  s.warps.foldl (fun s e =>
    if e.2.place == .running && e.2.pend.any (fun p => p.held != 0#32) then s.replayLog e.1 else s) s

/-- OPERAND_LOG_REPLAY (R281): a saved warp replays once it is restored (R284). -/
def execOperandLogReplay (k : Nat) (s : State) : Out :=
  .next (if (s.warp k).place == .running then s.replayLog k else s)

/-! ### Rollback (R279, R280) -/

/-- Warp k is rolled back to the checkpoint of its region and the causes of ts are raised there, each with $cause.RB 1. Results in
flight and log entries are discarded, but the reply of a svc wait that the checkpoint holds, and what a local handler's entry
froze; a result of before the checkpoint that has landed since is in the entry that the checkpoint maps (R25, R27). -/
def State.rollback (s : State) (k : Nat) (ts : List LateStore) : State :=
  let w := s.warp k
  let m := w.live &&& ~~~w.detached
  let c := w.ckpt
  let race (i : Lane) : List Word := (ts.filter (fun t => t.lane == i && t.cause == .racelate)).map (·.pc)
  let still (id : Nat) : Mask := match w.pending id with | .some p => p.lanes | .none => 0#32
  let landed := c.pend.map (fun q =>
    let l := q.lanes &&& q.got &&& ~~~still q.id
    { q with lanes := l, dests := q.dests.map (fun d => (d.1, d.2.1, d.2.2 &&& l)) })
  let w := { w with
    v := c.v
    h := c.h
    m := c.m
    pc := Lanes.where_ w.pc m (fun i => Lanes.at c.pc i)
    meet := Lanes.where_ w.meet m (fun i => Lanes.at c.meet i)
    meetmask := Lanes.where_ w.meetmask m (fun i => Lanes.at c.meetmask i)
    wait := Lanes.where_ w.wait m (fun i => match Lanes.at c.wait i with
      | .svc n => if c.pend.any (fun p => p.id == n && Mask.has (p.lanes &&& ~~~p.got) i) then .svc n else .none
      | .spin | .rte | .system => .none
      | x => x)
    kept := Lanes.where_ w.kept m (fun _ => .none)
    done := Lanes.where_ w.done m (fun _ => 0#15)
    logpc := Lanes.where_ w.logpc m (fun _ => .none)
    pend := c.pend.filter (fun p => p.lanes != 0#32 && (w.frozen p || maskOf (fun i => Lanes.at c.wait i == Wait.svc p.id) != 0#32))
    ckpt := { c with moved := [] }
    late := []
    waiting := []
    owing := w.owing.filter (fun o => c.pend.any (fun p => p.id == o.1))
    deferred := []
    out := w.out &&& ~~~m
    skipLate := perLane (fun i => Lanes.at w.skipLate i ++ race i) }
  let traps := (lanesOf m).filterMap (fun i =>
    (ts.find? (fun t => t.lane == i)).map (fun t => (i, (⟨t.cause, t.addr, 0#12, true, false⟩ : Trap))))
  let s := landed.foldl (fun s q => s.landOne k q q.lanes) (s.setWarp k (w.reform s.cc))
  s.takeTraps k (fun _ => Hints.empty) traps

/-- LATE_STORE_CHECK: the checks of warp k's retired stores complete; those that failed roll it back (R197, R279); a saved warp's
rollback is saved with it (R285). -/
def execLateStoreCheck (k : Nat) (s : State) : Out :=
  .next (if (s.warp k).late.isEmpty || (s.warp k).place != .running then s else s.rollback k (s.warp k).late)

/-- REGION_CHECKPOINT: at a region end of warp k with no check of an older store outstanding, the checkpoint is taken (R278). A
region end itself waits for those checks, so that nothing has issued since. -/
def execRegionCheckpoint (k : Nat) (s : State) : Out :=
  .next (if (s.warp k).late.isEmpty && (s.warp k).ckpt.issued == (s.warp k).issued then s.modWarp k Warp.checkpoint else s)

end Sys2Proof.Machine
end

