-- ==== Sys2Proof/Machine/Bins.lean ====
section
/-! DEFINITION. The bins of a frame area (R292 to R296), and the rows that a resume takes (R303, R309). -/

namespace Sys2Proof.Machine

/-! ### Bins and rows (R292 to R296) -/

/-- Bin n of a frame area. -/
def State.bin (s : State) (f n : Nat) : Bin := mapGet Bin.empty (s.frame f).bins n
/-- The state with bin n of a frame area changed by g. -/
def State.modBin (s : State) (f n : Nat) (g : Bin → Bin) : State :=
  s.modFrame f (fun x => { x with bins := mapMod Bin.empty x.bins n g })
/-- The sleeping rows of a bin. -/
def Bin.sleeping (b : Bin) : List (Nat × Row) := b.rows.filter (fun r => !r.2.awake)
/-- The oldest awake row of a bin: first woken, then lowest number. -/
def Bin.oldest (b : Bin) : Option (Nat × Row) :=
  b.rows.foldl (fun a r =>
    if !r.2.awake then a
    else match a with
      | .some x => if r.2.woken < x.2.woken then .some r else a
      | .none => .some r) .none

/-- A number inserted in rising order. -/
def insertNat (x : Nat) : List Nat → List Nat
  | [] => [x]
  | y :: t => if x < y then x :: y :: t else y :: insertNat x t
/-- The j-th number that a rising list leaves out. -/
def nthFree (used : List Nat) (j : Nat) : Nat := used.foldl (fun t u => if u ≤ t then t + 1 else t) j
/-- The tiles of a frame area that some chain holds. -/
def Frames.used (f : Frames) : List Nat := (f.bins.flatMap (fun b => b.2.chain)).foldr insertNat []

/-- The chain of bin n grows by a tile of the pool, chosen freely (R296; log 3); none where it may not. -/
def State.growChain (s : State) (f n : Nat) : Option State :=
  let b := s.bin f n
  let used := (s.frame f).used
  let count := (s.frame f).tiles - used.length
  if b.chain.length < b.cap && 0 < count then
    let (v, s) := s.free
    .some (s.modBin f n (fun b => { b with chain := b.chain ++ [nthFree used (v.toNat % count)] }))
  else .none

/-- The lowest free row of bin n, the chain grown when needed (R296, R298). -/
def State.giveRow (s : State) (f n : Nat) : Option (Nat × State) :=
  let b := s.bin f n
  match (List.range (32 * b.chain.length)).find? (fun r => !mapHas b.rows r) with
  | .some r => .some (r, s)
  | .none => (s.growChain f n).map (fun s => (32 * b.chain.length, s))

/-- Last tiles whose rows are all free go back to the pool, but the first (R296). -/
def Bin.shrink : Nat → Bin → Bin
  | 0, b => b
  | n + 1, b =>
    let j := b.chain.length - 1
    if 1 < b.chain.length && !b.rows.any (fun r => r.1 / 32 == j) then
      Bin.shrink n { b with chain := b.chain.take j, old := b.old.filter (fun r => r.1 / 32 != j) }
    else b

/-- Row r of bin n is filed (R298). -/
def State.putRow (s : State) (f n r : Nat) (row : Row) : State :=
  s.modBin f n (fun b => { b with rows := mapPut b.rows r row, old := mapDel b.old r })

/-! ### Rows taken by a resume (R303, R309) -/

/-- Does group g hold an occupied row, or a row that a resume has taken and not yet formed (R297, R303)? -/
def State.holdsRows (s : State) (g : Nat) : Bool :=
  s.frames.any (fun f => f.2.bins.any (fun b => b.2.rows.any (fun r => r.2.group == g) || b.2.taken.any (fun t => t.1 == g)))

/-- The group that a bin resumes next, by one of the three conditions of R303. -/
def Bin.due (b : Bin) : Option Nat :=
  match b.oldest with
  | .none => .none
  | .some (_, o) =>
    let mine := b.rows.filter (fun r => r.2.awake && r.2.group == o.group)
    if 32 ≤ mine.length || b.forced == .some o.group || b.expired == .some o.group then .some o.group else .none

/-- Bin n takes up to 32 awake rows of the group that is due, in ascending row number, and waits to form their warp (R303). -/
def State.takeRows (s : State) (f n : Nat) : State :=
  let b := s.bin f n
  match b.due, b.busy with
  | .some g, .none =>
    let take := (b.rows.filter (fun r => r.2.awake && r.2.group == g)).take 32
    s.modBin f n (fun b =>
      let b : Bin := { b with
        rows := take.foldl (fun (m : Map Row) (r : Nat × Row) => mapDel m r.1) b.rows
        old := take.foldl (fun (m : Map Row) (r : Nat × Row) => mapPut m r.1 r.2) b.old
        forced := if b.forced == .some g then .none else b.forced
        expired := if b.expired == .some g then .none else b.expired
        taken := b.taken ++ [(g, take)] }
      b.shrink b.chain.length)
  | _, _ => s

/-- A taken row goes back to its place in bin n, or where that is no longer free to the lowest free row; none where no row can be
given (R309; log 66). -/
def State.putBack (s : State) (f n : Nat) (r : Nat × Row) : Option State :=
  let b := s.bin f n
  if r.1 / 32 < b.chain.length && !mapHas b.rows r.1 then .some (s.putRow f n r.1 r.2)
  else (s.giveRow f n).map (fun x => x.2.putRow f n x.1 r.2)

/-- The rows that resumes of group g have taken from bin n go back, their wake bits unchanged (R309). -/
def State.giveBack (s : State) (f n g : Nat) : State :=
  let mine := (s.bin f n).taken.filter (fun t => t.1 == g)
  let s := s.modBin f n (fun b => { b with taken := b.taken.filter (fun t => t.1 != g) })
  let r := (mine.flatMap (·.2)).foldl (fun (x : State × List (Nat × Row)) r =>
    match x.1.putBack f n r with
    | .some t => (t, x.2)
    | .none => (x.1, x.2 ++ [r])) (s, [])
  if r.2.isEmpty then r.1 else r.1.modBin f n (fun b => { b with taken := b.taken ++ [(g, r.2.take 32)] })

/-- A stopped group's resumes that have not yet formed a warp go back to their rows (R309). -/
def State.giveBackAll (s : State) (g : Nat) : State :=
  s.frames.foldl (fun s (f, x) => x.bins.foldl (fun s (n, b) =>
    if b.taken.any (fun t => t.1 == g) then s.giveBack f n g else s) s) s

end Sys2Proof.Machine
end

