-- ==== Sys2Proof/Machine/System.lean ====
section
/-! DEFINITION. Trap, debug and system instructions (R264, R271 to R277, R287, R289, R350), the Ringmaster (R267 to R272),
saving and restoring of warps (R285 to R288), and the scheduler's events (R68 to R81). -/

namespace Sys2Proof.Machine

/-! ### Holds and waits, re-evaluated (R74, R75, R92, R206, R213) -/

/-- Every hold of warp k re-evaluated: released lanes are ordered across their barrier, and the bundles re-formed (R74, R75,
R178). -/
def State.settleHolds (s : State) (k : Nat) : State :=
  let (ms, w) := (s.warp k).settle
  let s := ms.foldl (fun s m => s.laneBarrier k m) (s.setWarp k w)
  if ms.isEmpty then s else s.modWarp k (fun w => w.reform s.cc)

/-- Lane i of warp k looks at what it waits for: a word where addr, one that a peer or service answers where peer, copy tags,
barrier objects; with the trap that it then raises. -/
def State.pollLane (s : State) (addr peer tags bars : Bool) (k : Nat) (i : Lane) : State × List (Lane × Trap) :=
  let w := s.warp k
  let pc := Lanes.at w.pc i - 4#32
  let see (r : State × Seen) : State × List (Lane × Trap) :=
    match r.2 with
    | .wait => (r.1, [])
    | .done => (r.1.leaveWait k i, [])
    | .trap t => (r.1, [(i, t)])
  match Lanes.at w.wait i with
  | .addr a x =>
    if addr && (peer || (match s.waitRead k i a with | .word _ => true | .fails _ => true | _ => false)) then
      match s.waitOn k i pc (w.keptHints i) a x with
      | (s', .some c) => (s', [(i, Trap.atAddr c a)])
      | (s', .none) => (s', [])
    else (s, [])
  | .tagAny t => if tags then see (s.lookTags k i pc t true) else (s, [])
  | .tagAll t => if tags then see (s.lookTags k i pc t false) else (s, [])
  | .bar a x => if bars then see (s.lookBar k i pc a x) else (s, [])
  | _ => (s, [])

/-- Every waiting lane of warp k looks; those that now trap do so together. -/
def State.pollWarp (s : State) (addr peer tags bars : Bool) (k : Nat) : State :=
  if (s.warp k).place == .gone || (s.warp k).waitMask == 0#32 then s
  else
    let r := (lanesOf (s.warp k).live).foldl (fun (r : State × List (Lane × Trap)) i =>
      let q := r.1.pollLane addr peer tags bars k i
      (q.1, r.2 ++ q.2)) (s, [])
    r.1.trapWaiting k r.2

/-- WAIT_ADDR_REREAD (R92). -/
def execWaitAddrReread (k : Nat) (s : State) : Out := .next (s.pollWarp true true false false k)
/-- BAR_WAIT_REREAD (R213). -/
def execBarWaitReread (k : Nat) (s : State) : Out := .next (s.pollWarp false false false true k)

/-! ### The bundler and the scheduler (R30, R68, R72, R78, R79) -/

/-- BUNDLE_REFORMATION_TIMER: 8 cc after the last re-formation (R68), unless withheld (R69). -/
def execBundleReformationTimer (k : Nat) (s : State) : Out :=
  let w := s.warp k
  .next (if w.withheld == 0#32 && w.formed + 8 ≤ s.cc then s.setWarp k (w.reform s.cc) else s)

/-- Bundle j of warp k is passed over once more by its slot (R72). -/
def State.passOver (s : State) (k j : Nat) : State :=
  s.modWarp k (fun w => { w with bundles := ((List.range w.bundles.length).zip w.bundles).map (fun (n, b) =>
    if n == j then { b with passed := b.passed + 1 } else b) })

/-- BUNDLE_PASSED_OVER: a bundle that issues ahead of every key once it has been passed over 64 times (R72). -/
def execBundlePassedOver (k j : Nat) (s : State) : Out := .next (s.passOver k j)

/-- SPIN_GOVERNOR_DEMOTION: after 256 qualifying iterations of a loop every lane at its branch's target becomes waiting, and the
sectors it touched are tracked (R78). -/
def State.demote (s : State) (k : Nat) : State :=
  let w := s.warp k
  match w.gov.due with
  | .some l =>
    let m := maskOf (fun i => Mask.has w.runnable i && Lanes.at w.pc i == l.target)
    s.setWarp k ({ w with
      wait := Lanes.where_ w.wait m (fun _ => .spin)
      gov :=
        { loops := w.gov.loops.map (fun (x : Loop) => if x.pc == l.pc then { x with count := 0 } else x)
          demoted := true
          since := if w.gov.demoted then w.gov.since else s.cc
          tracked := (if w.gov.demoted then w.gov.tracked else []) ++ l.sectors } }.reform s.cc)
  | .none => s
def execSpinGovernorDemotion (k : Nat) (s : State) : Out := .next (s.demote k)

/-- GOVERNOR_TIMEOUT_WAKE: after 65,536 cc without a write (R79). -/
def execGovernorTimeoutWake (k : Nat) (s : State) : Out :=
  let w := s.warp k
  .next (if w.gov.demoted && w.gov.since + 65536 ≤ s.cc then s.setWarp k (w.wakeSpin.reform s.cc) else s)

/-- Does a warp hold a slot of its core? -/
def Warp.inSlot (w : Warp) : Bool := w.place == .running || w.place == .system

/-- Bytes of a warp's entries (R30). -/
def Warp.bytes (w : Warp) : Nat :=
  let f (n : Nat) (r : VReg) : Nat := if !r.mapped then n else n + (match r.entry with
    | .uniform _ => 4
    | .affine _ _ => 8
    | .general _ => 128)
  w.h.foldl f (w.v.foldl f 0)

/-- A field of QCLASS for a launch's class, 0 where it bounds nothing (R324). -/
def State.quota (s : State) (grid lo len max : Nat) : Nat :=
  let n := nbits (mapGet 0#64 s.front.qclass (s.grid grid).record.qclass).toNat lo len
  if max < n then 0 else n

/-- Does the fast file of warp k's core, and its launch's share of it, hold the warp's entries (R29, R31, R324)? -/
def State.fastRoom (s : State) (k : Nat) : Bool :=
  let w := s.warp k
  let grid (x : Warp) : Nat := (s.group x.group).grid
  let l := s.activeSet w.die w.core
  let q := s.quota (grid w) 47 10 768
  let own := ((l.filter (fun e => grid e.2 == grid w)).map (fun e => e.2.generals)).sum
  decide (w.words ≤ s.narrowFree w.die w.core) && decide (s.generals w.die w.core + w.generals ≤ 768)
    && (q == 0 || decide (own + w.generals ≤ q))

/-- Warp k enters the active set at its lowest free position, when one of the 16 is free and its entries fit the fast file (R29,
R30). -/
def State.moveIn (s : State) (k : Nat) : State :=
  let w := s.warp k
  let l := s.activeSet w.die w.core
  match (List.range 16).find? (fun p => !l.any (fun e => e.2.pos == p)) with
  | .some p => if s.fastRoom k then s.setWarp k { w with fast := true, pos := p } else s
  | .none => s

/-- Does the slow file of warp k's core, and its launch's share of it, hold the warp's entries (R30, R31, R324)? -/
def State.slowRoom (s : State) (k : Nat) : Bool :=
  let w := s.warp k
  let grid (x : Warp) : Nat := (s.group x.group).grid
  let slow := s.warps.filter (fun (_, x) => !x.fast && x.inSlot && x.die == w.die && x.core == w.core)
  let used (l : List (Nat × Warp)) : Nat := l.foldl (fun n e => n + e.2.bytes) 0
  let q := s.quota (grid w) 36 11 384
  decide (used slow + w.bytes ≤ 384 * 1024)
    && (q == 0 || decide (used (slow.filter (fun e => grid e.2 == grid w)) + w.bytes ≤ q * 1024))

/-- REGISTER_FILE_MOVE: no value, tag or mapping changes (R30). -/
def execRegisterFileMove (k : Nat) (s : State) : Out :=
  let w := s.warp k
  .next (if w.fast then (if s.slowRoom k then s.setWarp k { w with fast := false } else s) else if w.place == .running then s.moveIn k else s)

/-- Resident warp k, which is not in the active set, is moved in when it has a lane that may issue; where it does not fit, warps
of the set whose lanes all wait are moved out (R77, R80). -/
def State.bringIn (s : State) (k : Nat) : State :=
  let w := s.warp k
  if w.fast || w.place != .running || w.runnable == 0#32 then s
  else
    (s.activeSet w.die w.core).foldl (fun s e =>
      if (s.warp k).fast || e.2.runnable != 0#32 then s
      else if s.slowRoom e.1 then (s.setWarp e.1 { s.warp e.1 with fast := false }).moveIn k
      else s) (s.moveIn k)

/-- A warp of the active set of a core has entered an architected wait: resident warps that may issue are moved in (R80). -/
def State.bringAll (s : State) (die core : Nat) : State :=
  s.warps.foldl (fun s e => if !e.2.fast && e.2.die == die && e.2.core == core then s.bringIn e.1 else s) s

/-! ### Saving and restoring (R77, R81, R285 to R288) -/

/-- The lowest free slot of a core below 63 (R269). -/
def State.freeSlot (s : State) (die core : Nat) : Option Nat :=
  (List.range 63).find? (fun n => !s.warps.any (fun (_, w) => w.die == die && w.core == core && w.slot == n && w.inSlot))

/-- Warp k stops at its packet boundary and is saved with its windows, log and waits (R285, R288). -/
def State.stopWarp (s : State) (k : Nat) (dest : Residence) : State :=
  if (s.warp k).place == .running then
    ((s.landDue k).modWarp k (fun w => { w with place := dest, fast := false, bundles := [] })).saveWarp k
  else s

/-- Group g is stopped and saved whole, its resumes too (R309). -/
def State.stopGroup (s : State) (g : Nat) (dest : Residence) (st : GroupStatus) : State :=
  let x := s.group g
  if x.status == .running || x.status == .exiting then
    x.warps.foldl (fun s k => s.stopWarp k dest) ((s.setGroup g { x with status := st, preq := false }).giveBackAll g)
  else s

/-- The groups of g's gang (R12). -/
def State.gangOf (s : State) (g : Nat) : List Nat :=
  if (s.group g).handler then [g] else s.gangGroups g

/-- Does every thread of a group hold or wait, or is it retired? -/
def State.groupWaits (s : State) (g : Nat) : Bool :=
  (s.group g).warps.all (fun k => (s.warp k).place == .gone || (s.warp k).place == .system || (s.warp k).runnable == 0#32)

/-- Are all resident groups of a launch in architected waits (R81)? -/
def State.launchWaits (s : State) (grid : Nat) : Bool :=
  (s.groups.filter (fun e => e.2.grid == grid && e.2.status == .running)).all (fun e => s.groupWaits e.1)

/-- The services that a launch waits on: the server launches of the dies on which lanes of it wait for a svc (R81, R364). -/
def State.services (s : State) (grid : Nat) : List Nat :=
  s.warps.filterMap (fun e =>
    let calls := allLanes.any (fun i => match Lanes.at e.2.wait i with | .svc _ => true | _ => false)
    let server := nbits (s.ring e.2.die).w1.toNat 0 32
    if (s.group e.2.group).grid == grid && calls && server != 0 then .some server else .none)

/-- Has a launch a group that is not resident: one still to be placed, or an evicted one with a thread that may run again? -/
def State.absent (s : State) (grid : Nat) : Bool :=
  let r := s.grid grid
  (r.status == .dispatched && (r.next < r.groups || !r.todo.isEmpty))
    || s.groups.any (fun e => e.2.grid == grid && e.2.status == .evicted && !s.groupWaits e.1)

/-- Does a launch, or a service that it waits on, have a group that is not resident (R81)? -/
def State.hasOutside (s : State) (grid : Nat) : Bool := (grid :: s.services grid).any s.absent

/-- Is a launch the server launch of a compute die (R364, R371)? -/
def State.serves (s : State) (grid die : Nat) : Bool := grid != 0 && nbits (s.ring die).w1.toNat 0 32 == grid
/-- Is it the server launch of some die? -/
def State.isServer (s : State) (grid : Nat) : Bool := [0, 1, 2, 3].any (s.serves grid)

/-- May group g's gang be evicted: it waits, a launch whose resident groups all wait is its own or waits on its service, and a
group outside qualifies (R81); a server group is never evicted (R371). -/
def State.evictable (s : State) (g : Nat) : Bool :=
  let x := s.group g
  let stuck (l : Nat) : Bool := s.launchWaits l && s.hasOutside l
  x.status == .running && !s.isServer x.grid && s.groupWaits g
    && (stuck x.grid || s.grids.any (fun l => (s.services l.1).contains x.grid && stuck l.1))

/-- Group g's gang is evicted whole (R12, R77). -/
def State.evictGang (s : State) (g : Nat) : State := (s.gangOf g).foldl (fun s j => s.stopGroup j .evicted .evicted) s

/-- GROUP_EVICTION (R81). -/
def execGroupEviction (g : Nat) (s : State) : Out := .next (if s.evictable g then s.evictGang g else s)

/-- The row and side record of a row that gret returned, as the save area holds it (R37, R288, R293). -/
def Returning.bytes (r : Returning) : List Byte :=
  let f := r.regs.length
  bytesOfNat 4 r.pc.toNat ++ bytesOfNat 4 (2 ^ f - 1) ++ bytesOfNat 4 (131072 + r.origin.tid.toNat) ++ bytesOfNat 4 0
    ++ r.regs.flatMap (fun x => bytesOfNat 4 x.1.toNat) ++ List.replicate (112 - 4 * f) 0#8
    ++ bytesOfNat 14 (r.regs.foldr (fun x n => n * 16 + x.2.toNat) 0) ++ List.replicate 10 0#8 ++ bytesOfNat 4 r.groupNo.toNat
    ++ List.replicate 4 0#8 ++ bytesOfNat 4 r.tpc.toNat ++ bytesOfNat 4 r.cause.toNat ++ bytesOfNat 8 r.taddr.toNat
    ++ bytesOfNat 4 (r.origin.die ++ r.origin.core ++ r.origin.slot ++ r.origin.lane ++ 0#2 ++ r.origin.tid).toNat
    ++ bytesOfNat 2 r.omasks.toNat ++ bytesOfNat 2 r.omeetmask.toNat ++ bytesOfNat 4 r.omeet.toNat
    ++ bytesOfNat 2 r.done.toNat ++ bytesOfNat 2 0

/-- A returned row as the save area holds it now: what its bytes b say, of the origin that the device keeps (R271, R288). -/
def Returning.reread (r : Returning) (b : List Byte) : Returning :=
  let word (o : Nat) : Nat := natOfBytes ((b.drop o).take 4)
  let fmts := natOfBytes ((b.drop 128).take 14)
  { r with
    pc := BitVec.ofNat 32 (word 0)
    regs := (List.range r.regs.length).map (fun n => (BitVec.ofNat 32 (word (16 + 4 * n)), BitVec.ofNat 4 (fmts / 16 ^ n)))
    omasks := BitVec.ofNat 32 (word 180 % 65536)
    omeetmask := BitVec.ofNat 4 (word 180 / 65536)
    omeet := BitVec.ofNat 32 (word 184)
    done := BitVec.ofNat 15 (word 188) }

/-- Row r is applied to its origin lane, which is reattached (R271, R178). -/
def State.reattach (s : State) (r : Returning) : State :=
  let k := r.origin.warp
  let i : Lane := ⟨r.origin.lane.toNat, r.origin.lane.isLt⟩
  if !Mask.has ((s.warp k).live &&& (s.warp k).detached) i then s
  else
    let b := laneBit i
    let s := ((List.range r.regs.length).zip r.regs).foldl (fun s (n, x, fmt) =>
      s.storeReg k n b (.uniform x) fmt) s
    let s := s.modWarp k (fun w => { w with
      m := Vector.ofFn (fun n : Fin 16 =>
        if n.val = 0 then 0#32 else if r.omasks.getLsbD n.val then w.m[n.val] ||| b else w.m[n.val] &&& ~~~b)
      meet := Lanes.put w.meet i r.omeet
      meetmask := Lanes.put w.meetmask i r.omeetmask
      pc := Lanes.put w.pc i r.pc
      done := Lanes.put w.done i r.done
      detached := w.detached &&& ~~~b })
    let (a, s) := s.touch k i
    let s := (s.modAgent a (fun x => x.learnAll r.pub)).endRegion a
    let s := s.resumeLane k i
    (s.settleHolds k).modWarp k (fun w => w.reform s.cc)

/-- Where the returned rows of saved warp k lie (R288). -/
def State.rowsAt (s : State) (k : Nat) : Nat := saveAddr k + ((s.saveImage k).length + 63) / 64 * 64

/-- A returned row reaches its origin: a running warp takes it, and a saved warp's row waits in its save area (R271, R288). -/
def State.returnRow (s : State) (r : Returning) : State :=
  let k := r.origin.warp
  let w := s.warp k
  match w.place with
  | .running => s.reattach r
  | .gone => s
  | _ =>
    let base := s.rowsAt k
    let rows := w.returned ++ [r]
    let s := s.setWarp k { w with returned := rows }
    let t := s.saveTag w
    { s with mem := (s.mem.setTagged t base (bytesOfNat 4 rows.length)).setTagged t (base + 64 + 192 * w.returned.length) r.bytes }

/-- ROW_REATTACH (R271). -/
def execRowReattach (j : Nat) (s : State) : Out :=
  match mapFind s.returning j with
  | .some r => .next ({ s with returning := mapDel s.returning j }.returnRow r)
  | .none => .next s

/-- The image of a saved warp read back: none where the check value, a tag, or in a protected world the decryption, does
not match (R24, R288). -/
def State.readBack (s : State) (k : Nat) (ok : Bool) : Option Warp :=
  let w := s.warp k
  let n := s.declared w
  let world := (s.grid (s.group w.group).grid).world
  let lines := (List.range (((s.saveImage k).length + saveAddr k % 64 + 63) / 64)).all (fun j =>
    mapFind s.mem.lines (saveAddr k / 64 + j) == s.saveTag w)
  if world != 0#10 && !(ok && lines) then .none
  else w.restore n (Config.checkValue k) (s.mem.bytes (saveAddr k) (1024 + 128 * (n + 8)))

/-- Warp k runs again as w, but for the lanes that a gkill has retired, with the rows that returned meanwhile applied in order
(R271, R272, R288). -/
def State.runAgain (s : State) (k : Nat) (w : Warp) : State :=
  let rows := ((List.range w.returned.length).zip w.returned).map (fun (j, r) =>
    r.reread (s.mem.bytes (s.rowsAt k + 64 + 192 * j) 192))
  let w := if w.killed == 0#32 then w else w.retire w.killed
  let s := s.setWarp k { w with place := .running, returned := [], killed := 0#32 }
  let s := s.resumeLanes k ((s.warp k).live &&& ~~~(s.warp k).detached)
  let s := rows.foldl (fun s r => s.reattach r) s
  let s := s.settleHolds k
  let s := s.modWarp k (fun w => w.reform s.cc)
  let s := if (s.warp k).fast then s else s.moveIn k
  s.deliverAll k []

/-- A gathered pass that has not started collects its rows anew after a restore (R255). -/
def MatOp.recollect (o : MatOp) : MatOp := if o.started then o else { o with rows := .none, latch := [], fault := .none }

/-- Saved warp k returns to a slot of its core, and in trap mode to a slot of its reserve (R262); its gang runs once no member's
warp is still saved (R12, R288), where a group with no thread left stays held in exit; an open tile whose sectors no longer fit
overflows (R336). -/
def State.restoreWarp (s : State) (k : Nat) (ok : Bool) : State :=
  let w := s.warp k
  let saved (w : Warp) : Bool := w.place == .evicted || w.place == .preempted
  let whole (s : State) : State :=
    let gang := s.gangOf w.group
    if gang.all (fun g => (s.group g).warps.all (fun j => !saved (s.warp j))) then
      let s := gang.foldl (fun s g => s.modGroup g (fun x =>
        if x.status == .evicted || x.status == .preempted then
          { x with status := if x.warps.all (fun j => (s.warp j).place == .gone) then .exiting else .running }
        else x))
        { s with clusters := mapAll s.clusters (fun _ c =>
            if c.gang == .some ((s.group w.group).grid, (s.group w.group).gang) then
              { c with saved := false, queues := mapAll c.queues (fun _ l => l.map MatOp.recollect) }
            else c) }
      gang.foldl (fun s g =>
        if (s.group g).tile == .open && [0, 1, 2, 3].any (fun d => 262144 < s.tentUsed d) then s.overflowTile g else s) s
    else s
  if !saved w then (if w.place == .gone then whole s else s)
  else
    match s.freeSlot w.die w.core, s.readBack k ok with
    | .some n, .some w' =>
      if w'.trap && !w'.handler && !s.reserveFree w.die w.core then s
      else whole (s.runAgain k { w' with slot := n })
    | _, _ => s

/-- WARP_RESTORE (R288): on a mismatch nothing is restored; the restoring handler, in which FMT is raised, is no warp that the
spec names (log 55). -/
def execWarpRestore (k : Nat) (ok : Bool) (s : State) : Out := .next (s.restoreWarp k ok)

/-! ### Pre-emption (R285 to R287) -/

/-- Is a group part of what a pre-emption request names? A request that names a world passes over server groups (R371). -/
def State.preemptNames (s : State) (t : PreemptTarget) (x : Group) : Bool :=
  match t with
  | .launch n => x.grid == n
  | .world w => (s.grid x.grid).world == w && !s.isServer x.grid
  | .die d => x.die == d

/-- Is a cluster's control stream part of it? -/
def State.preemptNamesCluster (s : State) (t : PreemptTarget) (k : Nat) (c : Cluster) : Bool :=
  match c.gang, t with
  | .some (g, _), .launch n => g == n
  | .some (g, _), .world w => (s.grid g).world == w && !s.isServer g
  | .some _, .die d => k / 32 == d
  | .none, _ => false

/-- Is a group cooperative: kernel mode, and its record says so (R286)? -/
def State.cooperative (s : State) (x : Group) : Bool :=
  let f := (s.grid x.grid).record.flags
  f.getLsbD 0 && f.getLsbD 1

/-- PREEMPTION_REQUEST: engines of the named work stop at their units, and cooperative groups are asked (R285, R286); a
grace of 0 µs stands for the default of 100. -/
def execPreemptionRequest (t : PreemptTarget) (compl : DWord) (grace : Nat) (s : State) : Out :=
  let stop := s.clock + (if grace == 0 then 100 else grace) * 1000000000
  let (k, s) := s.newUnit
  let s := { s with front := { s.front with preempts := mapPut s.front.preempts k ⟨t, compl, stop⟩ } }
  let s := { s with clusters := mapAll s.clusters (fun n c => if s.preemptNamesCluster t n c then { c with saved := true } else c) }
  .next ((s.groups.filter (fun e => s.preemptNames t e.2)).foldl (fun s e =>
    if s.cooperative e.2 && e.2.status == .running then s.modGroup e.1 (fun x => { x with preq := true, graceEnd := stop })
    else s.stopGroup e.1 .preempted .preempted) s)

/-- Does a pass of the matrix engine still run for work that a request names, or a named group (R255, R285)? The other engines stop
between two events of this model: their stop units are single events, and a queue hart's packet is no part of a launch, a world or
a die. -/
def State.stopping (s : State) (t : PreemptTarget) : Bool :=
  s.groups.any (fun e => s.preemptNames t e.2 && (e.2.status == .running || e.2.status == .exiting))
    || s.clusters.any (fun e => s.preemptNamesCluster t e.1 e.2 && e.2.queues.any (fun q => q.2.any (·.started)))

/-- PREEMPTION_COMPLETE: once every group of the named work has stopped, its streams are in their save areas (R255), and the completion
word is written in world 0's space; its value is not given (R285; log 3). -/
def execPreemptionComplete (k : Nat) (s : State) : Out :=
  match mapFind s.front.preempts k with
  | .none => .next s
  | .some p =>
    if s.stopping p.target then .next s
    else
      let s := { s with front := { s.front with preempts := mapDel s.front.preempts k } }
      let s := s.clusters.foldl (fun s e => if s.preemptNamesCluster p.target e.1 e.2 then s.saveStream e.1 else s) s
      let (v, s) := s.free
      match s.physical s.sysCtx true p.compl.toNat with
      | .some pa => .next ({ s with mem := s.mem.setNum pa 4 (v.toNat % 2 ^ 32) }.wrote pa 4)
      | .none => .next s

/-- Group g's gang is pre-empted whole (R12, R285). -/
def State.stopGang (s : State) (g : Nat) : State := (s.gangOf g).foldl (fun s j => s.stopGroup j .preempted .preempted) s

/-- COOPERATIVE_GRACE_EXPIRY (R286). -/
def execCooperativeGraceExpiry (g : Nat) (s : State) : Out :=
  let x := s.group g
  .next (if x.preq && x.graceEnd ≤ s.clock then s.stopGang g else s)

/-- preack: with a request pending, every warp of the group stops at its next packet boundary (R287), and its gang with it (R12). -/
def execPreack (s : State) : Out :=
  .next (issue { priv := true } s (fun s _ =>
    let g := s.me.group
    if (s.group g).preq then { st := (s.advance s.bundle).account.stopGang g, jumped := s.bundle }
    else { st := s }))

/-! ### trap, brk, rte (R264, R273) -/

/-- trap code raises SWTRAP with its code (R273). -/
def execTrap (c : BitVec 12) (s : State) : Out :=
  .next (issue { predicated := true } s (fun s m => { st := s, traps := trapAll (s.real m) ⟨.swtrap, 0#64, c, false, false⟩ }))
/-- brk raises BKPT (R273). -/
def execBrk (s : State) : Out :=
  .next (issue { predicated := true } s (fun s m => { st := s, traps := trapAll (s.real m) (Trap.plain .bkpt) }))
/-- rte holds the active lanes; when every handler lane is held, the warp returns (R264). -/
def execRte (s : State) : Out :=
  .next (issue { bad := !s.me.trap || s.me.handler } s (fun s m =>
    let w := s.me
    let s := s.setMe { w with wait := Lanes.where_ w.wait (s.real m) (fun _ => .rte) }
    { st := s.finishRte s.cur, jumped := s.bundle }))

/-! ### gret and gkill (R271, R272) -/

/-- The row that handler lane i sends home at pc p. -/
def State.rowOf (s : State) (w : Warp) (i : Lane) (p : Word) (pub : Map Nat) : Returning :=
  let f := s.declared w
  { origin := Lanes.at w.origin i
    groupNo := (s.group (s.warp (Lanes.at w.origin i).warp).group).no
    cause := Lanes.at w.cause i
    taddr := Lanes.at w.taddr i
    regs := (List.range f).map (fun n => ((w.reg n).entry.at i, (w.reg n).fmt))
    omasks := Lanes.at w.omasks i
    omeet := Lanes.at w.omeet i
    omeetmask := Lanes.at w.omeetmask i
    done := Lanes.at w.done i
    hints := w.keptHints i
    tpc := Lanes.at w.tpc i
    pc := p
    pub := pub }

/-- The active handler lanes return to the origins at a pc each (R271). -/
def gretAt (u : Use) (pc : State → Lane → Word) (s : State) : State :=
  issue { u with predicated := true, bad := u.bad || !s.me.handler } s (fun s m =>
    let w := s.me
    let r := (s.grid (s.group w.group).grid).record
    let bad := (lanesOf (s.real m)).filterMap (fun i =>
      (targetCheck r (pc s i)).map (fun c => (i, Trap.plain c)))
    let go := s.real m &&& ~~~trapLanes bad
    let t := (lanesOf go).foldl (fun t i =>
      let (a, t) := t.touch s.cur i
      let row := s.rowOf w i (pc s i) (t.publishedAll a)
      let (j, t) := (t.endRegion a).newUnit
      { t with returning := mapPut t.returning j row }) s
    { st := t.setMe (t.me.retire go), traps := bad, jumped := go })

def execGret (s : State) : Out := .next (gretAt {} (fun s i => Lanes.at s.me.tpc i + 4#32) s)
def execGretSame (s : State) : Out := .next (gretAt {} (fun s i => Lanes.at s.me.tpc i) s)
def execGretPc (n : BitVec 5) (s : State) : Out :=
  .next (gretAt { v := [n.toNat], bad := decide (24 ≤ n.toNat) } (fun s i => s.me.lane n.toNat i) s)

/-- gkill retires the origin of each active handler lane, and the lane (R272). -/
def execGkill (s : State) : Out :=
  .next (issue { predicated := true, bad := !s.me.handler } s (fun s m =>
    let go := s.real m
    let w := s.me
    let s := (lanesOf go).foldl (fun s i =>
      let o := Lanes.at w.origin i
      let b := laneBit ⟨o.lane.toNat, o.lane.isLt⟩
      let k := o.warp
      if ((s.warp k).live &&& (s.warp k).detached &&& b) == 0#32 then s
      else
        let w' := s.warp k
        let s := (s.setWarp k { w'.retire b with killed := if w'.place == .running then w'.killed else w'.killed ||| b }).settleHolds k
        let g := (s.warp k).group
        ((s.settleGroup g).settleCluster g).settleReorder g) s
    { st := s.setMe (s.me.retire go), jumped := go }))

/-! ### dbg.step, segset, tlbinv (R277, R289, R350) -/

/-- dbg.step (R277). -/
def execDbgStep (n : BitVec 7) (s : State) : Out :=
  let x := s.sreg n.toNat
  .next (issue { s := [n.toNat], priv := true, bad := n == 0#7 } s (fun s m =>
    if nbits x.toNat 13 50 != 0 then { st := s, traps := trapAll (s.real m) (Trap.plain .illegal) }
    else
      let die := s.me.die
      { st := { s with warps := mapAll s.warps (fun _ w =>
          if w.die == die && w.core == nbits x.toNat 6 7 && w.slot == nbits x.toNat 0 6 && w.inSlot then
            { w with step := x.getLsbD 63 }
          else w) } }))

/-- A warp's windows with their spans (R154). -/
def Warp.spans (w : Warp) : List (Seg × Nat) :=
  [(w.segSp, 2 ^ 19), (w.segCl, 2 ^ 21), (w.segStk, 2 ^ 32), (w.segFr, 2 ^ 32)]

/-- The storage behind window j of a warp (R289). -/
def State.segStorage (s : State) (w : Warp) (j : Nat) : Nat :=
  let g := s.group w.group
  let r := (s.grid g.grid).record
  if j ≤ 1 then g.spSize else if j == 2 then r.stack.toNat else r.frame.toNat

/-- The check that segset's values fail (R289). -/
def State.segBad (s : State) (w : Warp) (j : Nat) (base : DWord) (lim : Nat) : Option Cause :=
  let span := ((w.spans.getD j (Seg.empty, 1))).2
  let others := ((List.range 4).zip w.spans).filter (fun e => e.1 != j)
  if nbits base.toNat 57 7 != 0 || base.toNat % span != 0 || span < lim
    || others.any (fun e => decide (base.toNat < e.2.1.base.toNat + e.2.2) && decide (e.2.1.base.toNat < base.toNat + span)) then
    .some .illegal
  else if s.segStorage w j < lim then .some .prot
  else .none

/-- segset (R289). -/
def execSegset (n : BitVec 7) (j : BitVec 2) (s : State) : Out :=
  let base := s.sreg n.toNat
  let lim := s.sreg (n.toNat + 1)
  .next (issue { s := [n.toNat, n.toNat + 1], priv := true, bad := n == 0#7 || n == 127#7 } s (fun s m =>
    let w := s.me
    let c := if nbits lim.toNat 32 32 != 0 then .some .illegal else s.segBad w j.toNat base lim.toNat
    s.tileGuard m fun s m =>
    match c with
    | .some c => { st := s, traps := trapAll (s.real m) (Trap.plain c) }
    | .none =>
      let g : Seg := ⟨base, lim.setWidth 32⟩
      { st := s.setMe (match j.toNat with
          | 0 => { w with segSp := g }
          | 1 => { w with segCl := g }
          | 2 => { w with segStk := g }
          | _ => { w with segFr := g }) }))

/-- Cached translations that f names are dropped on every core and die (R350). -/
def State.dropTlb (s : State) (f : TlbEntry → Bool) : State :=
  { s with
    cores := mapAll s.cores (fun _ c => { c with tlb := c.tlb.filter (fun e => !f e) })
    dies := mapAll s.dies (fun _ d => { d with tlb := d.tlb.filter (fun e => !f e) }) }

/-- Has the issuing warp stores whose check or answer is outstanding? -/
def State.storesOut (s : State) (k : Nat) : Bool :=
  !(s.warp k).late.isEmpty || s.links.any (fun e => e.2.reqs.any (fun r => match r.2.who with
    | .store w _ _ => w == k
    | _ => false))

/-- A tlbinv that drops what f names, after the earlier stores are performed (R350). -/
def tlbinv (u : Use) (bad : State → Bool) (f : State → TlbEntry → Bool) (s : State) : State :=
  issue { u with priv := true } s (fun s m =>
    s.tileGuard m fun s m =>
    if bad s then { st := s, traps := trapAll (s.real m) (Trap.plain .illegal) }
    else if s.storesOut s.cur then { st := s, stall := true }
    else { st := s.dropTlb (f s) })

def execTlbinvVa (n : BitVec 7) (s : State) : Out :=
  .next (tlbinv { s := [n.toNat, n.toNat + 1], bad := n == 0#7 || n == 127#7 }
    (fun s => nbits (s.sreg n.toNat).toNat 57 3 != 0 || 4 ≤ nbits (s.sreg n.toNat).toNat 60 4
      || nbits (s.sreg (n.toNat + 1)).toNat 0 12 != 0)
    (fun s e => e.root == s.sreg (n.toNat + 1) && e.page == nbits (s.sreg n.toNat).toNat 0 57 / e.size) s)
def execTlbinvRoot (n : BitVec 7) (s : State) : Out :=
  .next (tlbinv { s := [n.toNat], bad := n == 0#7 }
    (fun s => nbits (s.sreg n.toNat).toNat 0 12 != 0) (fun s e => e.root == s.sreg n.toNat) s)
def execTlbinvAll (s : State) : Out := .next (tlbinv {} (fun _ => false) (fun _ _ => true) s)

/-- WHIT_ADDR_WRITE (R274). -/
def execWhitAddrWrite (die : Nat) (v : DWord) (s : State) : Out := .next (s.modDie die (fun d => d.clearWhit v))

/-! ### Delivery that had to wait (R262, R265) -/

/-- LOCAL_TRAP_ENTRY: traps that wait for a reserve slot are delivered (R262). -/
def execLocalTrapEntry (k : Nat) (s : State) : Out := .next (s.deliverAll k [])
/-- SYSTEM_DELIVERY: the traps of a warp that are still to be delivered go to the system when one has that mode (R260,
R265). -/
def execSystemDelivery (k : Nat) (s : State) : Out :=
  let w := s.warp k
  let sys := w.waiting.filter (fun t => s.mode w t.2.cause == .system)
  .next (if sys.isEmpty || w.place != .running || !w.late.isEmpty then s else s.systemDeliver k sys)

/-! ### The Ringmaster (R267 to R270) -/

/-- The gather window of a bin (R259, R269). -/
def State.binWindow (s : State) (b : TrapBin) : Nat :=
  let e := ((s.grid b.grid).record.traps.getD b.cause.code.toNat 0#64).toNat
  if nbits e 16 16 == 0 then 2048 else nbits e 16 16

/-- The row of a detached lane (R267). -/
def State.fileRow (s : State) (k : Nat) (i : Lane) (t : Trap) (pub : Map Nat) : TrapRow :=
  let w := s.warp k
  let f := min (s.declared w) 28
  { regs := (List.range f).map (fun n => ((w.reg n).entry.at i, (w.reg n).fmt))
    tpc := Lanes.at w.pc i
    cause := t.word
    taddr := t.addr
    origin := ⟨k, BitVec.ofNat 2 w.die, BitVec.ofNat 7 w.core, BitVec.ofNat 6 w.slot, BitVec.ofNat 5 i.val, Lanes.at w.tid i⟩
    omasks := (List.range 16).foldl (fun (x : Word) n =>
      if n != 0 && Mask.has (w.mask n) i then x ||| BitVec.twoPow 32 n else x) 0#32
    omeet := Lanes.at w.meet i
    omeetmask := Lanes.at w.meetmask i
    done := Lanes.at w.done i
    hints := w.keptHints i
    at_ := s.cc
    age := 0
    tileGroup := if (s.group w.group).tile == .open then .some w.group else .none
    pub := pub }

/-- The bin of a die that takes a row of a key: its open bin, else a free one (R268). -/
def Die.binFor (d : Die) (world : BitVec 10) (grid : Nat) (handler : Word) (c : Cause) : Option Nat :=
  match d.bins.find? (fun (_, b) => b.world == world && b.grid == grid && b.handler == handler && b.cause == c
      && !b.forming && decide (b.rows.length < 32)) with
  | .some (n, _) => .some n
  | .none => (List.range 256).find? (fun n => !mapHas d.bins n)

/-- The bin of a die with the oldest row. -/
def Die.oldestBin (d : Die) : Option Nat :=
  (d.bins.foldl (fun (a : Option (Nat × Nat)) (n, b) =>
    match b.rows with
    | [] => a
    | r :: _ => match a with
      | .some (_, t) => if r.at_ < t then .some (n, r.at_) else a
      | .none => .some (n, r.at_)) .none).map (·.1)

/-- The first detached lane of warp k whose log entries and results have resolved is filed as a row; with no bin free, the bin
with the oldest row is to form at once (R267, R268). -/
def State.ringFile (s : State) (k : Nat) : State :=
  let s := s.landDue k
  let w := s.warp k
  match w.filing.find? (fun t => !w.pend.any (fun p => Mask.has p.lanes t.1)) with
  | .none => s
  | .some (i, t) =>
    let g := s.group w.group
    let world := (s.grid g.grid).world
    let h := s.handler w t.cause
    let (a, s) := s.touch k i
    let row := s.fileRow k i t (s.publishedAll a)
    match (s.die w.die).binFor world g.grid h t.cause with
    | .some n =>
      let s := (s.endRegion a).setWarp k { s.warp k with filing := w.filing.filter (fun x => x.1 != i) }
      s.modDie w.die (fun d => { d with bins := mapMod ⟨world, g.grid, h, t.cause, [], false⟩ d.bins n (fun b =>
        { b with rows := b.rows ++ [row] }) })
    | .none =>
      match (s.die w.die).oldestBin with
      | .some n => s.modDie w.die (fun d => { d with bins := mapAll d.bins (fun j b =>
          if j == n then { b with forming := true } else b) })
      | .none => s

/-- RINGMASTER_FILE (R267). -/
def execRingmasterFile (k : Nat) (s : State) : Out := .next (s.ringFile k)

/-- No origin warp of a bin's rows has a lane that can issue, as in a warp that waits for the chip OS no lane can (R265): the
starvation flush (R269). -/
def State.starved (s : State) (b : TrapBin) : Bool :=
  b.rows.all (fun r => (s.warp r.origin.warp).runnable == 0#32 || (s.warp r.origin.warp).place == .system)

/-- The resident cc that a bin's oldest row has waited (R269). -/
def TrapBin.age (b : TrapBin) : Nat := match b.rows with | r :: _ => r.age | [] => 0

/-- Is the work of a launch on a die stopped by a pre-emption (R285)? -/
def State.stoppedOn (s : State) (grid die : Nat) : Bool :=
  s.groups.any (fun e => e.2.grid == grid && e.2.die == die && e.2.status == .preempted)

/-- The core of a die that takes a handler warp: one with its handler slot free, with the most origins (R269). -/
def State.handlerCore (s : State) (die : Nat) (b : TrapBin) : Option Nat :=
  ((List.range 128).foldl (fun (a : Option (Nat × Nat)) c =>
    if s.warps.any (fun (_, w) => w.handler && w.die == die && w.core == c && w.place != .gone) then a
    else
      let n := (b.rows.filter (fun r => r.origin.die.toNat == die && r.origin.core.toNat == c)).length
      match a with
      | .some (_, m) => if m < n then .some (c, n) else a
      | .none => .some (c, n)) .none).map (·.1)

/-- The segment defaults of a launch on a die (R155). -/
def defaultSegs (lim stack frame : Word) : Seg × Seg × Seg × Seg :=
  (⟨0x00000FF000000000#64, lim⟩, ⟨0x00000FF000200000#64, lim⟩, ⟨0x00000FF100000000#64, stack⟩, ⟨0x00000FF200000000#64, frame⟩)

/-- The handler warp that a bin's rows form (R270); f is the number of stored registers. A lane past the last row, which has never
written a register, reads 0 in a general one (R141). -/
def handlerWarp (b : TrapBin) (r : LaunchRec) (group die core now : Nat) : Warp :=
  let rows := b.rows
  let fill := maskOf (fun i => decide (i.val < rows.length))
  let f := min r.regs 28
  let row (i : Lane) : Option TrapRow := rows[i.val]?
  let get {α : Type} (d : α) (x : TrapRow → α) : Lanes α := perLane (fun i => match row i with | .some y => x y | .none => d)
  let reg (n : Nat) : VReg :=
    let v (y : TrapRow) : Word × BitVec 4 := y.regs.getD n (0#32, 0#4)
    let first := match rows with | y :: _ => v y | [] => (0#32, 0#4)
    let fmt := if rows.all (fun y => (v y).2 == first.2) then first.2 else 0#4
    let e : Entry := if rows.all (fun y => (v y).1 == first.1) then .uniform first.1
      else .general (perLane (fun i => match row i with
        | .some y => (v y).1
        | .none => 0#32))
    ⟨e, fmt, true⟩
  let kern := r.flags.getLsbD 0
  let (sp, cl, stk, fr) := defaultSegs 0#32 0#32 (if kern then r.frame else 0#32)
  let w := { Warp.empty with
    group := group
    die := die
    core := core
    slot := 63
    handler := true
    origin := get Origin.empty (·.origin)
    born := now
    place := .running
    real := fill
    tid := perLane (fun i => BitVec.ofNat 10 i.val)
    pc := allLanesOf b.handler
    v := Vector.ofFn (fun n : Fin 32 => if n.val < f then reg n.val else VReg.zero)
    segSp := sp
    segCl := cl
    segStk := stk
    segFr := fr
    kern := kern
    cause := get 0#32 (·.cause)
    tpc := get 0#32 (·.tpc)
    fmask := fill
    taddr := get 0#64 (·.taddr)
    omasks := get 0#32 (·.omasks)
    omeet := get 0#32 (·.omeet)
    omeetmask := get 0#4 (·.omeetmask)
    done := get 0#15 (·.done) }
  (w.checkpoint).reform now

/-- A launch starts on a core: its path 0x1 sectors are dropped (R158). -/
def State.firstOn (s : State) (grid die core : Nat) : State :=
  if s.groups.any (fun e => e.2.grid == grid && e.2.die == die && e.2.core == core) then s
  else s.modCore (coreKey die core) (fun c => { c with ro := [], roBad := [] })

/-- Bin n of a die forms a handler warp of a group of its own, when a handler slot is free (R269, R270). -/
def State.formHandler (s : State) (die n : Nat) : State :=
  match mapFind (s.die die).bins n with
  | .none => s
  | .some b =>
    match s.handlerCore die b with
    | .none => s.modDie die (fun d => { d with bins := mapPut d.bins n { b with forming := true } })
    | .some core =>
      let r := s.grid b.grid
      let (k, s) := s.newUnit
      let (g, s) := s.newUnit
      let w := handlerWarp b r.record g die core s.cc
      let grp := { Group.empty with
        grid := b.grid
        no := 0xFFFFFFFF#32
        gang := 0xFFFFFFFF#32
        die := die
        core := core
        handler := true
        tol := if r.record.flags.getLsbD 2 then r.record.tol else 0#32
        warps := [k]
        s := Vector.ofFn (fun j : Fin 128 => if h : 0 < j.val ∧ j.val < 32 then r.args[j.val]'h.2 else 0#64)
        status := .running }
      let s := ((s.firstOn b.grid die core).setWarp k w).setGroup g grp
      let s := ((List.range b.rows.length).zip b.rows).foldl (fun s (i, row) =>
        let (a, s) := s.touch k (Fin.ofNat 32 i)
        s.modAgent a (fun x => x.learnAll row.pub)) s
      (s.modDie die (fun d => { d with bins := mapDel d.bins n })).moveIn k

/-- HANDLER_WARP_FORMATION: a full bin, one that is to form, or one whose origins cannot issue (R269), but not of work that a
pre-emption has stopped (R285). -/
def execHandlerWarpFormation (die n : Nat) (s : State) : Out :=
  match mapFind (s.die die).bins n with
  | .none => .next s
  | .some b => .next (if (32 ≤ b.rows.length || b.forming || s.starved b) && !s.stoppedOn b.grid die then
      s.formHandler die n else s)

/-- A bin put into a list of bins in the order of their oldest rows. -/
def oldestIn (e : Nat × TrapBin) : List (Nat × TrapBin) → List (Nat × TrapBin)
  | [] => [e]
  | f :: l =>
    let at_ (b : TrapBin) : Nat := match b.rows with | r :: _ => r.at_ | [] => 0
    if at_ e.2 ≤ at_ f.2 then e :: f :: l else f :: oldestIn e l

/-- Bin n of a die takes rows of its key from another die, oldest first, until it holds 32 (R269). -/
def State.pullRows (s : State) (die n from_ : Nat) : State :=
  match mapFind (s.die die).bins n with
  | .none => s
  | .some b =>
    let same := (s.die from_).bins.filter (fun (_, x) =>
      x.world == b.world && x.grid == b.grid && x.handler == b.handler && x.cause == b.cause)
    same.foldr (fun e l => oldestIn e l) [] |>.foldl (fun s (j, x) =>
      match mapFind (s.die die).bins n with
      | .none => s
      | .some b =>
        let take := 32 - b.rows.length
        let s := s.modDie from_ (fun d =>
          let rest := if x.rows.length ≤ take then mapDel d.bins j else mapPut d.bins j { x with rows := x.rows.drop take }
          { d with bins := rest })
        s.modDie die (fun d => { d with bins := mapPut d.bins n { b with rows := b.rows ++ x.rows.take take } })) s

/-- GATHER_WINDOW_EXPIRY (R269), but not of work that a pre-emption has stopped (R285). -/
def execGatherWindowExpiry (die n : Nat) (s : State) : Out :=
  match mapFind (s.die die).bins n with
  | .none => .next s
  | .some b =>
    if b.rows.isEmpty || b.age < s.binWindow b || s.stoppedOn b.grid die then .next s
    else
      let s := ([0, 1, 2, 3].filter (· != die)).foldl (fun s d => s.pullRows die n d) s
      let s := s.modDie die (fun d => { d with bins := mapAll d.bins (fun j x =>
        if j == n then { x with forming := true } else x) })
      .next (s.formHandler die n)

end Sys2Proof.Machine
end

