-- ==== Sys2Proof/Machine/Coroutine.lean ====
section
/-! DEFINITION. Coroutines: the frame area and its bins, suspending, waking, editing and resuming (R291 to R309), and the fresh
warp of a group (R155, R304, R319). -/

namespace Sys2Proof.Machine

/-! ### Rows and their columns (R293, R294) -/

/-- The frame area of the issuing warp: its launch's on its die (R294). -/
def State.myFrame (s : State) : Nat := frameKey s.myGroup.grid s.me.die
/-- Is bin n of the issuing warp's frame area undeclared (R294)? -/
def State.noBin (s : State) (n : BitVec 6) : Bool := !(s.bin s.myFrame n.toNat).declared

/-- An instruction that operates on bin n: an undeclared one is ILLEGAL, and it waits while a filing that reads a peer holds the
bin (R294, R295). -/
def binIssue (u : Use) (n : BitVec 6) (s : State) (body : State → Mask → Eff) : State :=
  issue { u with bad := u.bad || s.noBin n } s (fun s m =>
    if s.real m != 0#32 && (s.bin s.myFrame n.toNat).busy.isSome then { st := s, stall := true } else body s m)

/-- Where a row keeps register n: REG k for the k-th bit of LIVE (R293). -/
def Row.column (r : Row) (n : Nat) : Option Nat :=
  if r.live.getLsbD n then .some ((List.range n).filter (fun j => r.live.getLsbD j)).length else .none
/-- REG of register n. -/
def Row.reg (r : Row) (n : Nat) : Option Word := (r.column n).map (fun k => r.regs.getD k 0#32)
/-- The row with REG of register n replaced, where it stores it (R306, R307). -/
def Row.edited (r : Row) (n : Nat) (f : Word → Word) : Row :=
  match r.column n with
  | .some k => { r with regs := r.regs.set k (f (r.regs.getD k 0#32)), edit := true }
  | .none => r

/-- What a wake releases to the resume (R300): a clock with the class it covers, engine operations, and the recorded cause. -/
structure Waker where
  pub : Map Nat := []
  cls : Nat := 7
  engines : Map Nat := []
  fault : BitVec 6 := 0#6

/-- A row awake since now (R299). -/
def Row.wakeBy (r : Row) (now : Nat) (x : Waker) : Row :=
  { r with awake := true, woken := now, age := 0, pub := x.pub, pubCls := x.cls, engines := x.engines, fault := x.fault }

/-- Sleeping row r of bin n wakes (R299). -/
def State.wakeRow (s : State) (f n r : Nat) (x : Waker) : State :=
  s.modBin f n (fun b =>
    match mapFind b.rows r with
    | .some row => if row.awake then b else { b with rows := mapPut b.rows r (row.wakeBy s.cc x) }
    | .none => b)

/-- The agent of a row's thread (R200, R304). -/
def Row.agent (r : Row) : Nat := r.group * 1024 + r.tid.toNat

/-- The wake of a kind-1 or kind-3 row whose condition is met (R299, R300). -/
def State.condition (s : State) (r : Row) : Option Waker :=
  let g := s.group r.group
  if r.kind == 1#2 then
    let t := r.arg.toNat % 64
    if mapGet 0 g.tags t == 0 then
      .some { engines := (mapGet [] g.tagDone t).foldl (fun m e => mapPut m e (s.counted_ e)) []
              fault := if g.tagfault.getLsbD t then g.tagcause else 0#6 }
    else .none
  else if r.kind == 3#2 then
    let (og, o) := r.obj
    if (s.group og).spLive && s.phase og o != r.arg.toNat % 2 ^ 25 then
      let (rels, es) := s.objSeen og o r.arg.toNat
      .some { pub := s.acquired r.agent (objScope r.group og) rels, engines := es, fault := BitVec.ofNat 6 (s.objCause og o) }
    else .none
  else .none

/-- Row r of bin n wakes if its tag or barrier condition is met. -/
def State.pollRow (s : State) (f n r : Nat) (row : Row) : State :=
  match s.condition row with
  | .some x => s.wakeRow f n r x
  | .none => s

/-- Every sleeping kind-1 and kind-3 row looks at its condition (R299), but of a bin that a filing holds (R295). -/
def State.pollRows (s : State) : State :=
  s.frames.foldl (fun s (f, x) =>
    x.bins.foldl (fun s (n, b) =>
      if b.busy.isSome then s else b.sleeping.foldl (fun s (r, row) => s.pollRow f n r row) s) s) s

/-- Awake rows of resident groups age by one cc (R303, R309). -/
def State.ageRows (s : State) : State :=
  let resident (g : Nat) : Bool := (s.group g).status == .running || (s.group g).status == .exiting
  { s with frames := mapAll s.frames (fun _ x => { x with
      bins := mapAll x.bins (fun _ b => { b with
        rows := mapAll b.rows (fun _ r => if r.awake && resident r.group then { r with age := r.age + 1 } else r) }) }) }

/-- The occupancy word of a bin: bytes 644 to 647 of its descriptor (R292). -/
def Bin.occupancy (b : Bin) : Word := BitVec.ofNat 32 (b.chain.length * 2 ^ 24 + b.awake * 4096 + b.rows.length)

/-! ### Suspending (R298) -/

/-- A wake condition as its instruction gives it for a lane: KIND, ARG, WADDR and the object of kind 3. -/
structure Sleep where
  kind : BitVec 2
  arg : Word
  waddr : DWord
  obj : Nat × Nat

/-- What filing a lane comes to before a row is given: a cause, or the condition, with the word of a kind-2 read when it has
one here and the spots it was read at, or a peer that must answer. -/
inductive Filing where
  | fails (t : Trap)
  | file (x : Sleep) (word : Option Word) (spots : List Spot)
  | remote (x : Sleep) (dev pa loc cls : Nat)

/-- The row of lane i of warp k for condition x (R293, R298). -/
def State.newRow (s : State) (k : Nat) (i : Lane) (rpc live : Word) (x : Sleep) : Row :=
  let w := s.warp k
  let ns := (List.range 32).filter (fun n => live.getLsbD n)
  { rpc := rpc, live := live, edit := false, kind := x.kind, tid := Lanes.at w.tid i, arg := x.arg
    regs := ns.map (fun n => (w.reg n).entry.at i)
    fmts := ns.map (fun n => (w.reg n).fmt)
    waddr := x.waddr, group := w.group, fault := 0#6, awake := false, woken := 0, age := 0, obj := x.obj
    pub := [], pubCls := 7, engines := [] }

/-- The row of lane i of warp k goes to bin n as row r, a release of its thread (R178, R298); where its condition has a word at
loc, which is v, it is awake at once where that differs, and acquires the write of the word (R299). -/
def State.fileRowAt (s : State) (f n r k : Nat) (i : Lane) (row : Row) (word : Option (Word × List (Nat × Nat × Nat))) : State :=
  let (a, s) := s.touch k i
  let s := (s.endRegion a).putRow f n r row
  match word with
  | .some (v, l) =>
    if v == row.arg then s
    else l.foldl (fun s p => s.acquireAt a p.1 p.2.1 p.2.2 5#3) (s.wakeRow f n r {})
  | .none => s.pollRow f n r row

/-- Lane i of the issuing warp is filed in bin n, if a row can be given (R298, R299). Where its word lies at a peer, the filing holds
the bin, and the lane waits, until the peer has answered (R295). -/
def State.fileLane (s : State) (f n : Nat) (i : Lane) (live : Word) (y : Filing) : State × Option Trap :=
  match y with
  | .fails t => (s, .some t)
  | .file x word spots =>
    match s.giveRow f n with
    | .none => (s, .some (Trap.plain .frameovf))
    | .some (r, s) =>
      (s.fileRowAt f n r s.cur i (s.newRow s.cur i (s.pc + 4#32) live x)
        (word.map (fun v => (v, spots.map (fun p => (p.loc, p.size, p.cls))))), .none)
  | .remote x dev pa loc cls =>
    match s.request dev (s.ctx s.me).world (.read pa 4) (.row f n) with
    | .none => (s, .some (Trap.atAddr .link x.waddr))
    | .some t =>
      let t := t.modBin f n (fun b => { b with busy := .some ⟨s.cur, i, s.newRow s.cur i (s.pc + 4#32) live x, loc, cls⟩ })
      (t.enterWait s.cur i s.pc s.hints .susp, .none)

/-- Lanes m leave the warp: they retire, and their meeting registers are 0 (R298). -/
def Warp.leave (w : Warp) (m : Mask) : Warp :=
  { w.retire m with
    meet := Lanes.where_ w.meet m (fun _ => 0#32)
    meetmask := Lanes.where_ w.meetmask m (fun _ => 0#4) }

/-- The lanes m of the issuing warp stay at the instruction, which they execute again with the packet's hints. -/
def State.stayAt (s : State) (m : Mask) : State :=
  if m == 0#32 then s
  else { s.modWarp s.cur (fun w => { w with kept := Lanes.where_ w.kept m (fun _ => .some (s.pc, s.hints)) }) with
    undone := s.undone ||| m }

/-- The lanes below the lowest of m: the others of an instruction come after it (R295). -/
def below (m : Mask) : Mask := match lowestLane? m with | .some j => maskOf (fun i => decide (i.val < j.val)) | .none => ~~~0#32

/-- A susp of condition x: the checks of its mask, the wait for older results, then lane after lane a row is filed and the
lane leaves the warp (R298). A lane whose kind-2 word needs service or a peer's answer, and those after it, stay at the instruction
meanwhile. -/
def suspend (u : Use) (l : BitVec 5) (n : BitVec 6) (access : State → Option Access) (x : State → Lane → State × Filing)
    (s : State) : State :=
  let live : Word := (s.sreg l.toNat).setWidth 32
  binIssue { u with s := l.toNat :: u.s, predicated := true, bad := u.bad || 28 < popCount live } n s (fun s m =>
    if live.toNat / 2 ^ s.declared s.me != 0 then { st := s, traps := trapAll (s.real m) (Trap.plain .regbound) }
    else s.tileGuard m fun s m =>
      if !s.me.pend.all s.me.frozen then { st := s, stall := true }
      else
        let (s, wait) := match access s with
          | .some a => s.awaitService a m
          | .none => (s, 0#32)
        let f := s.myFrame
        let e := (lanesOf (s.real m &&& below wait)).foldl (fun (e : Eff) i =>
          if (e.st.bin f n.toNat).busy.isSome then e
          else
            let (s, y) := x e.st i
            match s.fileLane f n.toNat i live y with
            | (s, .some t) => { e with st := s, traps := e.traps ++ [(i, t)] }
            | (s, .none) =>
              if (s.bin f n.toNat).busy.isSome then { e with st := s } else { e with st := s, jumped := e.jumped ||| laneBit i })
          { st := s }
        let stay := s.real m &&& ~~~e.jumped &&& ~~~trapLanes e.traps
        { st := (e.st.setMe (e.st.me.leave e.jumped)).stayAt stay, traps := e.traps, jumped := e.jumped ||| stay })

/-- The peer has answered the filing that holds bin n, with the word or why not: the lane that waits for it is filed and leaves, or
traps; one that no longer waits executes the susp again (R295, R298, R299). -/
def State.fileAnswer (s : State) (f n : Nat) (word : Word ⊕ Cause) : State :=
  match (s.bin f n).busy with
  | .none => s
  | .some x =>
    let k := x.warp
    let i := x.lane
    let w := s.warp k
    let s := (s.modBin f n (fun b => { b with busy := .none })).modWarp k (fun w =>
      let w := w.endWait i
      { w with suspended := if Lanes.at w.suspended i == Wait.susp then Lanes.put w.suspended i .none else w.suspended })
    if Lanes.at w.wait i != Wait.susp || w.place == .gone then s
    else
      let trap (t : Trap) : State :=
        if w.place == .running then s.takeTraps k (s.warp k).keptHints [(i, t)] else s.modWarp k (fun w => w.reform s.cc)
      match word with
      | .inr c => trap (Trap.atAddr c x.row.waddr)
      | .inl v =>
        match s.giveRow f n with
        | .none => trap (Trap.plain .frameovf)
        | .some (r, t) =>
          let t := t.fileRowAt f n r k i x.row (.some (v, [(x.loc, 4, x.cls)]))
          let t := t.modWarp k (fun w => { w.leave (laneBit i) with
            killed := if w.place == .running then w.killed else w.killed ||| laneBit i })
          (t.settleHolds k).modWarp k (fun w => w.reform t.cc)

/-- The address of an X operand in each lane: an s-register, or a v pair (R298, R302). -/
def State.xAddr (s : State) (a : Src) : Lanes DWord :=
  if a.perm == Perm.scalar then allLanesOf (s.sreg a.reg.toNat)
  else perLane (fun i => s.me.lane (a.reg.toNat + 1) i ++ s.me.lane a.reg.toNat i)
/-- The value of an X operand of susp in each lane (R298). -/
def State.xValue (s : State) (a : Src) : Lanes Word :=
  if a.perm == Perm.scalar then allLanesOf ((s.sreg (a.reg.toNat + 1)).setWidth 32)
  else perLane (fun i => s.me.lane (a.reg.toNat + 2) i)
/-- Is a field no X operand: code 111, or code 000 with an even register (R298)? -/
def badX (a : Src) : Bool := !(a.perm == Perm.scalar || (a.perm == Perm.direct && a.reg.toNat % 2 == 0))
/-- The use of an X operand of n registers. -/
def xUse (a : Src) (n : Nat) (scalars : Nat) : Use :=
  let r := a.reg.toNat
  if a.perm == Perm.scalar then { s := (List.range scalars).map (r + ·), bad := badX a }
  else { v := (List.range n).map (r + ·), bad := badX a }

/-- susp (R298). -/
def execSusp (l : BitVec 5) (n : BitVec 6) (s : State) : Out :=
  .next (suspend {} l n (fun _ => .none) (fun s _ => (s, .file ⟨0#2, 0#32, 0#64, (0, 0)⟩ (.some 0#32) [])) s)

/-- susp.tag (R298). -/
def execSuspTag (l : BitVec 5) (a : Src) (n : BitVec 6) (s : State) : Out :=
  .next (suspend { v := srcV a, s := srcS a, k := Perm.param a.perm } l n (fun _ => .none)
    (fun s i => (s, .file ⟨1#2, (s.srcA a).at i &&& 63#32, 0#64, (0, 0)⟩ .none [])) s)

/-- The load of a kind-2 condition: an acquire, and so no ordinary access (R298, R299). -/
def State.xLoad (s : State) (a : Src) : Access :=
  ⟨.load, 4, false, false, s.xAddr a, allLanesOf 0#128, 5#3, 0#3, 0#3, false⟩

/-- susp.addr (R298): the read at filing, of an endpoint a free value (log 3). -/
def execSuspAddr (l : BitVec 5) (a : Src) (n : BitVec 6) (s : State) : Out :=
  .next (suspend (xUse a 3 2) l n (fun s => .some (s.xLoad a)) (fun s i =>
    let ad := Lanes.at (s.xAddr a) i
    let x : Sleep := ⟨2#2, Lanes.at (s.xValue a) i, ad, (0, 0)⟩
    let acc := s.xLoad a
    match s.judge s.cur (s.instrNo s.cur) s.pc acc i with
    | .go [.peer dev pa m c] => (s, .remote x dev pa (Spot.peer dev pa m c).loc (Spot.peer dev pa m c).cls)
    | .go p =>
      if s.needsAnswer p then
        let (v, s) := s.free
        (s, .file x (.some (v.setWidth 32)) p)
      else (s.noteUr p, .file x (.some ((s.readSpots s.cur i acc p).setWidth 32)) p)
    | .fails .watch => (s, .fails { Trap.atAddr .watch ad with mark := true })
    | .fails c => (s, .fails (Trap.atAddr c ad))
    | _ => (s, .fails (Trap.atAddr .xlat ad))) s)

/-- susp.bar (R298). -/
def execSuspBar (l : BitVec 5) (a : Src) (n : BitVec 6) (s : State) : Out :=
  .next (suspend (xUse a 3 2) l n (fun _ => .none) (fun s i =>
    let ad := Lanes.at (s.xAddr a) i
    match s.objAt s.me ad with
    | .inl c => (s, .fails (Trap.atAddr c ad))
    | .inr o => (s, .file ⟨3#2, Lanes.at (s.xValue a) i &&& 0x1FFFFFF#32, ad, o⟩ .none [])) s)

/-! ### Waking (R301, R302) -/

/-- What the active real threads have released (R301), and the state after. -/
def State.releaseLanes (s : State) (m : Mask) : Map Nat × State :=
  (lanesOf (s.real m)).foldl (fun (acc : Map Nat × State) i =>
    let (a, s) := acc.2.touch s.cur i
    (joinClock acc.1 (s.publishedAll a), s.endRegion a)) ([], s)

/-- wake (R301). -/
def execWake (d : BitVec 5) (a : Src) (n : BitVec 6) (s : State) : Out :=
  .next (binIssue { v := d.toNat :: srcV a, s := srcS a, k := Perm.param a.perm } n s (fun s m =>
    s.tileGuard m fun s m =>
    match s.first m with
    | .none => { st := s }
    | .some i0 =>
      let x := ((s.srcA a).at i0).toNat
      let f := s.myFrame
      let rows := ((s.bin f n.toNat).sleeping.filter (fun r => r.2.kind == 0#2)).take (min x 2048)
      let (pub, s) := s.releaseLanes m
      let s := rows.foldl (fun s r => s.wakeRow f n.toNat r.1 { pub := pub }) s
      { st := s.writeV d.toNat m (s.fullOr m (BitVec.ofNat 32 rows.length)) 0#4 }))

/-- A column register at or above the declared count traps in every active real lane (R301, R306, R307). -/
def State.columnGuard (s : State) (m : Mask) (n : Nat) (e : Eff) : Eff :=
  if s.declared s.me ≤ n then { st := s, traps := trapAll (s.real m) (Trap.plain .regbound) } else e

/-- The comparison of wake.pred (R301). -/
def wakeCmp (c : BitVec 2) (r x : Word) : Bool :=
  match c.toNat with
  | 0 => r == x
  | 1 => r != x
  | 2 => r.slt x
  | _ => r.ult x

/-- wake.pred (R301). -/
def execWakePred (d : BitVec 5) (a : Src) (c : BitVec 2) (n : BitVec 6) (s : State) : Out :=
  .next (binIssue { v := srcV a, s := srcS a, k := Perm.param a.perm } n s (fun s m =>
    s.columnGuard m d.toNat <| s.tileGuard m fun s m =>
    match s.first m with
    | .none => { st := s }
    | .some i0 =>
      let x := (s.srcA a).at i0
      let f := s.myFrame
      let rows := (s.bin f n.toNat).sleeping.filter (fun r =>
        match r.2.reg d.toNat with
        | .some v => wakeCmp c v x
        | .none => false)
      let (pub, s) := s.releaseLanes m
      { st := rows.foldl (fun s r => s.wakeRow f n.toNat r.1 { pub := pub }) s }))

/-- What the store of agent a that wakes a row releases to its thread: nothing where it is no release itself (R178, R300). -/
def State.storeWaker (s : State) (rel : Bool) (a : Nat) (row : Row) (l : List Spot) : Waker :=
  match l with
  | [] => {}
  | p :: _ =>
    if rel then
      { pub := s.acquired row.agent 5#3 ((s.relsAt p.loc p.size).filter (fun r => r.agent == a)), cls := p.cls }
    else {}

/-- wake.addr (R302): paths 0x1 and 0x3 raise PROT; a lane that stores wakes the rows that wait on its address. -/
def execWakeAddr (d : BitVec 5) (a : Src) (r : BitVec 1) (n : BitVec 6) (s : State) : Out :=
  let u := xUse a 2 1
  .next (binIssue { u with v := d.toNat :: u.v, predicated := true } n s (fun s m =>
    s.tileGuard m fun s m =>
    if s.me.logFull then { st := s, stall := true }
    else
      let k := s.cur
      let x : Access := ⟨.store, 4, false, false, s.xAddr a, s.storeData d.toNat 1, 0#3, if r == 1#1 then 5#3 else 0#3, 0#3, false⟩
      let m := s.real m
      let io := m &&& maskOf (fun i => match s.aim s.me i x with | .ranges 3 _ => true | _ => false)
      let (s, wait) := s.awaitService x (m &&& ~~~io)
      let go := m &&& ~~~io &&& below wait
      let before := s.me.late.length
      let spots := perLane (fun i => match s.reach k x i with | .spots l => l | _ => [])
      let id := s.unit
      let t := { s with unit := id + 1 }.accessAll k id (s.instrNo k) s.pc x go
      let s := t.st.unitOr id
      let stay := m &&& ~~~io &&& ~~~t.got &&& ~~~trapLanes t.traps
      let failed := (s.me.late.drop before).foldl (fun z e => z ||| laneBit e.lane) 0#32
      let f := s.myFrame
      let s := (lanesOf (t.got &&& ~~~failed)).foldl (fun s i =>
        ((s.bin f n.toNat).sleeping.filter (fun q => q.2.kind == 2#2 && q.2.waddr == Lanes.at x.addr i)).foldl (fun s q =>
          s.wakeRow f n.toNat q.1 (s.storeWaker (r == 1#1) (threadAgent s.me i) q.2 (Lanes.at spots i))) s) s
      { st := s.stayAt stay, jumped := stay
        traps := (lanesOf io).map (fun i => (i, Trap.atAddr .prot (Lanes.at x.addr i))) ++ t.traps }))

/-! ### Editing sleeping frames (R306 to R308) -/

/-- fld (R306). -/
def execFld (d : BitVec 5) (a : Src) (n : BitVec 6) (s : State) : Out :=
  .next (binIssue { v := d.toNat :: srcV a, s := srcS a, k := Perm.param a.perm, predicated := true } n s
    (fun s m =>
      match s.first m with
      | .none => { st := s }
      | .some i0 =>
        let x := ((s.srcA a).at i0).toNat
        let p := x % 64
        let c := x / 256 % 32
        let b := s.bin s.myFrame n.toNat
        s.columnGuard m c
          { st := s.writeV d.toNat m (.general (perLane (fun j =>
              match mapFind b.rows (32 * p + j.val) with
              | .some row => (row.reg c).getD 0#32
              | .none => 0#32))) 0#4 }))

/-- fst (R306). -/
def execFst (d : BitVec 5) (a : Src) (n : BitVec 6) (s : State) : Out :=
  .next (binIssue { v := d.toNat :: srcV a, s := srcS a, k := Perm.param a.perm, predicated := true } n s
    (fun s m =>
      match s.first m with
      | .none => { st := s }
      | .some i0 =>
        let x := ((s.srcA a).at i0).toNat
        let p := x % 64
        let c := x / 256 % 32
        let w := s.me
        s.columnGuard m c
          { st := s.modBin s.myFrame n.toNat (fun b => { b with
              rows := (lanesOf (s.real m)).foldl (fun rows j =>
                match mapFind rows (32 * p + j.val) with
                | .some row => mapPut rows (32 * p + j.val) (row.edited c (fun _ => w.lane d.toNat j))
                | .none => rows) b.rows }) }))

/-- The operation of fxform (R307). -/
def fxOp (o : BitVec 2) (x r : Word) : Word :=
  match o.toNat with
  | 0 => r + x
  | 1 => r &&& x
  | 2 => r ||| x
  | _ => x

/-- fxform (R307). -/
def execFxform (d : BitVec 5) (a : Src) (o : BitVec 2) (n : BitVec 6) (s : State) : Out :=
  .next (binIssue { v := srcV a, s := srcS a, k := Perm.param a.perm } n s (fun s m =>
    s.columnGuard m d.toNat <|
    match s.first m with
    | .none => { st := s }
    | .some i0 =>
      let x := (s.srcA a).at i0
      { st := s.modBin s.myFrame n.toNat (fun b => { b with rows := mapAll b.rows (fun _ row => row.edited d.toNat (fxOp o x)) }) }))

/-- fcount (R308). -/
def execFcount (d : BitVec 5) (n : BitVec 6) (s : State) : Out :=
  .next (binIssue { v := [d.toNat] } n s (fun s m =>
    match s.first m with
    | .none => { st := s }
    | .some _ => { st := s.writeV d.toNat m (s.fullOr m (s.bin s.myFrame n.toNat).occupancy) 0#4 }))

/-- binit (R308). -/
def execBinit (d : BitVec 5) (a : Src) (n : BitVec 6) (s : State) : Out :=
  .next (binIssue { v := d.toNat :: srcV a, s := srcS a, k := Perm.param a.perm } n s (fun s m =>
    match s.first m with
    | .none => { st := s }
    | .some i0 =>
      let x := ((s.srcA a).at i0).toNat
      let f := s.myFrame
      let ok := (s.bin f n.toNat).rows.isEmpty
      let s := if ok then s.modBin f n.toNat (fun b => { b with
          window := max 64 (x % 65536), cap := min 64 (max 1 (x / 65536 % 128)) }) else s
      { st := s.writeV d.toNat m (s.fullOr m (if ok then 1#32 else 0#32)) 0#4 }))

/-! ### Resuming (R303 to R305) -/

/-- resume (R305). -/
def execResume (n : BitVec 6) (s : State) : Out :=
  .next (binIssue {} n s (fun s m =>
    match s.first m with
    | .none => { st := s }
    | .some _ => { st := s.modBin s.myFrame n.toNat (fun b =>
        match b.oldest with
        | .some (_, r) => { b with forced := .some r.group }
        | .none => b) }))

/-- The resume of bin n is triggered when WINDOW cc in which its group was resident have passed since its oldest awake row
woke (R303). -/
def execCarouselWindowExpiry (die grid n : Nat) (s : State) : Out :=
  .next (s.modBin (frameKey grid die) n (fun b =>
    match b.oldest with
    | .some (_, r) => if b.window ≤ r.age then { b with expired := .some r.group } else b
    | .none => b))

/-- A warp of group g at position no in a slot, with the launch's windows and the group's scratchpad (R155, R304, R319): no
lane is real yet. -/
def State.freshWarp (s : State) (g : Nat) (no slot : Nat) : Warp :=
  let x := s.group g
  let r := (s.grid x.grid).record
  let (sp, cl, stk, fr) := defaultSegs r.scratch r.stack r.frame
  { Warp.empty with
    group := g
    die := x.die
    core := x.core
    slot := slot
    no := BitVec.ofNat 5 no
    born := s.cc
    formed := s.cc
    place := .running
    tid := perLane (fun i => BitVec.ofNat 10 (32 * no + i.val))
    segSp := sp
    segCl := cl
    segStk := stk
    segFr := fr
    stkback := BitVec.ofNat 64 (r.stkbase.toNat + 32 * r.stack.toNat * (x.no.toNat * r.groupw + no))
    kern := r.flags.getLsbD 0
    since := s.cc }

/-- Register n of a resumed warp (R304): lanes past the last row have never written it, and read 0 where it is general (R141). -/
def resumedReg (rows : List Row) (n : Nat) : VReg :=
  if rows.all (fun r => !r.live.getLsbD n) then VReg.zero
  else
    let val (r : Row) : Word := (r.reg n).getD 0#32
    let first := match rows with | r :: _ => val r | [] => 0#32
    let fmts := rows.filterMap (fun r => (r.column n).map (fun k => r.fmts.getD k 0#4))
    let fmt := if fmts.all (· == fmts.headD 0#4) then fmts.headD 0#4 else 0#4
    let e : Entry := if rows.all (fun r => val r == first) then .uniform first
      else .general (perLane (fun i => match rows[i.val]? with
        | .some r => val r
        | .none => 0#32))
    ⟨e, fmt, true⟩

/-- The state after the resume of rows of group g into a fresh warp (R304): its threads acquire what their wakes released, and
recorded causes are raised before anything issues (R300). -/
def State.formRows (s : State) (g no slot : Nat) (rows : List Row) : State :=
  let (k, s) := s.newUnit
  let fill := maskOf (fun i => decide (i.val < rows.length))
  let base := s.freshWarp g no slot
  let w := { base with
    real := fill
    tid := perLane (fun i => match rows[i.val]? with | .some r => r.tid | .none => Lanes.at base.tid i)
    pc := perLane (fun i => match rows[i.val]? with | .some r => r.rpc | .none => 0#32)
    v := Vector.ofFn (fun n : Fin 32 => resumedReg rows n.val) }
  let s := s.setWarp k ((w.checkpoint).reform s.cc)
  let s := s.modGroup g (fun x => { x with
    warps := x.warps ++ [k], status := if x.status == .exiting then .running else x.status })
  let s := s.moveIn k
  let (s, ts) := ((List.range rows.length).zip rows).foldl (fun (acc : State × List (Lane × Trap)) (j, r) =>
    let i : Lane := Fin.ofNat 32 j
    let (a, s) := acc.1.touch k i
    let s := s.modAgent a (fun x => if r.pubCls < 6 then x.learn r.pubCls r.pub else x.learnAll r.pub)
    let (s, race) := s.observeAll k i r.rpc r.engines
    match race with
    | .some t => (s, acc.2 ++ [(i, t)])
    | .none =>
      if r.fault == 0#6 then (s, acc.2)
      else (s, acc.2 ++ [(i, if r.kind == 3#2 then Trap.atAddr (causeOf r.fault.toNat) r.waddr
        else Trap.plain (causeOf r.fault.toNat))])) (s, [])
  (s.takeTraps k (fun _ => Hints.empty) ts).modWarp k (fun w => w.reform s.cc)

/-- Can a warp of group g be formed now: the group resident, with fewer than 32 warps, and a free slot on its core (R303)? Then the
slot and the $warp number. -/
def State.roomFor (s : State) (g : Nat) : Option (Nat × Nat) :=
  let x := s.group g
  let live := (x.warps.filter (fun k => (s.warp k).place != .gone)).map (fun k => (s.warp k).no.toNat)
  if !(x.status == .running || x.status == .exiting) || 32 ≤ live.length then .none
  else
    match s.freeSlot x.die x.core, (List.range 32).find? (fun j => !live.contains j) with
    | .some slot, .some no => .some (slot, no)
    | _, _ => .none

/-- The first resume of bin n whose warp can be formed forms it (R303). -/
def State.formTaken (s : State) (f n : Nat) : State :=
  let l := (s.bin f n).taken
  match ((List.range l.length).zip l).find? (fun t => (s.roomFor t.2.1).isSome) with
  | .none => s
  | .some (j, g, rows) =>
    match s.roomFor g with
    | .none => s
    | .some (slot, no) => (s.modBin f n (fun b => { b with taken := b.taken.eraseIdx j })).formRows g no slot (rows.map (·.2))

/-- Bin n of a frame area takes the rows of a resume that is due, and forms a warp of rows taken where one can be (R303). -/
def State.resumeBin (s : State) (f n : Nat) : State := (s.takeRows f n).formTaken f n

/-- CAROUSEL_RESUME (R303). -/
def execCarouselResume (die grid n : Nat) (s : State) : Out := .next (s.resumeBin (frameKey grid die) n)

end Sys2Proof.Machine
end

