-- ==== Sys2Proof/Machine/Matrix.lean ====
section
/-! DEFINITION. The control core and the matrix engine (R220 to R255): control-core instructions, the Turnstile, tile
descriptors, passes and accumulator operations. -/

namespace Sys2Proof.Machine

/-! ### The control core (R220 to R225) -/

/-- k-register n: k0 reads zero (R221). -/
def Cluster.kreg (c : Cluster) (n : BitVec 5) : DWord := if n == 0#5 then 0#64 else c.k[n.toNat]'n.isLt
/-- The cluster with k-register n written: a write to k0 is ignored (R226). -/
def Cluster.setK (c : Cluster) (n : BitVec 5) (x : DWord) : Cluster :=
  if n == 0#5 then c else { c with k := c.k.set n.toNat x n.isLt }
/-- Descriptor n. -/
def Cluster.desc (c : Cluster) (n : BitVec 5) : Desc := c.d[n.toNat]'n.isLt
/-- The cluster with descriptor n written. -/
def Cluster.setDesc (c : Cluster) (n : BitVec 5) (x : Desc) : Cluster := { c with d := c.d.set n.toNat x n.isLt }
/-- The cluster past its instruction. -/
def Cluster.next (c : Cluster) : Cluster := { c with pc := c.pc + 4#32 }

/-- Is a hint of the packet one that the control core refuses (R222)? -/
def controlMisuse (h : Hints) (imm : Bool) : Bool :=
  h.bad || h.k.isSome || h.lu.isSome || h.pred.isSome || h.off.isSome || h.cache.isSome || (h.imm.isSome && !imm)
    || (match h.sched with | .some (_, la) => la != 0#4 | .none => false)

/-- One control-core instruction: on a vector core it is ILLEGAL (R57); a refused hint or a field out of its limits is ILLEGAL
(R43, R222); otherwise the body acts for its cluster. -/
def control (imm bad : Bool) (s : State) (body : Nat → Cluster → State) : State :=
  match s.issuer with
  | .vector => issue { bad := true } s (fun s _ => { st := s })
  | .control cl =>
    if controlMisuse (s.cluster cl).hints imm || bad then s.controlFault cl .illegal 0#64 else body cl (s.cluster cl)

/-- The instruction must wait: it executes again at the stream's next turn. -/
def State.controlWait (s : State) : State := { s with stalled := true }

/-- The stream steps on with its cluster changed by f. -/
def State.controlNext (s : State) (cl : Nat) (f : Cluster → Cluster) : State := s.modCluster cl (fun c => (f c).next)

/-- The gang that a cluster's stream serves, as a group of it that holds nothing. -/
def Cluster.gangGroup (c : Cluster) : Group :=
  match c.gang with
  | .some (g, n) => { Group.empty with grid := g, gang := n }
  | .none => Group.empty

/-- The group whose allocation is gang member j's, while it is live (R225). -/
def State.gangMember (s : State) (c : Cluster) (j : Nat) : Option Nat :=
  if j < s.gangSize c.gangGroup then s.member c.gangGroup j else .none

/-- The launch record of a cluster's stream. -/
def State.controlRecord (s : State) (c : Cluster) : LaunchRec := (s.grid c.gangGroup.grid).record
/-- The context that a cluster's stream translates in (R221). -/
def State.controlCtx (s : State) (cl : Nat) : Ctx :=
  let g := (s.cluster cl).gangGroup.grid
  ⟨cl / 32, 4 * (cl % 32), (s.grid g).record.ptroot, (s.grid g).world, (s.grid g).record.flags.getLsbD 0⟩

/-! ### Scalar instructions (R226 to R229) -/

/-- K[kd] ← f x y, with y = K[kb] + imm (R226). -/
def kop (f : DWord → DWord → DWord) (d a b : BitVec 5) (i : BitVec 6) (s : State) : State :=
  control false false s (fun cl c =>
    s.controlNext cl (fun k => k.setK d (f (c.kreg a) (c.kreg b + i.signExtend 64))))

def execKadd (d a b : BitVec 5) (i : BitVec 6) (s : State) : Out := .next (kop (· + ·) d a b i s)
def execKsub (d a b : BitVec 5) (i : BitVec 6) (s : State) : Out := .next (kop (· - ·) d a b i s)
def execKmul (d a b : BitVec 5) (i : BitVec 6) (s : State) : Out := .next (kop (· * ·) d a b i s)
def execKand (d a b : BitVec 5) (i : BitVec 6) (s : State) : Out := .next (kop (· &&& ·) d a b i s)
def execKor (d a b : BitVec 5) (i : BitVec 6) (s : State) : Out := .next (kop (· ||| ·) d a b i s)
def execKxor (d a b : BitVec 5) (i : BitVec 6) (s : State) : Out := .next (kop (· ^^^ ·) d a b i s)
def execKshl (d a b : BitVec 5) (i : BitVec 6) (s : State) : Out := .next (kop (fun x y => x <<< (y.toNat % 64)) d a b i s)
def execKshr (d a b : BitVec 5) (i : BitVec 6) (s : State) : Out := .next (kop (fun x y => x >>> (y.toNat % 64)) d a b i s)
def execKmov (d a : BitVec 5) (s : State) : Out := .next (kop (fun x _ => x) d a 0#5 0#6 s)

/-- A 16-bit immediate of the control core, or hint.imm's 32-bit value (R46). -/
def Hints.immediate16 (h : Hints) (i : BitVec 16) : Word :=
  match h.imm with
  | .some u => u ++ (i.setWidth 10)
  | .none => i.signExtend 32

/-- kmovi (R227). -/
def execKmovi (d : BitVec 5) (i : BitVec 16) (s : State) : Out :=
  .next (control true (match s.issuer with
      | .control cl => (s.cluster cl).hints.imm.isSome && !immFits i
      | .vector => false) s (fun cl c =>
    s.controlNext cl (fun k => k.setK d ((c.hints.immediate16 i).signExtend 64))))

/-- The comparison of kcmp (R228). -/
def kCmp (c : BitVec 6) (x y : DWord) : Bool :=
  match c.toNat with
  | 0 => x == y
  | 1 => x != y
  | 2 => x.slt y
  | 3 => x.ult y
  | 4 => x.sle y
  | _ => x.ule y

/-- kcmp (R228). -/
def execKcmp (d a b : BitVec 5) (c : BitVec 6) (s : State) : Out :=
  .next (control false (decide (5 < c.toNat)) s (fun cl k =>
    s.controlNext cl (fun x => x.setK d (if kCmp c (k.kreg a) (k.kreg b) then 1#64 else 0#64))))

/-- kbra (R229): a taken branch outside the control section raises SEGV. -/
def execKbra (d : BitVec 5) (i : BitVec 16) (s : State) : Out :=
  .next (control true (match s.issuer with
      | .control cl => (s.cluster cl).hints.imm.isSome && !immFits i
      | .vector => false) s (fun cl c =>
    if d == 0#5 || c.kreg d != 0#64 then
      let t := c.pc + 4#32 * c.hints.immediate16 i
      let r := s.controlRecord c
      if t.toNat < r.ctrlpc.toNat && r.ctrlpc != 0xFFFFFFFF#32 || r.codelen.toNat ≤ t.toNat then s.controlFault cl .segv 0#64
      else s.modCluster cl (fun k => { k with pc := t })
    else s.controlNext cl id))

/-! ### Tile descriptors (R238 to R241) -/

def Desc.offset (d : Desc) : Nat := nbits d.w0.toNat 0 19
def Desc.member (d : Desc) : Nat := nbits d.w0.toNat 19 2
def Desc.rows (d : Desc) : Nat := nbits d.w0.toNat 26 9 + 1
def Desc.cols (d : Desc) : Nat := nbits d.w0.toNat 35 9 + 1
def Desc.pitch (d : Desc) : Nat := 16 * nbits d.w0.toNat 44 12
def Desc.fmt (d : Desc) : Nat := nbits d.w0.toNat 56 4
def Desc.scaled (d : Desc) : Bool := d.w0.getLsbD 60
def Desc.ftzn (d : Desc) : Bool := d.w0.getLsbD 61
def Desc.soffset (d : Desc) : Nat := nbits d.w1.toNat 0 19
def Desc.smember (d : Desc) : Nat := nbits d.w1.toNat 19 2

/-- Is a format code one that a descriptor may hold (R238)? -/
def descFmt (f : Nat) : Bool := (1 ≤ f && f ≤ 8) || f == 11 || f == 12

/-- Bits lo to lo + n - 1 of a word replaced. -/
def putBits (x : DWord) (lo n v : Nat) : DWord :=
  BitVec.ofNat 64 (x.toNat - nbits x.toNat lo n * 2 ^ lo + v % 2 ^ n * 2 ^ lo)

/-- What dset writes: none where the value is outside the field's limits (R239). -/
def Desc.set (d : Desc) (field : Nat) (x : DWord) : Option Desc :=
  let v := x.toNat
  match field with
  | 0 => if v < 2 ^ 21 && v % 16 == 0 then .some { d with w0 := putBits d.w0 0 21 v } else .none
  | 1 => if 1 ≤ v && v ≤ 512 then .some { d with w0 := putBits d.w0 26 9 (v - 1) } else .none
  | 2 => if 1 ≤ v && v ≤ 512 then .some { d with w0 := putBits d.w0 35 9 (v - 1) } else .none
  | 3 => if v % 16 == 0 && 16 ≤ v && v ≤ 65520 then .some { d with w0 := putBits d.w0 44 12 (v / 16) } else .none
  | 4 => if descFmt v then .some { d with w0 := putBits d.w0 56 4 v } else .none
  | 5 => if v < 2 ^ 21 && v % 16 == 0 then .some { d with w1 := putBits d.w1 0 21 v } else .none
  | 6 => if v < 4 then .some { d with w0 := putBits (putBits d.w0 60 1 v) 61 1 (v / 2) } else .none
  | 7 => if nbits v 62 2 == 0 && nbits v 21 5 == 0 && nbits v 0 4 == 0 && descFmt (nbits v 56 4) && nbits v 44 12 != 0 then
      .some { d with w0 := x } else .none
  | _ => if v < 2 ^ 21 && v % 16 == 0 then .some { d with w1 := x } else .none

/-- dset (R239). -/
def execDset (d a : BitVec 5) (f : BitVec 6) (s : State) : Out :=
  .next (control false (decide (8 < f.toNat)) s (fun cl c =>
    match (c.desc d).set f.toNat (c.kreg a) with
    | .some x => s.controlNext cl (fun k => k.setDesc d x)
    | .none => s.controlFault cl .fmt 0#64))
/-- dmov (R239). -/
def execDmov (d a : BitVec 5) (s : State) : Out :=
  .next (control false false s (fun cl c => s.controlNext cl (fun k => k.setDesc d (c.desc a))))

/-- The bytes of a row of c columns; none where the format or the count breaks R240. -/
def rowBytes (fmt c : Nat) : Option Nat :=
  match fmt with
  | 1 => .some (4 * c)
  | 2 | 3 => if c % 2 == 0 then .some (2 * c) else .none
  | 4 | 5 | 7 => if c % 4 == 0 then .some c else .none
  | 6 => if c % 8 == 0 then .some (c / 2) else .none
  | 8 => .some (8 * c)
  | 11 | 12 => .some (4 * ((c + 4) / 5))
  | _ => .none

/-- n bytes from offset o of a member's allocation lie in it, or SEGV (R240). -/
def State.footprint (s : State) (c : Cluster) (member o n : Nat) : Option Cause :=
  match s.gangMember c member with
  | .some g => if (s.group g).spSize < o + n then .some .segv else .none
  | .none => .some .segv

/-- The first failure of a list of checks. -/
def firstFail (l : List (Option Cause)) : Option Cause := l.findSome? id
/-- A condition that raises FMT when it does not hold. -/
def fmtUnless (b : Bool) : Option Cause := if b then .none else .some .fmt

/-- The bytes that a tile spans from its offset. -/
def Desc.span (d : Desc) : Nat := (d.rows - 1) * d.pitch + (rowBytes d.fmt d.cols).getD 0

/-- The checks of a tile at each use (R240). -/
def State.tileCheck (s : State) (c : Cluster) (d : Desc) : Option Cause :=
  match rowBytes d.fmt d.cols with
  | .none => .some .fmt
  | .some n => if d.pitch < n then .some .fmt else s.footprint c d.member d.offset d.span

/-- The bytes of a tile's scale record with blocks of 128 along n logical columns, or rows for B (R241). -/
def scaleBytes (rowsOf n : Nat) : Nat := 4 * rowsOf * ((n + 127) / 128)
/-- The checks of a scale record (R241). -/
def State.scaleCheck (s : State) (c : Cluster) (d : Desc) (rowsOf n : Nat) : Option Cause :=
  if d.scaled then s.footprint c d.smember d.soffset (scaleBytes rowsOf n) else .none

/-! ### Queues, and what a queued operation touches (R242, R244) -/

/-- The queue of an array. -/
def Cluster.queue (c : Cluster) (arr : Nat) : List MatOp := mapGet [] c.queues arr
/-- Every operation queued or running, by array. -/
def Cluster.ops (c : Cluster) : List MatOp := c.queues.flatMap (·.2)

/-- Logical K per step of a pass (R243). -/
def MatOp.kp (o : MatOp) : Nat :=
  match o.kind with
  | .f64 => 8
  | .sparse => if o.a.fmt == 6 then 1024 else 256
  | _ => if o.a.fmt == 6 then 512 else if o.a.fmt == 2 || o.a.fmt == 3 then 64 else 128

/-- Is an operation a pass? -/
def MatOp.isPass (o : MatOp) : Bool :=
  match o.kind with
  | .mma | .sparse | .gathered | .f64 => true
  | _ => false

/-- The logical columns of A: twice the stored ones for mma.sp (R241, R251). -/
def MatOp.aCols (o : MatOp) : Nat := if o.kind == .sparse then 2 * o.a.cols else o.a.cols

/-- The format of a code (R22). -/
def floatFmt (f : Nat) : FFmt :=
  match f with
  | 2 => f16
  | 3 => bf16
  | 4 => e4m3
  | 5 => e5m2
  | 6 => e2m1
  | 8 => f64
  | 11 => e3m2
  | 12 => e2m3
  | _ => f32

/-- The bytes of elements j0 to j0 + n - 1 of a row of a tile, as member, offset and length: whole packed words (R117, R240). -/
def Desc.slice (d : Desc) (row j0 n : Nat) : Nat × Nat × Nat :=
  let base := d.offset + row * d.pitch
  if d.fmt == 8 then (d.member, base + 8 * j0, 8 * n)
  else
    let per := 32 / (if d.fmt == 7 then 8 else (floatFmt d.fmt).width)
    (d.member, base + 4 * (j0 / per), 4 * ((j0 + n - 1) / per - j0 / per + 1))

/-- The stored columns of A in a step (R243). -/
def MatOp.stored (o : MatOp) : Nat := if o.kind == .sparse then o.kp / 2 else o.kp

/-- The bytes of A's rows that a pass takes in its step. -/
def MatOp.aReads (o : MatOp) (rows : List Nat) : List (Nat × Nat × Nat) :=
  rows.map (fun r => o.a.slice r (o.step * o.stored) o.stored)

/-- The index vector of a gathered pass (R252). -/
def MatOp.indexVector (o : MatOp) : Nat × Nat × Nat := (o.meta_.member, o.meta_.offset, 128)

/-- What the array itself reads for an operation: the slices of the step, their scales and metadata, or a whole tile; rows are those
of A (R241, R243, R251, R254). -/
def MatOp.passReads (o : MatOp) (rows : List Nat) : List (Nat × Nat × Nat) :=
  let k0 := o.step * o.kp
  let nb := (o.aCols + 127) / 128
  match o.kind with
  | .zero | .store => []
  | .load => (List.range 64).map (fun r => o.a.slice r 0 128)
  | k =>
    (if k == .gathered then [] else o.aReads rows) ++ (List.range o.kp).map (fun j => o.b.slice (k0 + j) 0 128)
      ++ (if o.a.scaled then rows.map (fun r => (o.a.smember, o.a.soffset + 4 * (r * nb + k0 / 128), 4 * (o.kp / 128))) else [])
      ++ (if o.b.scaled then [(o.b.smember, o.b.soffset + 4 * (k0 / 128), 4 * (o.kp / 128))] else [])
      ++ (if k == .sparse then (List.range (o.kp / 256)).flatMap (fun m => (List.range 64).map (fun r =>
          (o.meta_.member, o.meta_.offset + 2048 * (k0 / 256 + m) + 32 * r, 32))) else [])

/-- The scratchpad ranges of an operation: all it reads, where the rows of a gathered pass may be any until they are collected, and
what it writes. -/
def MatOp.reads (o : MatOp) : List (Nat × Nat × Nat) :=
  if o.kind == .gathered then
    match o.rows with
    | .some rows => o.indexVector :: o.aReads rows ++ o.passReads rows
    | .none => o.indexVector :: (o.a.member, o.a.offset, o.a.span)
        :: (if o.a.scaled then [(o.a.smember, o.a.soffset, scaleBytes o.a.rows o.aCols)] else []) ++ o.passReads []
  else o.passReads (List.range 64)
def MatOp.writes (o : MatOp) : List (Nat × Nat × Nat) :=
  if o.kind == .store then (List.range 64).map (fun r => o.a.slice r 0 128) else []

/-- Do two lists of ranges meet? -/
def meets (l m : List (Nat × Nat × Nat)) : Bool :=
  l.any (fun x => m.any (fun y => x.1 == y.1 && decide (x.2.1 < y.2.1 + y.2.2) && decide (y.2.1 < x.2.1 + x.2.2)))

/-- Must o wait for the earlier operation p, which touches bytes that it touches (R244)? -/
def MatOp.after (o p : MatOp) : Bool :=
  decide (p.agent < o.agent) && (meets p.writes (o.reads ++ o.writes) || meets o.writes (p.reads ++ p.writes))

/-! ### kld, kst and kwait (R225, R230, R231) -/

/-- Where a control-core address leads before translation (R225). -/
inductive ControlAim where
  | scratch (g o : Nat)
  | ranges (path va : Nat)
  | fails (c : Cause)

/-- Checks 1 to 4 for a control-core address. -/
def State.controlAim (s : State) (c : Cluster) (x : DWord) (n : Nat) (write : Bool) : ControlAim :=
  let a := x.toNat
  let va := nbits a 0 57
  let path := nbits a 60 4
  let (sp, clw, stk, fr) := defaultSegs 0#32 0#32 0#32
  let other := sp.holds (2 ^ 19) va || stk.holds (2 ^ 32) va || fr.holds (2 ^ 32) va
  let inCl := clw.holds (2 ^ 21) va
  if 4 ≤ path || nbits a 57 3 != 0 || (path != 0 && path != 3 && (other || inCl)) then .fails .segv
  else if a % n != 0 then .fails .align
  else if path == 3 || (path == 1 && write) then .fails .prot
  else if path == 0 && other then .fails .segv
  else if path == 0 && inCl then
    let o := (va - clw.base.toNat) % 2 ^ 19
    let j := (va - clw.base.toNat) / 2 ^ 19
    if (s.controlRecord c).scratch.toNat < o + n then .fails .segv
    else
      match s.gangMember c j with
      | .some g => .scratch g o
      | .none => .fails .segv
  else .ranges path va

/-- A control-core access: its value, a wait, or the cause it stops with. -/
inductive ControlAt where
  | done (s : State) (v : DWord)
  | waits (s : State)
  | fails (c : Cause)

/-- An access of n bytes by a cluster's stream, a store of data when write (R225, R230). A watch hit is recorded, and the access is
performed (R276; log 67). -/
def State.controlAccess (s : State) (cl : Nat) (a : DWord) (n : Nat) (write : Bool) (data : DWord) : ControlAt :=
  let c := s.cluster cl
  let grid := c.gangGroup.grid
  let bytes := bytesOfNat n data.toNat
  let order (s : State) (cls loc : Nat) (tracked : Bool) : State :=
    let s := s.noteAccess c.agent loc n cls (!write) write
    if tracked then s.record c.agent cls 0 write grid loc n else s
  match s.controlAim c a n write with
  | .fails e => .fails e
  | .scratch g o =>
    let loc := 2 ^ 60 * (g + 1) + o
    let tracked := !(s.obj g o).marked
    if !write && (s.group g).sectorBad o n then .fails .poison
    else if tracked && s.racy c.agent 4 0 write loc n then .fails .race
    else
      let s := order s 4 loc tracked
      if write then .done (s.writeScratch g o bytes) 0#64
      else .done s (BitVec.ofNat 64 (natOfBytes ((List.range n).map (fun j => mapGet 0#8 (s.group g).sp (o + j)))))
  | .ranges path va =>
    let x := s.controlCtx cl
    match s.place x path write va with
    | .trap e => .fails e
    | .io _ => .fails .prot
    | .service r =>
      if s.faults.any (fun e => e.2.who == .some (.stream cl)) then .waits s
      else .waits (s.sendFault x va 5 r (.stream cl))
    | .peer dev pa =>
      match c.answer with
      | .some v => .done (s.modCluster cl (fun k => { k with answer := .none })) v
      | .none =>
        if s.links.any (fun e => e.2.reqs.any (fun r => r.2.who == .stream cl)) then .waits s
        else
          match s.request dev x.world (if write then .write pa bytes else .read pa n) (.stream cl) with
          | .some s => .waits (order s path (2 ^ 58 + dev * 2 ^ 45 + pa) (path != 1))
          | .none => .fails .link
    | .memory pa buf =>
      let bad : Option Cause :=
        if write then (if s.storePoison x.world buf pa [(pa, n)] then .some .poison else .none)
        else
          match s.lineState x.world buf pa with
          | .stale => .some .stale
          | .bad => .some .poison
          | .good => if s.mem.poisoned pa n then .some .poison else .none
      match bad with
      | .some e => .fails e
      | .none =>
        if path != 1 && s.racy c.agent path 0 write pa n then .fails .race
        else
          let s := (order s path pa (path != 1)).watchEngine 1 (cl % 32) 0 grid x.world (!write) write pa n
          if write then .done (s.writePhys (s.lineTag x.world buf) pa bytes) 0#64
          else .done s (BitVec.ofNat 64 (s.mem.num pa n))

/-- Does a matrix operation still queued or running touch n bytes of a group's allocation at o (R230)? -/
def State.opsTouch (s : State) (c : Cluster) (g o n : Nat) : Bool :=
  c.ops.any (fun p => meets (((p.reads ++ p.writes).filter (fun r => s.gangMember c r.1 == .some g)).map (fun r => (0, r.2)))
    [(0, o, n)])

/-- kld and kst (R230). -/
def kaccess (write : Bool) (d a : BitVec 5) (w : BitVec 1) (i : BitVec 6) (s : State) : State :=
  control false false s (fun cl c =>
    let n := if w == 1#1 then 8 else 4
    let ad := c.kreg a + i.signExtend 64 * BitVec.ofNat 64 n
    let busy := match s.controlAim c ad n write with
      | .scratch g o => s.opsTouch c g o n
      | _ => false
    if busy then s.controlWait
    else
      match s.controlAccess cl ad n write (c.kreg d) with
      | .done s v => s.controlNext cl (fun k => if write then k else k.setK d v)
      | .waits s => s.controlWait
      | .fails e => s.controlFault cl e ad)

def execKld (d a : BitVec 5) (w : BitVec 1) (i : BitVec 6) (s : State) : Out := .next (kaccess false d a w i s)
def execKst (d a : BitVec 5) (w : BitVec 1) (i : BitVec 6) (s : State) : Out := .next (kaccess true d a w i s)

/-- The object that a control-core address names, in a sub-window of the gang (R231). -/
def State.controlObj (s : State) (c : Cluster) (x : DWord) : Cause ⊕ (Nat × Nat) :=
  if x.toNat % 16 != 0 then .inl .align
  else if nbits x.toNat 57 7 != 0 then .inl .segv
  else
    let (_, clw, _, _) := defaultSegs 0#32 0#32 0#32
    if !clw.holds (2 ^ 21) x.toNat then .inl .segv
    else
      match s.controlAim c x 16 false with
      | .scratch g o => .inr (g, o)
      | _ => .inl .segv

/-- kwait (R231): leaving the wait acquires the phase's arrivals and bytes at gang scope (R212). -/
def execKwait (a b : BitVec 5) (s : State) : Out :=
  .next (control false false s (fun cl c =>
    match s.controlObj c (c.kreg a) with
    | .inl e => s.controlFault cl e (c.kreg a)
    | .inr (g, o) =>
      if s.phase g o == nbits (c.kreg b).toNat 0 25 then s.controlWait
      else
        let (rels, es) := s.objSeen g o (c.kreg b).toNat
        let s := s.modAgent c.agent (fun x => x.learnAll (s.acquired c.agent 4#3 rels))
        let s := (s.observe c.agent es).endRegion c.agent
        if s.objCause g o != 0 then s.controlFault cl (causeOf (s.objCause g o)) (c.kreg a)
        else s.controlNext cl id))

/-! ### The Turnstile (R232 to R237) -/

def TEntry.valid (e : TEntry) : Bool := e.word1.getLsbD 21
def TEntry.taken (e : TEntry) : Bool := e.word1.getLsbD 22
def TEntry.omember (e : TEntry) : Nat := nbits e.word1.toNat 19 2
def TEntry.ooffset (e : TEntry) : Nat := nbits e.word1.toNat 0 19
def TEntry.age (e : TEntry) : Nat := nbits e.word2.toNat 32 32
def TEntry.member (e : TEntry) : Nat := nbits e.word2.toNat 8 2
def TEntry.prio (e : TEntry) : Nat := nbits e.word2.toNat 6 2

/-- Entry n of a cluster's Turnstile. -/
def Cluster.entry (c : Cluster) (n : BitVec 6) : TEntry := c.turn[n.toNat]'n.isLt
/-- The cluster with entry n written. -/
def Cluster.setEntry (c : Cluster) (n : BitVec 6) (e : TEntry) : Cluster := { c with turn := c.turn.set n.toNat e n.isLt }

/-- The keys of R234 for a pending entry, smaller first, where some entry has waited more than 4,096 cc or not. -/
def TEntry.keys (e : TEntry) (old : Bool) (n : Nat) : List Nat :=
  (if old then [2 ^ 32 - e.age] else [3 - e.prio, 2 ^ 32 - e.age]) ++ [e.member, n]

/-- The entry that mtake grants (R234). -/
def Cluster.grant (c : Cluster) : Option (BitVec 6) :=
  let l := ((List.range 64).map (fun n => (BitVec.ofNat 6 n))).filter (fun n => (c.entry n).valid && !(c.entry n).taken)
  let old := l.any (fun n => decide (4096 < (c.entry n).age))
  l.foldl (fun a n =>
    match a with
    | .none => .some n
    | .some m =>
      let less := (c.entry n).keys old n.toNat
      let more := (c.entry m).keys old m.toNat
      let rec lt : List Nat → List Nat → Bool
        | x :: l, y :: m => decide (x < y) || (x == y && lt l m)
        | _, _ => false
      if lt less more then .some n else a) .none

/-- The lowest bits of a handle: priority, member and index (R233, R235). -/
def TEntry.handle (e : TEntry) (n : BitVec 6) : Nat := e.member * 256 + e.prio * 64 + n.toNat

/-- mreq (R233): once for the issue; a free entry is chosen freely (log 3). -/
def execMreq (d n : BitVec 5) (p : BitVec 2) (s : State) : Out :=
  let r := n.toNat
  .next (issue { v := [d.toNat], s := [r, r + 1, r + 2], pred := p, predicated := true
                 bad := r == 0 || 29 < r || s.myGrid.record.ctrlpc == 0xFFFFFFFF#32
                   || nbits (s.sreg (r + 2)).toNat 2 62 != 0 } s (fun s m =>
    match s.first m with
    | .none => { st := s }
    | .some _ =>
      let a := s.sreg (r + 1)
      match s.objAt s.me a with
      | .inl c => { st := s, traps := trapAll (s.real m) (Trap.atAddr c a) }
      | .inr (og, o) =>
        let cl := clusterKey s.me.die s.me.core
        let c := s.cluster cl
        let open_ := ((List.range 64).map (fun n => (BitVec.ofNat 6 n))).filter (fun n => !(c.entry n).valid)
        if open_.isEmpty then { st := s, stall := true }
        else
          let (v, s) := s.free
          let e := open_.getD (v.toNat % open_.length) 0#6
          let size := s.gangSize s.myGroup
          let (pub, s) := s.releaseLanes m
          let x : TEntry :=
            { payload := s.sreg r
              word1 := BitVec.ofNat 64 (2 ^ 21 + (s.group og).no.toNat % size * 2 ^ 19 + o)
              word2 := BitVec.ofNat 64 (s.myGroup.no.toNat % size * 256 + nbits (s.sreg (r + 2)).toNat 0 2 * 64)
              pub := pub }
          let s := s.modCluster cl (fun c => c.setEntry e x)
          { st := s.writeV d.toNat m (s.fullOr m (BitVec.ofNat 32 (x.handle e))) 0#4 }))

/-- Has the gang of a stream exited: every warp retired, and no row of a group occupied (R223)? -/
def State.gangExited (s : State) (c : Cluster) : Bool :=
  let l := s.groups.filter (fun e => !e.2.handler && c.gang == .some (e.2.grid, e.2.gang))
  l.all (fun e => (e.2.status == .exiting || e.2.status == .retired) && !s.holdsRows e.1)

/-- The stream retires: its registers, descriptors and accumulators are zero (R223). -/
def State.retireStream (s : State) (cl : Nat) : State :=
  let c := s.cluster cl
  let s := s.modGrid c.gangGroup.grid (fun g => { g with controls := g.controls - 1 })
  s.modCluster cl (fun c => { Cluster.empty with turn := c.turn, agent := c.agent })

/-- mtake and mtake.nw (R235). -/
def mtakeForm (nw : Bool) (d : BitVec 4) (s : State) : State :=
  let lo : BitVec 5 := BitVec.ofNat 5 (2 * d.toNat)
  control false (d == 0#4) s (fun cl c =>
    let put (s : State) (x y : DWord) : State := s.controlNext cl (fun k => (k.setK lo x).setK (lo + 1#5) y)
    match c.grant with
    | .some n =>
      let e := c.entry n
      let s := s.modCluster cl (fun k => k.setEntry n { e with word1 := e.word1 ||| BitVec.twoPow 64 22 })
      let s := (s.modAgent c.agent (fun x => x.learnAll e.pub)).endRegion c.agent
      put s e.payload (BitVec.ofNat 64 (2 ^ 63 + e.handle n))
    | .none =>
      if nw then put s 0#64 0#64
      else if s.gangExited c then
        if c.turn.any (fun e => e.taken) then put s 0#64 0#64 else s.retireStream cl
      else s.controlWait)
def execMtake (d : BitVec 4) (s : State) : Out := .next (mtakeForm false d s)
def execMtakeNw (d : BitVec 4) (s : State) : Out := .next (mtakeForm true d s)

/-- Every access of completed operations is ordered before what the stream does next (R236). -/
def State.learnOps (s : State) (k : Nat) (es : List Nat) : State :=
  s.modAgent k (fun a => a.learnAll (es.flatMap (fun e => (List.range 7).map (fun c => (e * 8 + c, (s.agent e).region + 1)))
    |>.foldl (fun m x => joinClock m [x]) []))

/-- An entry with VALID and TAKEN cleared; its other fields stay (R236). -/
def TEntry.freed (e : TEntry) : TEntry := { e with word1 := e.word1 &&& ~~~(BitVec.twoPow 64 21 ||| BitVec.twoPow 64 22) }

/-- The fault of the operation of agent e has been raised (R245). -/
def Cluster.raised (c : Cluster) (e : Nat) : Cluster := { c with accFault := c.accFault.filter (fun f => f.2.2 != e) }

/-- mdone (R236). -/
def execMdone (a : BitVec 5) (s : State) : Out :=
  .next (control false false s (fun cl c =>
    let h := c.kreg a
    let n : BitVec 6 := h.setWidth 6
    let e := c.entry n
    if !h.getLsbD 63 || !e.valid || !e.taken then s.controlFault cl .illegal 0#64
    else if !c.ops.isEmpty then s.controlWait
    else
      match c.accFault with
      | (_, f) :: _ => (s.modCluster cl (fun c => c.raised f.2)).controlFault cl f.1 0#64
      | [] =>
        let s := s.learnOps c.agent c.ran
        let r := s.release c.agent 4#3 (s.publishedAll c.agent)
        let s := s.endRegion c.agent
        let s := match s.gangMember c e.omember with
          | .some g => s.objArrive g e.ooffset r
          | .none => s
        s.controlNext cl (fun k => { k.setEntry n e.freed with ran := [] })))

/-- Every valid entry ages by one cc while its gang is resident (R232). -/
def State.ageTurn (s : State) : State :=
  let aged (e : TEntry) : TEntry :=
    if e.valid && e.age < 2 ^ 32 - 1 then { e with word2 := e.word2 + BitVec.twoPow 64 32 } else e
  { s with clusters := s.clusters.map (fun (k, c) =>
      if c.turn.any TEntry.valid && s.groups.any (fun e => c.gang == .some (e.2.grid, e.2.gang)
          && (e.2.status == .running || e.2.status == .exiting)) then (k, { c with turn := Vector.ofFn (fun j : Fin 64 => aged c.turn[j]) })
      else (k, c)) }

/-! ### Queueing matrix operations (R243, R244, R250 to R254) -/

/-- May formats multiply (R243)? Either operand may be the E3M2 or E2M3 one. -/
def pairOk (x y : Nat) : Bool :=
  let e8 (f : Nat) := f == 4 || f == 5
  let e6 (f : Nat) := f == 11 || f == 12
  (e8 x && e8 y) || (x == 7 && y == 7) || (x == 6 && y == 6) || (x == 3 && y == 3) || (x == 2 && y == 2)
    || (e6 x && (e6 y || e8 y)) || (e8 x && e6 y)

/-- The checks of a pass at issue (R240, R241, R243, R251, R252). -/
def State.passCheck (s : State) (c : Cluster) (o : MatOp) : Option Cause :=
  let x := o.a.fmt
  let y := o.b.fmt
  let stored := if o.kind == .sparse then o.kp / 2 else o.kp
  firstFail [
    fmtUnless (if o.kind == .f64 then x == 8 && y == 8 else pairOk x y),
    fmtUnless (o.kind != .sparse || x == 4 || x == 5 || x == 7 || x == 6),
    fmtUnless (!(x == 2 || x == 3 || x == 8) || (!o.a.scaled && !o.b.scaled)),
    fmtUnless (o.kind == .gathered || o.a.rows == 64),
    fmtUnless (decide ((o.step + 1) * stored ≤ o.a.cols) && o.b.cols == 128 && decide ((o.step + 1) * o.kp ≤ o.b.rows)),
    fmtUnless (o.kind != .sparse || o.meta_.offset % 2048 == 0),
    s.tileCheck c o.a, s.tileCheck c o.b,
    s.scaleCheck c o.a o.a.rows o.aCols, s.scaleCheck c o.b 1 o.b.rows,
    if o.kind == .sparse then s.footprint c o.meta_.member o.meta_.offset (2048 * ((o.step + 1) * o.kp / 256)) else .none,
    if o.kind == .gathered then s.footprint c o.meta_.member o.meta_.offset 128 else .none]

/-- The accumulators that an operation on acc n touches: a pair for FP64. -/
def accsOf (n : Nat) (pair : Bool) : List Nat := if pair then [n, n + 1] else [n]

/-- An operation queued on the array that owns its accumulator: a recorded fault of that accumulator is raised first (R245),
then the checks of issue, then the wait for room (R244). -/
def State.queueOp (s : State) (cl : Nat) (pair : Bool) (o : MatOp) (check : Option Cause) : State :=
  let c := s.cluster cl
  match (accsOf o.acc pair).findSome? (mapFind c.accFault) with
  | .some f => (s.modCluster cl (fun c => c.raised f.2)).controlFault cl f.1 0#64
  | .none =>
    match check with
    | .some e => s.controlFault cl e 0#64
    | .none =>
      let q := c.queue (o.acc / 2)
      if 3 ≤ q.length then s.controlWait
      else
        let (e, s) := s.newEngine (matrixEngine cl) [c.agent]
        let (g, s) := if o.kind == .gathered then s.newEngine (gatherUnit cl) [c.agent] else (e, s)
        s.controlNext cl (fun k => { k with queues := mapPut k.queues (o.acc / 2) (q ++ [{ o with agent := e, gather := g }]) })

/-- An operation of a kind on an accumulator with no operand yet. -/
def MatOp.new (kind : MatKind) (acc : Nat) : MatOp :=
  { kind := kind, acc := acc, a := Desc.empty, b := Desc.empty, meta_ := Desc.empty, step := 0, request := .none, agent := 0
    gather := 0, started := false, rows := .none, latch := [], result := [], fault := .none }

/-- A pass queued (R250). -/
def passForm (kind : MatKind) (n : Nat) (a b : BitVec 5) (st : BitVec 6) (bad : Bool) (s : State) : State :=
  control false (bad || 12 ≤ n) s (fun cl c =>
    let o : MatOp := { MatOp.new kind n with
      a := c.desc a, b := c.desc b, meta_ := c.desc (a + 1#5), step := st.toNat }
    s.queueOp cl (kind == .f64) o (s.passCheck c o))
def execMma (n a b : BitVec 5) (st : BitVec 6) (s : State) : Out := .next (passForm .mma n.toNat a b st false s)
def execMmaSp (n a b : BitVec 5) (st : BitVec 6) (s : State) : Out := .next (passForm .sparse n.toNat a b st (a == 31#5) s)
def execMmaGx (n a b : BitVec 5) (st : BitVec 6) (s : State) : Out := .next (passForm .gathered n.toNat a b st (a == 31#5) s)
def execMmaF64 (n : BitVec 4) (a b : BitVec 5) (st : BitVec 6) (s : State) : Out :=
  .next (passForm .f64 (2 * n.toNat) a b st false s)

/-- The checks of an accumulator's tile: 64 by 128, of one of the formats, FP64 in an even pair (R254). -/
def State.drainCheck (s : State) (c : Cluster) (d : Desc) (n : Nat) (store : Bool) : Option Cause :=
  firstFail [
    fmtUnless (d.rows == 64 && d.cols == 128),
    fmtUnless (d.fmt == 1 || (d.fmt == 8 && n % 2 == 0) || (store && (d.fmt == 2 || d.fmt == 3))),
    fmtUnless (store || !d.scaled),
    s.tileCheck c d]

/-- acc.zero (R254). -/
def execAccZero (n : BitVec 5) (s : State) : Out :=
  .next (control false (decide (12 ≤ n.toNat)) s (fun cl _ => s.queueOp cl false (MatOp.new .zero n.toNat) .none))
/-- acc.load (R254). -/
def execAccLoad (n m : BitVec 5) (s : State) : Out :=
  .next (control false (decide (12 ≤ n.toNat)) s (fun cl c =>
    let d := c.desc m
    s.queueOp cl (d.fmt == 8) { MatOp.new .load n.toNat with a := d } (s.drainCheck c d n.toNat false)))
/-- acc.store (R254). -/
def execAccStore (n m k : BitVec 5) (s : State) : Out :=
  .next (control false (decide (12 ≤ n.toNat)) s (fun cl c =>
    let d := c.desc m
    let h := c.kreg k
    let e := c.entry (h.setWidth 6)
    let counts := k != 0#5 && h.getLsbD 63
    if counts && !(e.valid && e.taken) then s.controlFault cl .illegal 0#64
    else
      s.queueOp cl (d.fmt == 8)
        { MatOp.new .store n.toNat with a := d, request := if counts then .some (nbits h.toNat 0 6) else .none }
        (s.drainCheck c d n.toNat true)))

/-! ### Numerics (R246 to R249) -/

/-- The value of an element of a tile (R246). -/
def elemVal (fmt : Nat) (ftzn : Bool) (x : Nat) : FVal :=
  if fmt == 7 then .num (decide (128 ≤ x)) (if 128 ≤ x then 256 - x else x) 0
  else
    let f := floatFmt fmt
    if ftzn && f.width ≤ 8 && f.subnormal x then .num (f.neg x) 0 f.qmin else f.val x

/-- RNE with no flag, no DAZ and no flush. -/
def plainCtl : FCtl := ⟨.rne, false, false, false⟩

/-- A product; none where a NaN or 0 times infinity makes it one (R246). A product of integers has no signed zero. -/
def product (int : Bool) (x y : FVal) : Option FVal :=
  if x.isNan || y.isNan then .none
  else
    match x.times y with
    | .some (.num s m e) => .some (.num (s && !(int && m == 0)) m e)
    | p => p

/-- The exact sum of products; none where they make a NaN (R246). -/
def sumOf : List (Option FVal) → Option FVal
  | [] => .some (.num false 0 0)
  | [x] => x
  | x :: t =>
    match x, sumOf t with
    | .some a, .some b => a.plus .rne b
    | _, _ => .none

/-- A 128-element block added to an accumulator code under scales (R247). -/
def addBlock (acc sa sb : Nat) (ps : List (Option FVal)) : Nat :=
  let p := (f32.finish plainCtl (sumOf ps)).1
  let q := (f32.mul plainCtl p (f32.mul plainCtl sa sb).1).1
  (f32.add plainCtl acc q).1

/-- The exponent of a nonzero finite value. -/
def FVal.lead : FVal → Option Int
  | .num _ m e => if m == 0 then .none else .some (e + bitLen m - 1)
  | _ => .none

/-- A value with every bit of weight below 2^q removed, toward zero (R248). -/
def FVal.truncate (q : Int) : FVal → FVal
  | .num s m e => if q ≤ e then .num s m e else .num s (m / 2 ^ (q - e).toNat) q
  | x => x

/-- A group of 16 added to an accumulator code (R248). -/
def addGroup (acc : Nat) (ps : List (Option FVal)) : Nat :=
  let top := ps.foldl (fun (t : Option Int) p =>
    match t, p.bind FVal.lead with
    | .some a, .some b => .some (max a b)
    | .none, b => b
    | a, .none => a) .none
  let ps := match top with
    | .some e => ps.map (fun p => p.map (FVal.truncate (e - 56)))
    | .none => ps
  (f32.add plainCtl acc (f32.finish plainCtl (sumOf ps)).1).1

/-! ### Passes (R242 to R253) -/

/-- n bytes of a group's scratchpad as a number. -/
def State.spNum (s : State) (g o n : Nat) : Nat :=
  natOfBytes ((List.range n).map (fun j => mapGet 0#8 (s.group g).sp (o + j)))

/-- The code of element (r, j) of a tile in group g's scratchpad (R240). -/
def State.elem (s : State) (g : Nat) (d : Desc) (r j : Nat) : Nat :=
  let base := d.offset + r * d.pitch
  if d.fmt == 8 then s.spNum g (base + 8 * j) 8
  else
    let w := if d.fmt == 7 then 8 else (floatFmt d.fmt).width
    let per := 32 / w
    nbits (s.spNum g (base + 4 * (j / per)) 4) (j % per * w) w

/-- The FP32 scale of row r and block b of a tile with nb blocks a row (R241). -/
def State.scaleOf (s : State) (c : Cluster) (d : Desc) (r nb b : Nat) : Nat :=
  if d.scaled then
    match s.gangMember c d.smember with
    | .some g => s.spNum g (d.soffset + 4 * (r * nb + b)) 4
    | .none => 0x3F800000
  else 0x3F800000

/-- The 4-bit code of group q of row r of the metadata (R251). -/
def State.metaCode (s : State) (g : Nat) (d : Desc) (r q : Nat) : Nat :=
  nbits (s.spNum g (d.offset + 2048 * (q / 64) + 32 * r + q % 64 / 2) 1) (q % 2 * 4) 4

/-- Row r of A along the step's slice: the logical elements, none for a pruned one (R243, R251); of a gathered pass, what the gather
unit has collected (R252). -/
def State.aRow (s : State) (g mg : Nat) (o : MatOp) (r row : Nat) : List (Option FVal) :=
  if o.kind == .gathered then (o.latch.getD r []).map (fun x => .some (elemVal o.a.fmt o.a.ftzn x))
  else
  let at_ (j : Nat) : FVal := elemVal o.a.fmt o.a.ftzn (s.elem g o.a row j)
  let k0 := o.step * o.kp
  if o.kind == .sparse then
    (List.range (o.kp / 4)).flatMap (fun q =>
      let x := k0 / 4 + q
      let m := s.metaCode mg o.meta_ r x
      (List.range 4).map (fun j =>
        if j == m % 4 then .some (at_ (2 * x)) else if j == m / 4 then .some (at_ (2 * x + 1)) else .none))
  else (List.range o.kp).map (fun j => .some (at_ (k0 + j)))

/-- A list cut into pieces of n. -/
def cut {α : Type} (n : Nat) : Nat → List α → List (List α)
  | 0, _ => []
  | k + 1, l => l.take n :: cut n k (l.drop n)

/-- The value of one accumulator element after the pass: x is its code before, ps the products along the slice (R247 to
R249). -/
def MatOp.element (o : MatOp) (x : Nat) (sa sb : Nat → Nat) (a b : List (Option FVal)) : Nat :=
  if o.kind == .f64 then
    (a.zip b).foldl (fun acc (u, v) =>
      match u, v with
      | .some u, .some v => (match product false u v with
        | .none => f64.nanCode false
        | .some p =>
          let t := f64.val acc
          if t.isNan then f64.nanCode false else (f64.finish plainCtl (p.plus .rne t)).1)
      | _, _ => acc) x
  else
    let ps := (a.zip b).map (fun (u, v) =>
      match u, v with
      | .some u, .some v => product (o.a.fmt == 7) u v
      | _, _ => .some (.num false 0 0))
    if o.a.fmt == 2 || o.a.fmt == 3 then (cut 16 (o.kp / 16) ps).foldl addGroup x
    else
      let bs := cut 128 (o.kp / 128) ps
      ((List.range bs.length).zip bs).foldl (fun acc (j, l) =>
        let k := o.step * o.kp / 128 + j
        addBlock acc (sa k) (sb k) l) x

/-- The code of accumulator element (r, n) of acc, the pair's for FP64 (R242). -/
def Cluster.accCode (c : Cluster) (acc : Nat) (pair : Bool) (r n : Nat) : Nat :=
  let w (a : Nat) : Nat := (mapGet 0#32 c.acc (a * 8192 + r * 128 + n)).toNat
  if pair then w acc + w (acc + 1) * 2 ^ 32 else w acc

/-- Does a poisoned sector lie in one of some ranges (R245)? -/
def State.poisonedIn (s : State) (c : Cluster) (l : List (Nat × Nat × Nat)) : Bool :=
  l.any (fun r => match s.gangMember c r.1 with
    | .some g => (s.group g).sectorBad r.2.1 r.2.2
    | .none => false)

/-- Scratchpad accesses of an operation's agent join the detector's history (R192, R244). -/
def State.trackOp (s : State) (cl agent : Nat) (wr : Bool) (l : List (Nat × Nat × Nat)) : State :=
  let c := s.cluster cl
  l.foldl (fun s r => match s.gangMember c r.1 with
    | .some g => s.trackEngine agent 4 wr c.gangGroup.grid (BitVec.ofNat 64 r.2.1) (2 ^ 60 * (g + 1) + r.2.1) r.2.2
    | .none => s) s

/-- Is a metadata code of the slice malformed: i0 ≥ i1 (R251)? -/
def State.badMeta (s : State) (mg : Nat) (o : MatOp) : Bool :=
  (List.range 64).any (fun r => (List.range (o.kp / 4)).any (fun q =>
    let m := s.metaCode mg o.meta_ r (o.step * o.kp / 4 + q)
    m / 4 ≤ m % 4))

/-- What a pass computes, or the fault that discards it (R245, R250). -/
def State.passResult (s : State) (cl : Nat) (o : MatOp) : Option Cause × Map Word :=
  let c := s.cluster cl
  match s.gangMember c o.a.member, s.gangMember c o.b.member with
  | .some ga, .some gb =>
    let mg := (s.gangMember c o.meta_.member).getD 0
    let rows := o.rows.getD (List.range 64)
    if o.fault.isSome then (o.fault, [])
    else if s.poisonedIn c (o.passReads rows) then (.some .poison, [])
    else if o.kind == .sparse && s.badMeta mg o then (.some .fmt, [])
    else
      let k0 := o.step * o.kp
      let nb := (o.aCols + 127) / 128
      let cols : List (List (Option FVal)) := (List.range 128).map (fun n =>
        (List.range o.kp).map (fun k => .some (elemVal o.b.fmt o.b.ftzn (s.elem gb o.b (k0 + k) n))))
      let res := ((List.range 64).zip rows).flatMap (fun (r, row) =>
        let a := s.aRow ga mg o r row
        ((List.range 128).zip cols).map (fun (n, b) =>
          (r * 128 + n, o.element (c.accCode o.acc (o.kind == .f64) r n) (fun k => s.scaleOf c o.a row nb k)
            (fun k => s.scaleOf c o.b 0 1 k) a b)))
      let word (hi : Nat) (x : Nat × Nat) : Nat × Word := (hi * 8192 + x.1, BitVec.ofNat 32 (x.2 / 2 ^ (32 * hi)))
      (.none, res.map (word 0) ++ (if o.kind == .f64 then res.map (word 1) else []))
  | _, _ => (.some .segv, [])

/-- The accumulator map with acc n (and n + 1) replaced by the words of a result. -/
def Cluster.setAcc (c : Cluster) (n : Nat) (res : Map Word) : Cluster :=
  let hi := if res.length ≤ 8192 then n + 1 else n + 2
  let new_ := (res.map (fun x => (n * 8192 + x.1, x.2))).filter (fun x => x.2 != 0#32)
  { c with acc := c.acc.filter (fun x => decide (x.1 < n * 8192)) ++ new_ ++ c.acc.filter (fun x => decide (hi * 8192 ≤ x.1)) }

/-- The first operation of an array, when nothing forbids it to start: not stopped for pre-emption, nor behind an earlier
operation on the same bytes (R244, R255). -/
def Cluster.startable (c : Cluster) (arr : Nat) : Option MatOp :=
  match c.queue arr with
  | [] => .none
  | o :: _ => if o.started || c.saved || c.ops.any (fun p => o.after p) then .none else .some o

/-- The cluster with the first operation of an array replaced. -/
def Cluster.setHead (c : Cluster) (arr : Nat) (o : MatOp) : Cluster :=
  { c with queues := mapPut c.queues arr (o :: (c.queue arr).drop 1) }

/-- The first operation of an array has ended: with a fault, its accumulator's later queued operations are not performed
(R245). -/
def State.endOp (s : State) (cl arr : Nat) (o : MatOp) (pair : Bool) : State :=
  s.modCluster cl (fun c =>
    let rest := (c.queue arr).drop 1
    let ran := c.ran ++ (if o.kind == .gathered then [o.agent, o.gather] else [o.agent])
    match o.fault with
    | .none => { c with queues := mapSet [] c.queues arr rest, ran := ran }
    | .some f =>
      let mine := accsOf o.acc pair
      let wide (p : MatOp) : Bool := p.kind == .f64 || p.a.fmt == 8
      { c with
        queues := mapSet [] c.queues arr (rest.filter (fun p => !(accsOf p.acc (wide p)).any mine.contains))
        accFault := mine.foldl (fun m n => mapPut m n (f, o.agent)) c.accFault
        ran := ran })

/-- INDEX_GATHER: the gather unit reads the index vector of a queued mma.gx and collects its rows into the operand latch; POISON, or an
index outside the table, is met here (R245, R252). -/
def execIndexGather (cl arr : Nat) (s : State) : Out :=
  let c := s.cluster cl
  .next (match (c.queue arr).find? (fun o => o.kind == .gathered && !o.started && o.rows.isNone) with
    | .none => s
    | .some o =>
      if c.saved || c.ops.any (fun p => o.after p) then s
      else
        match s.gangMember c o.meta_.member with
        | .none => s
        | .some g =>
          let rows := (List.range 64).map (fun j => s.spNum g (o.meta_.offset + 2 * j) 2)
          let ga := (s.gangMember c o.a.member).getD 0
          let outside := rows.any (fun r => o.a.rows ≤ r)
          let reads := o.indexVector :: (if outside then [] else o.aReads rows)
          let f : Option Cause := if s.poisonedIn c reads then .some .poison else if outside then .some .fmt else .none
          let latch := if f.isSome then [] else rows.map (fun r => (List.range o.kp).map (fun j => s.elem ga o.a r (o.step * o.kp + j)))
          (s.trackOp cl o.gather false reads).modCluster cl (fun c => { c with queues := mapPut c.queues arr ((c.queue arr).map (fun p =>
            if p.agent == o.agent then { p with rows := .some rows, latch := latch, fault := f } else p)) }))

/-- MATRIX_PASS_START: the first pass of an array reads its operands and scales (R244, R250). -/
def execMatrixPassStart (cl arr : Nat) (s : State) : Out :=
  .next (match (s.cluster cl).startable arr with
    | .none => s
    | .some o =>
      if !o.isPass || (o.kind == .gathered && o.rows.isNone) then s
      else
        let (f, res) := s.passResult cl o
        (s.trackOp cl o.agent false (o.passReads (o.rows.getD (List.range 64)))).modCluster cl (fun c =>
          c.setHead arr { o with started := true, fault := f, result := res }))

/-- MATRIX_PASS_END: the pass writes its accumulator once (R244), or is discarded (R245). -/
def execMatrixPassEnd (cl arr : Nat) (s : State) : Out :=
  .next (match (s.cluster cl).queue arr with
    | [] => s
    | o :: _ =>
      if !o.started then s
      else
        let s := if o.fault.isNone then s.modCluster cl (fun c => c.setAcc o.acc o.result) else s
        s.endOp cl arr o (o.kind == .f64))

/-- The words of an accumulator as a tile's rows in scratchpad bytes (R254). -/
def Cluster.drainBytes (c : Cluster) (o : MatOp) (r : Nat) : List Byte :=
  (List.range 128).flatMap (fun n =>
    let x := c.accCode o.acc (o.a.fmt == 8) r n
    match o.a.fmt with
    | 8 => bytesOfNat 8 x
    | 1 => bytesOfNat 4 x
    | f => bytesOfNat 2 (convert f32 (floatFmt f) plainCtl x).1)

/-- Does a write of n bytes at o meet a poisoned sector that it does not cover (R245)? -/
def Group.spoilsAt (g : Group) (o n : Nat) : Bool :=
  (o % 32 != 0 && g.spPoison.contains (o / 32)) || ((o + n) % 32 != 0 && g.spPoison.contains ((o + n) / 32))

/-- The rows of an acc.store in order, up to the first that meets POISON: how many are written, and the state after (R245; log 68). -/
def State.drainRows (s : State) (g : Nat) (c : Cluster) (o : MatOp) : Nat × State :=
  (List.range 64).foldl (fun (x : Nat × State) r =>
    let (_, off, n) := o.a.slice r 0 128
    if x.1 != r || (x.2.group g).spoilsAt off n then x else (r + 1, x.2.writeScratch g off (c.drainBytes o r))) (0, s)

/-- An accumulator operation performed (R245, R254). -/
def State.accOp (s : State) (cl arr : Nat) (o : MatOp) : State :=
  let c := s.cluster cl
  match o.kind with
  | .zero => (s.modCluster cl (fun c => c.setAcc o.acc [])).endOp cl arr o false
  | .load =>
    let s := s.trackOp cl o.agent false o.reads
    match s.gangMember c o.a.member with
    | .none => s.endOp cl arr { o with fault := .some .segv } (o.a.fmt == 8)
    | .some g =>
      if s.poisonedIn c o.reads then s.endOp cl arr { o with fault := .some .poison } (o.a.fmt == 8)
      else
        let all (hi : Nat) : Map Word := (List.range 8192).map (fun j =>
          (hi * 8192 + j, BitVec.ofNat 32 (s.elem g o.a (j / 128) (j % 128) / 2 ^ (32 * hi))))
        (s.modCluster cl (fun c => c.setAcc o.acc (all 0 ++ (if o.a.fmt == 8 then all 1 else [])))).endOp cl arr o
          (o.a.fmt == 8)
  | _ =>
    match s.gangMember c o.a.member with
    | .none => s.endOp cl arr { o with fault := .some .segv } (o.a.fmt == 8)
    | .some g =>
      let (k, s) := s.drainRows g c o
      let s := s.trackOp cl o.agent true (o.writes.take k)
      let n := (rowBytes o.a.fmt 128).getD 0
      let s := match o.request with
        | .some j =>
          let e := c.entry (BitVec.ofNat 6 j)
          (match s.gangMember c e.omember with
          | .some og =>
            let s := s.objCount og e.ooffset (k * n) o.agent
            if k == 64 then s else s.objFail og e.ooffset ((64 - k) * n) o.agent .poison
          | .none => s)
        | .none => s
      s.endOp cl arr (if k == 64 then o else { o with fault := .some .poison }) (o.a.fmt == 8)

/-- ACC_OPERATION_COMPLETE (R254). -/
def execAccOperationComplete (cl arr : Nat) (s : State) : Out :=
  .next (match (s.cluster cl).startable arr with
    | .none => s
    | .some o => if o.isPass then s else s.accOp cl arr o)

end Sys2Proof.Machine
end

