-- ==== Sys2Proof/Machine/Front.lean ====
section
/-! DEFINITION. The front end (R310 to R323): the structures it reads and writes, completion records, the accepted launches,
graph runs, and the queue harts with their packets. -/

namespace Sys2Proof.Machine

/-! ### Structures in memory (R311, R314, R316, R328) -/

/-- n bytes at a virtual address as the front end finds them: physical pieces with their buffer numbers, a fault that may be
served, or one that may not. -/
inductive Pieces where
  | here (l : List (Nat × Nat × Nat))
  | service (reason va : Nat)
  | unserved
deriving DecidableEq, Repr

/-- The pieces of n bytes from va, page by page. I/O space, a peer, and addresses of more than 57 bits are not served. -/
def State.piecesOf (s : State) (c : Ctx) (write : Bool) : Nat → Nat → Nat → Pieces
  | 0, _, _ => .here []
  | fuel + 1, va, n =>
    if n == 0 then .here []
    else if 2 ^ 57 ≤ va then .unserved
    else
      let m := min n (65536 - va % 65536)
      match s.place c 0 write va with
      | .memory pa buf =>
        match s.piecesOf c write fuel (va + m) (n - m) with
        | .here l => .here ((pa, m, buf) :: l)
        | e => e
      | .service r => .service r va
      | _ => .unserved

/-- Pages that n bytes can touch. -/
def pageFuel (n : Nat) : Nat := n / 65536 + 2

/-- Does the data check of a piece fail (R354, R362)? -/
def State.pieceBad (s : State) (c : Ctx) (p : Nat × Nat × Nat) : Bool :=
  (List.range (p.2.1 / 32 + 2)).any (fun j =>
    let a := p.1 / 32 * 32 + 32 * j
    decide (a < p.1 + p.2.1) && (mapGet false s.mem.poison (a / 32) || s.lineState c.world p.2.2 a != .good))

/-- What a read or write of a structure comes to. -/
inductive Got where
  | bytes (b : List Byte)
  | wait (s : State)
  | lost

/-- A walk sent for service once for a key of the front end (R314, R348). -/
def State.askFront (s : State) (key : Nat) (c : Ctx) (va kind reason : Nat) : State :=
  s.sendFault c va kind reason (.front key)

/-- n bytes read at va for a key. -/
def State.frontGet (s : State) (key : Nat) (c : Ctx) (va n : Nat) : Got :=
  if mapHas s.front.failed key then .lost
  else
    match s.piecesOf c false (pageFuel n) va n with
    | .here l => if l.any (s.pieceBad c) then .lost else .bytes (l.flatMap (fun p => s.mem.bytes p.1 p.2.1))
    | .service r a => .wait (s.askFront key c a 0 r)
    | .unserved => .lost

/-- May n bytes be written at va for a key? -/
def State.frontCan (s : State) (key : Nat) (c : Ctx) (va n : Nat) : Got :=
  if mapHas s.front.failed key then .lost
  else
    match s.piecesOf c true (pageFuel n) va n with
    | .here _ => .bytes []
    | .service r a => .wait (s.askFront key c a 1 r)
    | .unserved => .lost

/-- Bytes written by pieces. -/
def State.putPieces (s : State) (c : Ctx) : List Byte → List (Nat × Nat × Nat) → State
  | _, [] => s
  | b, p :: t => (s.writePhys (s.lineTag c.world p.2.2) p.1 (b.take p.2.1)).putPieces c (b.drop p.2.1) t

/-- Bytes written at va, where frontCan allows it. -/
def State.frontPut (s : State) (c : Ctx) (va : Nat) (b : List Byte) : State :=
  match s.piecesOf c true (pageFuel b.length) va b.length with
  | .here l => s.putPieces c b l
  | _ => s

/-- A number of n bytes at offset o of a structure (R4). -/
def num (b : List Byte) (o n : Nat) : Nat := natOfBytes ((b.drop o).take n)

/-- Is every byte outside the named ranges zero? -/
def clean (b : List Byte) (named : List (Nat × Nat)) : Bool :=
  (List.range b.length).all (fun j => named.any (fun r => decide (r.1 ≤ j) && decide (j < r.1 + r.2)) || b.getD j 0#8 == 0#8)

/-- The front end no longer holds a failure against a key. -/
def State.forget (s : State) (key : Nat) : State :=
  { s with front := { s.front with failed := mapDel s.front.failed key } }

/-! ### Service rings in memory (R364 to R366) -/

/-- Is a ring enabled? -/
def Ring.on (g : Ring) : Bool := g.w0.getLsbD 63
/-- Its slot count. -/
def Ring.size (g : Ring) : Nat :=
  let n := nbits g.w1.toNat 32 4
  2 ^ (if 4 ≤ n ∧ n ≤ 12 then n else 4)
/-- The address of slot n (R365). -/
def Ring.addr (g : Ring) (n : Nat) : Nat := nbits g.w0.toNat 6 51 * 64 + 320 * n
/-- Slot n as the device keeps it. -/
def Ring.slot (g : Ring) (n : Nat) : Slot := mapGet Slot.empty g.slots n
/-- The key under which a die's filer writes. -/
def ringKey (die : Nat) : Nat := 2 ^ 52 + die

/-- Slot n of a die's ring is free again, its STATE 0, without a reply (R370). -/
def State.clearSlot (s : State) (die n : Nat) : State :=
  let g := s.ring die
  (s.frontPut s.sysCtx (g.addr n) (bytesOfNat 4 0)).modRing die (fun g => { g with
    slots := mapPut g.slots n { g.slot n with ready := false, filing := .none, owed := .none } })

/-- The calls of the grids l end with them: they leave the rings, and their filed and owed slots are freed without replies
(R370). -/
def State.dropCalls (s : State) (l : List Nat) : State :=
  [0, 1, 2, 3].foldl (fun s die =>
    let mine (k : Nat) : Bool := match mapFind (s.ring die).calls k with | .some c => l.contains c.grid | .none => false
    let gone := (s.ring die).slots.filter (fun e => match e.2.filing with | .some (.call k) => mine k | _ => false)
    let s := gone.foldl (fun s e => s.clearSlot die e.1) s
    if (s.ring die).calls.isEmpty then s
    else s.modRing die (fun g => { g with
      waiting := g.waiting.filter (fun f => match f with | .call k => !mine k | .record _ => true)
      calls := g.calls.filter (fun e => !l.contains e.2.grid) })) s

/-! ### Completion records (R320) -/

/-- The agent that writes completion records. -/
def frontAgent : Nat := (2 ^ 40 + 32) * 1024
/-- The key under which record k is written. -/
def recordKey (k : Nat) : Nat := 2 ^ 50 + k

/-- The code-6 record of a completion record that cannot be written (R320). -/
def State.lostRecord (s : State) (c : Completion) : State :=
  s.post 0 { code := 6
             body := bytesOfNat 4 (if c.grid.isSome then c.number else 0) ++ bytesOfNat 4 c.status ++ bytesOfNat 8 c.addr.toNat
               ++ List.replicate 48 0#8
             warp := .none
             cluster := .none }

/-- Completion record k written where its address allows: bytes 8 to 31 first, STATUS last with a release at system scope; at
acceptance STATUS alone. Earlier records of the same address go first. -/
def State.flushRecord (s : State) (k : Nat) : State :=
  match mapFind s.front.records k with
  | .none => s
  | .some c =>
    if s.front.records.any (fun e => decide (e.1 < k) && e.2.addr == c.addr) then s
    else
      let x : Ctx := ⟨4, 0, c.root, c.world, c.kern⟩
      let drop (s : State) : State :=
        { s with front := { s.front with records := mapDel s.front.records k } }.forget (recordKey k)
      let a := c.addr.toNat
      match if a % 32 == 0 then s.frontCan (recordKey k) x a 32 else .lost with
      | .wait t => t
      | .lost =>
        let s := drop s
        if c.status == 0 then
          match c.grid with
          | .some g => s.modGrid g (fun y => { y with lost := true })
          | .none => s
        else s.lostRecord c
      | .bytes _ =>
        let s := drop s
        if c.status == 0 then s.frontPut x a (bytesOfNat 4 0)
        else
          let s := s.frontPut x (a + 8) ([c.number, c.groups, c.pass, c.fail, c.overs, 0].flatMap (bytesOfNat 4))
          let s := s.frontPut x a (bytesOfNat 4 c.status)
          match s.physical x true a with
          | .some pa => s.addRel pa 4 (s.release frontAgent 7#3 c.pub)
          | .none => s

/-- A completion record is to be written; address 0 means none. -/
def State.queueRecord (s : State) (c : Completion) : State :=
  if c.addr == 0#64 then s
  else
    let (k, s) := s.newUnit
    { s with front := { s.front with records := mapPut s.front.records k c } }.flushRecord k

/-- Every completion record still to be written is tried again. -/
def State.flushRecords (s : State) : State := s.front.records.foldl (fun s e => s.flushRecord e.1) s

/-! ### Accepted launches (R319, R320, R326) -/

/-- The space that a grid's structures lie in (R314, R338). -/
def State.gridCtx (s : State) (x : Grid) : Ctx := if x.fromQueue then s.sysCtx else ⟨4, 0, x.inRoot, x.inWorld, x.inKern⟩

/-- Is a $grid in use? -/
def State.gridLive (s : State) (n : Nat) : Bool :=
  (s.grid n).status == .accepted || (s.grid n).status == .dispatched

/-- The next $grid number: from a 32-bit counter, without 0 and without the numbers in use (R319). -/
def State.gridNumber (s : State) : Nat :=
  ((List.range (s.grids.length + 2)).map (fun j => (s.front.nextGrid + j) % 2 ^ 32)).find? (fun n => n != 0 && !s.gridLive n)
    |>.getD 0

/-- The completion record of grid n with a status and what it has counted (R320). -/
def State.recordOf (s : State) (n status : Nat) (pub : Map Nat) : Completion :=
  let x := s.grid n
  let c := s.gridCtx x
  ⟨c.root, c.world, c.kern, x.compl, status, n, x.retired, x.pass, x.fail, x.overs, .some n, pub⟩

/-- A launch joins the front end's list under a new number, and its STATUS becomes 0 (R316, R319, R320). -/
def State.accept (s : State) (x : Grid) : Nat × State :=
  let n := s.gridNumber
  let s := { s with front := { s.front with nextGrid := n + 1, orders := s.front.orders + 1 } }
  let s := s.setGrid n { x with status := .accepted, order := s.front.orders }
  (n, s.queueRecord (s.recordOf n 0 []))

/-! ### Graph runs (R321 to R323) -/

/-- The graph of a residence changed. -/
def State.modGraph (s : State) (r : Nat) (f : Graph → Graph) : State :=
  match mapFind s.front.graphs r with
  | .some g => { s with front := { s.front with graphs := mapPut s.front.graphs r (f g) } }
  | .none => s
/-- Node j of a graph changed. -/
def Graph.modNode (g : Graph) (j : Nat) (f : Node → Node) : Graph := { g with nodes := g.nodes.modify j f }

/-- The launch of node j of a residence. -/
def nodeGrid (g : Graph) (r j : Nat) (x : Node) : Grid :=
  { Grid.empty with
    recAddr := x.record
    argAddr := x.args
    compl := x.compl
    threads := x.threads.toNat
    inKern := g.kpost
    fromQueue := true
    graph := .some (r, j)
    queue := .some g.queue
    list := 4
    pub := x.pub }

/-- The nodes among l of a residence that can start now, in ascending order. -/
def State.readyNodes (s : State) (r : Nat) (l : List Nat) : List Nat :=
  match mapFind s.front.graphs r with
  | .none => []
  | .some g => (List.range g.nodes.length).filter (fun j => l.contains j &&
      (match g.nodes[j]? with | .some y => y.count == 0 && !y.started | .none => false))

/-- Node j of residence r has ended with STATUS 1: its successors count down, in list order, and learn what it publishes (R323,
R178). -/
def Graph.countDown (g : Graph) (j : Nat) (pub : Map Nat) : Graph :=
  match g.nodes[j]? with
  | .none => g
  | .some x => x.succ.foldl (fun g k => g.modNode k (fun y => { y with count := y.count - 1, pub := joinClock y.pub pub }))
      (g.modNode j (fun x => { x with ended := .some 1 }))

/-- Nodes l of residence r start in ascending order; a join node completes as soon as it starts, and then the nodes that this
makes ready start (R321, R323). -/
def State.startNodes (r : Nat) : Nat → List Nat → State → State
  | 0, _, s => s
  | fuel + 1, l, s =>
    l.foldl (fun s j =>
      match (mapFind s.front.graphs r).bind (fun g => (g.nodes[j]?).map (fun x => (g, x))) with
      | .none => s
      | .some (g, x) =>
        let s := s.modGraph r (fun g => g.modNode j (fun x => { x with started := true }))
        if x.record != 0#64 then (s.accept (nodeGrid g r j x)).2
        else
          let s := s.modGraph r (fun g => g.countDown j x.pub)
          State.startNodes r fuel (s.readyNodes r x.succ) s) s

/-- The STATUS of a run that has ended (R323). -/
def Graph.status (g : Graph) : Nat :=
  if g.nodes.all (fun x => x.ended == .some 1) then 1
  else if g.nodes.any (fun x => x.ended == .some 2 || x.ended == .some 3) then 2
  else 4

/-- The run of residence r ends when no node is running and none can start: its record is written, and the residence is free
(R320, R322, R323). GROUPS is the sum over its nodes. -/
def State.settleGraph (s : State) (r : Nat) : State :=
  match mapFind s.front.graphs r with
  | .none => s
  | .some g =>
    if g.nodes.any (fun x => (x.started && x.ended.isNone) || (!x.started && x.count == 0)) then s
    else
      let n := (g.nodes.filter (fun x => x.ended == .some 1)).length
      let pub := g.nodes.foldl (fun m x => joinClock m x.pub) []
      let c := s.sysCtx
      { s with front := { s.front with graphs := mapDel s.front.graphs r } }.queueRecord
        ⟨c.root, c.world, c.kern, g.compl, g.status, n, g.groups, g.pass, g.fail, g.overs, .none, pub⟩

/-- Grid n, a node of a run, has ended with a STATUS (R323). -/
def State.endNode (s : State) (n status : Nat) (pub : Map Nat) : State :=
  let x := s.grid n
  match x.graph with
  | .none => s
  | .some (r, j) =>
    let s := s.modGraph r (fun g =>
      let g := { g with groups := g.groups + x.retired, pass := g.pass + x.pass, fail := g.fail + x.fail, overs := g.overs + x.overs }
      let g := g.modNode j (fun y => { y with ended := .some status, pub := joinClock y.pub pub })
      if status == 1 then g.countDown j pub else g)
    let succ := match mapFind s.front.graphs r with
      | .some g => (g.nodes[j]?).elim [] (·.succ)
      | .none => []
    let s := if status == 1 then State.startNodes r 4097 (s.readyNodes r succ) s else s
    s.settleGraph r

/-! ### Queue harts (R312 to R317) -/

/-- Queue hart q. -/
def State.hart (s : State) (q : BitVec 5) : Hart := s.front.harts[q.toNat]'q.isLt
/-- The state with queue hart q replaced. -/
def State.setHart (s : State) (q : BitVec 5) (h : Hart) : State :=
  { s with front := { s.front with harts := s.front.harts.set q.toNat h q.isLt } }
/-- QBIND.q. -/
def State.qbind (s : State) (q : BitVec 5) : DWord := s.front.qbind[q.toNat]'q.isLt
/-- The agent of a hart, of which hand-overs and WRITE packets are accesses (R317). -/
def hartAgent (q : BitVec 5) : Nat := (2 ^ 40 + q.toNat) * 1024
/-- World 0's space under the root that hart q read for its packet (R311). -/
def State.hartCtx (s : State) (q : BitVec 5) : Ctx := { s.sysCtx with root := (s.hart q).root }
/-- The descriptor's address in a binding (R312). -/
def descOf (bind : DWord) : Nat := nbits bind.toNat 6 51 * 64
/-- Where packet i of a ring lies (R313). -/
def slotOf (desc : List Byte) (i : Nat) : Nat := num desc 0 8 + 64 * (i % 2 ^ min (num desc 8 4) 64)

/-- The hart stops its queue at a packet: ERRIDX, then ERRCODE, and the code-2 record (R316). -/
def State.stopQueue (s : State) (q : BitVec 5) (idx code : Nat) : State :=
  let h := s.hart q
  let c := s.hartCtx q
  let s := s.frontPut c (descOf h.bind + 48) (bytesOfNat 8 idx)
  let s := s.frontPut c (descOf h.bind + 40) (bytesOfNat 4 code)
  let s := s.post 0 { code := 2
                      body := bytesOfNat 8 q.toNat ++ bytesOfNat 8 idx ++ bytesOfNat 4 code ++ List.replicate 44 0#8
                      warp := .none
                      cluster := .none }
  (s.forget q.toNat).setHart q { h with state := .stopped, packet := [] }

/-- The hart learns what was released at the n bytes it reads, at system scope (R314, R317). -/
def State.hartAcquire (s : State) (q : BitVec 5) (va n : Nat) : State :=
  match s.physical (s.hartCtx q) false va with
  | .some pa => s.modAgent (hartAgent q) (fun a => a.learnAll (s.acquired (hartAgent q) 7#3 (s.relsAt pa n)))
  | .none => s

/-- The hart's write of 8 bytes, of RIDX or of a WRITE packet, is a release at a scope (R314, R316). -/
def State.hartRelease (s : State) (q : BitVec 5) (va : Nat) (scope : BitVec 3) : State :=
  match s.physical (s.hartCtx q) true va with
  | .some pa =>
    (s.addRel pa 8 (s.release (hartAgent q) scope (s.publishedAll (hartAgent q)))).endRegion (hartAgent q)
  | .none => s

/-- The packet at hand: none where the hart has nothing to read; a wait for service; or a queue to stop. -/
inductive Head where
  | nothing
  | wait (s : State)
  | lost (s : State)
  | packet (s : State) (idx : Nat) (b : List Byte)

/-- The packet of hart q: the one it waits in or carries out, or, under the binding and the root that it now reads, the one at RIDX,
whose header and descriptor it will write (R311, R312, R314). -/
def State.head (s : State) (q : BitVec 5) : Head :=
  let h := s.hart q
  match h.state with
  | .idle | .stopped => .nothing
  | .waitBar | .waitCond | .waitGraph | .mid | .pass => .packet s h.idx h.packet
  | .waitHeader =>
    let b := s.qbind q
    let h := { h with bind := b, root := s.sysCtx.root }
    let s := s.setHart q h
    let c := s.sysCtx
    if !b.getLsbD 63 then .nothing
    else
      match s.frontCan q.toNat c (descOf b) 64 with
      | .wait t => .wait t
      | .lost => .lost s
      | .bytes _ =>
        match s.frontGet q.toNat c (descOf b) 64 with
        | .wait t => .wait t
        | .lost => .lost s
        | .bytes d =>
          let i := num d 24 8
          if num d 16 8 ≤ i then .nothing
          else
            match s.frontCan q.toNat c (slotOf d i) 64 with
            | .wait t => .wait t
            | .lost => .lost (s.setHart q { h with idx := i })
            | .bytes _ =>
              match s.frontGet q.toNat c (slotOf d i) 64 with
              | .wait t => .wait t
              | .lost => .lost (s.setHart q { h with idx := i })
              | .bytes p =>
                let s := (s.hartAcquire q (descOf b + 16) 8).hartAcquire q (slotOf d i) 4
                .packet ((s.setHart q { h with state := .mid, idx := i, packet := p }).endRegion (hartAgent q)) i p

/-- The packet of hart q is complete: its header becomes 0, RIDX passes it, and the hart sleeps at DOOR (R314). Where a mapping has
gone meanwhile, the hart waits for its service, or stops its queue. -/
def State.passPacket (s : State) (q : BitVec 5) (idx : Nat) : State :=
  let h := { s.hart q with state := .pass }
  let c := s.hartCtx q
  let a := descOf h.bind
  match s.frontCan q.toNat c a 64, s.frontGet q.toNat c a 64 with
  | .wait t, _ | _, .wait t => t.setHart q h
  | .bytes _, .bytes d =>
    match s.frontCan q.toNat c (slotOf d idx) 4 with
    | .wait t => t.setHart q h
    | .lost => s.stopQueue q idx 4
    | .bytes _ =>
      let s := s.frontPut c (slotOf d idx) (bytesOfNat 4 0)
      let s := (s.frontPut c (a + 24) (bytesOfNat 8 (idx + 1))).hartRelease q (a + 24) 5#3
      (s.forget q.toNat).setHart q { h with
        state := if !(s.qbind q).getLsbD 63 || idx + 1 == num d 16 8 then .idle else .waitHeader
        packet := [] }
  | _, _ => s.stopQueue q idx 4

/-- The named bytes of a packet's type (R315). -/
def packetNamed (b : List Byte) : List (Nat × Nat) :=
  match num b 0 1 with
  | 2 => [(0, 2), (8, 28)]
  | 3 => if num b 4 1 % 4 == 0 then [(0, 2), (4, 1), (8, 8), (24, 4)] else [(0, 2), (4, 1), (8, 12), (24, 4)]
  | 4 | 5 => [(0, 2), (8, 16)]
  | _ => [(0, 2)]

/-- The ERRCODE of a malformed packet: a reserved type, then a reserved byte or a field out of limit, then a misaligned address
(R315, R316). -/
def packetError (b : List Byte) : Option Nat :=
  let kind := num b 4 1 % 4
  let cmp := num b 4 1 / 4 % 4
  let limit := match num b 0 1 with
    | 2 => num b 32 4 == 0
    | 3 => 2 ≤ kind || 16 ≤ num b 4 1 || cmp == 3 || (kind == 1 && (cmp != 0 || 2 ^ 25 ≤ num b 24 4))
    | _ => false
  let skew := match num b 0 1 with
    | 2 => num b 8 8 % 128 != 0 || num b 16 8 % 8 != 0 || num b 24 8 % 32 != 0
    | 3 => if kind == 0 then num b 8 8 % 4 != 0 else num b 16 4 % 16 != 0
    | 4 => num b 8 8 % 64 != 0 || num b 16 8 % 32 != 0
    | 5 => num b 8 8 % 8 != 0
    | _ => false
  if 6 ≤ num b 0 1 then .some 1
  else if 2 ≤ num b 1 1 || !clean b (packetNamed b) || limit then .some 2
  else if skew then .some 3
  else .none

/-- Has every earlier LAUNCH and GRAPH packet of queue q completed (R315)? -/
def State.queueDone (s : State) (q : BitVec 5) : Bool :=
  !s.grids.any (fun g => g.2.queue == .some q.toNat && (g.2.status == .accepted || g.2.status == .dispatched))
    && !s.front.graphs.any (fun g => g.2.queue == q.toNat)

/-- After a BAR wait the hart has the completions of its queue's launches behind it (R317). -/
def State.learnEnds (s : State) (q : BitVec 5) : State :=
  s.grids.foldl (fun s g => if g.2.queue == .some q.toNat then s.modAgent (hartAgent q) (fun a => a.learnAll g.2.ends) else s) s

/-- The mould of the packets of a type: malformed ones stop the queue, a BAR wait comes first, and the body says whether the
packet is complete (R314 to R316). -/
def packetForm (type : Nat → Bool) (q : BitVec 5) (s : State) (body : State → Nat → List Byte → State × Bool) : State :=
  if (s.hart q).state == .waitCond then s
  else if (s.hart q).state == .pass then (if type (num (s.hart q).packet 0 1) then s.passPacket q (s.hart q).idx else s)
  else
    match s.head q with
    | .nothing => s
    | .wait t => t
    | .lost t => t.stopQueue q (t.hart q).idx 4
    | .packet t i b =>
      if !type (num b 0 1) then s
      else
        match packetError b with
        | .some e => t.stopQueue q i e
        | .none =>
          let bar := num b 1 1 == 1
          if bar && !t.queueDone q then t.setHart q { t.hart q with state := .waitBar }
          else
            match body (if bar then t.learnEnds q else t) i b with
            | (u, true) => u.passPacket q i
            | (u, false) => u

/-- PACKET_NOP (R315). -/
def execPacketNop (q : BitVec 5) (s : State) : Out := .next (packetForm (· == 1) q s (fun s _ _ => (s, true)))

/-- PACKET_LAUNCH (R316): complete when the front end has accepted the launch. -/
def execPacketLaunch (q : BitVec 5) (s : State) : Out :=
  .next (packetForm (· == 2) q s (fun s _ b =>
    let pub := s.publishedAll (hartAgent q)
    let s := s.endRegion (hartAgent q)
    let x := { Grid.empty with
      recAddr := BitVec.ofNat 64 (num b 8 8)
      argAddr := BitVec.ofNat 64 (num b 16 8)
      compl := BitVec.ofNat 64 (num b 24 8)
      threads := num b 32 4
      inKern := (s.hart q).bind.getLsbD 62
      fromQueue := true
      queue := .some q.toNat
      list := 4
      pub := pub }
    ((s.accept x).2, true)))

/-- PACKET_WRITE (R316). -/
def execPacketWrite (q : BitVec 5) (s : State) : Out :=
  .next (packetForm (· == 5) q s (fun s i b =>
    let a := num b 8 8
    match s.frontCan q.toNat (s.hartCtx q) a 8 with
    | .wait t => (t, false)
    | .lost => (s.stopQueue q i 4, false)
    | .bytes _ => ((s.frontPut (s.hartCtx q) a (bytesOfNat 8 (num b 16 8))).hartRelease q a 7#3, true)))

/-- PACKET_WAIT: the hart begins to wait (R316). -/
def execPacketWait (q : BitVec 5) (s : State) : Out :=
  .next (packetForm (· == 3) q s (fun s _ _ => (s.setHart q { s.hart q with state := .waitCond }, false)))

/-- The group that a kind-1 WAIT names, while it exists and has not retired (R316). -/
def State.namedGroup (s : State) (grid no : Nat) : Option Nat :=
  (s.groups.find? (fun e => !e.2.handler && e.2.grid == grid && e.2.no.toNat == no && e.2.status != .retired)).map (·.1)

/-- The condition of a kind-0 WAIT (R315). -/
def waitHolds (cmp x v : Nat) : Bool :=
  match cmp with
  | 0 => x == v
  | 1 => x != v
  | _ => decide (v ≤ x)

/-- Hart q looks at the condition of the WAIT it waits in, and moves on when it holds: an acquire at system scope (R316,
R317). -/
def State.lookWait (s : State) (q : BitVec 5) : State :=
  let h := s.hart q
  let b := h.packet
  if h.state != .waitCond then s
  else if num b 4 1 % 4 == 0 then
    let a := num b 8 8
    match s.frontGet q.toNat (s.hartCtx q) a 4 with
    | .wait t => t
    | .lost => s.stopQueue q h.idx 4
    | .bytes w =>
      if waitHolds (num b 4 1 / 4) (natOfBytes w) (num b 24 4) then
        ((s.hartAcquire q a 4).endRegion (hartAgent q)).passPacket q h.idx
      else s
  else
    match s.namedGroup (num b 8 4) (num b 12 4) with
    | .none => s.passPacket q h.idx
    | .some g =>
      let o := num b 16 4
      if s.phase g o == num b 24 4 then s
      else
        let k := hartAgent q
        let (rels, es) := s.objSeen g o (num b 24 4)
        let s := s.modAgent k (fun a => a.learnAll (s.acquired k 7#3 rels))
        ((s.observe k es).endRegion k).passPacket q h.idx

/-- WAIT_PACKET_SATISFIED (R317). -/
def execWaitPacketSatisfied (q : BitVec 5) (s : State) : Out := .next (s.lookWait q)
/-- HART_REREAD_TIMER (R314, R316): a header is read again by its packet's own event. -/
def execHartRereadTimer (q : BitVec 5) (s : State) : Out := .next (s.lookWait q)

/-- DOORBELL_REREAD_TIMER: a sleeping hart looks at DOOR (R314). -/
def execDoorbellRereadTimer (q : BitVec 5) (s : State) : Out :=
  let h := s.hart q
  .next (if h.state == .idle && (s.qbind q).getLsbD 63 then s.setHart q { h with state := .waitHeader } else s)

/-- PACKET_RESERVED_TYPE (R316). -/
def execPacketReservedType (q : BitVec 5) (s : State) : Out :=
  .next (packetForm (fun t => 6 ≤ t) q s (fun s _ _ => (s, false)))

/-- QBIND_WRITE (R312). -/
def execQbindWrite (q : BitVec 5) (v : DWord) (s : State) : Out := .next (s.writeQbind q.toNat v)
/-- SYSROOT_WRITE (R311). -/
def execSysrootWrite (v : DWord) (s : State) : Out := .next (s.writeSysroot v)

/-! ### Loading a graph (R321, R322) -/

/-- Node j of a table and the address of its successor list. -/
def tableNode (t : List Byte) (j : Nat) (pub : Map Nat) : Node × Nat × Nat :=
  let e := (t.drop (64 + 64 * j)).take 64
  ({ record := BitVec.ofNat 64 (num e 0 8)
     args := BitVec.ofNat 64 (num e 8 8)
     compl := BitVec.ofNat 64 (num e 16 8)
     threads := BitVec.ofNat 32 (num e 24 4)
     count := num e 28 2
     succ := []
     started := false
     ended := .none
     pub := pub }, num e 32 2, num e 40 8)

/-- Does entry j of a table keep its limits: reserved bytes, counts, and the thread count of a launch? -/
def entryOk (t : List Byte) (j : Nat) : Bool :=
  let e := (t.drop (64 + 64 * j)).take 64
  clean e [(0, 30), (32, 2), (40, 8)] && decide (num e 28 2 ≤ 4095) && decide (num e 32 2 ≤ 4095)
    && (num e 0 8 == 0 || num e 24 4 != 0) && num e 40 8 % 2 == 0

/-- The nodes with their successor lists, read in order. -/
def State.loadNodes (s : State) (key : Nat) (c : Ctx) (t : List Byte) (pub : Map Nat) : List Nat → State × Option (List Node) ⊕ State
  | [] => .inl (s, .some [])
  | j :: l =>
    let (x, n, a) := tableNode t j pub
    match if n == 0 then .bytes [] else s.frontGet key c a (2 * n) with
    | .wait u => .inr u
    | .lost => .inl (s, .none)
    | .bytes b =>
      match s.loadNodes key c t pub l with
      | .inl (u, .some r) => .inl (u, .some ({ x with succ := (List.range n).map (fun i => num b (2 * i) 2) } :: r))
      | e => e

/-- Do the successor lists name nodes, each as often as its NPRED (R322)? -/
def listsOk (l : List Node) : Bool :=
  let all := l.flatMap (·.succ)
  all.all (fun k => decide (k < l.length))
    && ((List.range l.length).zip l).all (fun (j, x) => (all.filter (· == j)).length == x.count)

/-- PACKET_GRAPH (R316, R321, R322): a table whose run is resident, or the lack of a residence, is waited for. -/
def execPacketGraph (q : BitVec 5) (s : State) : Out :=
  .next (packetForm (· == 4) q s (fun s i b =>
    let a := num b 8 8
    let key := q.toNat
    let c := s.hartCtx q
    let wait := (s.setHart q { s.hart q with state := .waitGraph }, false)
    let compl := BitVec.ofNat 64 (num b 16 8)
    let refuse (s : State) : State × Bool :=
      (s.queueRecord ⟨c.root, c.world, c.kern, compl, 3, 0, 0, 0, 0, 0, .none, []⟩, true)
    if s.front.graphs.any (fun g => g.2.table == BitVec.ofNat 64 a) then wait
    else
      match (List.range 8).find? (fun r => !mapHas s.front.graphs r) with
      | .none => wait
      | .some r =>
        match s.frontGet key c a 64 with
        | .wait t => (t, false)
        | .lost => (s.stopQueue q i 4, false)
        | .bytes h =>
          let n := num h 0 2
          if n == 0 || 4096 < n || !clean h [(0, 2)] then refuse s
          else
            match s.frontGet key c a (64 + 64 * n) with
            | .wait t => (t, false)
            | .lost => (s.stopQueue q i 4, false)
            | .bytes t =>
              if !(List.range n).all (entryOk t) then refuse s
              else
                let pub := s.publishedAll (hartAgent q)
                match s.loadNodes key c t pub (List.range n) with
                | .inr u => (u, false)
                | .inl (s, .none) => (s.stopQueue q i 4, false)
                | .inl (s, .some l) =>
                  if !listsOk l then refuse s
                  else
                    let g : Graph := ⟨BitVec.ofNat 64 a, compl, q.toNat, (s.hart q).bind.getLsbD 62, l, 0, 0, 0, 0⟩
                    let s := { s with front := { s.front with graphs := mapPut s.front.graphs r g } }
                    let s := (s.endRegion (hartAgent q)).queueRecord ⟨c.root, c.world, c.kern, compl, 0, 0, 0, 0, 0, 0, .none, []⟩
                    let s := State.startNodes r 4097 (s.readyNodes r (List.range n)) s
                    (s.settleGraph r, true)))

end Sys2Proof.Machine
end

