-- ==== Sys2Proof/Machine/Launch.lean ====
section
/-! DEFINITION. Launches (R318 to R339): dispatch and its checks, admission and placement, the start and retirement of groups
and gangs, grid completion, the Safety Net, and the instructions qpost, launch and verdict. -/

namespace Sys2Proof.Machine

/-! ### Launch records (R318, R328, R331) -/

/-- The launch record that 896 bytes hold (R318). -/
def parseRecord (b : List Byte) : LaunchRec where
  code := BitVec.ofNat 64 (num b 0 8)
  codelen := BitVec.ofNat 32 (num b 8 4)
  entry := BitVec.ofNat 32 (num b 12 4)
  ctrlpc := BitVec.ofNat 32 (num b 16 4)
  regs := num b 20 1
  scalars := num b 21 1
  groupw := num b 22 1
  gang := num b 23 1
  flags := BitVec.ofNat 16 (num b 24 2)
  qclass := num b 26 1
  homearg := num b 27 1
  scratch := BitVec.ofNat 32 (num b 28 4)
  stack := BitVec.ofNat 32 (num b 32 4)
  frame := BitVec.ofNat 32 (num b 36 4)
  homestride := BitVec.ofNat 64 (num b 40 8)
  keyh := BitVec.ofNat 64 (num b 48 8)
  ptroot := BitVec.ofNat 64 (num b 56 8)
  stkbase := BitVec.ofNat 64 (num b 64 8)
  framebase := BitVec.ofNat 64 (num b 72 8)
  exact := BitVec.ofNat 64 (num b 80 8)
  tol := BitVec.ofNat 32 (num b 88 4)
  tquota := BitVec.ofNat 32 (num b 92 4)
  traps := Vector.ofFn (fun j : Fin 64 => BitVec.ofNat 64 (num b (128 + 8 * j.val) 8))
  bins := Vector.ofFn (fun j : Fin 64 => BitVec.ofNat 32 (num b (640 + 4 * j.val) 4))
  clean := clean b [(0, 96), (128, 768)]

def LaunchRec.kern (r : LaunchRec) : Bool := r.flags.getLsbD 0
def LaunchRec.snet (r : LaunchRec) : Bool := r.flags.getLsbD 2
def LaunchRec.homed (r : LaunchRec) : Bool := r.flags.getLsbD 3
/-- Has the kernel a control section (R220)? -/
def LaunchRec.control (r : LaunchRec) : Bool := r.ctrlpc != 0xFFFFFFFF#32
/-- Is bin b declared, and its TILES and WINDOW (R318)? -/
def binDeclared (x : Word) : Bool := x.getLsbD 31
def binTiles (x : Word) : Nat := nbits x.toNat 16 7
def binWindowOf (x : Word) : Nat := nbits x.toNat 0 16

/-- An offset of an instruction in the image. -/
def LaunchRec.inImage (r : LaunchRec) (o : Nat) : Bool := o % 4 == 0 && decide (o < r.codelen.toNat)

/-- A trap-table entry that keeps R256 and R259 for cause code c. -/
def LaunchRec.trapOk (r : LaunchRec) (c : Nat) : Bool :=
  let e := (r.traps.toList.getD c 0#64).toNat
  let mode := nbits e 0 3
  if e == 0 then true
  else if c == 0 || c == 5 || 0x1F ≤ c then false
  else
    nbits e 3 13 == 0
      && (mode == 0 || (c != 30 && (mode == 1 || mode == 2 || (mode == 3 && 6 ≤ c && c ≤ 10))))
      && (!(mode == 1 || mode == 2) || r.inImage (e / 2 ^ 32))
      && !(mode == 2 && nbits e 16 16 != 0 && nbits e 16 16 < 64)

/-- A .bin entry within its limits (R318). -/
def binOk (x : Word) : Bool :=
  nbits x.toNat 23 8 == 0 && (!binDeclared x || (1 ≤ binTiles x && binTiles x ≤ 64 && 64 ≤ binWindowOf x))

/-- Every field within its limits, reserved bytes zero, addresses aligned (R318, R328); the tables are the trap table's and the
bins'. -/
def LaunchRec.fieldsOk (r : LaunchRec) : Bool :=
  r.clean && r.code.toNat % 256 == 0 && r.codelen != 0#32 && r.codelen.toNat % 4 == 0 && r.inImage r.entry.toNat
    && (!r.control || r.inImage r.ctrlpc.toNat)
    && decide (1 ≤ r.regs ∧ r.regs ≤ 32) && decide (1 ≤ r.scalars ∧ r.scalars ≤ 128) && decide (1 ≤ r.groupw ∧ r.groupw ≤ 32)
    && decide (1 ≤ r.gang ∧ r.gang ≤ 4) && nbits r.flags.toNat 6 10 == 0
    && decide (r.scratch.toNat ≤ 327680) && r.scratch.toNat % 256 == 0 && r.stack.toNat % 16 == 0
    && (!r.homed || (1 ≤ r.homearg && r.homearg ≤ 31 && r.homestride != 0#64 && decide (r.homestride.toNat ≤ 2 ^ 32)))
    && r.ptroot.toNat % 4096 == 0 && decide (r.ptroot.toNat < 2 ^ 40) && r.stkbase.toNat % 128 == 0
    && (List.range 64).all r.trapOk && r.bins.all binOk

/-- Groups of a grid (R319). -/
def groupCount (threads : Nat) (r : LaunchRec) : Nat := (threads + 32 * r.groupw - 1) / (32 * r.groupw)

/-- A record that R328 does not refuse on its own: for threads, an issuer that may start kernel grids or not, and the SP of
its class in bytes. -/
def LaunchRec.accepted (r : LaunchRec) (threads : Nat) (kern : Bool) (sp : Nat) : Bool :=
  r.fieldsOk && groupCount threads r % r.gang == 0
    && !(r.control && 278528 < r.scratch.toNat)
    && !(r.bins.any binDeclared && decide (r.frame.toNat < 71680))
    && (!r.kern || kern)
    && decide (r.groupw ≤ 63) && decide (r.scratch.toNat ≤ sp)

/-- The rules of R331 for a surrogate record, and its exact record x. -/
def LaunchRec.surrogateOk (r x : LaunchRec) : Bool :=
  r.gang == 1 && !r.control && (r.tol == 0x80000000#32 || decide (r.tol.toNat ≤ 0x7F800000))
    && decide (4096 ≤ r.tquota.toNat ∧ r.tquota.toNat ≤ 8388608)
    && !x.snet && x.gang == 1 && !x.control && x.groupw == r.groupw && x.keyh == r.keyh

/-- SP of a record's class in bytes; 0 and values past the range are the whole core (R324). -/
def State.classSp (s : State) (r : LaunchRec) : Nat :=
  let n := nbits (mapGet 0#64 s.front.qclass r.qclass).toNat 26 10
  if n == 0 || 320 < n then 327680 else n * 1024

/-! ### Dispatch (R328, R351, R358, R359) -/

/-- The key under which grid k's structures are read. -/
def dispatchKey (k : Nat) : Nat := 2 ^ 45 + k

/-- Grid k is refused: STATUS 3, and nothing starts (R328); where its record has no service, the code-6 record (R320). -/
def State.refuse (s : State) (k : Nat) : State :=
  let s := (s.modGrid k (fun x => { x with status := .refused })).forget (dispatchKey k)
  let c := s.recordOf k 3 []
  let s := if (s.grid k).lost then s.lostRecord c else s.queueRecord c
  s.endNode k 3 []

/-- May Sniquin Root load a blob: its limits, buffer 0 never, and no VERSION past its end (R351, R358, R359)? -/
def State.blobOk (s : State) (b : SealedBlob) : Bool :=
  decide (b.egress.length ≤ 8) && decide (b.roster.length ≤ 16) && decide (b.buffers.length ≤ 4096)
    && b.egress.all (fun e => e.1.toNat % 65536 == 0 && e.2.toNat % 65536 == 0)
    && b.buffers.all (fun x => x.1 != 0#16 && (x.2 == 1#2 || x.2 == 2#2)
        && !(x.2 == 2#2 && 2 ^ 20 - 1 ≤ s.version x.1.toNat + 1))

/-- Is key slot n neither live nor armed by a migration (R35, R401)? -/
def State.slotOpen (s : State) (n : Nat) : Bool :=
  !mapHas s.worlds n && !s.firm.migrations.any (fun e => !e.2.source && e.2.world.toNat == n)

/-- The world of a launch whose key handle Root accepts, chosen freely among the numbers not live, with its key slot and its
version-table entries (R35, R351, R359; log 3). -/
def State.makeWorld (s : State) (handle : DWord) (b : SealedBlob) : BitVec 10 × State :=
  let open_ := (List.range 1024).filter (fun n => n != 0 && s.slotOpen n)
  let (v, s) := s.free
  let n := open_.getD (v.toNat % open_.length) 0
  let s := { s with worlds := mapPut s.worlds n ⟨b.key, handle, b.egress, b.roster, b.buffers⟩ }
  (BitVec.ofNat 10 n, b.buffers.foldl (fun s x =>
    let ver := s.version x.1.toNat + (if x.2 == 2#2 then 1 else 0)
    { s with versions := mapPut s.versions x.1.toNat (BitVec.ofNat 32 (ver * 4096 + x.2.toNat * 1024 + n)) }) s)

/-- The frame areas of a launch, one on each compute die, with its declared bins (R291, R292). -/
def State.openFrames (s : State) (k : Nat) (r : LaunchRec) : State :=
  let bins : Map Bin := ((List.range 64).zip r.bins.toList).filterMap (fun (b, x) =>
    if binDeclared x then .some (b, { Bin.empty with declared := true, cap := binTiles x, window := binWindowOf x }) else .none)
  let tiles := min 65535 ((r.frame.toNat - 65536) / 6144)
  if bins.isEmpty && tiles == 0 then s
  else [0, 1, 2, 3].foldl (fun s d => { s with frames := mapPut s.frames (frameKey k d) ⟨tiles, bins⟩ }) s

/-- Grid k starts with its record, arguments and world; a surrogate's exact groups get a grid of their own (R328, R335). -/
def State.openGrid (s : State) (k : Nat) (r : LaunchRec) (args : Vector DWord 32) (exact : Option LaunchRec) (world : BitVec 10) :
    State :=
  let s := s.modGrid k (fun x => { x with
    record := r, args := args, world := world, status := .dispatched, groups := groupCount x.threads r, since := s.clock })
  let s := (s.forget (dispatchKey k)).openFrames k r
  match exact with
  | .none => s
  | .some e =>
    let n := s.gridNumber
    let x := s.grid k
    let s := { s with front := { s.front with nextGrid := n + 1 } }
    let s := s.setGrid n { x with record := e, groups := 0, compl := 0#64, exactOf := .some k, graph := .none, queue := .none }
    (s.modGrid k (fun x => { x with exactGrid := .some n })).openFrames n e

/-- The argument block from its word 1 on: word N for N = 1 to 31 (R319). -/
def parseArgs (b : List Byte) : Vector DWord 32 :=
  Vector.ofFn (fun j : Fin 32 => if j.val = 0 then 0#64 else BitVec.ofNat 64 (num b (8 * (j.val - 1)) 8))

/-- The checks and the start of grid k, once its record r, arguments and exact record are read. -/
def State.decide_ (s : State) (k : Nat) (blob : Option SealedBlob) (r : LaunchRec) (args : Vector DWord 32)
    (exact : Option LaunchRec) : State :=
  let x := s.grid k
  let okExact := match exact with
    | .none => true
    | .some e => r.surrogateOk e && e.accepted x.threads x.inKern (s.classSp e)
  if !(r.accepted x.threads x.inKern (s.classSp r) && okExact) then s.refuse k
  else if r.keyh == 0#64 then s.openGrid k r args exact x.inWorld
  else if !(List.range 1024).any (fun n => n != 0 && s.slotOpen n) then s
  else
    match blob with
    | .none => s.refuse k
    | .some b =>
      if !s.blobOk b then s.refuse k
      else
        let (w, s) := s.makeWorld r.keyh b
        s.openGrid k r args exact w

/-- DISPATCH: the front end reads and checks accepted grid k, and starts it or refuses it (R328). -/
def execDispatch (k : Nat) (blob : Option SealedBlob) (s : State) : Out :=
  let x := s.grid k
  .next (if x.status != .accepted || s.front.records.any (fun e => e.2.grid == .some k) then s
  else if x.lost || x.recAddr.toNat % 128 != 0 || x.argAddr.toNat % 8 != 0 then s.refuse k
  else
    let c := s.gridCtx x
    let key := dispatchKey k
    match s.frontGet key c x.recAddr.toNat 896 with
    | .wait t => t
    | .lost => s.refuse k
    | .bytes b =>
      match s.frontGet key c (x.argAddr.toNat + 8) 248 with
      | .wait t => t
      | .lost => s.refuse k
      | .bytes a =>
        let r := parseRecord b
        if !r.snet then s.decide_ k blob r (parseArgs a) .none
        else if r.exact.toNat % 128 != 0 then s.refuse k
        else
          match s.frontGet key c r.exact.toNat 896 with
          | .wait t => t
          | .lost => s.refuse k
          | .bytes e => s.decide_ k blob r (parseArgs a) (.some (parseRecord e)))

/-! ### Admission (R326, R327, R329, R330) -/

/-- Warp slots of a core that a new group could take (R269, R327). -/
def State.freeSlots (s : State) (die core : Nat) : Nat :=
  63 - (s.warps.filter (fun (_, w) => !w.handler && w.die == die && w.core == core && w.inSlot)).length
/-- Free warp slots of a compute die. -/
def State.dieSlots (s : State) (die : Nat) : Nat :=
  8064 - (s.warps.filter (fun (_, w) => !w.handler && w.die == die && w.inSlot)).length
/-- Groups placed on a core that hold what is theirs there. -/
def State.placed (s : State) (die core : Nat) : List (Nat × Group) :=
  s.groups.filter (fun e => !e.2.handler && e.2.die == die && e.2.core == core)
/-- Is the FMTX reserve of a core held: it is core 0 of a cluster with a stream, living or reserved for (R253)? -/
def State.reserved (s : State) (die core : Nat) : Bool :=
  core % 4 == 0 && ((s.cluster (clusterKey die core)).gang.isSome
    || (s.placed die core).any (fun e => e.2.status == .ready && (s.grid e.2.grid).record.control))
/-- Scratchpad bytes of a core that no group holds. -/
def State.scratchFree (s : State) (die core : Nat) : Nat :=
  327680 - (if s.reserved die core then 49152 else 0)
    - ((s.placed die core).filter (fun e => e.2.spLive)).foldl (fun n e => n + e.2.spSize) 0

/-- Is a group placed with its gang: a gang, or the one group of a control stream (R220, R330)? -/
def LaunchRec.ganged (r : LaunchRec) : Bool := 1 < r.gang || r.control

/-- Does another grid's gang, waiting too long, keep a cluster to itself (R330)? -/
def State.excluded (s : State) (k cl : Nat) : Bool := s.grids.any (fun e => e.1 != k && e.2.exclusive && e.2.reserve == .some cl)

/-- Is group no of grid k admissible on a core (R253, R327)? -/
def State.roomOn (s : State) (k : Nat) (no die core : Nat) : Bool :=
  let r := (s.grid k).record
  let mine := (s.placed die core).filter (fun e => e.2.grid == k)
  let here := mine.filter (fun e => e.2.status == .ready || e.2.status == .running || e.2.status == .exiting)
  let slots := s.quota k 57 7 64
  let held := (mine.filter (fun e => e.2.spLive)).foldl (fun n e => n + e.2.spSize) 0
  let extra := if r.control && no % r.gang == 0 && !s.reserved die core then 49152 else 0
  decide (r.groupw ≤ s.freeSlots die core)
    && decide (r.scratch.toNat + extra ≤ s.scratchFree die core)
    && (slots == 0 || decide (here.length < slots))
    && decide (held + r.scratch.toNat ≤ s.classSp r)
    && !s.excluded k (clusterKey die core)

/-- The number of a list with the largest measure, the lowest on a tie. -/
def best (f : Nat → Nat) (l : List Nat) : Option Nat :=
  l.foldl (fun a n => match a with
    | .none => .some n
    | .some m => if f m < f n then .some n else a) .none

/-- The next group of a grid in line (R326, R335). -/
def Grid.nextGroup (x : Grid) : Option Nat :=
  if x.exactOf.isSome then (x.todo.head?).map (·.toNat) else if x.next < x.groups then .some x.next else .none

/-- The gang of grid k that is next in line, and the groups of it that are placed (R330). -/
def State.placedGang (s : State) (k : Nat) : List (Nat × Group) :=
  let x := s.grid k
  s.groups.filter (fun e => !e.2.handler && e.2.grid == k && e.2.gang.toNat == x.next / x.record.gang)

/-- The cluster of a die that a gang of grid k reserves on, or would pick; a gang whose grid still has one before it to start
waits (R330). -/
def State.gangCluster (s : State) (k die : Nat) : Option Nat :=
  let x := s.grid k
  if (s.placedGang k).isEmpty && s.groups.any (fun e => e.2.grid == k && e.2.status == .ready) then .none
  else
  match x.reserve with
  | .some cl => if cl / 32 == die then .some cl else .none
  | .none =>
    best (fun cl => ([0, 1, 2, 3].map (fun j => s.freeSlots die (4 * (cl % 32) + j))).sum)
      (((List.range (if s.isServer k then 1 else 32)).map (32 * die + ·)).filter (fun cl =>
        (!x.record.control || (s.cluster cl).gang.isNone) && !s.grids.any (fun e => e.1 != k && e.2.reserve == .some cl)))

/-- The member of grid k's gang in line that a cluster takes now, and its core: the lowest that is not placed and has room on its
core (R330). -/
def State.memberFor (s : State) (k die cl : Nat) : Option (Nat × Nat) :=
  let x := s.grid k
  let n := x.record.gang
  ((List.range n).map (fun j => (x.next / n * n + j, 4 * (cl % 32) + j))).find? (fun (no, core) =>
    !(s.placedGang k).any (fun e => e.2.no.toNat == no) && s.roomOn k no die core)

/-- The group of grid k that a die takes now where no is next in line, and its core (R327, R330); a server group goes to core 0
alone (R371). -/
def State.coreFor (s : State) (k no die : Nat) : Option (Nat × Nat) :=
  if (s.grid k).record.ganged then
    (s.gangCluster k die).bind (fun cl => (s.memberFor k die cl).filter (fun c => !(s.isServer k && c.2 != 0)))
  else
    let core := if s.isServer k then (if s.roomOn k no die 0 then Option.some 0 else .none)
      else best (s.freeSlots die) ((List.range 128).filter (s.roomOn k no die))
    core.map (fun c => (no, c))

/-- The home die of group no of grid k (R329). A gang takes that of its member 0. -/
def State.homeOfGroup (s : State) (k no : Nat) : Option Nat :=
  let x := s.grid k
  let r := x.record
  if !r.homed then .none
  else
    let g := no / r.gang * r.gang
    let hg := ((x.args.toList.getD r.homearg 0#64).toNat + g * r.homestride.toNat) % 2 ^ 64
    match s.lookup 4 0 r.ptroot x.world (hg % 2 ^ 57) with
    | .leaf e size => if nbits e 61 2 == 1 then .some (homeDie (nbits e 16 31 * 65536 + hg % size)) else .none
    | _ => .none

/-- May the next group of grid k, no, go to a die (R329, R330, R371)? -/
def State.dieFor (s : State) (k no die : Nat) : Bool :=
  let x := s.grid k
  if s.isServer k then s.serves k die
  else
  match x.reserve with
  | .some cl => cl / 32 == die
  | .none =>
    match s.homeOfGroup k no with
    | .some d => x.anywhere || d == die
    | .none => [0, 1, 2, 3].all (fun d => decide (s.dieSlots d ≤ s.dieSlots die))

/-- The dispatcher's order of grids, smaller first (R326); server groups go ahead of every other (R371). -/
def State.rank (s : State) (k : Nat) : List Nat :=
  let x := s.grid k
  [if s.isServer k then 0 else 1, if x.record.kern then 0 else 1, 3 - nbits x.record.flags.toNat 4 2, x.order]

/-- Could a die take the next group of grid k now? -/
def State.wants (s : State) (k die : Nat) : Bool :=
  (s.grid k).status == .dispatched &&
    match (s.grid k).nextGroup with
    | .some no => s.dieFor k no die && (s.coreFor k no die).isSome
    | .none => false

/-- Comparison of ranks. -/
def rankLt : List Nat → List Nat → Bool
  | x :: l, y :: m => decide (x < y) || (x == y && rankLt l m)
  | _, _ => false

/-- Real threads of warp w of group no (R319). -/
def realLanes (threads no groupw w : Nat) : Mask :=
  maskOf (fun i => decide ((no * groupw + w) * 32 + i.val < threads))

/-- Warp w of group g at the kernel entry, in the lowest free slot; a warp of no real thread is not formed (R14, R18, R319). -/
def State.enterWarp (s : State) (g w : Nat) : State :=
  let x := s.group g
  let y := s.grid x.grid
  let top := match y.exactOf with | .some p => (s.grid p).threads | .none => y.threads
  let real := realLanes top x.no.toNat y.record.groupw w
  match if real == 0#32 then .none else s.freeSlot x.die x.core with
  | .none => s
  | .some slot =>
    let (k, s) := s.newUnit
    let base := s.freshWarp g w slot
    let warp := { base with real := real, pc := allLanesOf y.record.entry }
    let s := s.setWarp k ((warp.checkpoint).reform s.cc)
    let s := s.modGroup g (fun x => { x with warps := x.warps ++ [k] })
    (lanesOf real).foldl (fun s i =>
      let (a, s) := s.touch k i
      s.modAgent a (fun t => t.learnAll y.pub)) s

/-- Group no of grid k is placed on a core with its scratchpad, arguments and warps (R12, R319, R327, R331). -/
def State.placeGroup (s : State) (k no die core : Nat) (status : GroupStatus) : Nat × State :=
  let x := s.grid k
  let r := x.record
  let (g, s) := s.newUnit
  let s := s.firstOn k die core
  let s := s.setGroup g { Group.empty with
    grid := k
    no := BitVec.ofNat 32 no
    gang := BitVec.ofNat 32 (no / r.gang)
    die := die
    core := core
    s := Vector.ofFn (fun j : Fin 128 => if h : j.val < 32 then x.args[j.val]'h else 0#64)
    spSize := r.scratch.toNat
    spLive := true
    tol := if r.snet then r.tol else 0#32
    status := status
    tile := if r.snet then .open else .none }
  (g, (List.range r.groupw).foldl (fun s w => s.enterWarp g w) s)

/-- Group g's warps enter the active set where there is room (R30). -/
def State.enterCore (s : State) (g : Nat) : State := (s.group g).warps.foldl (fun s k => s.moveIn k) s

/-- The next group of grid k is admitted to a core of a die (R326, R327, R330). -/
def State.admitGroup (s : State) (k no die core : Nat) : State :=
  let x := s.grid k
  let gang := x.record.ganged
  let last := (x.next + 1) % x.record.gang == 0
  let s := s.modGrid k (fun x => { x with
    next := if x.exactOf.isSome then x.next else x.next + 1
    todo := if x.exactOf.isSome then x.todo.drop 1 else x.todo
    running := x.running + 1
    since := if last then s.clock else x.since
    anywhere := if last then false else x.anywhere })
  let (g, s) := s.placeGroup k no die core (if gang then .ready else .running)
  if gang then s else s.enterCore g

/-- GROUP_ADMISSION: the die's dispatcher admits the next group of a grid, unless an earlier grid's can go first (R326). -/
def execGroupAdmission (grid die : Nat) (s : State) : Out :=
  let x := s.grid grid
  .next (match if x.status == .dispatched && die < 4 then x.nextGroup else .none with
  | .none => s
  | .some no =>
    if !s.dieFor grid no die || s.grids.any (fun e => e.1 != grid && rankLt (s.rank e.1) (s.rank grid) && s.wants e.1 die) then s
    else
      let found := s.coreFor grid no die
      let s := if x.record.ganged then s.modGrid grid (fun x => { x with reserve := (s.gangCluster grid die).or x.reserve }) else s
      match found with
      | .none => s
      | .some (no, core) => s.admitGroup grid no die core)

/-- HOME_WAIT_EXPIRY: after 20 µs the next group goes to any die (R329). -/
def execHomeWaitExpiry (grid : Nat) (s : State) : Out :=
  .next (s.modGrid grid (fun x =>
    if x.status == .dispatched && x.since + 20000000000 ≤ s.clock then { x with anywhere := true } else x))

/-- GANG_RESERVE_EXPIRY: after 50 µs the gang's cluster admits no other grid (R330). -/
def execGangReserveExpiry (grid : Nat) (s : State) : Out :=
  .next (s.modGrid grid (fun x =>
    if x.reserve.isSome && x.since + 50000000000 < s.clock then { x with exclusive := true } else x))

/-- The control stream of a gang starts (R221). -/
def State.startStream (s : State) (cl k : Nat) (gang : Word) : State :=
  let x := s.grid k
  let (u, s) := s.newUnit
  let a := u * 1024
  let s := s.modAgent a (fun t => { t.learnAll x.pub with gang := k * 2 ^ 32 + gang.toNat })
  let s := s.modGrid k (fun x => { x with controls := x.controls + 1 })
  s.modCluster cl (fun c => { Cluster.empty with
    gang := .some (k, gang)
    pc := x.record.ctrlpc
    k := Vector.ofFn (fun j : Fin 32 =>
      if j.val = 31 then BitVec.ofNat 64 gang.toNat else if h : 1 ≤ j.val then x.args[j.val] else 0#64)
    turn := c.turn
    agent := a })

/-- GANG_START: the groups of group g's gang start once every member is placed, with a control stream where the control core hosts
no other (R12, R220, R330). -/
def execGangStart (g : Nat) (s : State) : Out :=
  let x := s.group g
  let k := x.grid
  let l := s.groups.filter (fun e => !e.2.handler && e.2.grid == k && e.2.gang == x.gang)
  .next (if x.status != .ready || l.length != (s.grid k).record.gang || !l.all (fun e => e.2.status == .ready)
      || ((s.grid k).record.control && (s.cluster (clusterKey x.die x.core)).gang.isSome) then s
  else
    let s := l.foldl (fun s e => (s.modGroup e.1 (fun y => { y with status := .running })).enterCore e.1) s
    let s := s.modGrid k (fun y => { y with reserve := .none, exclusive := false, since := s.clock })
    if (s.grid k).record.control then s.startStream (clusterKey x.die x.core) k x.gang else s)

/-! ### Retirement and completion (R89, R163, R223, R237, R297, R320, R335) -/

/-- Does nothing hold group g in exit: a row, a copy or bulk operation, a request it posted, or an operation on its scratchpad
(R89, R237, R297)? -/
def State.mayRetire (s : State) (g : Nat) : Bool :=
  let x := s.group g
  let c := s.cluster (clusterKey x.die x.core)
  let j := x.no.toNat % s.gangSize x
  let mine := c.gang == .some (x.grid, x.gang)
  x.status == .exiting && !x.handler
    && !s.holdsRows g
    && !s.cores.any (fun c => c.2.reqs.any (fun r => r.2.group == g) || c.2.bulk.any (fun b => b.2.group == g))
    && !(mine && (c.turn.any (fun e => e.valid && e.member == j)
      || c.ops.any (fun o => (o.reads ++ o.writes).any (fun r => r.1 == j))))

/-- The outcome of group g's tile is counted; one that did not pass is to be done exactly (R320, R334, R335). -/
def State.countTile (s : State) (g : Nat) : State :=
  let x := s.group g
  let again (y : Grid) : Grid := { y with todo := y.todo ++ [x.no] }
  match x.tile with
  | .none => s
  | .passed => s.modGrid x.grid (fun y => { y with pass := y.pass + 1 })
  | .overflowed => s.modGrid x.grid (fun y => again { y with overs := y.overs + 1 })
  | _ =>
    (s.modGroup g (fun x => { x with tile := .failed, tent := [], tentSectors := [], tentTags := [], tentRecs := [] })).modGrid x.grid
      (fun y => again { y with fail := y.fail + 1 })

/-- GROUP_RETIREMENT (R89): the allocation of a gang member is kept by R163. -/
def execGroupRetirement (g : Nat) (s : State) : Out :=
  .next (if !s.mayRetire g then s
  else
    let s := s.countTile g
    let x := s.group g
    let begun := (s.gangGroups g).any (fun j => s.arrived j (· == .cluster) != 0)
    let s := { s with warps := s.warps.filter (fun e => !x.warps.contains e.1) }
    let s := s.modGroup g (fun x => { x with
      status := .retired, warps := [], retiredGen := x.clgen + (if begun then 2 else 1) })
    let s := s.modGrid x.grid (fun y => { y with
      running := y.running - 1, retired := if y.exactOf.isSome then y.retired else y.retired + 1 })
    if (s.gangGroups g).isEmpty then
      (s.groups.filter (fun e => !e.2.handler && e.2.grid == x.grid && e.2.gang == x.gang)).foldl (fun s e => s.releaseScratch e.1) s
    else s)

/-- EXACT_GROUP_DISPATCH: one exact group joins the exact grid for the first tile that did not pass (R334, R335). -/
def execExactGroupDispatch (grid : Nat) (s : State) : Out :=
  let x := s.grid grid
  .next (match x.todo, x.exactGrid with
  | no :: rest, .some e =>
    (s.modGrid grid (fun y => { y with todo := rest })).modGrid e (fun y => { y with
      todo := y.todo ++ [no], since := if y.todo.isEmpty then s.clock else y.since })
  | _, _ => s)

/-- The grids of a launch: its own and that of its exact groups. -/
def State.launchGrids (s : State) (k : Nat) : List Nat := k :: (s.grid k).exactGrid.toList

/-- What every access of the grids l publishes (R178, R320). -/
def State.endsOf (s : State) (l : List Nat) : Map Nat :=
  s.agents.foldl (fun m e => if l.contains (e.2.gang / 2 ^ 32) then joinClock m (s.publishedAll e.1) else m) []

/-- Engine operations of the grids l whose conflicts no thread observed are logged as debug events (R198). -/
def State.logRaces (s : State) (l : List Nat) : State :=
  s.agents.foldl (fun s e =>
    match e.2.raced with
    | .some a =>
      if e.2.engine.isSome && !e.2.observed && l.contains (e.2.gang / 2 ^ 32) then
        let n := e.2.gang / 2 ^ 32
        (s.debugEvent (s.group e.2.group).die n (s.grid n).world .race a).modAgent e.1 (fun x => { x with observed := true })
      else s
    | .none => s) s

/-- The grids l are over: their groups, rows and frame areas are gone, and so is history that only ended launches hold (R194,
R320). -/
def State.closeGrids (s : State) (l : List Nat) (st : GridStatus) (pub : Map Nat) : State :=
  let s := l.foldl (fun s n => s.modGrid n (fun x => { x with status := st, ends := pub })) s
  ({ s with
    groups := s.groups.filter (fun e => !l.contains e.2.grid)
    frames := s.frames.filter (fun e => !l.contains (e.1 / 4)) }).clearHistory

/-- GRID_COMPLETION (R320): every group, stream and exact group has retired. -/
def execGridCompletion (grid : Nat) (s : State) : Out :=
  let x := s.grid grid
  let exactDone := match x.exactGrid with
    | .some e => (s.grid e).todo.isEmpty && (s.grid e).running == 0
    | .none => true
  .next (if x.status != .dispatched || x.exactOf.isSome || x.retired != x.groups || x.controls != 0 || !x.todo.isEmpty
      || !exactDone then s
  else
    let l := s.launchGrids grid
    let pub := s.endsOf l
    let s := (s.logRaces l).closeGrids l .complete pub
    let s := s.queueRecord (s.recordOf grid 1 pub)
    s.endNode grid 1 pub)

/-- The work of a launch is gone: its warps, engine operations, requests and rows are dropped, and its streams stop. -/
def State.dropLaunch (s : State) (top : Nat) (l : List Nat) (pub : Map Nat) : State :=
  let mine (g : Nat) : Bool := l.contains (s.group g).grid
  let inGang (c : Cluster) : Bool := match c.gang with | .some (g, _) => l.contains g | .none => false
  let s := { s with
    warps := s.warps.filter (fun e => !mine e.2.group)
    cores := mapAll s.cores (fun _ c => { c with
      reqs := c.reqs.filter (fun r => !mine r.2.group), bulk := c.bulk.filter (fun b => !mine b.2.group) })
    clusters := mapAll s.clusters (fun _ c => if inGang c then Cluster.empty else c)
    dies := mapAll s.dies (fun _ d => { d with bins := d.bins.filter (fun b => !l.contains b.2.grid) })
    returning := s.returning.filter (fun r => !mine (s.warp r.2.origin.warp).group) }
  let s := s.modGrid top (fun x => { x with todo := [], controls := 0, reserve := .none, exclusive := false })
  (s.closeGrids l .ended pub).dropCalls l

/-- The chip OS ends a launch (R224, R237, R266): its work is dropped, and its STATUS becomes 2. -/
def State.endLaunch (s : State) (grid : Nat) : State :=
  let top := (s.grid grid).exactOf.getD grid
  let l := s.launchGrids top
  if (s.grid top).status != .dispatched then s
  else
    let pub := s.endsOf l
    let s := (s.logRaces l).dropLaunch top l pub
    let s := s.queueRecord (s.recordOf top 2 pub)
    s.endNode top 2 pub

/-! ### qpost and launch (R337, R338) -/

/-- qpost (R337): one step at DOOR, a release at device scope, and hart q wakes. A descriptor whose address has no mapping
raises XLAT; one that may be served is waited for. -/
def execQpost (q i : BitVec 5) (p : BitVec 2) (s : State) : Out :=
  .next (issue { s := [q.toNat, i.toNat], pred := p, predicated := true, bad := q == 0#5 || i == 0#5 } s (fun s m =>
    match s.first m with
    | .none => { st := s }
    | .some _ =>
      let x := s.sreg q.toNat
      let n : BitVec 5 := x.setWidth 5
      let b := s.qbind n
      if x.toNat / 32 != 0 then { st := s, traps := trapAll (s.real m) (Trap.plain .illegal) }
      else
        s.tileGuard m fun s m =>
        if !b.getLsbD 63 || (!s.me.kern && !b.getLsbD 61) then { st := s, traps := trapAll (s.real m) (Trap.plain .prot) }
        else
          let c := s.sysCtx
          let a := descOf b + 16
          let key := 2 ^ 51 + n.toNat
          match s.frontCan key c a 8 with
          | .wait t => { st := t, stall := true }
          | .lost => { st := s.forget key, traps := trapAll (s.real m) (Trap.atAddr .xlat (BitVec.ofNat 64 a)) }
          | .bytes _ =>
            match s.frontGet key c a 8 with
            | .bytes d =>
              let first := match s.first m with | .some j => threadAgent s.me j | .none => 0
              let (pub, s) := s.releaseLanes m
              let v := max (natOfBytes d) (s.sreg i.toNat).toNat
              let s := s.frontPut c a (bytesOfNat 8 v)
              let s := match s.physical c true a with
                | .some pa => s.addRel pa 8 (s.release first 5#3 pub)
                | .none => s
              let h := s.hart n
              { st := if h.state == .idle then s.setHart n { h with state := .waitHeader } else s }
            | .wait t => { st := t, stall := true }
            | .lost => { st := s, traps := trapAll (s.real m) (Trap.atAddr .xlat (BitVec.ofNat 64 a)) }))

/-- launch (R338). -/
def execLaunch (d n : BitVec 5) (p : BitVec 2) (s : State) : Out :=
  let r := n.toNat
  .next (issue { v := [d.toNat], s := [r, r + 1, r + 2, r + 3], pred := p, predicated := true, bad := r == 0 || 28 < r } s
    (fun s m =>
      match s.first m with
      | .none => { st := s }
      | .some _ =>
        let t := (s.sreg (r + 3)).toNat
        if (s.sreg r).toNat % 128 != 0 || (s.sreg (r + 1)).toNat % 8 != 0 || (s.sreg (r + 2)).toNat % 32 != 0
            || t == 0 || 2 ^ 32 ≤ t then { st := s, traps := trapAll (s.real m) (Trap.plain .illegal) }
        else
          s.tileGuard m fun s m =>
          let die := s.me.die
          if 256 ≤ (s.grids.filter (fun e => e.2.status == .accepted && e.2.list == die)).length then { st := s, stall := true }
          else
            let g := s.myGrid
            let (pub, s) := s.releaseLanes m
            let x := { Grid.empty with
              recAddr := s.sreg r
              argAddr := s.sreg (r + 1)
              compl := s.sreg (r + 2)
              threads := t
              inRoot := g.record.ptroot
              inWorld := g.world
              inKern := s.me.kern
              list := die
              pub := pub }
            let (k, s) := s.accept x
            { st := s.writeV d.toNat m (s.fullOr m (BitVec.ofNat 32 k)) 0#4 }))

/-! ### verdict and the end of a tile (R199, R333 to R335, R339) -/

/-- verdict: each active thread arrives with its value (R339). -/
def execVerdict (a : Src) (s : State) : Out :=
  .next (issue { v := srcV a, s := srcS a, k := Perm.param a.perm, fmts := srcFmt a 1#4
                 bad := s.myGroup.tile != .open || s.me.handler } s (fun s m =>
    let x := s.srcA a
    let pc := s.pc
    { st := (lanesOf (s.real m)).foldl (fun t i => t.enterWait s.cur i pc s.hints (.verdict (x.at i))) s }))

/-- The pass of a verdict: no NaN, and the largest magnitude at most $tol (R339). -/
def passes (tol : Word) (xs : List Word) : Bool :=
  let t := if tol == 0x80000000#32 then 0 else tol.toNat
  xs.all (fun x => decide (x.toNat % 2 ^ 31 ≤ 0x7F800000) && decide (x.toNat % 2 ^ 31 ≤ t))

/-- Does a tentative store conflict with an access outside the tile, in the region after the verdict's barrier (R199)? -/
def State.tentConflict (s : State) (x : Group) (base : Map Nat) (t : TentRec) : Bool :=
  let know := joinClock ((s.agent t.agent).of t.cls) base
  (mapGet [] s.races t.granule).any (fun r =>
    !x.tileAgents.contains r.agent && !s.sameAgent r.agent t.agent && mapGet 0 know (r.agent * 8 + r.cls) < r.region + 1)

/-- The tile of group g is committed in one step (R335): its bytes become ordinary L2 data with a release at device scope, and
every tentative store is checked; the agents that conflict, with the lowest address of each conflict, follow (R199). -/
def State.commitTile (s : State) (g : Nat) (lead : Nat) : State × List (Nat × DWord) :=
  let x := s.group g
  let base := (s.agent lead).of 0
  let hits := x.tentRecs.filter (fun t => t.bad || s.tentConflict x base t)
  let s := x.tent.foldl (fun s e => s.writePhys (mapGet .none x.tentTags (e.1 / 64)) e.1 [e.2]) s
  let s := x.tentSectors.foldl (fun s q =>
    if (List.range 32).all (fun j => mapHas x.tent (32 * q + j)) then s.healSector (32 * q) [(32 * q, 32)] else s) s
  let s := x.tentRecs.foldl (fun s t =>
    (s.addRel (4 * t.granule) 4 (s.release t.agent 5#3 (s.publishedAll t.agent))).record t.agent t.cls 0 true x.grid
      (4 * t.granule) 4) s
  let s := hits.foldl (fun s t =>
    if (s.agent t.agent).engine.isSome then s.modAgent t.agent (fun a => { a with raced := Option.some (a.raced.getD t.addr) })
    else s) s
  let s := s.setGroup g { x with tile := .passed, tent := [], tentSectors := [], tentTags := [], tentRecs := [], tileAgents := [] }
  (s, hits.map (fun t => (t.agent, t.addr)))

/-- The lowest address that a list gives an agent. -/
def lowestAddr (l : List (Nat × DWord)) (a : Nat) : Option DWord :=
  (l.filter (fun e => e.1 == a)).foldl (fun m e =>
    match m with
    | .none => .some e.2
    | .some b => if e.2.toNat < b.toNat then .some e.2 else m) .none

/-- Every thread of group g retires at once (R334, R335). -/
def State.retireThreads (s : State) (g : Nat) : State :=
  (s.group g).warps.foldl (fun s k => s.modWarp k (fun w => if w.live == 0#32 then w else w.retire w.live)) s

/-- verdict completes when every member has arrived (R339); a commit waits where a history area has no room for it (R195). -/
def State.settleVerdict (s : State) (g : Nat) : State :=
  let l := s.members g
  let arg (x : Nat × Lane) : Option Word :=
    match Lanes.at (s.warp x.1).wait x.2 with
    | .verdict v => .some v
    | _ => .none
  if (s.group g).tile != .open || l.isEmpty || !l.all (fun x => (arg x).isSome) then s
  else
    let who (x : Nat × Lane) : Nat := threadAgent (s.warp x.1) x.2
    let u := s
    let s := s.barrierOf 3#3 (l.map who)
    if passes (s.group g).tol (l.filterMap arg) then
      let (s, hits) := s.commitTile g (who (l.headD (0, 0)))
      let (s, ts) := l.foldl (fun (acc : State × List (Nat × Lane × Trap)) x =>
        match lowestAddr hits (who x) with
        | .some a => (acc.1, acc.2 ++ [(x.1, x.2, Trap.atAddr .race a)])
        | .none => (acc.1.leaveWait x.1 x.2, acc.2)) (s, [])
      u.unlessFull ((s.group g).warps.foldl (fun s k =>
        s.trapWaiting k ((ts.filter (fun t => t.1 == k)).map (·.2))) s)
    else
      (s.modGroup g (fun x => { x with tile := .failed, tent := [], tentSectors := [], tentTags := [], tentRecs := [] })).retireThreads g

/-- A tile that has overflowed: its threads retire, and so do the handler lanes that acted for it (R333, R334). -/
def State.settleOverflow (s : State) (g : Nat) : State :=
  if (s.group g).tile != .overflowed || (s.members g).isEmpty then s
  else
    let from_ (w : Warp) (i : Lane) : Bool := (s.warp (Lanes.at w.origin i).warp).group == g
    let mine (w : Warp) : Mask := if w.handler then maskOf (fun i => Mask.has w.live i && from_ w i) else 0#32
    let t := { s with warps := mapAll s.warps (fun _ w => if mine w == 0#32 then w else w.retire (mine w)) }
    let t := { t with
      dies := mapAll t.dies (fun _ d => { d with
        bins := (mapAll d.bins (fun _ b => { b with rows := b.rows.filter (fun r => r.tileGroup != Option.some g) })).filter
          (fun b => !b.2.rows.isEmpty) }) }
    t.retireThreads g

end Sys2Proof.Machine
end

