-- ==== Sys2Proof/Machine/Service.lean ====
section
/-! DEFINITION. Service calls and I/O (R364 to R379): svc, srecv and srep, the filing of the rings, replies and the outcomes of
system deliveries (R266), path 0x3 completions, inbound DMA, and the register-write events. -/

namespace Sys2Proof.Machine

/-! ### svc (R367) -/

/-- ORIGIN of a warp's call (R365). -/
def Warp.originWord (w : Warp) : Nat := w.die + 4 * w.core + 512 * w.slot

/-- svc: its lanes wait at once, or after their window, for a slot and then for the reply (R51, R77, R367). -/
def execSvc (d c : BitVec 5) (b : Src) (p : BitVec 2) (st : State) : Out :=
  .next (issue { v := d.toNat :: srcV b, s := c.toNat :: srcS b, pred := p, predicated := true, k := Perm.param b.perm
                 la := true, bad := c == 0#5 } st (fun s m =>
    let x := (s.sreg c.toNat).toNat
    if s.real m == 0#32 then { st := s }
    else if 2 ^ 16 ≤ x then { st := s, traps := trapAll (s.real m) (Trap.plain .illegal) }
    else
      s.tileGuard m fun s m =>
      let l := s.real m
      let w := s.me
      let die := w.die
      if x < 16 || !(s.ring die).on then { st := s, traps := trapAll l (Trap.plain .svcerr) }
      else
        let e := s.srcB b
        let g := s.group w.group
        let la := s.schedLa
        let (id, s) := s.newUnit
        let (pub, s) := s.releaseLanes m
        let call : Call :=
          { warp := s.cur, lanes := l, grid := g.grid, world := (s.grid g.grid).world, origin := w.originWord, code := x
            argA := perLane (fun i => if Mask.has l i then w.lane d.toNat i else 0#32)
            argB := perLane (fun i => if Mask.has l i then e.at i else 0#32)
            filed := .none, replies := .none, pub := pub, back := [] }
        let s := s.modRing die (fun r => { r with calls := mapPut r.calls id call, waiting := r.waiting ++ [.call id] })
        let r : Pend :=
          { id := id, pc := s.pc, hints := s.hints, dests := [(w.regNo d.toNat, 0#4, l)], sdest := .none
            vals := [allLanesOf 0#32], uniform := false, lanes := l, got := 0#32, logged := 0#32, remote := l
            left := allLanesOf la, la := la, done := allLanesOf 0#15, acc := Access.empty }
        { st := s.modWarp s.cur (fun w => { w with
            pend := w.pend ++ [r]
            wait := if la == 0 then Lanes.where_ w.wait l (fun _ => .svc id) else w.wait }) }))

/-! ### Filing (R366) -/

/-- The 316 bytes that follow STATE in the slot of a call (R365). -/
def Call.bytes (c : Call) : List Byte :=
  bytesOfNat 2 c.code ++ bytesOfNat 2 c.world.toNat ++ bytesOfNat 4 c.lanes.toNat ++ bytesOfNat 4 c.grid ++ bytesOfNat 4 c.origin
    ++ List.replicate 44 0#8
    ++ allLanes.flatMap (fun i => bytesOfNat 4 (Lanes.at c.argA i).toNat ++ bytesOfNat 4 (Lanes.at c.argB i).toNat)

/-- The same of a device record. -/
def DevRec.bytes (r : DevRec) : List Byte :=
  bytesOfNat 2 r.code ++ List.replicate 58 0#8 ++ (r.body.take 64) ++ List.replicate (64 - r.body.length) 0#8 ++ List.replicate 192 0#8

/-- The next slot of a die's ring takes the oldest waiting record: its bytes, then STATE with a release at device scope. -/
def State.fillSlot (s : State) (die : Nat) (f : RingItem) : State :=
  let g := s.ring die
  let n := g.next
  let a := g.addr n
  let c := s.sysCtx
  let (b, pub) := match f with
    | .call k => match mapFind g.calls k with
      | .some x => (x.bytes, x.pub)
      | .none => (List.replicate 316 0#8, [])
    | .record r => (r.bytes, [])
  let s := (s.frontPut c (a + 4) b).frontPut c a (bytesOfNat 4 1)
  let s := match s.physical c true a with
    | .some pa => s.addRel pa 4 (s.release frontAgent 5#3 pub)
    | .none => s
  s.modRing die (fun g => { g with
    next := (n + 1) % g.size
    filings := g.filings + 1
    waiting := g.waiting.drop 1
    slots := mapPut g.slots n ⟨(g.slot n).gen + 1#16, true, g.filings, .some f, .none⟩
    calls := match f with
      | .call k => mapAll g.calls (fun j x => if j == k then { x with filed := .some n } else x)
      | .record _ => g.calls })

/-- The head of what waits on a die is filed when the ring is enabled and its next slot is free and can be written. -/
def State.fileNext (s : State) (die : Nat) : State :=
  let g := s.ring die
  match g.waiting with
  | [] => s
  | f :: _ =>
    if !g.on || (g.slot g.next).owed.isSome then s
    else
      match s.frontCan (ringKey die) s.sysCtx (g.addr g.next) 320 with
      | .wait t => t
      | .lost => s
      | .bytes _ =>
        match s.frontGet (ringKey die) s.sysCtx (g.addr g.next) 4 with
        | .wait t => t
        | .lost => s
        | .bytes b => if num b 0 4 % 2 == 1 then s else s.fillSlot die f

/-- SERVICE_RECORD_FILE (R366). -/
def execServiceRecordFile (die : Nat) (s : State) : Out := .next (s.fileNext die)
/-- RING_WRITE_RETRY: a write that could not be served is tried again (R366). -/
def execRingWriteRetry (die : Nat) (s : State) : Out := .next ((s.forget (ringKey die)).fileNext die)

/-! ### srecv (R368) -/

/-- Does slot n of a die's ring, filed and not taken, still read READY? -/
def State.slotReady (s : State) (die n : Nat) : Bool :=
  let g := s.ring die
  (g.slot n).ready &&
    match s.physical s.sysCtx false (g.addr n) with
    | .some pa => (s.mem.byte pa).getLsbD 0
    | .none => true

/-- The service code of what a slot holds. -/
def Ring.codeOf (g : Ring) (n : Nat) : Nat :=
  match (g.slot n).filing with
  | .some (.call k) => match mapFind g.calls k with | .some c => c.code | .none => 16
  | .some (.record r) => r.code
  | .none => 16

/-- The slot that srecv takes: the oldest of the device's records, else the oldest. -/
def State.nextRecord (s : State) (die : Nat) : Option Nat :=
  let g := s.ring die
  let l := (g.slots.map (·.1)).filter (s.slotReady die)
  let oldest (l : List Nat) : Option Nat := l.foldl (fun a n => match a with
    | .none => .some n
    | .some m => if (g.slot n).order < (g.slot m).order then .some n else a) .none
  match oldest (l.filter (fun n => decide (g.codeOf n < 16))) with
  | .some n => .some n
  | .none => oldest l

/-- Is the issuing group a kernel-mode group of its die's server launch (R368)? -/
def State.inServer (s : State) : Bool := s.me.kern && s.serves s.myGroup.grid s.me.die

/-- The lanes m of the issuing warp take record n of its die's ring, whose bytes are b, into vd and vd + 1 and S[P] to
S[P + 2] (R368). -/
def State.takeRecord (s : State) (m : Mask) (v r n : Nat) (b : List Byte) : State :=
  let die := s.me.die
  let g := s.ring die
  let owner := s.me.group
  let pub := match s.physical s.sysCtx false (g.addr n) with
    | .some pa => (s.relsAt pa 4).foldl (fun m r => if r.agent == frontAgent then joinClock m r.clock else m) []
    | .none => []
  let s := s.frontPut s.sysCtx (g.addr n) (bytesOfNat 4 0)
  let s := s.modRing die (fun g => { g with
    slots := mapPut g.slots n { g.slot n with ready := false, owed := .some owner } })
  let s := (lanesOf (s.real m)).foldl (fun s i =>
    let (a, s) := s.touch s.cur i
    (s.modAgent a (fun x => x.learnAll pub)).endRegion a) s
  let s := s.setSreg r (BitVec.ofNat 64 (2 ^ 63 + (g.slot n).gen.toNat * 2 ^ 32 + n))
  let s := s.setSreg (r + 1) (BitVec.ofNat 64 (num b 8 4 * 2 ^ 32 + num b 6 2 * 2 ^ 16 + num b 4 2))
  let s := s.setSreg (r + 2) (BitVec.ofNat 64 (num b 16 4 * 2 ^ 32 + num b 12 4))
  let s := s.writeV v m (.general (perLane (fun i => BitVec.ofNat 32 (num b (64 + 8 * i.val) 4)))) 0#4
  s.writeV (v + 1) m (.general (perLane (fun i => BitVec.ofNat 32 (num b (68 + 8 * i.val) 4)))) 0#4

/-- The lanes m of the issuing warp take the record that is next on their die, if one is ready and can be reached; and did
they? -/
def State.recvRecord (s : State) (m : Mask) (v r : Nat) : State × Bool :=
  let die := s.me.die
  let key := 2 ^ 53 + die
  match s.nextRecord die with
  | .none => (s, false)
  | .some n =>
    let a := (s.ring die).addr n
    match s.frontCan key s.sysCtx a 4 with
    | .wait t => (t, false)
    | .lost => (s.forget key, false)
    | .bytes _ =>
      match s.frontGet key s.sysCtx a 320 with
      | .wait t => (t, false)
      | .lost => (s.forget key, false)
      | .bytes b => (s.takeRecord m v r n b, true)

/-- srecv (R368): while no record is ready its lanes are in an architected wait. -/
def execSrecv (d : BitVec 4) (n : BitVec 5) (p : BitVec 2) (st : State) : Out :=
  let v := 2 * d.toNat
  let r := n.toNat
  .next (issue { v := [v, v + 1], s := [r, r + 1, r + 2], pred := p, predicated := true
                 bad := r == 0 || 29 < r || !st.inServer } st (fun s m =>
    match s.first m with
    | .none => { st := s }
    | .some _ =>
      match s.recvRecord m v r with
      | (t, true) => { st := t }
      | (t, false) =>
        let (id, t) := t.newUnit
        { st := (lanesOf m).foldl (fun t i => t.enterWait t.cur i s.pc s.hints (.recv id v r)) t }))

/-- The lanes of running warp k that wait at srecv, one issue's, take a record that has become ready (R368). -/
def State.receiveLater (s : State) (k : Nat) : State :=
  let w := s.warp k
  let first := (lanesOf w.live).findSome? (fun i => match Lanes.at w.wait i with
    | .recv id v r => .some (id, v, r)
    | _ => .none)
  match if w.place == .running then first else .none with
  | .none => s
  | .some (id, v, r) =>
    let m := maskOf (fun i => Lanes.at w.wait i == .recv id v r)
    match { s with cur := k }.recvRecord m v r with
    | (t, true) =>
      let t := (lanesOf m).foldl (fun t i => t.leaveWait k i) t
      { t.modWarp k (fun w => w.reform t.cc) with cur := s.cur }
    | (t, false) => { t with cur := s.cur }

/-- The warps of a die that wait at srecv, while one of its records is ready (R368). -/
def State.receiveAll (s : State) (die : Nat) : State :=
  s.warps.foldl (fun s e =>
    if e.2.die == die && (lanesOf e.2.live).any (fun i => match Lanes.at e.2.wait i with | .recv _ _ _ => true | _ => false)
        && (s.nextRecord die).isSome then s.receiveLater e.1 else s) s

/-! ### srep and replies (R266, R369, R370) -/

/-- Is the save area of warp k as the device wrote it? In a protected world an edit fails the decryption (R266). -/
def State.unedited (s : State) (k : Nat) : Bool :=
  let w := s.warp k
  let b := w.saveBytes (s.declared w) (Config.checkValue k)
  s.mem.bytes (saveAddr k) b.length == b

/-- Warp k, which waits for the chip OS, goes on from its save area as w; lanes of skip step past their instruction. Where its
group has been stopped meanwhile, it joins it (R266, R285). -/
def State.resumeSystem (s : State) (k : Nat) (w : Warp) (skip : Mask) : State :=
  let old := s.warp k
  let w := { w with
    pc := Lanes.where_ w.pc skip (fun i => Lanes.at old.pc i + 4#32)
    kept := Lanes.where_ w.kept skip (fun _ => .none)
    sysmask := 0#32 }
  match (s.group w.group).status with
  | .preempted => (s.setWarp k { w with place := .preempted, fast := false, bundles := [] }).saveWarp k
  | .evicted => (s.setWarp k { w with place := .evicted, fast := false, bundles := [] }).saveWarp k
  | _ => s.runAgain k w

/-- The outcome x of a code-0 record (R224, R266): none where the save area does not match and nothing is restored (R288). -/
def State.codeZero (s : State) (r : DevRec) (x : Word) : Option State :=
  match r.warp, r.cluster with
  | .some k, _ =>
    let w := s.warp k
    if w.place != .system then .some s
    else if 2 ≤ x.toNat then .some (s.endLaunch (s.group w.group).grid)
    else (s.readBack k (s.unedited k)).map (fun w' => s.resumeSystem k w' (if x == 1#32 then w.sysmask &&& w.live else 0#32))
  | .none, .some cl =>
    let c := s.cluster cl
    match c.gang with
    | .none => .some s
    | .some (g, _) =>
      if !c.stopped then .some s
      else if 2 ≤ x.toNat then .some (s.endLaunch g)
      else .some (s.modCluster cl (fun c => { c with
        stopped := false
        pc := if x == 1#32 then c.pc + 4#32 else c.pc
        hints := if x == 1#32 then Hints.empty else c.hints }))
  | .none, .none => .some s

/-- srep (R369). -/
def execSrep (e : BitVec 4) (n : BitVec 5) (b : Src) (st : State) : Out :=
  .next (issue { v := srcV b, s := n.toNat :: srcS b, k := Perm.param b.perm } st (fun s m =>
    let die := s.me.die
    let h := (s.sreg n.toNat).toNat
    let k := nbits h 0 12
    let g := s.ring die
    let slot := g.slot k
    if s.real m == 0#32 then { st := s }
    else if nbits h 63 1 == 0 || slot.gen.toNat != nbits h 32 16 || slot.owed != .some s.me.group then
      { st := s, traps := trapAll (s.real m) (Trap.plain .illegal) }
    else
      let x := s.srcB b
      let no := s.me.mask e.toNat
      let free (s : State) : State := s.modRing die (fun g => { g with
        slots := mapPut g.slots k { g.slot k with filing := .none, owed := .none } })
      match slot.filing with
      | .some (.record r) =>
        if r.code != 0 then { st := free (s.releaseLanes m).2 }
        else
          match s.codeZero r (x.at 0) with
          | .none => { st := s, traps := trapAll (s.real m) (Trap.plain .fmt) }
          | .some t => { st := free (t.releaseLanes m).2 }
      | .some (.call c) =>
        let (pub, s) := s.releaseLanes m
        let rep : Lanes (Option Word) := perLane (fun i =>
          if e != 0#4 && Mask.has no i then Option.none else Option.some (x.at i))
        { st := free (s.modRing die (fun g => { g with calls := mapAll g.calls (fun j y =>
            if j == c then { y with replies := Option.some rep, back := pub } else y) })) }
      | .none => { st := free (s.releaseLanes m).2 }))

/-- The reply to call k of warp c.warp lands: values arrive and waits end, an acquire; SVCERR is raised in the other lanes
(R178, R370). A saved warp takes its values when it runs again. -/
def State.deliverReply (s : State) (k : Nat) (c : Call) (rep : Lanes (Option Word)) : State :=
  let w := s.warp c.warp
  match w.pending k with
  | .none => s
  | .some p =>
    let m := p.remote &&& w.live
    let ok := maskOf (fun i => Mask.has m i && (Lanes.at rep i).isSome)
    let s := s.modPend c.warp k (fun q => { q with
      vals := q.vals.map (fun l => Lanes.where_ l ok (fun i => (Lanes.at rep i).getD 0#32))
      got := q.got ||| ok
      remote := q.remote &&& ~~~ok })
    let s := (lanesOf ok).foldl (fun s i =>
      let (a, s) := s.touch c.warp i
      let s := (s.modAgent a (fun x => x.learnAll c.back)).endRegion a
      s.modWarp c.warp (fun w =>
        let w := if Lanes.at w.wait i == .svc k then w.endWait i else w
        if Lanes.at w.suspended i == .svc k then { w with suspended := Lanes.put w.suspended i .none } else w)) s
    let s := s.failLater c.warp p (m &&& ~~~ok) (fun _ => .svcerr)
    if w.place == .running then (s.landDue c.warp).modWarp c.warp (fun w => w.reform s.cc) else s

/-- REPLY_DELIVERY: the reply that srep gave to call k lands (R370). -/
def execReplyDelivery (k : Nat) (s : State) : Out :=
  match s.rings.find? (fun r => mapHas r.2.calls k) with
  | .none => .next s
  | .some (die, g) =>
    match (mapFind g.calls k).bind (fun c => c.replies.map (fun r => (c, r))) with
    | .none => .next s
    | .some (c, r) => .next ((s.modRing die (fun g => { g with calls := mapDel g.calls k })).deliverReply k c r)

/-! ### What the rings look at after each step (R51, R366, R370) -/

/-- Lanes whose svc window has passed with no reply are in an architected wait (R51, R77, R367). -/
def State.waitCall (s : State) (k : Nat) (c : Call) : State :=
  let w := s.warp c.warp
  match w.pending k with
  | .none => s
  | .some p =>
    let m := p.pastWindow &&& p.remote &&& w.live &&& ~~~w.detached &&& maskOf (fun i => Lanes.at w.wait i == .none)
    if w.place != .running || w.frozen p || m == 0#32 then s
    else s.setWarp c.warp ({ w with wait := Lanes.where_ w.wait m (fun _ => .svc k) }.reform s.cc)

/-- A slot owed by a group that has retired is freed, and its callers get SVCERR (R370). -/
def State.disownSlot (s : State) (die n : Nat) : State :=
  let slot := (s.ring die).slot n
  match slot.owed with
  | .none => s
  | .some g =>
    if mapHas s.groups g && (s.group g).status != .retired then s
    else
      s.modRing die (fun r => { r with
        slots := mapPut r.slots n { r.slot n with filing := .none, owed := .none }
        calls := match slot.filing with
          | .some (.call k) => mapAll r.calls (fun j y => if j == k then { y with replies := .some (allLanesOf .none) } else y)
          | _ => r.calls })

/-- The rings after a step. -/
def State.settleCalls (s : State) : State :=
  s.rings.foldl (fun s r =>
    let s := r.2.slots.foldl (fun s e => if e.2.owed.isSome then s.disownSlot r.1 e.1 else s) s
    (r.2.calls.foldl (fun s e => s.waitCall e.1 e.2) s).receiveAll r.1) s

/-! ### Path 0x3 reads at endpoints (R374, R379) -/

/-- The port that has read k outstanding. -/
def State.portOfRead (s : State) (k : Nat) : Option (Nat × IoRead) :=
  s.ports.findSome? (fun q => (mapFind q.2.reads k).map (fun r => (q.1, r)))

/-- Read k of port p ends: its lane takes the bytes (R374). -/
def State.endRead (s : State) (p k : Nat) (r : IoRead) (b : List Byte) : State :=
  let s := s.modPort p (fun q => { q with reads := mapDel q.reads k })
  if ((s.warp r.warp).pending r.pend).isSome then s.answerLane r.warp r.pend r.lane 0 b true else s

/-- Read k of port p ends with no data: every destination register of its lane takes 0xFFFF_FFFF, whatever the width (R374). -/
def State.endUnsupported (s : State) (p k : Nat) (r : IoRead) : State :=
  let s := s.modPort p (fun q => { q with reads := mapDel q.reads k })
  (s.modPend r.warp r.pend (fun q =>
    { q with vals := q.vals.map (fun l => Lanes.where_ l (q.owners r.lane) (fun _ => 0xFFFFFFFF#32)) }.arrive r.lane)).tidyPend r.warp

/-- IO_LOAD_COMPLETION: not before every inbound write that the port received has been performed (R374, R379). -/
def execIoLoadCompletion (k : Nat) (c : IoCompletion) (s : State) : Out :=
  match s.portOfRead k with
  | .none => .next s
  | .some (p, r) =>
    if (s.port p).held.any (fun h => h.2.write) then .next s
    else
      match c with
      | .data v => .next (s.endRead p k r (bytesOfNat r.size v.toNat))
      | .unsupported =>
        .next ((s.modPort p (fun q => { q with stat := q.stat ||| BitVec.twoPow 64 63 })).endUnsupported p k r)
      | .poisoned =>
        let s := s.modPort p (fun q => { q with stat := q.stat ||| BitVec.twoPow 64 61, reads := mapDel q.reads k })
        match (s.warp r.warp).pending r.pend with
        | .none => .next s
        | .some x => .next (s.failLater r.warp x (x.owners r.lane) (fun _ => .poison))

/-- The completion timeout of a port in fs: CTO ms, 0 counting as 1 (R373). -/
def Port.timeout (q : Port) : Nat := max 1 (fieldBits q.ctl 0 8) * 1000000000000

/-- IO_COMPLETION_TIMEOUT (R374). -/
def execIoCompletionTimeout (k : Nat) (s : State) : Out :=
  match s.portOfRead k with
  | .none => .next s
  | .some (p, r) =>
    .next (if r.since + (s.port p).timeout ≤ s.clock then
        (s.modPort p (fun q => { q with stat := q.stat ||| BitVec.twoPow 64 62 })).endUnsupported p k r
      else s)

/-! ### Inbound DMA (R375 to R378) -/

/-- The context of a port that takes a requester: the lowest valid entry whose range holds it; a nonzero WORLD counts only once
Root has confirmed it (R375). -/
def Port.contextOf (q : Port) (rid : BitVec 16) : Option (DWord × BitVec 10) :=
  ((List.range 64).findSome? (fun e =>
    let c := q.ctx.toList.getD e (0#64, 0#64)
    let w := fieldBits c.1 32 10
    if c.1.getLsbD 63 && fieldBits c.1 0 16 ≤ rid.toNat && rid.toNat ≤ fieldBits c.1 16 16
        && (w == 0 || mapGet false q.confirmed e) then
      .some (c.2, BitVec.ofNat 10 w)
    else .none))

/-- What an inbound request comes to: pieces of local memory in its world, a cause code it is refused with, or a walk it is held
for. -/
inductive Admit where
  | go (world : BitVec 10) (l : List (Nat × Nat × Nat))
  | refuse (code : Nat)
  | hold (c : Ctx) (reason va : Nat)

/-- Does an address lie in a window span at its launch-default base (R155, R376)? -/
def inDefaultWindow (va : Nat) : Bool :=
  let (sp, cl, stk, fr) := defaultSegs 0#32 0#32 0#32
  sp.holds (2 ^ 19) va || cl.holds (2 ^ 21) va || stk.holds (2 ^ 32) va || fr.holds (2 ^ 32) va

/-- The pieces of n bytes from va, page by page, each with U = 1 (R376). -/
def State.inboundPieces (s : State) (c : Ctx) (write : Bool) : Nat → Nat → Nat → Admit
  | 0, _, _ => .go c.world []
  | fuel + 1, va, n =>
    if n == 0 then .go c.world []
    else if 2 ^ 57 ≤ va || inDefaultWindow va then .refuse 13
    else
      -- windows begin at multiples of 2^19
      let m := min n (65536 - va % 65536)
      match s.place c 0 write va with
      | .memory pa buf =>
        match s.inboundPieces c write fuel (va + m) (n - m) with
        | .go w l => .go w ((pa, m, buf) :: l)
        | e => e
      | .io _ | .peer _ _ => .refuse 15
      | .trap e => .refuse e.code.toNat
      | .service r => .hold c r va

/-- The checks of an inbound request (R376). -/
def State.admitInbound (s : State) (p : Nat) (rid : BitVec 16) (addr : DWord) (write : Bool) (n : Nat) : Admit :=
  match (s.port p).contextOf rid with
  | .none => .refuse 0
  | .some (root, w) => s.inboundPieces ⟨4, 0, root, w, false⟩ write (pageFuel n) addr.toNat n

/-- An inbound request is refused: IDROP, LASTRID and the code-4 record; a read ends Unsupported Request (R373, R376). -/
def State.refuseInbound (s : State) (p : Nat) (x : Inbound) (code : Nat) : State :=
  let s := s.modPort p (fun q => { q with
    stat := (q.stat &&& ~~~keepBits (-1#64) 31 16) ||| BitVec.twoPow 64 60 ||| BitVec.ofNat 64 (x.rid.toNat * 2 ^ 16)
    completed := if x.write then q.completed else q.completed ++ [(x.rid, x.addr, .unsupported)] })
  s.post 0 { code := 4
             body := bytesOfNat 8 x.addr.toNat ++ bytesOfNat 2 x.rid.toNat ++ bytesOfNat 1 p ++ bytesOfNat 1 (if x.write then 1 else 0)
               ++ bytesOfNat 1 code ++ List.replicate 51 0#8
             warp := .none
             cluster := .none }

/-- The agent of a port's endpoints (R174, R377). -/
def portAgent (p : Nat) : Nat := (2 ^ 40 + 64 + p) * 1024

/-- An inbound access compared with the watch triples of the home die (R276): SRC 3, with the port. -/
def State.watchInbound (s : State) (p : Nat) (world : BitVec 10) (wr : Bool) (l : List (Nat × Nat × Nat)) : State :=
  l.foldl (fun s x => s.watchEngine 3 p 0 0 world (!wr) wr x.1 x.2.1) s

/-- An accepted write performed at the home L2: covered sectors take new check values, and without Relaxed Ordering it releases the
endpoint's earlier writes (R362, R378). -/
def State.writeInbound (s : State) (p : Nat) (x : Inbound) (w : BitVec 10) (l : List (Nat × Nat × Nat)) : State :=
  let c : Ctx := ⟨4, 0, 0#64, w, false⟩
  let s := s.watchInbound p w true l
  let s := l.foldl (fun s q =>
    (List.range (q.2.1 / 32 + 2)).foldl (fun s j => s.healSector (q.1 + 32 * j) [(q.1, q.2.1)]) s) s
  let s := s.putPieces c x.bytes l
  if x.relaxed then s
  else
    let k := portAgent p
    let pub := s.publishedAll k
    (l.foldl (fun s q => s.addRel q.1 q.2.1 (s.release k 7#3 pub)) s).endRegion k

/-- An inbound request under key k goes on: it is performed, refused, or held while its walk is served. A write without Relaxed
Ordering waits behind the earlier ones that are held (R376, R378). -/
def State.tryInbound (s : State) (p k : Nat) (x : Inbound) : State :=
  let keep (s : State) : State := s.modPort p (fun q => { q with held := mapPut q.held k x })
  let gone (s : State) : State := if mapHas (s.port p).held k then s.modPort p (fun q => { q with held := mapDel q.held k }) else s
  match s.admitInbound p x.rid x.addr x.write x.n with
  | .refuse c => (gone s).refuseInbound p x c
  | .hold c r va =>
    if s.faults.any (fun f => f.2.who == .some (.inbound p k)) then keep s
    else (keep s).sendFault c va (if x.write then 1 else 0) r (.inbound p k)
  | .go w l =>
    if x.write then
      if !x.relaxed && (s.port p).held.any (fun h => decide (h.1 < k) && h.2.write && !h.2.relaxed) then keep s
      else (gone s).writeInbound p x w l
    else
      let c : Ctx := ⟨4, 0, 0#64, w, false⟩
      let s := (gone s).watchInbound p w false l
      let r : ReadEnd := if l.any (s.pieceBad c) then .poisoned else .data (l.flatMap (fun q => s.mem.bytes q.1 q.2.1))
      s.modPort p (fun q => { q with completed := q.completed ++ [(x.rid, x.addr, r)] })

/-- INBOUND_READ (R376). -/
def execInboundRead (p : BitVec 2) (rid : BitVec 16) (addr : DWord) (n : Nat) (s : State) : Out :=
  let (k, s) := s.newUnit
  .next (s.tryInbound p.toNat k ⟨rid, addr, false, false, [], n, s.clock⟩)
/-- INBOUND_WRITE (R376, R378). -/
def execInboundWrite (p : BitVec 2) (rid : BitVec 16) (addr : DWord) (bytes : List Byte) (relaxed : Bool) (s : State) : Out :=
  let (k, s) := s.newUnit
  .next (s.tryInbound p.toNat k ⟨rid, addr, true, relaxed, bytes, bytes.length, s.clock⟩)

/-- The requests of a port that wait for no walk go on. -/
def State.settleInbound (s : State) : State :=
  s.ports.foldl (fun s q =>
    q.2.held.foldl (fun s h =>
      if s.faults.any (fun f => f.2.who == .some (.inbound q.1 h.1)) then s else s.tryInbound q.1 h.1 h.2) s) s

/-- INBOUND_HOLD_TIMEOUT: request k, held for service for CTO ms, is refused with the cause of its walk (R376). -/
def execInboundHoldTimeout (k : Nat) (s : State) : Out :=
  match s.ports.findSome? (fun q => (mapFind q.2.held k).map (fun x => (q.1, x))) with
  | .none => .next s
  | .some (p, x) =>
    .next (if x.since + (s.port p).timeout ≤ s.clock then
      match s.admitInbound p x.rid x.addr x.write x.n with
      | .hold _ r _ =>
        let s := { s with faults := s.faults.filter (fun f => f.2.who != Option.some (Requester.inbound p k)) }
        ((s.modPort p (fun q => { q with held := mapDel q.held k })).refuseInbound p x (if r == 2 then 15 else 14)).settleInbound
      | _ => s.settleInbound
      else s)

/-! ### Register-write events (R64, R363, R364, R373, R375) -/

/-- INBOUND_CONTEXT_WRITE (R375). -/
def execInboundContextWrite (p : BitVec 2) (e : BitVec 6) (word : Bool) (v : DWord) (confirmed : Bool) (s : State) : Out :=
  .next (s.writeContext p.toNat e.toNat word v confirmed)
/-- SVCCFG_WRITE (R364). -/
def execSvccfgWrite (d : BitVec 2) (word : Bool) (v : DWord) (s : State) : Out := .next (s.writeSvccfg d.toNat word v)
/-- REGISTER_WRITE (R64): a register of I/O space by its address. -/
def execRegisterWrite (a v : DWord) (s : State) : Out := .next (s.ioWriteReg a.toNat v)
/-- ROOT_PORT_LINK_TRAINING: SPLIT is sampled, and bit j of UP says whether link j is up; without SPLIT bit 0 alone (R373). -/
def execRootPortLinkTraining (p : BitVec 2) (up : BitVec 4) (s : State) : Out :=
  .next (s.modPort p.toNat (fun q =>
    let u := if q.ctl.getLsbD 63 then up.toNat else up.toNat % 2
    { q with stat := (q.stat &&& ~~~keepBits (-1#64) 35 32) ||| BitVec.ofNat 64 (u * 2 ^ 32) }))

end Sys2Proof.Machine
end

