-- ==== Sys2Proof/Machine/Translation.lean ====
section
/-! DEFINITION. Translation's events (R344 to R352): page walks, fault records and replies, the retirement of a world; and soft
errors (R363). -/

namespace Sys2Proof.Machine

/-! ### Page walks (R344, R345) -/

/-- A list of at most n entries with e last; the oldest gives way. -/
def tlbAdd (n : Nat) (l : List TlbEntry) (e : TlbEntry) : List TlbEntry :=
  let l := l.filter (fun x => !(x.root == e.root && x.world == e.world && x.page == e.page && x.size == e.size))
  (if n ≤ l.length then l.drop 1 else l) ++ [e]

/-- Does a group on a core translate under a root and world? -/
def State.walksOn (s : State) (core : Nat) (root : DWord) (world : BitVec 10) : Bool :=
  s.groups.any (fun e => coreKey e.2.die e.2.core == core && e.2.status != .retired
    && (s.grid e.2.grid).record.ptroot == root && (s.grid e.2.grid).world == world)

/-- PAGE_WALK: a walk for a core ends at a leaf, which its L1 TLB and its die's cache then hold (R344, R345). -/
def execPageWalk (core : Nat) (root va : DWord) (world : BitVec 10) (s : State) : Out :=
  .next (match walk s.mem root.toNat (va.toNat % 2 ^ 57) with
  | .leaf e size =>
    if s.walksOn core root world then
      let x : TlbEntry := ⟨root, world, va.toNat % 2 ^ 57 / size, size, BitVec.ofNat 64 e⟩
      (s.modCore core (fun c => { c with tlb := tlbAdd 128 c.tlb x })).modDie (core / 128) (fun d =>
        { d with tlb := tlbAdd 16384 d.tlb x })
    else s
  | _ => s)

/-! ### Faults served at home (R348, R349) -/

/-- FAULT_RECORD: one of this device's 8 fault harts takes record k (R348). -/
def execFaultRecord (k : Nat) (s : State) : Out :=
  .next (match mapFind s.faults k with
  | .some f =>
    if f.home.toNat == ownDevice && !f.taken && decide ((s.faults.filter (fun e => e.2.taken)).length < 8) then
      { s with faults := mapPut s.faults k { f with taken := true } }
    else s
  | .none => s)

/-- The cause of an outcome; none for a retry. -/
def outcomeCause : FaultOutcome → Option Cause
  | .retry => .none
  | .xlat => .some .xlat
  | .prot => .some .prot
  | .unreachable => .some .link

/-- The failure c of the walk at va reaches its requester (R215, R224, R281, R316, R349, R376). -/
def State.failRequest (s : State) (who : Requester) (va : DWord) (c : Cause) : State :=
  match who with
  | .lane k id i _ => s.modPend k id (fun p => { p with failed := (i, c) :: p.failed })
  | .store k i a => s.modWarp k (fun w => { w with late := w.late ++ [⟨i, c, a, Lanes.at w.pc i⟩] })
  | .wait k i =>
    match Lanes.at (s.warp k).wait i with
    | .addr a _ => s.trapWaiting k [(i, Trap.atAddr c a)]
    | _ => s
  | .bulk core k _ _ =>
    match mapFind (s.core core).bulk k with
    | .some b => s.failBulk core k b c
    | .none => s
  | .copy core k _ =>
    match mapFind (s.core core).reqs k with
    | .some r => (s.modCore core (fun x => { x with reqs := mapDel x.reqs k })).failCopy r c
    | .none => s
  | .stream cl => if (s.cluster cl).gang.isSome then s.controlFault cl c va else s
  | .row f n => s.fileAnswer f n (.inr c)
  | .inbound p k =>
    match mapFind (s.port p).held k with
    | .some x => (s.modPort p (fun q => { q with held := mapDel q.held k })).refuseInbound p x c.code.toNat
    | .none => s
  | .front k => { s with front := { s.front with failed := mapPut s.front.failed k c } }

/-- The walk of a requester is to be repeated (R349): what waits re-executes by its own event, except an operation's pieces and a wait. -/
def State.retryRequest (s : State) (who : Requester) : State :=
  match who with
  | .bulk core k _ _ => s.bulkServed core k
  | .wait k i =>
    let r := s.pollLane true true false false k i
    r.1.trapWaiting k r.2
  | _ => s

/-- The reply to record k with an outcome: it goes to the device that asked, or acts on who waits here. -/
def State.replyFault (s : State) (k : Nat) (f : FaultReq) (o : FaultOutcome) : State :=
  let s := { s with faults := mapDel s.faults k }
  match f.who with
  | .none =>
    match s.routeTo f.req.toNat with
    | .some p => s.sendPacket p (.faultReply f.token o)
    | .none => s
  | .some w =>
    match outcomeCause o with
    | .some c => (s.failRequest w f.va c).settleInbound
    | .none => (s.retryRequest w).settleInbound

/-- Can a record have the outcome now: unreachable where no link leads to its home, else what a hart that took it answers? -/
def State.mayReply (s : State) (f : FaultReq) (o : FaultOutcome) : Bool :=
  if f.home.toNat == ownDevice then f.taken && o != .unreachable
  else (o == .unreachable) == (s.routeTo f.home.toNat).isNone

/-- FAULT_REPLY (R349). -/
def execFaultReply (token : Nat) (o : FaultOutcome) (s : State) : Out :=
  .next (match mapFind s.faults token with
  | .some f => if s.mayReply f o then s.replyFault token f o else s
  | .none => s)

/-! ### The retirement of a world (R352) -/

/-- Dirty bytes of lines of a key identity, in L2. -/
def Mem.dirtyOf (m : Mem) (key : Nat) : List Nat :=
  (m.l2.filter (fun e => match mapFind m.lines (e.1 / 64) with | .some (k, _) => k == key | .none => false)).map (·.1)

/-- The register entries, h-registers and scratchpad allocations of world w are written with zero (R352). -/
def State.zeroWorld (s : State) (w : BitVec 10) : State :=
  let mine (g : Nat) : Bool := (s.grid (s.group g).grid).world == w
  { s with
    warps := mapAll s.warps (fun _ x => if mine x.group then { x with v := zeroV, h := zeroH } else x)
    groups := mapAll s.groups (fun g x => if mine g then { x with sp := [] } else x) }

/-- World w retires: its registers and scratchpads are zero, its dirty lines are written back and dropped, its cached translations
dropped, its buffers' CLASS 0, its key slot erased; inbound contexts that name it count as invalid (R352, R375). -/
def State.retireWorld (s : State) (w : BitVec 10) : State :=
  let x := s.world w
  let s := s.zeroWorld w
  let s := { s with mem := (s.mem.dirtyOf x.key).foldl (fun m a => m.cleanByte a) s.mem }
  let s := s.dropTlb (fun e => e.world == w)
  let s := { s with
    versions := x.buffers.foldl (fun (m : Map Word) (b : BitVec 16 × BitVec 2) =>
      let v := (mapGet 0#32 m b.1.toNat).toNat
      if v % 1024 == w.toNat then mapPut m b.1.toNat (BitVec.ofNat 32 (v / 4096 * 4096 + v % 1024)) else m) s.versions
    worlds := mapDel s.worlds w.toNat }
  { s with ports := mapAll s.ports (fun _ q => { q with
      confirmed := q.confirmed.filter (fun e => fieldBits (q.ctx.toList.getD e.1 (0#64, 0#64)).1 32 10 != w.toNat) }) }

/-- WORLD_RETIREMENT: no grid of the world is accepted or dispatched (R352). -/
def execWorldRetirement (w : BitVec 10) (s : State) : Out :=
  let live := s.grids.any (fun g => (g.2.status == .dispatched && g.2.world == w)
    || (g.2.status == .accepted && !g.2.fromQueue && g.2.inWorld == w))
  .next (if w == 0#10 || !mapHas s.worlds w.toNat || live then s else s.retireWorld w)

/-! ### Soft errors (R361 to R363) -/

/-- ERRSTAT_WRITE (R363). -/
def execErrstatWrite (d : Nat) (v : DWord) (s : State) : Out := .next (s.writeErrstat d v)

/-- An error of a unit counted in ERRSTAT.d (R363). -/
def State.countError (s : State) (d : Nat) (unit : BitVec 4) (corrected : Bool) : State :=
  if h : d < 5 then
    let v := s.front.errstat[d]
    let ce := nbits v.toNat 44 20
    let ue := nbits v.toNat 32 12
    let ce := if corrected then min (ce + 1) (2 ^ 20 - 1) else ce
    let ue := if corrected then ue else min (ue + 1) 4095
    { s with front := { s.front with
        errstat := s.front.errstat.set d (BitVec.ofNat 64 (ce * 2 ^ 44 + ue * 2 ^ 32 + unit.toNat * 2 ^ 28)) } }
  else s

/-- The sector at a physical address is poisoned. -/
def State.poisonSector (s : State) (pa : Nat) : State := { s with mem := { s.mem with poison := mapPut s.mem.poison (pa / 32) true } }

/-- What an uncorrectable error of a unit poisons (R361, R363): an entry of the register files or a scratchpad sector of core loc of
die d, an L1 sector, a translation, which no longer serves, or the sector or line at physical address loc. Which entry or sector of
a core, the spec leaves open (log 3). -/
def State.poisonUnit (s : State) (d : Nat) (unit : BitVec 4) (loc : DWord) : State :=
  let core := loc.toNat % 128
  let key := coreKey d core
  let (v, s) := s.free
  let pick {α : Type} (l : List α) : Option α := l[v.toNat % max 1 l.length]?
  match unit.toNat with
  | 0 =>
    let l := (s.warps.filter (fun e => e.2.die == d && e.2.core == core && e.2.place != .gone)).flatMap (fun e =>
      ((List.range 40).filter (fun n => (e.2.reg n).mapped)).map (fun n => (e.1, n)))
    match pick l with
    | .some (k, n) => s.modWarp k (fun w => { w with spoiled := if w.spoiled.contains n then w.spoiled else n :: w.spoiled })
    | .none => s
  | 1 =>
    let l := (s.groups.filter (fun e => e.2.die == d && e.2.core == core && e.2.spLive)).flatMap (fun e =>
      (List.range (e.2.spSize / 32)).map (fun q => (e.1, q)))
    match pick l with
    | .some (g, q) => s.modGroup g (fun x => { x with spPoison := if x.spPoison.contains q then x.spPoison else q :: x.spPoison })
    | .none => s
  | 2 =>
    match pick (s.core key).ro with
    | .some (q, _) => s.modCore key (fun c => { c with roBad := if c.roBad.contains q then c.roBad else q :: c.roBad })
    | .none => s
  | 4 =>
    match pick (s.core key).tlb with
    | .some e => s.modCore key (fun c => { c with tlb := c.tlb.filter (· != e) })
    | .none => s
  | 6 => (s.poisonSector (loc.toNat / 64 * 64)).poisonSector (loc.toNat / 64 * 64 + 32)
  | _ => s.poisonSector loc.toNat

/-- ECC_ERROR: counted; an uncorrectable one poisons and posts a code-3 record on die 0 (R363). Units 8 to 15 are reserved. -/
def execEccError (d : Nat) (unit : BitVec 4) (corrected : Bool) (loc : DWord) (s : State) : Out :=
  .next (if 5 ≤ d || 8 ≤ unit.toNat then s
  else
    let s := s.countError d unit corrected
    if corrected then s
    else (s.poisonUnit d unit loc).post 0
      { code := 3
        body := bytesOfNat 1 d ++ bytesOfNat 1 unit.toNat ++ List.replicate 6 0#8 ++ bytesOfNat 8 loc.toNat ++ List.replicate 48 0#8
        warp := .none
        cluster := .none })

end Sys2Proof.Machine
end

