-- ==== Sys2Proof/Machine/Links.lean ====
section
/-! DEFINITION. Uluster's receive side (R380 to R392): flits in counter order, retry, the packets of a data flit, the key epochs,
ports that go down and come up, and what a request without an answer comes to. -/

namespace Sys2Proof.Machine

/-! ### Event records (R392, R400) -/

/-- The key under which writer n of event records, port n or Sniquin Root as 24, has a record to write. -/
def eventKey (n : Nat) : Nat := 2 ^ 54 + n

/-- The record of a writer is written with a release at system scope, or waits for service, or is lost (R311, R392). -/
def State.flushEvent (s : State) (n : Nat) : State :=
  match mapFind s.front.events n with
  | .none => s
  | .some (a, b) =>
    let drop (s : State) : State := { s with front := { s.front with events := mapDel s.front.events n } }.forget (eventKey n)
    match s.frontCan (eventKey n) s.sysCtx a.toNat b.length with
    | .wait t => t
    | .lost => drop s
    | .bytes _ =>
      let s := (drop s).frontPut s.sysCtx a.toNat b
      match s.physical s.sysCtx true a.toNat with
      | .some pa => s.addRel pa 16 (s.release frontAgent 7#3 (s.publishedAll frontAgent))
      | .none => s

/-- An event record; a later one overwrites an earlier one (R392). -/
def State.putEvent (s : State) (n : Nat) (a : DWord) (b : List Byte) : State :=
  { s with front := { s.front with events := mapPut s.front.events n (a, b) } }.flushEvent n

/-- Every event record still to be written is tried again. -/
def State.flushEvents (s : State) : State := s.front.events.foldl (fun s e => s.flushEvent e.1) s

/-- The event record of port p with a KIND (R392). -/
def State.linkEvent (s : State) (p kind : Nat) : State :=
  let l := s.link p
  if l.evt.getLsbD 63 then
    s.putEvent p (l.evt &&& keepBits (-1#64) 56 4)
      (bytesOfNat 2 p ++ bytesOfNat 1 kind ++ [0#8] ++ bytesOfNat 2 l.peer.toNat ++ bytesOfNat 2 0 ++ bytesOfNat 8 (s.clock / 1000000))
  else s

/-! ### Failure (R349, R390) -/

/-- A request's requester gets LINK, or another cause, for it (R390). -/
def State.loseRequest (s : State) (who : Requester) (c : Cause) : State := (s.failRequest who 0#64 c).settleInbound

/-- Port p goes down with the KIND of its event: its keys and buffers are gone, its requests and the faults that wait behind it
raise LINK (R390). -/
def State.portDown (s : State) (p kind : Nat) : State :=
  let l := s.link p
  if !l.up then s
  else
    let s := s.modLink p (fun l => { Link.empty with
      peer := l.peer, retries := l.retries, authf := l.authf, evt := l.evt
      downs := if l.downs == 255#8 then l.downs else l.downs + 1#8 })
    let s := s.linkEvent p kind
    let s := l.reqs.foldl (fun s r => s.loseRequest r.2.who .link) s
    s.faults.foldl (fun s e =>
      if e.2.who.isSome && e.2.home.toNat != ownDevice && mapHas s.routes e.2.home.toNat && mapGet 0 s.routes e.2.home.toNat == p then
        s.replyFault e.1 e.2 .unreachable
      else s) s

/-- PORT_DOWN: a port loses its lanes or its peer goes down (R390). -/
def execPortDown (p : Nat) (kind : Byte) (s : State) : Out := .next (s.portDown p kind.toNat)

/-- A port without traffic answers with an idle flit, which carries its ACK and credits (R383; log 12). -/
def Link.idle (l : Link) : Link :=
  if l.up && decide (l.sent.length < 64) && decide (l.txCounter < lastCounter) then l.sendFlit 0#4 [] else l

/-- Port p comes up to a peer: epoch 0, fresh keys, empty buffers; the first flit grants credits (R384, R390). -/
def State.portUpWith (s : State) (p : Nat) (peer : BitVec 9) : State :=
  if 24 ≤ p || (s.link p).up then s
  else
    let room (c : Nat) : Nat := Config.linkBuffer c
    let s := s.modLink p (fun l => { Link.empty with
      up := true, keyed := true, peer := peer, retries := l.retries, authf := l.authf, downs := l.downs, evt := l.evt
      owed := (room 0, room 1, room 2) }.idle)
    s.linkEvent p 5

/-- PORT_UP (R390). -/
def execPortUp (p : Nat) (peer : BitVec 9) (s : State) : Out := .next (s.portUpWith p peer)

/-! ### Requests of a peer (R357, R380, R381) -/

/-- The world that a request's key identity names here; none where no world here has it (R357). -/
def State.keyWorld (s : State) (key : Nat) : Option (BitVec 10) :=
  if key == 0 then .some 0#10
  else (s.worlds.find? (fun e => e.2.handle.toNat == key)).map (fun e => BitVec.ofNat 10 e.1)

/-- The tag of the line at pa for a peer's access under the key of world w: the key with the version that the line has, since the
access names no buffer (R354, R357; log 13). -/
def State.peerTag (s : State) (w : BitVec 10) (pa : Nat) : Option (Nat × Nat) :=
  if w == 0#10 then .none
  else
    let k := (s.world w).key
    match mapFind s.mem.lines (pa / 64) with
    | .some (k', v) => if k' == k then .some (k, v) else .some (k, 0)
    | .none => .some (k, 0)

/-- Does a line answer the key of world w? -/
def State.peerLine (s : State) (w : BitVec 10) (pa : Nat) : Bool :=
  match mapFind s.mem.lines (pa / 64) with
  | .none => w == 0#10
  | .some (k, _) => w != 0#10 && k == (s.world w).key

/-- Can n bytes at pa be read for world w (R360, R362)? -/
def State.peerReads (s : State) (w : BitVec 10) (pa n : Nat) : Bool :=
  s.peerLine w pa && s.peerLine w (pa + n - 1) && !s.mem.poisoned pa n

/-- Does a write of n bytes meet a poisoned sector or a line of another key that it does not cover (R360, R362)? -/
def State.peerSpoils (s : State) (w : BitVec 10) (pa n : Nat) : Bool :=
  let l := [(pa, n)]
  let bad (a : Nat) : Bool := (mapGet false s.mem.poison (a / 32) && !covers l (a / 32 * 32) 32)
    || (!s.peerLine w a && !covers l (a / 64 * 64) 64)
  bad pa || bad (pa + n - 1)

/-- The bytes of an atomic's operand (R171). -/
def atomicSize (aop : BitVec 4) : Nat := if aop == 1#4 || aop == 10#4 || aop == 12#4 || aop == 14#4 then 8 else 4

/-- A write performed here for a peer. -/
def State.peerWrite (s : State) (w : BitVec 10) (pa : Nat) (b : List Byte) : State :=
  (s.healSector pa [(pa, b.length)]).writePhys (s.peerTag w pa) pa b

/-- A request of device dev performed at this home L2, whole or not at all: the answer's bytes, or why not (R357, R360, R381). -/
def State.servePeer (s : State) (dev key : Nat) (op : PeerOp) : State × (List Byte ⊕ Cause) :=
  match s.keyWorld key with
  | .none => (s, .inr .peer)
  | .some w =>
    match op with
    | .read pa n =>
      if s.peerReads w pa n then (s.watchEngine 2 0 dev 0 w true false pa n, .inl (s.mem.bytes pa n)) else (s, .inr .poison)
    | .write pa b =>
      if s.peerSpoils w pa b.length then (s, .inr .poison)
      else ((s.watchEngine 2 0 dev 0 w false true pa b.length).peerWrite w pa b, .inl [])
    | .atomic pa aop x y =>
      let n := atomicSize aop
      if s.peerReads w pa n then
        let old := s.mem.bytes pa n
        let s := s.watchEngine 2 0 dev 0 w true true pa n
        match atomicNew aop (natOfBytes old) x.toNat y.toNat with
        | .some v => (s.peerWrite w pa (bytesOfNat n v), .inl old)
        | .none => (s, .inl old)
      else (s, .inr .poison)

/-! ### Answers (R381, R390) -/

/-- Has lane i's result id other requests outstanding? -/
def State.laneAsks (s : State) (k id : Nat) (i : Lane) : Bool :=
  s.links.any (fun e => e.2.reqs.any (fun r => match r.2.who with
    | .lane k' id' i' _ => k' == k && id' == id && i' == i
    | _ => false))

/-- The answer of a request reaches its requester. -/
def State.giveAnswer (s : State) (who : Requester) (b : List Byte) : State :=
  match who with
  | .lane k id i off => s.answerLane k id i off b (!s.laneAsks k id i)
  | .store _ _ _ => s
  | .wait k i =>
    match Lanes.at (s.warp k).wait i with
    | .addr _ x => if BitVec.ofNat 32 (natOfBytes b) == x then s else s.leaveWait k i
    | _ => s
  | .bulk core k off n =>
    match mapFind (s.core core).bulk k with
    | .none => s
    | .some _ =>
      if b.isEmpty then s.countBulk core k n else s.bulkAnswer core k off b
  | .copy core k p => (s.putPart core k p b).settleCopy core k
  | .stream cl => s.modCluster cl (fun c => { c with answer := .some (BitVec.ofNat 64 (natOfBytes b)) })
  | .row f n => s.fileAnswer f n (.inl (BitVec.ofNat 32 (natOfBytes b)))
  | .inbound _ _ | .front _ => s

/-- Request k is no longer outstanding. -/
def State.dropRequest (s : State) (p k : Nat) : State := s.modLink p (fun l => { l with reqs := mapDel l.reqs k })

/-- One packet of a verified data flit on port p (R349, R381, R384, R390). -/
def State.takePacket (s : State) (p : Nat) (x : LinkPacket) : State :=
  let dev := (s.link p).peer
  match x with
  | .request token key op =>
    match s.servePeer dev.toNat key op with
    | (s, .inl b) => s.sendPacket p (.response token b)
    | (s, .inr c) => s.sendPacket p (.refusal token c.code)
  | .response token b =>
    match mapFind (s.link p).reqs token with
    | .some r => (s.dropRequest p token).giveAnswer r.who b
    | .none => s
  | .refusal token c =>
    match mapFind (s.link p).reqs token with
    | .some r => (s.dropRequest p token).loseRequest r.who (causeOf c.toNat)
    | .none => s
  | .hold token => s.modLink p (fun l => { l with reqs := mapAll l.reqs (fun k r => if k == token then { r with waited := 0 } else r) })
  | .faultRecord token va root world req kind reason =>
    let (u, s) := s.newUnit
    { s with faults := mapPut s.faults u ⟨token, va, root, world, req, kind, reason, .none, Config.deviceNumber, false, 0⟩ }
  | .faultReply token o =>
    match mapFind s.faults token with
    | .some f => if f.who.isSome && f.home.toNat != ownDevice then s.replyFault token f o else s
    | .none => s
  | .keyMessage => s

/-! ### Flits (R383 to R389) -/

/-- Is (e, c) at or before (e', c') in counter order? -/
def flitLe (e c e' c' : Nat) : Bool := decide (e < e') || (e == e' && decide (c ≤ c'))

/-- A retry request naming the flit expected is sent once for a failure (R386); not while the key stalls the link (R388). -/
def Link.askRetry (l : Link) : Link :=
  if decide (l.sent.length < 64) && decide (l.txCounter < lastCounter) && !(l.stalled || l.keyLate) then
    { l.sendFlit 3#4 [] with retryAsked := true }
  else l

/-- The next flit in counter order is verified. -/
def Link.verified (l : Link) (epoch counter : Nat) : Link :=
  { l with rxLast := (epoch, counter), rxCounter := counter + 1, fails := 0, retryAsked := false }

/-- Credits taken, and the flits that an ACK covers leave the retry buffer, after which an old key is erased (R384, R385, R388). -/
def Link.acked (l : Link) (f : Flit) : Link :=
  let (c0, c1, c2) := l.credits
  let sent := l.sent.filter (fun x => !flitLe x.epoch x.counter f.ackEpoch f.ack)
  { l with
    credits := (c0 + f.cred0.toNat, c1 + f.cred1.toNat, c2 + f.cred2.toNat)
    sent := sent
    ackEpoch := f.ackEpoch
    ackCounter := f.ack
    oldTx := l.oldTx && sent.any (fun x => decide (x.epoch < l.txEpoch)) }

/-- Room of packets taken is granted again (R384). -/
def Link.grant (l : Link) (ps : List LinkPacket) : Link :=
  ps.foldl (fun l p =>
    let (o0, o1, o2) := l.owed
    let n := packetUnits p
    match channelOf p with
    | 0 => { l with owed := (o0 + n, o1, o2) }
    | 1 => { l with owed := (o0, o1 + n, o2) }
    | _ => { l with owed := (o0, o1, o2 + n) }) l

/-- What is sent after a flit that asks for an answer: traffic if any may go, else an idle flit. -/
def Link.reply (n : Nat) (l : Link) : Link :=
  let l := l.flush
  if l.txCounter == n then l.idle else l

/-- A flit of a kind whose tag verifies is received on port p; act is what its kind does. Out of counter order it is dropped and a
retry asked for; with reserved bits or a reserved kind it takes the port down (R383, R386). -/
def State.receive (s : State) (p : Nat) (kind : BitVec 4) (f : Flit) (act : State → State) : State :=
  let l := s.link p
  if !l.up then s
  else if f.epoch != l.rxEpoch || f.counter != l.rxCounter then
    if l.retryAsked then s else s.modLink p Link.askRetry
  else if 4 ≤ f.kind.toNat || !f.reservedZero then s.portDown p 2
  else if f.kind != kind then s
  else act (s.modLink p (fun l => (l.verified f.epoch f.counter).acked f))

/-- FLIT_IDLE (R383). -/
def execFlitIdle (p : Nat) (f : Flit) (s : State) : Out :=
  .next (s.receive p 0#4 f (fun s => s.modLink p Link.flush))

/-- FLIT_DATA (R381, R384, R386). -/
def execFlitData (p : Nat) (f : Flit) (s : State) : Out :=
  .next (s.receive p 1#4 f (fun s =>
    let n := (s.link p).txCounter
    let s := f.packets.foldl (fun s x => s.takePacket p x) (s.modLink p (fun l => l.grant f.packets))
    s.modLink p (Link.reply n)))

/-- FLIT_KEY_MARKER: the receiver switches to the slot of the next epoch, and keeps the old one until the marker is acknowledged
(R388, R389). -/
def execFlitKeyMarker (p : Nat) (f : Flit) (s : State) : Out :=
  .next (s.receive p 2#4 f (fun s =>
    let n := (s.link p).txCounter
    s.modLink p (fun l => Link.reply n { l with rxEpoch := l.rxEpoch + 1, rxCounter := 0, oldRx := true })))

/-- FLIT_RETRY_REQUEST: the flits from the one named on are replayed, the same bytes under the same counters and epochs (R385,
R386, R389). The request is itself the next flit. -/
def execFlitRetryRequest (p epoch counter : Nat) (s : State) : Out :=
  .next (s.modLink p (fun l =>
    if !l.up then l
    else
      let n := (l.sent.filter (fun x => flitLe epoch counter x.epoch x.counter)).length
      { l.verified l.rxEpoch l.rxCounter with retries := BitVec.ofNat 21 (min (2 ^ 21 - 1) (l.retries.toNat + n)) }))

/-- FLIT_TAG_FAILURE: the flit is dropped and a retry asked for; the third failure in a row of the flit expected takes the port
down (R386). -/
def execFlitTagFailure (p : Nat) (f : Flit) (s : State) : Out :=
  .next (
    let l := s.link p
    if !l.up then s
    else if f.epoch != l.rxEpoch || f.counter != l.rxCounter then
      if l.retryAsked then s else s.modLink p Link.askRetry
    else
      let s := s.modLink p (fun l => { l with
        authf := if l.authf == 255#8 then l.authf else l.authf + 1#8
        fails := l.fails + 1 })
      if 3 ≤ l.fails + 1 then s.portDown p 1 else s.modLink p Link.askRetry)

/-! ### Keys (R387, R388) -/

/-- KEY_ROTATION_THRESHOLD: agreement on the next key starts when the counter reaches 2^32 − 2^24 (R388). -/
def execKeyRotationThreshold (p : Nat) (s : State) : Out :=
  .next (
    let l := s.link p
    if l.up && decide (2 ^ 32 - 2 ^ 24 ≤ l.txCounter) && !l.agreeing && !l.nextKey then
      (s.modLink p (fun l => { l with agreeing := true })).sendPacket p .keyMessage
    else s)

/-- KEY_AGREEMENT: the next key is in the idle slots of both ends, and the marker goes out (R388). -/
def execKeyAgreement (p : Nat) (s : State) : Out :=
  .next (if (s.link p).up && (s.link p).agreeing then
    s.modLink p (fun l => { l with agreeing := false, nextKey := true }.flush)
  else s)

/-- KEY_STALL_THRESHOLD: the counter reaches 2^32 − 2^16 before the next key is installed (R388). -/
def execKeyStallThreshold (p : Nat) (s : State) : Out :=
  .next (if (s.link p).up && (s.link p).keyLate && !(s.link p).stalled then
    s.modLink p (fun l => { l with stalled := true, stalledAt := s.clock })
  else s)

/-- KEY_STALL_TIMEOUT: 100 ms of a stall take the port down (R388). -/
def execKeyStallTimeout (p : Nat) (s : State) : Out :=
  .next (if (s.link p).stalled && decide ((s.link p).stalledAt + 100 * 10 ^ 12 ≤ s.clock) then s.portDown p 3 else s)

/-! ### Waiting (R390) -/

/-- The limit of a request's counted wait, in fs (R390). -/
def requestLimit : Nat := 4 * 10 ^ 12

/-- LINK_REQUEST_TIMEOUT: request k, or the record k on its way to a home device, has waited 4 ms (R390). -/
def execLinkRequestTimeout (k : Nat) (s : State) : Out :=
  .next (match s.links.findSome? (fun e => (mapFind e.2.reqs k).map (fun r => (e.1, r))) with
  | .some (p, r) => if requestLimit ≤ r.waited then (s.dropRequest p k).loseRequest r.who .link else s
  | .none =>
    match mapFind s.faults k with
    | .some f =>
      if f.who.isSome && f.home.toNat != ownDevice && decide (requestLimit ≤ f.waited) then s.replyFault k f .unreachable else s
    | .none => s)

/-- HOLD_RESPONSE: the peer that holds request k says so, and its count restarts (R390). -/
def execHoldResponse (k : Nat) (s : State) : Out :=
  .next { s with links := mapAll s.links (fun _ l => { l with
    reqs := mapAll l.reqs (fun j r => if j == k then { r with waited := 0 } else r) }) }

/-- ULSTAT_WRITE (R391). -/
def execUlstatWrite (p : Nat) (v : DWord) (s : State) : Out := .next (if p < 24 then s.writeUlstat p v else s)

/-- Is record k of a fault on its way: not yet acknowledged by its home device (R390)? -/
def Link.carries (l : Link) (k : Nat) : Bool :=
  let is (x : LinkPacket) : Bool := match x with | .faultRecord t _ _ _ _ _ _ => t == k | _ => false
  l.out.any is || l.sent.any (fun x => x.flit.packets.any is)

/-- dt fs pass for what waits on the links; time that the key stalls is not counted (R390). -/
def State.ageLinks (s : State) (dt : Nat) : State :=
  let still (l : Link) : Bool := l.stalled || l.keyLate
  { s with
    links := mapAll s.links (fun _ l => if still l then l else { l with reqs := mapAll l.reqs (fun _ r => { r with waited := r.waited + dt }) })
    faults := mapAll s.faults (fun k f =>
      if f.who.isSome && f.home.toNat != ownDevice && s.links.any (fun e => !still e.2 && e.2.carries k) then
        { f with waited := f.waited + dt }
      else f) }

end Sys2Proof.Machine
end

