-- ==== Sys2Proof/Machine/Firmware.lean ====
section
/-! DEFINITION. Start, reset and firmware (R393 to R402): starts and their failures, the sideband, hot reset, migration, power and
temperature. -/

namespace Sys2Proof.Machine

/-- Sniquin Root's and Services' state changed. -/
def State.modFirm (s : State) (f : Firmware → Firmware) : State := { s with firm := f s.firm }

/-- A Root event record: its KIND and bytes 4 to 7 (R400). -/
def State.rootEvent (s : State) (kind word : Nat) : State :=
  if s.firm.rootevt.getLsbD 63 then
    s.putEvent 24 (s.firm.rootevt &&& keepBits (-1#64) 56 4)
      (bytesOfNat 1 kind ++ List.replicate 3 0#8 ++ bytesOfNat 4 word ++ bytesOfNat 8 (s.clock / 1000000))
  else s

/-! ### Starts (R394, R397, R398) -/

/-- Dirty bytes of L2 when the compute dies stop: each is written back or lost, which the spec leaves open (log 3). -/
def State.settleL2 (s : State) : State :=
  s.mem.l2.foldl (fun s e =>
    let (b, s) := s.choice
    { s with mem := if b then s.mem.cleanByte e.1 else s.mem.drop e.1 1 }) s

/-- The compute dies, queues, rings, ports and links stop and stand at their reset values; HBM, device time and the firmware stay. -/
def State.cleared (s : State) : State :=
  { State.reset with
    mem := s.mem, firm := s.firm, clock := s.clock, unit := s.unit, fresh := s.fresh, agenda := s.agenda }

/-- The device stops and waits for its next start: warm or cold, with a REASON (R398, R399, R402). -/
def State.halt (s : State) (warm : Bool) (reason : BitVec 4) : State :=
  s.settleL2.cleared.modFirm (fun f => { f with
    phase := .pending, ready := false, nextWarm := warm, reason := reason, resetEnd := .none, migrations := [] })

/-- A start fails (R398): after three failed warm starts in a row the next is cold, after three failed cold ones it loads the
recovery image. -/
def State.startFails (s : State) : State :=
  let f := s.firm
  if f.kind == 1#3 then
    let n := if f.wfail == 15#4 then f.wfail else f.wfail + 1#4
    (s.halt (n.toNat < 3) (if n.toNat < 3 then 3#4 else 2#4)).modFirm (fun f => { f with wfail := n })
  else
    let n := if f.cfail == 15#4 then f.cfail else f.cfail + 1#4
    (s.halt false (if n.toNat < 3 then 3#4 else 4#4)).modFirm (fun f => { f with cfail := n })

/-- Measurements 2 to 5 are taken afresh, that of the ROM once (R396); their values the spec does not give (log 8). -/
def State.measure (s : State) : State :=
  [1, 2, 3, 4, 5].foldl (fun s n =>
    if n == 1 && mapHas s.firm.measured 1 then s
    else
      let (v, s) := s.free
      s.modFirm (fun f => { f with measured := mapPut f.measured n v })) s

/-- Do the images of a start verify, each at least at its fuse counter (R394)? -/
def startOk (r : StartChecks) (f : Firmware) : Bool := r.imagesVerify && decide (f.fuses ≤ r.versions)

/-- The OS image is loaded: the start waits for READY (R397). -/
def State.osLoaded (s : State) (r : StartChecks) : State :=
  s.measure.modFirm (fun f => { f with
    phase := .osLoaded, ready := false, loaded := r.versions, loadedAt := s.clock, stackKeys := f.stackKeys + 1 })

/-- POWER_ON: nothing but the fuses is kept, and a cold start is next, REASON 0 (R397, R398). -/
def execPowerOn (s : State) : Out :=
  .next ({ s.cleared with
    mem := Mem.reset
    firm := { Firmware.reset with phase := .pending, fuses := s.firm.fuses } })

/-- COLD_START: all of memory is scrubbed, the open key and the stack-link keys are fresh, and device time begins at 0 (R115, R354,
R397); after three failures it loads the recovery image (R398). -/
def execColdStart (r : StartChecks) (s : State) : Out :=
  .next (if s.firm.phase != .pending || s.firm.nextWarm then s
  else
    let s := s.modFirm (fun f => { f with kind := if 3 ≤ f.cfail.toNat then 2#3 else 0#3 })
    if !startOk r s.firm then s.startFails
    else
      let s := { s.cleared with mem := Mem.reset, clock := 0 }
      (s.modFirm (fun f => { f with openKey := f.openKey + 1 })).osLoaded r)

/-- Memory with every 64 KiB page that holds a line of a world's key scrubbed (R397; log 14). -/
def Mem.scrubWorlds (m : Mem) : Mem :=
  let hit (a : Nat) : Bool := m.lines.any (fun l => l.1 / 1024 == a / 65536)
  { m with
    hbm := m.hbm.filter (fun e => !hit e.1)
    l2 := m.l2.filter (fun e => !hit e.1)
    lines := []
    poison := m.poison.filter (fun e => !hit (e.1 * 32)) }

/-- WARM_START: stored training results are used after their check, only pages of worlds are scrubbed, and ports whose lanes stayed
trained come up at epoch 0 (R390, R397). -/
def execWarmStart (r : StartChecks) (s : State) : Out :=
  .next (if s.firm.phase != .pending || !s.firm.nextWarm then s
  else
    let s := s.modFirm (fun f => { f with kind := 1#3 })
    if !startOk r s.firm || !r.hbmPasses then s.startFails
    else
      let s := { s.cleared with mem := s.mem.scrubWorlds }
      let s := r.lanesUp.foldl (fun s p => match mapFind s.firm.trained p with
        | .some d => s.portUpWith p d
        | .none => s) s
      s.osLoaded r)

/-- START_TIMEOUT: READY is not written within 60 s of OS load (R397). -/
def execStartTimeout (s : State) : Out :=
  .next (if s.firm.phase == .osLoaded && decide (s.firm.loadedAt + startLimit ≤ s.clock) then s.startFails else s)

/-- STARTREC_WRITE (R398). -/
def execStartrecWrite (v : DWord) (s : State) : Out := .next (s.writeStartrec v)

/-! ### The sideband (R396) -/

/-- An answer over the sideband. -/
def State.answer (s : State) (a : SidebandAnswer) : State :=
  s.modFirm (fun f => { f with answers := f.answers ++ [a] })

/-- An answer whose bytes the spec does not give (log 8). -/
def State.answerWith (s : State) (a : DWord → SidebandAnswer) : State :=
  let (v, s) := s.free
  s.answer (a v)

/-- GET_VERSION: SPDM 1.3 (R396). -/
def execGetVersion (s : State) : Out := .next (s.answer (.version 1 3))
/-- GET_CAPABILITIES (R396). -/
def execGetCapabilities (s : State) : Out := .next (s.answerWith .capabilities)
/-- NEGOTIATE_ALGORITHMS: RSASSA-4096 with SHA-512 and no others (R396). A requester without them gets no algorithm or an error, which
the spec leaves open (log 3). -/
def execNegotiateAlgorithms (supported : Bool) (s : State) : Out :=
  .next (if supported then s.answer .algorithms
  else
    let (b, s) := s.choice
    s.answer (if b then .noAlgorithms else .error .unsupportedRequest))
/-- GET_DIGESTS (R396). -/
def execGetDigests (s : State) : Out := .next (s.answerWith .digests)
/-- GET_CERTIFICATE (R395, R396). -/
def execGetCertificate (s : State) : Out := .next (s.answerWith .certificate)
/-- CHALLENGE (R396). -/
def execChallenge (nonce : DWord) (s : State) : Out := .next (s.answerWith (.challenge nonce))

/-- Measurement n (R396). -/
def Firmware.measurement (f : Firmware) (n : Nat) : DWord := mapGet (Config.spdmPayload n) f.measured n

/-- GET_MEASUREMENTS: one of 1 to 6, all of them for 255, their number for 0; another index is invalid (R396; log 8). -/
def execGetMeasurements (index : Byte) (s : State) : Out :=
  let n := index.toNat
  .next (s.answer (if n == 0 then .measurementCount 6
    else if n ≤ 6 then .measurements [(n, s.firm.measurement n)]
    else if n == 255 then .measurements ([1, 2, 3, 4, 5, 6].map (fun j => (j, s.firm.measurement j)))
    else .error .invalidRequest))

/-- SPDM_UNSUPPORTED_REQUEST (R396). -/
def execSpdmUnsupportedRequest (_code : Byte) (s : State) : Out := .next (s.answer (.error .unsupportedRequest))

/-! ### Hot reset (R399, R400) -/

/-- RESET_REQ: a grace above 500 ms is invalid, a start makes Root busy, a pending reset goes on as it is; else the reset-pending
record is written and the grace begins (R399). -/
def execResetReq (grace : BitVec 16) (s : State) : Out :=
  let ms := if grace == 0#16 then 50 else grace.toNat
  .next (if 500 < ms then s.answer (.error .invalidRequest)
  else if s.firm.resetEnd.isSome then s.answer .success
  else if s.firm.phase != .up then s.answer (.error .busy)
  else
    let s := (s.answer .success).rootEvent 1 ms
    s.modFirm (fun f => { f with resetEnd := .some (s.clock + ms * 10 ^ 12) }))

/-- Every launch ends with STATUS 2, those that only wait to be dispatched too (R320, R399). -/
def State.endAll (s : State) : State :=
  s.grids.foldl (fun s e =>
    match (s.grid e.1).status with
    | .dispatched => s.endLaunch e.1
    | .accepted => (s.modGrid e.1 (fun x => { x with status := .ended })).queueRecord (s.recordOf e.1 2 [])
    | _ => s) s

/-- RESET_GRACE_EXPIRY: at the end of the grace, or at ACK, every world is pre-empted and retired, keys are erased, and the compute
dies are reset; the next start is warm, REASON 1 (R399). -/
def execResetGraceExpiry (s : State) : Out :=
  .next (match s.firm.resetEnd with
  | .none => s
  | .some t =>
    if s.clock < t then s
    else
      let s := s.groups.foldl (fun s e => s.stopGroup e.1 .preempted .preempted) s
      let s := s.endAll
      let s := s.worlds.foldl (fun s e => s.retireWorld (BitVec.ofNat 10 e.1)) s
      let up := s.links.filterMap (fun e => if e.2.up then .some (e.1, e.2.peer) else .none)
      (s.halt true 1#4).modFirm (fun f => { f with trained := up }))

/-- ROOTEVT_WRITE (R399, R400). -/
def execRootevtWrite (v : DWord) (s : State) : Out := .next (s.writeRootevt v)

/-! ### Migration (R401) -/

/-- 30 s in fs (R401). -/
def migrationLimit : Nat := 30 * 10 ^ 15

/-- The record of a migration event: its world and peer (R400). -/
def State.migrationEvent (s : State) (kind : Nat) (m : Migration) : State :=
  s.rootEvent kind (m.world.toNat + 1024 * m.peer.toNat)

/-- The migration of a nonce. -/
def State.migration (s : State) (nonce : DWord) : Option Migration := mapFind s.firm.migrations nonce.toNat
/-- A migration's entry changed or dropped. -/
def State.setMigration (s : State) (nonce : DWord) (m : Option Migration) : State :=
  s.modFirm (fun f => { f with migrations := match m with
    | .some m => mapPut f.migrations nonce.toNat m
    | .none => mapDel f.migrations nonce.toNat })

/-- MIGRATION_START: the source pre-empts a live world and seals its keys and state to the destination (R401). -/
def execMigrationStart (w : BitVec 10) (dest : BitVec 9) (nonce : DWord) (s : State) : Out :=
  .next (if w == 0#10 || !mapHas s.worlds w.toNat || (s.migration nonce).isSome
      || s.firm.migrations.any (fun e => e.2.source && e.2.world == w && !e.2.abandoned) then s
  else
    let s := { s with clusters := mapAll s.clusters (fun n c =>
      if s.preemptNamesCluster (.world w) n c then { c with saved := true } else c) }
    let s := (s.groups.filter (fun e => s.preemptNames (.world w) e.2)).foldl (fun s e => s.stopGroup e.1 .preempted .preempted) s
    let x := s.world w
    s.setMigration nonce (.some ⟨w, dest, true, x.handle, ⟨x.key, x.egress, x.roster, x.buffers⟩, s.clock, false⟩))

/-- MIGRATION_SEALED_STATE: the destination installs the keys into slot w, armed, and a receipt is sent; KIND 2 is recorded (R401). -/
def execMigrationSealedState (w : BitVec 10) (src : BitVec 9) (nonce handle : DWord) (blob : SealedBlob) (s : State) : Out :=
  .next (if w == 0#10 || !s.slotOpen w.toNat || (s.migration nonce).isSome then s
  else
    let m : Migration := ⟨w, src, false, handle, blob, s.clock, false⟩
    (s.setMigration nonce (.some m)).migrationEvent 2 m)

/-- The work of a world is gone from this device, with no completion: it goes on where the world went. -/
def State.dropWorld (s : State) (w : BitVec 10) : State :=
  s.grids.foldl (fun s e =>
    if e.2.world == w && e.2.status == .dispatched && e.2.exactOf.isNone then s.dropLaunch e.1 (s.launchGrids e.1) [] else s) s

/-- MIGRATION_RECEIPT: a verified receipt within the 30 s makes the source erase its keys, send the confirmation and record KIND 3;
another is ignored (R401). -/
def execMigrationReceipt (nonce : DWord) (verified : Bool) (s : State) : Out :=
  .next (match s.migration nonce with
  | .some m =>
    if m.source && !m.abandoned && verified && decide (s.clock < m.since + migrationLimit) then
      (((s.dropWorld m.world).retireWorld m.world).setMigration nonce .none).migrationEvent 3 m
    else s
  | .none => s)

/-- MIGRATION_CONFIRMATION: the destination activates a slot that has been armed for less than 30 s, records KIND 3, and the world is
live here (R401). -/
def execMigrationConfirmation (nonce : DWord) (s : State) : Out :=
  .next (match s.migration nonce with
  | .some m =>
    if m.source || decide (m.since + migrationLimit ≤ s.clock) then s
    else
      let s := { s with
        worlds := mapPut s.worlds m.world.toNat ⟨m.blob.key, m.handle, m.blob.egress, m.blob.roster, m.blob.buffers⟩
        versions := m.blob.buffers.foldl (fun (v : Map Word) (b : BitVec 16 × BitVec 2) =>
          mapPut v b.1.toNat (BitVec.ofNat 32 ((mapGet 0#32 v b.1.toNat).toNat / 4096 * 4096 + b.2.toNat * 1024 + m.world.toNat)))
          s.versions }
      (s.setMigration nonce .none).migrationEvent 3 m
  | .none => s)

/-- The armed slot of a nonce is scrubbed, and KIND 4 recorded (R401). -/
def State.loseMigration (s : State) (nonce : DWord) (due : Migration → Bool) : State :=
  match s.migration nonce with
  | .some m => if !m.source && due m then (s.setMigration nonce .none).migrationEvent 4 m else s
  | .none => s

/-- MIGRATION_ABORT (R401). -/
def execMigrationAbort (nonce : DWord) (s : State) : Out := .next (s.loseMigration nonce (fun _ => true))
/-- MIGRATION_ARM_TIMEOUT (R401). -/
def execMigrationArmTimeout (nonce : DWord) (s : State) : Out :=
  .next (s.loseMigration nonce (fun m => decide (m.since + migrationLimit ≤ s.clock)))
/-- MIGRATION_RECEIPT_TIMEOUT: the migration is recorded as abandoned, an abort is sent, and the world stays (R401). -/
def execMigrationReceiptTimeout (nonce : DWord) (s : State) : Out :=
  .next (match s.migration nonce with
  | .some m =>
    if m.source && decide (m.since + migrationLimit ≤ s.clock) then s.setMigration nonce (.some { m with abandoned := true }) else s
  | .none => s)

/-! ### Power and temperature (R402) -/

/-- POWER_AVERAGE_WINDOW: a 1 ms average and the highest junction temperature step the clock down or up by 25 MHz (R402). -/
def execPowerAverageWindow (watts temp : Nat) (s : State) : Out :=
  let f := s.front
  .next (if s.clock < f.windowAt + 10 ^ 12 then s
  else
    let f := { f with windowAt := s.clock, power := watts, temp := temp }
    { s with front :=
        if (3200 < watts || 105 < temp) then
          if 300 < f.freq then { f with freq := f.freq - 25, steps := if f.steps == 255#8 then f.steps else f.steps + 1#8 } else f
        else if watts < 3100 && temp < 100 && f.freq < 600 then { f with freq := f.freq + 25 }
        else f })

/-- THERMAL_TRIP: above 120 °C the compute dies stop at once, and the next start is cold, REASON 5 (R402). -/
def execThermalTrip (temp : Nat) (s : State) : Out := .next (if 120 < temp then s.halt false 5#4 else s)

/-- PWRSTAT_WRITE (R402). -/
def execPwrstatWrite (v : DWord) (s : State) : Out := .next (s.writePwrstat v)

end Sys2Proof.Machine
end

