-- ==== Sys2Proof/Machine/Issue.lean ====
section
/-! DEFINITION. Issue (R42, R50, R68 to R72): the slot's choice, the start of a packet, and what the device does after an
instruction: windows, last-use marks, holds, regions, single-stepping, bundles, the spin governor and barriers. -/

namespace Sys2Proof.Machine

/-! ### Kinds of instruction -/

/-- Does the instruction end the idempotent region of its warp (R278)? -/
def endsRegion : Instr → Bool
  | .region | .rte | .wrs _ _ _ => true
  | .rds _ _ v => v == 0#1
  | .atomAdd32 _ _ _ _ _ | .atomAdd64 _ _ _ _ _ | .atomMinS32 _ _ _ _ _ | .atomMinN32 _ _ _ _ _ | .atomMaxS32 _ _ _ _ _
  | .atomMaxN32 _ _ _ _ _ | .atomAnd _ _ _ _ _ | .atomOr _ _ _ _ _ | .atomXor _ _ _ _ _ | .atomXchg32 _ _ _ _ _
  | .atomXchg64 _ _ _ _ _ | .atomCas32 _ _ _ _ _ | .atomCas64 _ _ _ _ _ | .atomFaddF32 _ _ _ _ _
  | .atomFaddF64 _ _ _ _ _ => true
  | .svc _ _ _ _ | .srep _ _ _ | .susp _ _ | .suspTag _ _ _ | .suspAddr _ _ _ | .suspBar _ _ _
  | .cpAsync _ _ _ _ _ => true
  | .bulkCopy _ _ | .bulkGather _ _ | .collReduce _ _ | .collGather _ _ => true
  | .barInit _ _ _ | .barExpect _ _ _ _ | .barArrive _ _ _ | .barWait _ _ _ | .barTest _ _ _ _ | .barGroup | .barCluster => true
  | .reorder _ _ | .mreq _ _ _ | .qpost _ _ _ | .launch _ _ _ | .verdict _ => true
  | .sadd _ _ _ | .ssub _ _ _ | .smul _ _ _ | .sand _ _ _ | .sor _ _ _ | .sxor _ _ _ | .sshl _ _ _ | .sshr _ _ _
  | .scmpEq _ _ _ | .scmpLtS64 _ _ _ | .scmpLtN64 _ _ _ | .smov _ _ | .saddImm _ _ _ | .smovi _ _ => true
  | .vreadl _ _ _ _ | .sld _ _ _ _ _ => true
  | .wake _ _ _ | .wakePred _ _ _ _ | .wakeAddr _ _ _ _ | .fst _ _ _ | .fxform _ _ _ _ | .binit _ _ _ | .resume _ => true
  | _ => false

/-- Does the instruction disqualify an iteration of the spin governor (R78)? Path 0x3 loads and counter reads do so too. -/
def disqualifies : Instr → Bool
  | .st _ _ _ _ _ _ | .stRel _ _ _ _ _ _ | .stSp _ _ _ _ _ | .sst _ _ _ _ | .wakeAddr _ _ _ _ => true
  | .atomAdd32 _ _ _ _ _ | .atomAdd64 _ _ _ _ _ | .atomMinS32 _ _ _ _ _ | .atomMinN32 _ _ _ _ _ | .atomMaxS32 _ _ _ _ _
  | .atomMaxN32 _ _ _ _ _ | .atomAnd _ _ _ _ _ | .atomOr _ _ _ _ _ | .atomXor _ _ _ _ _ | .atomXchg32 _ _ _ _ _
  | .atomXchg64 _ _ _ _ _ | .atomCas32 _ _ _ _ _ | .atomCas64 _ _ _ _ _ | .atomFaddF32 _ _ _ _ _
  | .atomFaddF64 _ _ _ _ _ => true
  | .svc _ _ _ _ | .susp _ _ | .suspTag _ _ _ | .suspAddr _ _ _ | .suspBar _ _ _ | .cpAsync _ _ _ _ _ => true
  | .bulkCopy _ _ | .bulkGather _ _ | .collReduce _ _ | .collGather _ _ | .qpost _ _ _ | .mreq _ _ _ => true
  | .barInit _ _ _ | .barExpect _ _ _ _ | .barArrive _ _ _ | .barWait _ _ _ | .barTest _ _ _ _ => true
  | _ => false

/-- Does the instruction re-form the bundles of its warp (R90)? -/
def reforms : Instr → Bool
  | .yield _ => true
  | _ => false

/-- A direct branch (R83). -/
def isBranch : Instr → Bool
  | .bra _ | .brcAny _ _ | .brcAll _ _ | .brcNone _ _ | .brz _ _ | .brnz _ _ => true
  | _ => false

/-! ### Packets ahead (R42, R49) -/

/-- The hints with one more hint word, read from its bits (R49, R50). -/
def Hints.add (h : Hints) (w : Word) : Hints :=
  let p := bits w 0 22
  match bits w 22 4 with
  | 0 => { h with bad := h.bad || p != 0 }
  | 1 => { h with bad := h.bad || h.k.isSome || bits w 10 12 != 0, k := .some (fld w 5 5, fld w 0 5) }
  | 2 => { h with bad := h.bad || h.imm.isSome, imm := .some (fld w 0 22) }
  | 3 => { h with bad := h.bad || h.lu.isSome, lu := .some (fld w 0 22) }
  | 4 => { h with bad := h.bad || h.pred.isSome || bits w 5 17 != 0, pred := .some (fld w 4 1, fld w 0 4) }
  | 5 => { h with bad := h.bad || h.off.isSome, off := .some (fld w 0 22) }
  | 6 => { h with bad := h.bad || h.cache.isSome || bits w 11 11 != 0 || bits w 3 1 != 0
                  cache := .some (fld w 8 3, fld w 4 4, fld w 0 3) }
  | 7 => { h with bad := h.bad || h.sched.isSome || bits w 6 16 != 0, sched := .some (fld w 4 2, fld w 0 4) }
  | _ => { h with bad := true }

/-- The non-hint instruction of the packet that begins at pc, and its hints; none where the fetch fails first. -/
def State.headOf (s : State) (c : Ctx) (r : LaunchRec) : Nat → Word → Hints → Option (Word × Hints)
  | 0, _, _ => .none
  | n + 1, pc, h =>
    match s.fetch c r pc with
    | .fails _ => .none
    | .word w => if isHint w then s.headOf c r n (pc + 4#32) (h.add w) else .some (pc, h)

/-- The packet at pc of warp k. -/
def State.packet (s : State) (k : Nat) (pc : Word) : Option (Word × Hints) :=
  let w := s.warp k
  let r := (s.grid (s.group w.group).grid).record
  s.headOf (s.ctx w) r (r.codelen.toNat / 4 + 1) pc Hints.empty

/-! ### The slot's choice (R71, R72) -/

/-- May warp k issue: running, its group too, and no delivery waiting? -/
def State.canIssue (s : State) (w : Warp) : Bool :=
  w.place == .running && (s.group w.group).status == .running && w.waiting.isEmpty

/-- The keys of R71 for a bundle of a warp, smaller first: passed over 64 times, class, priority, yielded, age, longest
wait, lower PC. Of two warps of one age, for which the spec names no order, the one of the lower key goes first (log 56). -/
def State.keys (s : State) (k : Nat) (w : Warp) (b : Bundle) : List Nat :=
  let f := (s.grid (s.group w.group).grid).record.flags
  let kern := f.getLsbD 0
  let pc := match lowestLane? b.lanes with | .some i => (Lanes.at w.pc i).toNat | .none => 0
  [if 64 ≤ b.passed then 0 else 1, if kern then 0 else 1, if kern then 0 else 3 - bits (f.setWidth 32) 4 2,
    if w.yielded then 1 else 0, w.born, k, b.last, pc]

/-- Lexicographic order. -/
def lexLt : List Nat → List Nat → Bool
  | [], _ => false
  | _, [] => false
  | a :: l, b :: m => decide (a < b) || (a == b && lexLt l m)

/-- The ready bundles of a slot, as warp, index and bundle (R71, R72). -/
def State.ready (s : State) (core slot : Nat) : List (Nat × Nat × Bundle) :=
  (s.activeSet (core / 128) (core % 128)).flatMap (fun (k, w) =>
    if w.pos % 4 == slot && s.canIssue w then
      let stop := w.blocked
      ((List.range w.bundles.length).zip w.bundles).filterMap (fun (j, b) =>
        if !b.stuck && (b.lanes &&& w.live) != 0#32 && (b.lanes &&& w.live &&& stop) == 0#32 then .some (k, j, b) else .none)
    else [])

/-- The bundle that a slot chooses. -/
def State.chosen (s : State) (l : List (Nat × Nat × Bundle)) : Option (Nat × Nat × Bundle) :=
  l.foldl (fun a x => match a with
    | .none => .some x
    | .some y => if lexLt (s.keys x.1 (s.warp x.1) x.2.2) (s.keys y.1 (s.warp y.1) y.2.2) then .some x else a) .none

/-- Before a slot of a core chooses, every warp lands what is due, and its holds are re-evaluated: a release takes effect at the
next issue choice (R51, R74, R75). -/
def State.landCore (s : State) (core : Nat) : State :=
  (s.activeSet (core / 128) (core % 128)).foldl (fun s e =>
    let s := if e.2.pend.isEmpty then s else s.landDue e.1
    if e.2.meetmask == allLanesOf 0#4 then s else s.settleHolds e.1) s

/-! ### The start of a packet -/

/-- Lanes of b whose packet at pc matches a breakpoint of their core (R275). -/
def State.breaks (s : State) (k : Nat) (b : Mask) (head : Word) : Mask :=
  let w := s.warp k
  let grid := (s.group w.group).grid
  (s.core (coreKey w.die w.core)).bp.foldl (fun m (pc, ctl) =>
    if ctl.getLsbD 63 && (!ctl.getLsbD 62 || nbits ctl.toNat 56 6 == w.slot) && nbits pc.toNat 32 32 == grid % 2 ^ 32
      && nbits pc.toNat 2 30 == head.toNat / 4 then m ||| (ctl.setWidth 32 &&& b &&& w.live) else m) 0#32

/-- Lanes of b that skip the window instruction at hand by its DONE bit (R283). -/
def Warp.skips (w : Warp) (b : Mask) : Mask :=
  maskOf (fun i => Mask.has b i && (Lanes.at w.logpc i).isSome && 0 < Lanes.at w.logidx i
    && Lanes.at w.logidx i ≤ Lanes.at w.logla i && (Lanes.at w.done i).getLsbD (Lanes.at w.logidx i - 1))

/-- Bundles that held a lane of m are split by PC, and their lanes issued last at cc now (R16). -/
def Warp.regroup (w : Warp) (m : Mask) (now : Nat) : Warp :=
  let stay := w.bundles.filterMap (fun b =>
    let l := b.lanes &&& ~~~m &&& (w.runnable ||| w.helpers)
    if (l &&& w.runnable) == 0#32 then .none else .some { b with lanes := l })
  let new_ := (groupLanes w (m &&& w.runnable)).map (fun b =>
    let pc := match lowestLane? b with | .some i => Lanes.at w.pc i | .none => 0#32
    let h := if w.trap then 0#32 else maskOf (fun i => Mask.has (m &&& w.helpers) i && Lanes.at w.pc i == pc)
    ({ lanes := b ||| h, last := now, passed := 0, stuck := false } : Bundle))
  { w with bundles := stay ++ new_ }

/-- The same after a packet, but for a warp that entered a local handler in it, whose bundles the entry has re-formed
(R262). -/
def Warp.regroupAfter (w : Warp) (trap : Bool) (m : Mask) (now : Nat) : Warp :=
  if w.trap && !trap then w else w.regroup m now

/-- What the start of a packet comes to: lanes that issue, or none. -/
structure Start where
  st : State
  go : Bool

/-- The packet of bundle b of warp k begins (R42): re-formation first where its hint.sched asks (R69), lanes that a breakpoint
matches leave it (R257, R275), lanes whose DONE bit is set skip it (R283), kept hints are taken up (R42). -/
def State.begin (s : State) (k : Nat) (b : Bundle) : Start :=
  let w := s.warp k
  let lead := (lowestLane? (b.lanes &&& w.live)).getD 0
  let pc := Lanes.at w.pc lead
  let armed := (s.core (coreKey w.die w.core)).bp.foldl (fun x e => x || e.2.getLsbD 63) false
  let hinted := match s.fetch (s.ctx w) (s.grid (s.group w.group).grid).record pc with
    | .word x => isHint x
    | .fails _ => false
  let logs := (lanesOf b.lanes).any (fun i => (Lanes.at w.logpc i).isSome)
  let pk := if armed || hinted || logs then s.packet k pc else .none
  let sched (h : Hints) (c : BitVec 2) : Bool := match h.sched with | .some (x, _) => x == c | .none => false
  let kept := match Lanes.at w.kept lead with | .some (a, h) => if a == pc then h else Hints.empty | .none => Hints.empty
  let w := if sched kept 2#2 || (match pk with | .some (_, h) => sched h 2#2 | .none => false) then w.reform s.cc else w
  let lanes := match w.bundles.find? (fun x => Mask.has x.lanes lead) with
    | .some x => x.lanes
    | .none => b.lanes
  let head := match pk with | .some (p, _) => p | .none => pc
  let ahead := match pk with | .some (_, h) => if pc == head then kept else h | .none => kept
  -- breakpoints
  let hit := if armed && pk.isSome then s.breaks k lanes head else 0#32
  let skip := maskOf (fun i => Mask.has hit i && Lanes.at w.skipBp i == .some head)
  let brk := hit &&& ~~~skip
  let traps : List (Lane × Trap) := trapAll brk { Trap.plain .bkpt with mark := true }
  let (late, soon) := traps.partition (fun (t : Lane × Trap) => Mask.has w.loggedLanes t.1)
  let w := { w with
    pc := Lanes.where_ w.pc brk (fun _ => head)
    kept := Lanes.where_ (Lanes.where_ w.kept lanes (fun _ => .none)) brk (fun _ => .some (head, ahead))
    waiting := w.waiting ++ soon
    deferred := w.deferred ++ late
    withheld := if sched kept 1#2 then w.withheld ||| lanes else w.withheld }
  -- windows already done
  let past := w.skips (lanes &&& ~~~brk)
  let w := { w with pc := Lanes.where_ w.pc past (fun _ => head + 4#32) }.passWindow past
  let rest := lanes &&& ~~~brk &&& ~~~past
  let w := if past == 0#32 then w else w.regroup past s.cc
  let s := { s.setWarp k w with
    issuer := .vector, cur := k, bundle := rest, hints := kept, inPacket := false, taken := 0#32, acted := 0#32
    renamed := [], stalled := false, start := pc, startHints := kept, startIssued := w.issued, undone := 0#32, counted := false
    base := s.unit }
  if (rest &&& w.live) == 0#32 then { st := (s.deliverAll k []).modWarp k (fun w => w.regroup lanes s.cc), go := false }
  else { st := s, go := true }

/-! ### Last-use marks (R26, R50) -/

/-- The v registers that the first and second v source fields of a word name, with the number of registers each spans: bit 2j of
hint.lu marks the first, bit 2j+1 the second (R49). A source in field B is the second one even where it is the only one, as
for svc and srep, and a vd field that is read is the second one where field A is a source; the base of vmovrel names no register
that is read, so a mark there has no effect (log 59). -/
def markFields (w : Word) : List (Nat × Nat) × List (Nat × Nat) :=
  let op := bits w 26 6
  let fn := bits w 0 3
  let src (lo n : Nat) : List (Nat × Nat) := if bits w (lo + 5) 3 == 7 then [] else [(bits w lo 5, n)]
  let hasA := op == 0x18 || (op == 4 && fn == 3) || (op == 5 && fn ≤ 2) || (0x10 ≤ op && op ≤ 0x14) || (op == 0x15 && fn ≤ 5 && fn != 3)
    || (op == 0x16 && fn ≤ 5) || (op == 0x17 && fn ≤ 5) || (op == 0x1C && fn ≤ 2) || (op == 0x1D && fn ≤ 4)
    || (0x20 ≤ op && op ≤ 0x2D) || (op == 0x2E && 1 ≤ fn) || ((op == 0x39 || op == 0x3A) && fn ≤ 4)
    || (op == 0x3C && fn == 5)
  let hasB := (op == 4 && fn == 3) || op == 0x10 || op == 0x11 || (op == 0x12 && fn != 1 && fn != 2 && fn != 6)
    || (op == 0x13 && fn ≤ 3) || op == 0x14 || (op == 0x15 && fn ≤ 4) || op == 0x16 || op == 0x17
    || (op == 0x1C && (fn == 1 || fn == 2)) || op == 0x1D
    || ((op == 0x20 || op == 0x22 || op == 0x24 || op == 0x26) && fn ≤ 5)
    || ((op == 0x21 || op == 0x23 || op == 0x25 || op == 0x27) && (fn ≤ 4 || fn == 6)) || (op == 0x28 && 2 ≤ fn && fn ≤ 5)
    || (op == 0x2C && (fn ≤ 2 || fn == 6)) || (op == 0x3A && (fn ≤ 1 || fn == 3 || fn == 4)) || (op == 0x3C && (fn == 0 || fn == 2))
  let wideA := (op == 4 && fn == 3) || op == 0x14 || (op == 0x15 && fn ≤ 2) || op == 0x17 || op == 0x26 || op == 0x27
    || (op == 0x2B && fn ≤ 2) || op == 0x39 || op == 0x3A || (op == 0x28 && (fn ≤ 1 || fn == 6) && bits w 5 4 == 8)
  let wideB := (op == 0x14 && fn != 7) || op == 0x17 || op == 0x26 || op == 0x27
  let one (b : Bool) (lo : Nat) (wide : Bool) : List (Nat × Nat) := if b then src lo (if wide then 2 else 1) else []
  if op == 1 || op == 2 then
    (if (op == 1 && (bits w 23 3 == 4 || bits w 23 3 == 5)) || (op == 2 && 1 ≤ bits w 23 3) then [(bits w 18 5, 1)] else [], [])
  else if op == 9 then (if bits w 23 3 == 1 && bits w 3 1 == 1 then [(bits w 16 5, 1)] else [], [])
  else if 0x30 ≤ op && op ≤ 0x38 then
    let var := bits w 0 2
    let pair := (op == 0x30 || op == 0x31 || op == 0x34 || (op == 0x35 && var == 2)) && bits w 1 1 == 1
    let store := op == 0x34 || (op == 0x35 && var ≤ 2)
    let none_ := (op == 0x37 && var ≤ 1) || (op == 0x33 && var == 2) || (op == 0x35 && var == 3)
    let off := if none_ then [] else [(bits w 11 5, if pair then 2 else 1)]
    let aop := bits w 2 4
    let data := if store then [(bits w 21 5, if bits w 2 3 == 3 then 2 else if bits w 2 3 == 4 then 4 else 1)]
      else if op == 0x36 then
        [(bits w 6 5, if aop == 12 then 4 else if aop == 1 || aop == 10 || aop == 11 || aop == 14 then 2 else 1)]
      else if op == 0x38 then [(bits w 6 5, 1)] else []
    (off, data)
  else if op == 0x3B then
    let f := bits w 0 5
    let a (n : Nat) : List (Nat × Nat) := src 13 n
    if f == 1 then (if bits w 11 2 == 0 then [] else a (if bits w 11 2 == 1 then 1 else 3), [])
    else if f == 4 then (a 2, [(bits w 21 5, 1)])
    else if f == 6 then (a 1, [(bits w 21 5, 1)])
    else (if f ≤ 7 then a 1 else [], [])
  else (one hasA 13 wideA, one hasB 5 wideB)

/-- Does a word read its destination: vmad, vbfi, vfma, vfdot2, vfpack, svc and cp.async (R363)? -/
def readsDest (w : Word) : Bool :=
  let op := bits w 26 6
  let fn := bits w 0 3
  (op == 0x11 && fn == 0) || (op == 0x1D && fn == 2) || ((op == 0x20 || op == 0x22 || op == 0x24 || op == 0x26) && fn == 3)
    || ((op == 0x23 || op == 0x25) && fn == 6) || (op == 0x28 && (fn == 2 || fn == 3)) || (op == 0x3C && fn == 0) || op == 0x38

/-- The v registers that a word of a warp reads (R363). -/
def Warp.readRegs (w : Warp) (x : Word) : List Nat :=
  let (f1, f2) := markFields x
  let d := if readsDest x then [(bits x 21 5, if bits x 26 6 == 0x26 then 2 else 1)] else []
  (f1 ++ f2 ++ d).flatMap (fun (n, c) => (List.range c).map (fun j => w.regNo (n + j)))

/-- The entries that the marks of the lanes m free after a word of the issuing warp, which read its registers as w; a register
that the word itself renamed stays (R25, R26). -/
def State.freeMarked (s : State) (w : Warp) (word : Word) (m : Mask) (h : Hints) : State :=
  let marks := (lanesOf m).foldl (fun x i => x ||| Lanes.at w.lu i) (h.lu.getD 0#22)
  let (f1, f2) := markFields word
  let l := (if marks.getLsbD 0 then f1 else []) ++ (if marks.getLsbD 1 then f2 else [])
  let regs := l.flatMap (fun (n, c) => (List.range c).map (fun j => w.regNo (n + j)))
  regs.foldl (fun s n => if s.renamed.contains n then s else s.setMe (s.me.freeReg n)) s

/-- The marks of the lanes m move on by one instruction; a taken branch discards them (R50). -/
def Warp.shiftMarks (w : Warp) (m taken : Mask) (h : Hints) : Warp :=
  { w with lu := Lanes.where_ w.lu m (fun i => if Mask.has taken i then 0#22 else (Lanes.at w.lu i ||| h.lu.getD 0#22) >>> 2) }

/-! ### After an instruction -/

/-- The spin governor after an instruction (R78): an iteration of a loop runs from one taken issue of its branch to the next, and
other branches do not end it. -/
def Warp.governed (w : Warp) (i : Instr) (pc target : Word) (taken : Bool) : Warp :=
  let g := if disqualifies i then w.gov.spoil else w.gov
  if taken && isBranch i && target.toNat ≤ pc.toNat then
    let next (l : Loop) : Loop :=
      let n := if l.qualifies && l.loads.all (fun x => l.prev.contains x) then l.count + 1 else 0
      ⟨pc, target, n, true, if 256 ≤ n then l.sectors else [], [], l.loads⟩
    let loops := if g.loops.any (fun l => l.pc == pc) then g.loops.map (fun l => if l.pc == pc then next l else l)
      else g.loops ++ [⟨pc, target, 0, true, [], [], []⟩]
    { w with gov := { g with loops := loops } }
  else { w with gov := g }

/-- The general entries that the packet which took b to t allocated: one for each renamed register and for each result to come
whose value is general (R25). An old entry is still held then; one that a last-use mark frees is held too (log 57). -/
def State.allocated (b t : State) : Nat :=
  let w := t.warp b.cur
  let pending (w : Warp) : Nat := (w.awaited.filter (· == false)).length
  (t.renamed.eraseDups.filter (fun n => (w.reg n).mapped && (w.reg n).entry.words == 0)).length + (pending w - pending b.me)

/-- General entries that a launch holds in the fast file of a core (R324). -/
def State.fastEntries (s : State) (grid die core : Nat) : Nat :=
  (((s.activeSet die core).filter (fun e => (s.group e.2.group).grid == grid)).map (fun e => e.2.generals)).sum

/-- Is there no free fast entry for what the packet that took b to t allocates (R29, R31)? -/
def State.fileFull (b t : State) : Bool :=
  0 < b.allocated t && 768 < b.generals b.me.die b.me.core + b.allocated t
/-- Would it take its launch past FAST (R324, R325)? -/
def State.pastQuota (b t : State) : Bool :=
  let w := b.me
  let grid := (b.group w.group).grid
  let q := b.quota grid 47 10 768
  q != 0 && 0 < b.allocated t && q < b.fastEntries grid w.die w.core + b.allocated t
/-- Could the stall of the issuing warp for its launch's share end: another warp of the launch holds a fast entry, or a result of
its own, when it lands, releases one (R325)? -/
def State.relievable (b : State) : Bool :=
  let w := b.me
  let grid := (b.group w.group).grid
  (b.activeSet w.die w.core).any (fun e => e.1 != b.cur && (b.group e.2.group).grid == grid && e.2.generals != 0)
    || w.pend.any (fun p => p.dests.any (fun d => d.2.2 == 0#32 || ((w.reg d.1).mapped && (w.reg d.1).entry.words == 0)))

/-- Does the packet that took b to t stall on its allocation (R31)? -/
def State.allocStalls (b t : State) : Bool := b.fileFull t || (b.pastQuota t && b.relievable)

/-- A packet whose allocation finds no entry has no effect: it stalls, or raises QUOTA when no stall could end (R31, R325). -/
def State.quotaCheck (b t : State) : State :=
  if b.allocStalls t then b.stall
  else if b.pastQuota t then b.raise (trapAll (b.real b.bundle) (Trap.plain .quota))
  else t

/-- Accesses that cannot be served, every group's barriers, verdict and overflowed tile, warps with no thread left, rows whose
conditions are met, completion records still to be written, the rings, event records, and history areas that have become full
(R89, R149, R195, R214, R297, R299, R320, R334, R339, R370, R392). -/
def State.settleAll (s : State) : State :=
  let s := s.raiseAllFailed
  (s.groups.foldl (fun s (g, x) =>
    if x.status != .running then s
    else
      let s := ((((s.settleGroup g).settleCluster g).settleReorder g).settleVerdict g).settleOverflow g
      if (s.group g).warps.all (fun k => (s.warp k).place == .gone) then
        s.modGroup g (fun x => { x with status := if x.handler && !s.holdsRows g then .retired else .exiting })
      else s) s.pollRows).flushRecords.settleCalls.flushEvents.reportFull

/-- Single-stepping: after a packet outside trap mode its active real lanes, those that now hold or wait too, raise STEP at their
next instruction (R277). -/
def State.stepTraps (b t : State) : State :=
  let k := b.cur
  let w := t.warp k
  if w.step && !b.me.trap && w.place == .running && !w.trap then
    let ts := trapAll (t.acted &&& w.live &&& ~~~w.detached &&& ~~~t.undone) (Trap.plain .step)
    (t.setWarp k { w with deferred := w.deferred ++ ts.filter (fun t => Mask.has w.loggedLanes t.1) }).deliverAll k
      (ts.filter (fun t => !Mask.has w.loggedLanes t.1))
  else t

/-- The bundles of l, by warp and lanes, are passed over once more by their slot (R72). -/
def State.passRivals (s : State) (l : List (Nat × Mask)) : State :=
  l.foldl (fun s x => s.modWarp x.1 (fun w => { w with bundles := w.bundles.map (fun b =>
    if b.lanes == x.2 then { b with passed := b.passed + 1 } else b) })) s

/-- Is the instruction yield, whose rank lasts until the warp next issues (R90)? -/
def yields : Instr → Bool
  | .yield _ => true
  | _ => false

/-- The pages that misses of a core wait for service in (R344, R345). -/
def State.misses (s : State) (die core : Nat) : List (DWord × Nat) :=
  (s.faults.filterMap (fun e =>
    let of (k : Nat) : Option (DWord × Nat) :=
      if (s.warp k).die == die && (s.warp k).core == core then .some (e.2.root, e.2.va.toNat % 2 ^ 57 / 65536) else .none
    match e.2.who with
    | .some (.lane k _ _ _) | .some (.wait k _) => of k
    | _ => .none)).eraseDups

/-- A core keeps up to 32 misses outstanding: an access that would make more stalls at issue (R344). -/
def State.missCheck (b t : State) : State :=
  if t.faults.length ≤ 32 then t
  else
    let n := (t.misses b.me.die b.me.core).length
    if 32 < n && (b.misses b.me.die b.me.core).length < n then b.stall else t

/-- The device after the packet of b's bundle has stalled at t; an instruction that ends a region closes its warp's windows
(R51, R72). -/
def State.finishStall (b : State) (region : Bool) (t : State) : State :=
  let t := { t with inPacket := false, hints := Hints.empty, stalled := false, rivals := [] }
  (t.modWarp b.cur (fun w => { (if region then w.closeOlder b.unit else w) with bundles := w.bundles.map (fun x =>
    if (x.lanes &&& b.bundle) != 0#32 then { x with stuck := true } else x) })).deliverAll b.cur []

/-- The device after instruction i, whose word is word, took the state from b to t on a vector core. -/
def State.finishVector (b : State) (word : Word) (i : Instr) (t : State) : State :=
  let k := b.cur
  let t := b.missCheck (b.quotaCheck t)
  if t.stalled then b.finishStall (endsRegion i) t
  else if isHint word then t.modWarp k (fun w => { w with issued := w.issued + 1 })
  else
    let t := t.account.passRivals t.rivals
    let m := b.bundle
    let past := m &&& ~~~t.undone
    let performed := t.acted &&& b.me.live &&& ~~~t.undone
    let t := if past == 0#32 || (t.warp k).place != .running then t else t.freeMarked b.me word past b.hints
    let t := t.modWarp k (fun w =>
      let w := { (w.shiftMarks (past &&& w.live) t.taken b.hints) with
        skipBp := Lanes.where_ w.skipBp m (fun _ => .none)
        yielded := yields i && w.yielded
        withheld := w.withheld &&& ~~~m }
      ((w.closeWindows w.heldMask).governed i b.pc (match lowestLane? t.taken with | .some j => Lanes.at w.pc j | .none => 0#32)
        (t.taken != 0#32)).regroupAfter b.me.trap m t.cc)
    let t := t.settleHolds k
    let t := if endsRegion i && performed != 0#32 then
        t.modWarp k (fun w => (w.closeOlder b.unit).checkpoint) else t
    let t := t.modWarp k (fun w =>
      if t.taken != 0#32 || (reforms i && performed != 0#32) || (w.withheld == 0#32 && w.formed + 8 ≤ t.cc) then w.reform t.cc else w)
    let t := t.demote k
    let t := (b.stepTraps t).deliverAll k []
    let t := (if (t.warp k).trap && !(t.warp k).handler then t.finishRte k else t).raiseOwing k
    let t := if (t.warp k).runnable == 0#32 then t.bringAll b.me.die b.me.core else t
    let t := { t with hints := Hints.empty, inPacket := false, taken := 0#32, rivals := [] }
    t.settleAll

/-! ### Time (R8, R68, R92, R115, R197, R269) -/

/-- Is a launch resident: has it a group on a core (R269)? -/
def State.resident (s : State) (grid : Nat) : Bool :=
  s.groups.any (fun e => e.2.grid == grid && !e.2.handler && (e.2.status == .running || e.2.status == .exiting))

/-- The parts of a fs that the clock counts in: every core clock of R402 divides it (R3, R402). -/
def clockParts : Nat := 66927861

/-- The device time one cc later: a cycle of the core clock is exact to a part of a fs (R3, R115). -/
def State.passTime (s : State) : State :=
  let x := s.part + 1000000000 * clockParts / s.front.freq
  { s with cc := s.cc + 1, clock := s.clock + x / clockParts, part := x % clockParts }

/-- May an evicted group with a thread that may run again return to its core now? -/
def State.mayReturn (s : State) (e : Nat × Group) : Bool :=
  let slots := ((List.range 63).filter (fun n =>
    !s.warps.any (fun (_, w) => w.die == e.2.die && w.core == e.2.core && w.slot == n && w.inSlot))).length
  e.2.status == .evicted && !s.groupWaits e.1
    && decide ((e.2.warps.filter (fun k => (s.warp k).place == .evicted)).length ≤ slots)

/-- Could a group of a launch become resident now? -/
def State.hasRoom (s : State) (grid : Nat) : Bool :=
  [0, 1, 2, 3].any (s.wants grid) || s.groups.any (fun e => e.2.grid == grid && s.mayReturn e)

/-- Waiting groups are evicted, a gang in a cc, where a launch waits as a whole, until a group outside can become resident
(R81). -/
def State.relieve (s : State) : State :=
  s.grids.foldl (fun s l =>
    if !(s.groups.any (fun e => e.2.grid == l.1 && e.2.status == .running)) || !s.launchWaits l.1 || !s.hasOutside l.1
      || (l.1 :: s.services l.1).any s.hasRoom then s
    else
      match s.groups.find? (fun e => s.evictable e.1 && (l.1 :: s.services l.1).contains e.2.grid) with
      | .some (g, _) => s.evictGang g
      | .none => s) s

/-- One cc passes: time advances, bundles are re-formed 8 cc after their last re-formation (R68), retired stores' checks complete,
bins age, waits are looked at again, words that a peer holds every 4,096 cc, and the scheduler moves warps in and evicts what
waits (R80, R81). -/
def State.tick (s : State) : State :=
  let aged (d : Die) : Map TrapBin := mapAll d.bins (fun _ b =>
    if s.resident b.grid then { b with rows := b.rows.map (fun r => { r with age := r.age + 1 }) } else b)
  let formed (w : Warp) : Warp :=
    let w := { w with bundles := w.bundles.map (fun b => { b with stuck := false }) }
    if w.place == .running && w.withheld == 0#32 && w.formed + 8 ≤ s.cc + 1 then w.reform (s.cc + 1) else w
  let t := s.passTime
  let t := { t with
    warps := mapAll s.warps (fun _ w => formed w)
    dies := mapAll s.dies (fun _ d => { d with bins := aged d }) }
  let s := t.ageLinks (t.clock - s.clock)
  let s := s.warps.foldl (fun s e =>
    if e.2.place == .running && !e.2.late.isEmpty then s.rollback e.1 (s.warp e.1).late else s) s
  let s := s.retryHeld
  let s := (s.warps.foldl (fun s e => s.pollWarp true (s.cc % 4096 == 0) true true e.1) s).ageRows.ageTurn
  (s.warps.foldl (fun s e => if e.2.fast then s else s.bringIn e.1) s).relieve

/-! ### The end of a word or an event -/

/-- The state after the word w of instruction i took the device from b to t. -/
def State.finish (b : State) (w : Word) (i : Instr) (t : State) : State :=
  match b.issuer with
  | .vector => b.finishVector w i t
  | .control cl =>
    if isHint w then t
    else
      let t := if (b.overfull t).isEmpty then t else { b with stalled := true }
      let t := if t.stalled || (t.cluster cl).stopped then t else t.modCluster cl (fun c => { c with hints := Hints.empty })
      { t with inPacket := false, stalled := false }.reportFull

/-- The state after an event took the device from b to t. An event that needs history that has no room has no effect (R195). -/
def State.finishEvent (b t : State) : State := (b.unlessFull t).settleAll

end Sys2Proof.Machine
end

