-- ==== Sys2Proof/Machine/LaneOps.lean ====
section
/-! DEFINITION. Lane exchange, quad and compaction instructions (R141 to R148), majors 0x2C to 0x2E, reorder aside. -/

namespace Sys2Proof.Machine

/-- The entry of a lane-exchange result over the written lanes m: uniform when the write is full and every written lane
receives one value, else general (R142). -/
def State.exchanged (s : State) (m : Mask) (f : Lane → Word) : Entry :=
  let b := f ((lowestLane? m).getD 0)
  if (s.me.live &&& ~~~m) == 0#32 && (lanesOf m).all (fun i => f i == b) then .uniform b else .general (perLane f)

/-! ### Shuffle, permute, broadcast and quad exchange (R143, R144) -/

/-- A move whose lane i takes A's value of lane j i. -/
def pull (u : Use) (d : BitVec 5) (a : Src) (j : State → Lane → Lane) (s : State) : State :=
  issue u s (fun s m =>
    let x := s.srcA a
    { st := s.writeV d.toNat m (s.exchanged m (fun i => x.at (j s i))) (s.srcFormat a) })

def execVshfl (d : BitVec 5) (a b : Src) (p : BitVec 2) (s : State) : Out :=
  .next (pull (use2 d a b p) d a (fun s i => Fin.ofNat 32 ((s.srcB b).at i).toNat) s)
/-- vperm pushes: lane j takes the value of the highest active lane that names it (R143). -/
def execVperm (d : BitVec 5) (a b : Src) (p : BitVec 2) (s : State) : Out :=
  .next (issue (use2 d a b p) s (fun s m =>
    let x := s.srcA a
    let y := s.srcB b
    let from_ (j : Lane) : Option Lane :=
      ((lanesOf m).filter (fun i => (Fin.ofNat 32 (y.at i).toNat : Lane) == j)).getLast?
    let hit := maskOf (fun j => Mask.has m j && (from_ j).isSome)
    let e := s.exchanged hit (fun j => match from_ j with | .some i => x.at i | .none => 0#32)
    { st := s.writeV d.toNat hit e (s.srcFormat a) }))
/-- vbcast gives every active lane the value of the lane that the lowest active real lane names (R143). -/
def execVbcast (d : BitVec 5) (a b : Src) (p : BitVec 2) (s : State) : Out :=
  .next (issue (use2 d a b p) s (fun s m =>
    match s.first m with
    | .none => { st := s }
    | .some i =>
      let v := (s.srcA a).at (Fin.ofNat 32 ((s.srcB b).at i).toNat)
      { st := s.writeV d.toNat m (s.exchanged m (fun _ => v)) (s.srcFormat a) }))
def execQswapH (d : BitVec 5) (a : Src) (p : BitVec 2) (s : State) : Out :=
  .next (pull (use1 d a p) d a (fun _ i => Fin.ofNat 32 (i.val ^^^ 1)) s)
def execQswapV (d : BitVec 5) (a : Src) (p : BitVec 2) (s : State) : Out :=
  .next (pull (use1 d a p) d a (fun _ i => Fin.ofNat 32 (i.val ^^^ 2)) s)
def execQswapD (d : BitVec 5) (a : Src) (p : BitVec 2) (s : State) : Out :=
  .next (pull (use1 d a p) d a (fun _ i => Fin.ofNat 32 (i.val ^^^ 3)) s)
def execQbcast (d : BitVec 5) (a b : Src) (p : BitVec 2) (s : State) : Out :=
  .next (pull (use2 d a b p) d a (fun s i => Fin.ofNat 32 (i.val / 4 * 4 + ((s.srcB b).at i).toNat % 4)) s)

/-! ### Reductions (R145, R146) -/

/-- Two values combined, with the flags so far. -/
abbrev Combine := (Word × Flags) → (Word × Flags) → (Word × Flags)

/-- An integer combination raises no flag. -/
def intCombine (f : Word → Word → Word) : Combine := fun x y => (f x.1 y.1, 0#5)
/-- A float combination collects the flags of every step. -/
def floatCombine (f : Nat → Nat → FRes) : Combine := fun x y =>
  let r := f x.1.toNat y.1.toNat
  (BitVec.ofNat 32 r.1, r.2 ||| x.2 ||| y.2)
/-- A value that a tree or a scan starts from: after DAZ in a float form; no later step flushes its operands. -/
def leafOf (c : FCtl) (float : Bool) (x : Word) : Word := if float then BitVec.ofNat 32 (f32.dazCode c.daz x.toNat) else x
def sMin (x y : Word) : Word := if x.slt y then x else y
def nMin (x y : Word) : Word := if x.ult y then x else y
def sMax (x y : Word) : Word := if x.slt y then y else x
def nMax (x y : Word) : Word := if x.ult y then y else x

/-- qreduce: the four values of a quad combined as ((x0, x1), (x2, x3)) (R145). -/
def quadReduce (d : BitVec 5) (a : Src) (p : BitVec 2) (float : Bool) (g : FCtl → Combine) (s : State) : State :=
  issue { use1 d a p with fmts := if float then srcFmt a 1#4 else [] } s (fun s m =>
    let x := s.srcA a
    let c := s.fctl
    let g := g { c with daz := false }
    let at_ (i : Lane) (k : Nat) : Word × Flags := (leafOf c float (x.at (Fin.ofNat 32 (i.val / 4 * 4 + k))), 0#5)
    let r : Lanes (Word × Flags) := perLane (fun i => g (g (at_ i 0) (at_ i 1)) (g (at_ i 2) (at_ i 3)))
    s.deliverFlags m (fun i => (Lanes.at r i).2)
      (fun s ok => s.writeV d.toNat ok (s.exchanged ok (fun i => (Lanes.at r i).1)) (if float then 1#4 else 0#4)))

def execQreduce (d : BitVec 5) (a : Src) (o : BitVec 3) (p : BitVec 2) (s : State) : Out :=
  .next (match o.toNat with
    | 0 => quadReduce d a p false (fun _ => intCombine (· + ·)) s
    | 1 => quadReduce d a p false (fun _ => intCombine sMin) s
    | 2 => quadReduce d a p false (fun _ => intCombine sMax) s
    | 3 => quadReduce d a p true (fun c => floatCombine (f32.add c)) s
    | 4 => quadReduce d a p true (fun c => floatCombine (f32.minmax false c)) s
    | 5 => quadReduce d a p true (fun c => floatCombine (f32.minmax true c)) s
    | 6 => quadReduce d a p false (fun _ => intCombine nMin) s
    | _ => quadReduce d a p false (fun _ => intCombine nMax) s)

/-- One level of the tree of R146: neighbours combined, an absent one giving the other. -/
def pairUp (g : Combine) : List (Option (Word × Flags)) → List (Option (Word × Flags))
  | .some x :: .some y :: t => .some (g x y) :: pairUp g t
  | .some x :: .none :: t => .some x :: pairUp g t
  | .none :: y :: t => y :: pairUp g t
  | l => l

/-- The tree of R146 over the contributing lanes' values. -/
def treeReduce (g : Combine) (l : List (Option (Word × Flags))) : Option (Word × Flags) :=
  ((pairUp g (pairUp g (pairUp g (pairUp g (pairUp g l))))).head?).join

/-- A contributing FP32 value as an operation reads it: after DAZ, a NaN as the canonical one with its INV (R146). -/
def readF32 (c : FCtl) (x : Word) : Word × Flags :=
  let v := f32.src c.daz x.toNat
  if v.isNan then (BitVec.ofNat 32 (f32.nanCode false), v.snan) else (BitVec.ofNat 32 (f32.dazCode c.daz x.toNat), 0#5)

/-- wreduce: the tree over the real active lanes, written to every active lane (R146). -/
def warpReduce (d : BitVec 5) (a : Src) (p : BitVec 2) (float : Bool) (ident : Word) (g : FCtl → Combine)
    (s : State) : State :=
  issue { use1 d a p with fmts := if float then srcFmt a 1#4 else [] } s (fun s m =>
    let x := s.srcA a
    let c := s.fctl
    let r := s.real m
    let leaf (i : Lane) : Option (Word × Flags) :=
      if Mask.has r i then .some (if float then readF32 c (x.at i) else (x.at i, 0#5)) else .none
    let res := (treeReduce (g { c with daz := false }) (allLanes.map leaf)).getD (ident, 0#5)
    s.deliverFlags m (fun _ => res.2)
      (fun s ok => s.writeV d.toNat ok (s.fullOr ok res.1) (if float then 1#4 else 0#4)))

def execWreduceAdd (d : BitVec 5) (a : Src) (p : BitVec 2) (s : State) : Out :=
  .next (warpReduce d a p false 0#32 (fun _ => intCombine (· + ·)) s)
def execWreduceMinS32 (d : BitVec 5) (a : Src) (p : BitVec 2) (s : State) : Out :=
  .next (warpReduce d a p false 0x7FFFFFFF#32 (fun _ => intCombine sMin) s)
def execWreduceMinN32 (d : BitVec 5) (a : Src) (p : BitVec 2) (s : State) : Out :=
  .next (warpReduce d a p false 0xFFFFFFFF#32 (fun _ => intCombine nMin) s)
def execWreduceMaxS32 (d : BitVec 5) (a : Src) (p : BitVec 2) (s : State) : Out :=
  .next (warpReduce d a p false 0x80000000#32 (fun _ => intCombine sMax) s)
def execWreduceMaxN32 (d : BitVec 5) (a : Src) (p : BitVec 2) (s : State) : Out :=
  .next (warpReduce d a p false 0#32 (fun _ => intCombine nMax) s)
def execWreduceAddF32 (d : BitVec 5) (a : Src) (p : BitVec 2) (s : State) : Out :=
  .next (warpReduce d a p true 0#32 (fun c => floatCombine (f32.add c)) s)
def execWreduceMinF32 (d : BitVec 5) (a : Src) (p : BitVec 2) (s : State) : Out :=
  .next (warpReduce d a p true 0x7F800000#32 (fun c => floatCombine (f32.minmax false c)) s)
def execWreduceMaxF32 (d : BitVec 5) (a : Src) (p : BitVec 2) (s : State) : Out :=
  .next (warpReduce d a p true 0xFF800000#32 (fun c => floatCombine (f32.minmax true c)) s)

/-! ### Scans (R147) -/

/-- The running sums over the lanes of c, in ascending order: each lane's value, exclusive or inclusive, and the sum. -/
def scanGo (g : Combine) (excl : Bool) (v : Lane → Word × Flags) :
    List Lane → (Word × Flags) → List (Lane × Word) → List (Lane × Word) × Flags
  | [], acc, out => (out, acc.2)
  | j :: t, acc, out =>
    let next := g acc (v j)
    scanGo g excl v t next (out ++ [(j, if excl then acc.1 else next.1)])

/-- wscan: a helper lane takes the value of the highest contributing lane below it (R147). -/
def warpScan (d : BitVec 5) (a : Src) (x : BitVec 1) (p : BitVec 2) (float : Bool) (g : FCtl → Combine)
    (s : State) : State :=
  issue { use1 d a p with fmts := if float then srcFmt a 1#4 else [] } s (fun s m =>
    let e := s.srcA a
    let c := s.fctl
    let r := s.real m
    let (out, fl) := scanGo (g { c with daz := false }) (x == 1#1) (fun i => (leafOf c float (e.at i), 0#5)) (lanesOf r) (0#32, 0#5) []
    let val (i : Lane) : Word :=
      match (out.filter (fun o => if Mask.has r i then o.1 == i else decide (o.1 < i))).getLast? with
      | .some o => o.2
      | .none => 0#32
    s.deliverFlags m (fun _ => fl)
      (fun s ok => s.writeV d.toNat ok (.general (perLane val)) (if float then 1#4 else 0#4)))

def execWscan (d : BitVec 5) (a : Src) (x : BitVec 1) (p : BitVec 2) (s : State) : Out :=
  .next (warpScan d a x p false (fun _ => intCombine (· + ·)) s)
def execWscanF32 (d : BitVec 5) (a : Src) (x : BitVec 1) (p : BitVec 2) (s : State) : Out :=
  .next (warpScan d a x p true (fun c => floatCombine (f32.add c)) s)

/-! ### Compaction (R148) -/

/-- The place of i in a list. -/
def placeOf (i : Lane) : List Lane → Option Nat
  | [] => .none
  | j :: t => if i == j then .some 0 else (placeOf i t).map (· + 1)

/-- vcompact packs the values of the selected lanes into the lowest active lanes, zeros after them (R148). -/
def execVcompact (d : BitVec 5) (a : Src) (n : BitVec 4) (p : BitVec 2) (s : State) : Out :=
  .next (issue (use1 d a p) s (fun s m =>
    let x := s.srcA a
    let r := s.real m
    let l := lanesOf (r &&& s.me.mask n.toNat)
    let val (i : Lane) : Word :=
      match (placeOf i (lanesOf r)).bind (fun k => l[k]?) with
      | .some j => x.at j
      | .none => 0#32
    { st := s.writeV d.toNat r (.general (perLane val)) (s.srcFormat a) }))
/-- vexpand spreads the values of the lowest active lanes to the selected lanes (R148). -/
def execVexpand (d : BitVec 5) (a : Src) (n : BitVec 4) (p : BitVec 2) (s : State) : Out :=
  .next (issue (use1 d a p) s (fun s m =>
    let x := s.srcA a
    let r := s.real m
    let l := r &&& s.me.mask n.toNat
    let val (i : Lane) : Word :=
      match (placeOf i (lanesOf l)).bind (fun k => (lanesOf r)[k]?) with
      | .some j => x.at j
      | .none => 0#32
    { st := s.writeV d.toNat l (.general (perLane val)) (s.srcFormat a) }))

end Sys2Proof.Machine
end

