-- ==== Sys2Proof/Machine/Dispatch.lean ====
section
/-! DEFINITION. One arm per instruction and event: the call of its meaning. -/

namespace Sys2Proof.Machine

/-- What an instruction or an event does to the device. -/
def exec (i : Instr) (s : State) : Host.Outcome State Fault Refusal :=
  match i with
  | .bra ix => Sys2Proof.Machine.execBra ix s
  | .brcAny m ix => Sys2Proof.Machine.execBrcAny m ix s
  | .brcAll m ix => Sys2Proof.Machine.execBrcAll m ix s
  | .brcNone m ix => Sys2Proof.Machine.execBrcNone m ix s
  | .brz r ix => Sys2Proof.Machine.execBrz r ix s
  | .brnz r ix => Sys2Proof.Machine.execBrnz r ix s
  | .park m ix => Sys2Proof.Machine.execPark m ix s
  | .call r ix => Sys2Proof.Machine.execCall r ix s
  | .ret r => Sys2Proof.Machine.execRet r s
  | .bix r => Sys2Proof.Machine.execBix r s
  | .callx r => Sys2Proof.Machine.execCallx r s
  | .enrol m p => Sys2Proof.Machine.execEnrol m p s
  | .strike m p => Sys2Proof.Machine.execStrike m p s
  | .mand d a b p => Sys2Proof.Machine.execMand d a b p s
  | .mor d a b p => Sys2Proof.Machine.execMor d a b p s
  | .mxor d a b p => Sys2Proof.Machine.execMxor d a b p s
  | .mnot d a p => Sys2Proof.Machine.execMnot d a p s
  | .mpop d a p => Sys2Proof.Machine.execMpop d a p s
  | .mfirst d a p => Sys2Proof.Machine.execMfirst d a p s
  | .exit p => Sys2Proof.Machine.execExit p s
  | .yield p => Sys2Proof.Machine.execYield p s
  | .region => Sys2Proof.Machine.execRegion s
  | .waitAddr a b p => Sys2Proof.Machine.execWaitAddr a b p s
  | .voteAny d a p => Sys2Proof.Machine.execVoteAny d a p s
  | .voteAll d a p => Sys2Proof.Machine.execVoteAll d a p s
  | .voteBallot d a p => Sys2Proof.Machine.execVoteBallot d a p s
  | .nop => Sys2Proof.Machine.execNop s
  | .hintK b a => Sys2Proof.Machine.execHintK b a s
  | .hintImm ix => Sys2Proof.Machine.execHintImm ix s
  | .hintLu l => Sys2Proof.Machine.execHintLu l s
  | .hintPred n m => Sys2Proof.Machine.execHintPred n m s
  | .hintOff o => Sys2Proof.Machine.execHintOff o s
  | .hintCache sx f c => Sys2Proof.Machine.execHintCache sx f c s
  | .hintSched c l => Sys2Proof.Machine.execHintSched c l s
  | .rds r sx v => Sys2Proof.Machine.execRds r sx v s
  | .wrs r sx v => Sys2Proof.Machine.execWrs r sx v s
  | .trap c => Sys2Proof.Machine.execTrap c s
  | .rte => Sys2Proof.Machine.execRte s
  | .gret => Sys2Proof.Machine.execGret s
  | .gretSame => Sys2Proof.Machine.execGretSame s
  | .gretPc n => Sys2Proof.Machine.execGretPc n s
  | .gkill => Sys2Proof.Machine.execGkill s
  | .segset n w => Sys2Proof.Machine.execSegset n w s
  | .tlbinvVa n => Sys2Proof.Machine.execTlbinvVa n s
  | .tlbinvRoot n => Sys2Proof.Machine.execTlbinvRoot n s
  | .tlbinvAll => Sys2Proof.Machine.execTlbinvAll s
  | .brk => Sys2Proof.Machine.execBrk s
  | .dbgStep n => Sys2Proof.Machine.execDbgStep n s
  | .preack => Sys2Proof.Machine.execPreack s
  | .vadd d a b p => Sys2Proof.Machine.execVadd d a b p s
  | .vsub d a b p => Sys2Proof.Machine.execVsub d a b p s
  | .vaddSatS32 d a b p => Sys2Proof.Machine.execVaddSatS32 d a b p s
  | .vaddSatN32 d a b p => Sys2Proof.Machine.execVaddSatN32 d a b p s
  | .vaddc d a b p => Sys2Proof.Machine.execVaddc d a b p s
  | .vmulLo d a b p => Sys2Proof.Machine.execVmulLo d a b p s
  | .vmulHiS32 d a b p => Sys2Proof.Machine.execVmulHiS32 d a b p s
  | .vmulHiN32 d a b p => Sys2Proof.Machine.execVmulHiN32 d a b p s
  | .vmad d a b p => Sys2Proof.Machine.execVmad d a b p s
  | .vdivS32 d a b p => Sys2Proof.Machine.execVdivS32 d a b p s
  | .vdivN32 d a b p => Sys2Proof.Machine.execVdivN32 d a b p s
  | .vremS32 d a b p => Sys2Proof.Machine.execVremS32 d a b p s
  | .vremN32 d a b p => Sys2Proof.Machine.execVremN32 d a b p s
  | .vminS32 d a b p => Sys2Proof.Machine.execVminS32 d a b p s
  | .vminN32 d a b p => Sys2Proof.Machine.execVminN32 d a b p s
  | .vmaxS32 d a b p => Sys2Proof.Machine.execVmaxS32 d a b p s
  | .vmaxN32 d a b p => Sys2Proof.Machine.execVmaxN32 d a b p s
  | .vabsS32 d a p => Sys2Proof.Machine.execVabsS32 d a p s
  | .vneg d a p => Sys2Proof.Machine.execVneg d a p s
  | .vand d a b p => Sys2Proof.Machine.execVand d a b p s
  | .vor d a b p => Sys2Proof.Machine.execVor d a b p s
  | .vxor d a b p => Sys2Proof.Machine.execVxor d a b p s
  | .vnot d a p => Sys2Proof.Machine.execVnot d a p s
  | .vsel d a b c => Sys2Proof.Machine.execVsel d a b c s
  | .vshl d a b p => Sys2Proof.Machine.execVshl d a b p s
  | .vshr d a b p => Sys2Proof.Machine.execVshr d a b p s
  | .vsra d a b p => Sys2Proof.Machine.execVsra d a b p s
  | .vrot d a b p => Sys2Proof.Machine.execVrot d a b p s
  | .vpopc d a p => Sys2Proof.Machine.execVpopc d a p s
  | .vclz d a p => Sys2Proof.Machine.execVclz d a p s
  | .vbrev d a p => Sys2Proof.Machine.execVbrev d a p s
  | .vmov d a p => Sys2Proof.Machine.execVmov d a p s
  | .vadd64 d a b p => Sys2Proof.Machine.execVadd64 d a b p s
  | .vsub64 d a b p => Sys2Proof.Machine.execVsub64 d a b p s
  | .vmulLo64 d a b p => Sys2Proof.Machine.execVmulLo64 d a b p s
  | .vminS64 d a b p => Sys2Proof.Machine.execVminS64 d a b p s
  | .vminN64 d a b p => Sys2Proof.Machine.execVminN64 d a b p s
  | .vmaxS64 d a b p => Sys2Proof.Machine.execVmaxS64 d a b p s
  | .vmaxN64 d a b p => Sys2Proof.Machine.execVmaxN64 d a b p s
  | .vshl64 d a b p => Sys2Proof.Machine.execVshl64 d a b p s
  | .vshr64 d a b p => Sys2Proof.Machine.execVshr64 d a b p s
  | .vsra64 d a b p => Sys2Proof.Machine.execVsra64 d a b p s
  | .vlea d a b p => Sys2Proof.Machine.execVlea d a b p s
  | .vmovrel d r b p => Sys2Proof.Machine.execVmovrel d r b p s
  | .vreadl d a b p => Sys2Proof.Machine.execVreadl d a b p s
  | .vbcs d a p => Sys2Proof.Machine.execVbcs d a p s
  | .vcmpEq d a b p => Sys2Proof.Machine.execVcmpEq d a b p s
  | .vcmpNe d a b p => Sys2Proof.Machine.execVcmpNe d a b p s
  | .vcmpLtS32 d a b p => Sys2Proof.Machine.execVcmpLtS32 d a b p s
  | .vcmpLeS32 d a b p => Sys2Proof.Machine.execVcmpLeS32 d a b p s
  | .vcmpLtN32 d a b p => Sys2Proof.Machine.execVcmpLtN32 d a b p s
  | .vcmpLeN32 d a b p => Sys2Proof.Machine.execVcmpLeN32 d a b p s
  | .vcmpEq64 d a b p => Sys2Proof.Machine.execVcmpEq64 d a b p s
  | .vcmpNe64 d a b p => Sys2Proof.Machine.execVcmpNe64 d a b p s
  | .vcmpLtS64 d a b p => Sys2Proof.Machine.execVcmpLtS64 d a b p s
  | .vcmpLeS64 d a b p => Sys2Proof.Machine.execVcmpLeS64 d a b p s
  | .vcmpLtN64 d a b p => Sys2Proof.Machine.execVcmpLtN64 d a b p s
  | .vcmpLeN64 d a b p => Sys2Proof.Machine.execVcmpLeN64 d a b p s
  | .vaddImm d a ix => Sys2Proof.Machine.execVaddImm d a ix s
  | .vmovi d ix => Sys2Proof.Machine.execVmovi d ix s
  | .sadd d a b => Sys2Proof.Machine.execSadd d a b s
  | .ssub d a b => Sys2Proof.Machine.execSsub d a b s
  | .smul d a b => Sys2Proof.Machine.execSmul d a b s
  | .sand d a b => Sys2Proof.Machine.execSand d a b s
  | .sor d a b => Sys2Proof.Machine.execSor d a b s
  | .sxor d a b => Sys2Proof.Machine.execSxor d a b s
  | .sshl d a b => Sys2Proof.Machine.execSshl d a b s
  | .sshr d a b => Sys2Proof.Machine.execSshr d a b s
  | .scmpEq d a b => Sys2Proof.Machine.execScmpEq d a b s
  | .scmpLtS64 d a b => Sys2Proof.Machine.execScmpLtS64 d a b s
  | .scmpLtN64 d a b => Sys2Proof.Machine.execScmpLtN64 d a b s
  | .smov d a => Sys2Proof.Machine.execSmov d a s
  | .saddImm d a ix => Sys2Proof.Machine.execSaddImm d a ix s
  | .smovi d ix => Sys2Proof.Machine.execSmovi d ix s
  | .vshape d sx p => Sys2Proof.Machine.execVshape d sx p s
  | .vfmt d a b p => Sys2Proof.Machine.execVfmt d a b p s
  | .vaffine d a b p => Sys2Proof.Machine.execVaffine d a b p s
  | .vidx d p => Sys2Proof.Machine.execVidx d p s
  | .vfree d => Sys2Proof.Machine.execVfree d s
  | .vbfeS32 d a b p => Sys2Proof.Machine.execVbfeS32 d a b p s
  | .vbfeN32 d a b p => Sys2Proof.Machine.execVbfeN32 d a b p s
  | .vbfi d a b p => Sys2Proof.Machine.execVbfi d a b p s
  | .vsext d a b p => Sys2Proof.Machine.execVsext d a b p s
  | .vzext d a b p => Sys2Proof.Machine.execVzext d a b p s
  | .vfaddF32 d a b p => Sys2Proof.Machine.execVfaddF32 d a b p s
  | .vfsubF32 d a b p => Sys2Proof.Machine.execVfsubF32 d a b p s
  | .vfmulF32 d a b p => Sys2Proof.Machine.execVfmulF32 d a b p s
  | .vfmaF32 d a b p => Sys2Proof.Machine.execVfmaF32 d a b p s
  | .vfminF32 d a b p => Sys2Proof.Machine.execVfminF32 d a b p s
  | .vfmaxF32 d a b p => Sys2Proof.Machine.execVfmaxF32 d a b p s
  | .vfabsF32 d a p => Sys2Proof.Machine.execVfabsF32 d a p s
  | .vfnegF32 d a p => Sys2Proof.Machine.execVfnegF32 d a p s
  | .vfcmpEqF32 d a b p => Sys2Proof.Machine.execVfcmpEqF32 d a b p s
  | .vfcmpNeF32 d a b p => Sys2Proof.Machine.execVfcmpNeF32 d a b p s
  | .vfcmpLtF32 d a b p => Sys2Proof.Machine.execVfcmpLtF32 d a b p s
  | .vfcmpLeF32 d a b p => Sys2Proof.Machine.execVfcmpLeF32 d a b p s
  | .vfcmpUnF32 d a b p => Sys2Proof.Machine.execVfcmpUnF32 d a b p s
  | .vfclassF32 d a p => Sys2Proof.Machine.execVfclassF32 d a p s
  | .vfaddF16 d a b p => Sys2Proof.Machine.execVfaddF16 d a b p s
  | .vfsubF16 d a b p => Sys2Proof.Machine.execVfsubF16 d a b p s
  | .vfmulF16 d a b p => Sys2Proof.Machine.execVfmulF16 d a b p s
  | .vfmaF16 d a b p => Sys2Proof.Machine.execVfmaF16 d a b p s
  | .vfminF16 d a b p => Sys2Proof.Machine.execVfminF16 d a b p s
  | .vfmaxF16 d a b p => Sys2Proof.Machine.execVfmaxF16 d a b p s
  | .vfabsF16 d a p => Sys2Proof.Machine.execVfabsF16 d a p s
  | .vfnegF16 d a p => Sys2Proof.Machine.execVfnegF16 d a p s
  | .vfcmpEqF16 d a b p => Sys2Proof.Machine.execVfcmpEqF16 d a b p s
  | .vfcmpNeF16 d a b p => Sys2Proof.Machine.execVfcmpNeF16 d a b p s
  | .vfcmpLtF16 d a b p => Sys2Proof.Machine.execVfcmpLtF16 d a b p s
  | .vfcmpLeF16 d a b p => Sys2Proof.Machine.execVfcmpLeF16 d a b p s
  | .vfcmpUnF16 d a b p => Sys2Proof.Machine.execVfcmpUnF16 d a b p s
  | .vfclassF16 d a p => Sys2Proof.Machine.execVfclassF16 d a p s
  | .vfdot2F16 d a b p => Sys2Proof.Machine.execVfdot2F16 d a b p s
  | .vfaddBf16 d a b p => Sys2Proof.Machine.execVfaddBf16 d a b p s
  | .vfsubBf16 d a b p => Sys2Proof.Machine.execVfsubBf16 d a b p s
  | .vfmulBf16 d a b p => Sys2Proof.Machine.execVfmulBf16 d a b p s
  | .vfmaBf16 d a b p => Sys2Proof.Machine.execVfmaBf16 d a b p s
  | .vfminBf16 d a b p => Sys2Proof.Machine.execVfminBf16 d a b p s
  | .vfmaxBf16 d a b p => Sys2Proof.Machine.execVfmaxBf16 d a b p s
  | .vfabsBf16 d a p => Sys2Proof.Machine.execVfabsBf16 d a p s
  | .vfnegBf16 d a p => Sys2Proof.Machine.execVfnegBf16 d a p s
  | .vfcmpEqBf16 d a b p => Sys2Proof.Machine.execVfcmpEqBf16 d a b p s
  | .vfcmpNeBf16 d a b p => Sys2Proof.Machine.execVfcmpNeBf16 d a b p s
  | .vfcmpLtBf16 d a b p => Sys2Proof.Machine.execVfcmpLtBf16 d a b p s
  | .vfcmpLeBf16 d a b p => Sys2Proof.Machine.execVfcmpLeBf16 d a b p s
  | .vfcmpUnBf16 d a b p => Sys2Proof.Machine.execVfcmpUnBf16 d a b p s
  | .vfclassBf16 d a p => Sys2Proof.Machine.execVfclassBf16 d a p s
  | .vfdot2Bf16 d a b p => Sys2Proof.Machine.execVfdot2Bf16 d a b p s
  | .vfaddF64 d a b p => Sys2Proof.Machine.execVfaddF64 d a b p s
  | .vfsubF64 d a b p => Sys2Proof.Machine.execVfsubF64 d a b p s
  | .vfmulF64 d a b p => Sys2Proof.Machine.execVfmulF64 d a b p s
  | .vfmaF64 d a b p => Sys2Proof.Machine.execVfmaF64 d a b p s
  | .vfminF64 d a b p => Sys2Proof.Machine.execVfminF64 d a b p s
  | .vfmaxF64 d a b p => Sys2Proof.Machine.execVfmaxF64 d a b p s
  | .vfabsF64 d a p => Sys2Proof.Machine.execVfabsF64 d a p s
  | .vfnegF64 d a p => Sys2Proof.Machine.execVfnegF64 d a p s
  | .vfcmpEqF64 d a b p => Sys2Proof.Machine.execVfcmpEqF64 d a b p s
  | .vfcmpNeF64 d a b p => Sys2Proof.Machine.execVfcmpNeF64 d a b p s
  | .vfcmpLtF64 d a b p => Sys2Proof.Machine.execVfcmpLtF64 d a b p s
  | .vfcmpLeF64 d a b p => Sys2Proof.Machine.execVfcmpLeF64 d a b p s
  | .vfcmpUnF64 d a b p => Sys2Proof.Machine.execVfcmpUnF64 d a b p s
  | .vfclassF64 d a p => Sys2Proof.Machine.execVfclassF64 d a p s
  | .vfcvt d a t sx p => Sys2Proof.Machine.execVfcvt d a t sx p s
  | .vfcvtRz d a t sx p => Sys2Proof.Machine.execVfcvtRz d a t sx p s
  | .vfpack d a b p => Sys2Proof.Machine.execVfpack d a b p s
  | .vfpackRz d a b p => Sys2Proof.Machine.execVfpackRz d a b p s
  | .vfunpack d a b p => Sys2Proof.Machine.execVfunpack d a b p s
  | .vfscale d a b p => Sys2Proof.Machine.execVfscale d a b p s
  | .vfround d a f p => Sys2Proof.Machine.execVfround d a f p s
  | .vftoiS32 d a r p => Sys2Proof.Machine.execVftoiS32 d a r p s
  | .vftoiN32 d a r p => Sys2Proof.Machine.execVftoiN32 d a r p s
  | .vitofS32 d a p => Sys2Proof.Machine.execVitofS32 d a p s
  | .vitofN32 d a p => Sys2Proof.Machine.execVitofN32 d a p s
  | .vfrcpF32 d a p => Sys2Proof.Machine.execVfrcpF32 d a p s
  | .vfrsqF32 d a p => Sys2Proof.Machine.execVfrsqF32 d a p s
  | .vfsqrtF32 d a p => Sys2Proof.Machine.execVfsqrtF32 d a p s
  | .vfexp2F32 d a p => Sys2Proof.Machine.execVfexp2F32 d a p s
  | .vflog2F32 d a p => Sys2Proof.Machine.execVflog2F32 d a p s
  | .vftanhF32 d a p => Sys2Proof.Machine.execVftanhF32 d a p s
  | .vfrcpF64 d a p => Sys2Proof.Machine.execVfrcpF64 d a p s
  | .vfrsqF64 d a p => Sys2Proof.Machine.execVfrsqF64 d a p s
  | .vfsqrtF64 d a p => Sys2Proof.Machine.execVfsqrtF64 d a p s
  | .vfexp2F16 d a p => Sys2Proof.Machine.execVfexp2F16 d a p s
  | .vflog2F16 d a p => Sys2Proof.Machine.execVflog2F16 d a p s
  | .vftanhF16 d a p => Sys2Proof.Machine.execVftanhF16 d a p s
  | .vshfl d a b p => Sys2Proof.Machine.execVshfl d a b p s
  | .vperm d a b p => Sys2Proof.Machine.execVperm d a b p s
  | .vbcast d a b p => Sys2Proof.Machine.execVbcast d a b p s
  | .qswapH d a p => Sys2Proof.Machine.execQswapH d a p s
  | .qswapV d a p => Sys2Proof.Machine.execQswapV d a p s
  | .qswapD d a p => Sys2Proof.Machine.execQswapD d a p s
  | .qbcast d a b p => Sys2Proof.Machine.execQbcast d a b p s
  | .qreduce d a o p => Sys2Proof.Machine.execQreduce d a o p s
  | .wreduceAdd d a p => Sys2Proof.Machine.execWreduceAdd d a p s
  | .wreduceMinS32 d a p => Sys2Proof.Machine.execWreduceMinS32 d a p s
  | .wreduceMinN32 d a p => Sys2Proof.Machine.execWreduceMinN32 d a p s
  | .wreduceMaxS32 d a p => Sys2Proof.Machine.execWreduceMaxS32 d a p s
  | .wreduceMaxN32 d a p => Sys2Proof.Machine.execWreduceMaxN32 d a p s
  | .wscan d a x p => Sys2Proof.Machine.execWscan d a x p s
  | .vcompact d a m p => Sys2Proof.Machine.execVcompact d a m p s
  | .vexpand d a m p => Sys2Proof.Machine.execVexpand d a m p s
  | .reorder k l => Sys2Proof.Machine.execReorder k l s
  | .wreduceAddF32 d a p => Sys2Proof.Machine.execWreduceAddF32 d a p s
  | .wreduceMinF32 d a p => Sys2Proof.Machine.execWreduceMinF32 d a p s
  | .wreduceMaxF32 d a p => Sys2Proof.Machine.execWreduceMaxF32 d a p s
  | .wscanF32 d a x p => Sys2Proof.Machine.execWscanF32 d a x p s
  | .ld d sx o l p w v => Sys2Proof.Machine.execLd d sx o l p w v s
  | .ldAcq d sx o l p w v => Sys2Proof.Machine.execLdAcq d sx o l p w v s
  | .ldRo d sx o l p w x => Sys2Proof.Machine.execLdRo d sx o l p w x s
  | .ldStream d sx o l p w x => Sys2Proof.Machine.execLdStream d sx o l p w x s
  | .ldSp d sx o l p w x => Sys2Proof.Machine.execLdSp d sx o l p w x s
  | .sld d sx l p w => Sys2Proof.Machine.execSld d sx l p w s
  | .st d sx o p w v => Sys2Proof.Machine.execSt d sx o p w v s
  | .stRel d sx o p w v => Sys2Proof.Machine.execStRel d sx o p w v s
  | .stSp d sx o p w => Sys2Proof.Machine.execStSp d sx o p w s
  | .sst d sx p w => Sys2Proof.Machine.execSst d sx p w s
  | .atomAdd32 d sx o v r => Sys2Proof.Machine.execAtomAdd32 d sx o v r s
  | .atomAdd64 d sx o v r => Sys2Proof.Machine.execAtomAdd64 d sx o v r s
  | .atomMinS32 d sx o v r => Sys2Proof.Machine.execAtomMinS32 d sx o v r s
  | .atomMinN32 d sx o v r => Sys2Proof.Machine.execAtomMinN32 d sx o v r s
  | .atomMaxS32 d sx o v r => Sys2Proof.Machine.execAtomMaxS32 d sx o v r s
  | .atomMaxN32 d sx o v r => Sys2Proof.Machine.execAtomMaxN32 d sx o v r s
  | .atomAnd d sx o v r => Sys2Proof.Machine.execAtomAnd d sx o v r s
  | .atomOr d sx o v r => Sys2Proof.Machine.execAtomOr d sx o v r s
  | .atomXor d sx o v r => Sys2Proof.Machine.execAtomXor d sx o v r s
  | .atomXchg32 d sx o v r => Sys2Proof.Machine.execAtomXchg32 d sx o v r s
  | .atomXchg64 d sx o v r => Sys2Proof.Machine.execAtomXchg64 d sx o v r s
  | .atomCas32 d sx o v r => Sys2Proof.Machine.execAtomCas32 d sx o v r s
  | .atomCas64 d sx o v r => Sys2Proof.Machine.execAtomCas64 d sx o v r s
  | .atomFaddF32 d sx o v r => Sys2Proof.Machine.execAtomFaddF32 d sx o v r s
  | .atomFaddF64 d sx o v r => Sys2Proof.Machine.execAtomFaddF64 d sx o v r s
  | .fence p sx => Sys2Proof.Machine.execFence p sx s
  | .fencePath p sx => Sys2Proof.Machine.execFencePath p sx s
  | .cctl sx o p c => Sys2Proof.Machine.execCctl sx o p c s
  | .prefetch sx o p l => Sys2Proof.Machine.execPrefetch sx o p l s
  | .cpAsync d sx o v t => Sys2Proof.Machine.execCpAsync d sx o v t s
  | .tagWaitAny a p => Sys2Proof.Machine.execTagWaitAny a p s
  | .tagWaitAll a p => Sys2Proof.Machine.execTagWaitAll a p s
  | .tagFirst d a p => Sys2Proof.Machine.execTagFirst d a p s
  | .tagPoll d a p => Sys2Proof.Machine.execTagPoll d a p s
  | .tagClear a p => Sys2Proof.Machine.execTagClear a p s
  | .bulkCopy n p => Sys2Proof.Machine.execBulkCopy n p s
  | .bulkGather n p => Sys2Proof.Machine.execBulkGather n p s
  | .collReduce n p => Sys2Proof.Machine.execCollReduce n p s
  | .barInit a b p => Sys2Proof.Machine.execBarInit a b p s
  | .barExpect d a b p => Sys2Proof.Machine.execBarExpect d a b p s
  | .barArrive d a p => Sys2Proof.Machine.execBarArrive d a p s
  | .barWait a b p => Sys2Proof.Machine.execBarWait a b p s
  | .barTest d a b p => Sys2Proof.Machine.execBarTest d a b p s
  | .barGroup => Sys2Proof.Machine.execBarGroup s
  | .barCluster => Sys2Proof.Machine.execBarCluster s
  | .collGather n p => Sys2Proof.Machine.execCollGather n p s
  | .binit d a n => Sys2Proof.Machine.execBinit d a n s
  | .susp l n => Sys2Proof.Machine.execSusp l n s
  | .suspTag l a n => Sys2Proof.Machine.execSuspTag l a n s
  | .suspAddr l a n => Sys2Proof.Machine.execSuspAddr l a n s
  | .suspBar l a n => Sys2Proof.Machine.execSuspBar l a n s
  | .wake d a n => Sys2Proof.Machine.execWake d a n s
  | .wakePred d a c n => Sys2Proof.Machine.execWakePred d a c n s
  | .wakeAddr d a r n => Sys2Proof.Machine.execWakeAddr d a r n s
  | .fld d a n => Sys2Proof.Machine.execFld d a n s
  | .fst d a n => Sys2Proof.Machine.execFst d a n s
  | .fxform d a o n => Sys2Proof.Machine.execFxform d a o n s
  | .fcount d n => Sys2Proof.Machine.execFcount d n s
  | .resume n => Sys2Proof.Machine.execResume n s
  | .svc d c b p => Sys2Proof.Machine.execSvc d c b p s
  | .srecv d n p => Sys2Proof.Machine.execSrecv d n p s
  | .srep e n b => Sys2Proof.Machine.execSrep e n b s
  | .qpost q ix p => Sys2Proof.Machine.execQpost q ix p s
  | .launch d n p => Sys2Proof.Machine.execLaunch d n p s
  | .verdict a => Sys2Proof.Machine.execVerdict a s
  | .mreq d n p => Sys2Proof.Machine.execMreq d n p s
  | .kadd d a b ix => Sys2Proof.Machine.execKadd d a b ix s
  | .ksub d a b ix => Sys2Proof.Machine.execKsub d a b ix s
  | .kmul d a b ix => Sys2Proof.Machine.execKmul d a b ix s
  | .kand d a b ix => Sys2Proof.Machine.execKand d a b ix s
  | .kor d a b ix => Sys2Proof.Machine.execKor d a b ix s
  | .kxor d a b ix => Sys2Proof.Machine.execKxor d a b ix s
  | .kshl d a b ix => Sys2Proof.Machine.execKshl d a b ix s
  | .kshr d a b ix => Sys2Proof.Machine.execKshr d a b ix s
  | .kmov d a => Sys2Proof.Machine.execKmov d a s
  | .kmovi d ix => Sys2Proof.Machine.execKmovi d ix s
  | .kcmp d a b c => Sys2Proof.Machine.execKcmp d a b c s
  | .kbra d ix => Sys2Proof.Machine.execKbra d ix s
  | .kld d a w ix => Sys2Proof.Machine.execKld d a w ix s
  | .kst d a w ix => Sys2Proof.Machine.execKst d a w ix s
  | .kwait a b => Sys2Proof.Machine.execKwait a b s
  | .dset d a f => Sys2Proof.Machine.execDset d a f s
  | .dmov d a => Sys2Proof.Machine.execDmov d a s
  | .mtake d => Sys2Proof.Machine.execMtake d s
  | .mtakeNw d => Sys2Proof.Machine.execMtakeNw d s
  | .mdone a => Sys2Proof.Machine.execMdone a s
  | .mma n a b sx => Sys2Proof.Machine.execMma n a b sx s
  | .mmaSp n a b sx => Sys2Proof.Machine.execMmaSp n a b sx s
  | .mmaGx n a b sx => Sys2Proof.Machine.execMmaGx n a b sx s
  | .mmaF64 n a b sx => Sys2Proof.Machine.execMmaF64 n a b sx s
  | .accZero n => Sys2Proof.Machine.execAccZero n s
  | .accLoad n m => Sys2Proof.Machine.execAccLoad n m s
  | .accStore n m c => Sys2Proof.Machine.execAccStore n m c s
  | .bundleReformationTimer w => Sys2Proof.Machine.execBundleReformationTimer w s
  | .bundlePassedOver w k => Sys2Proof.Machine.execBundlePassedOver w k s
  | .spinGovernorDemotion w => Sys2Proof.Machine.execSpinGovernorDemotion w s
  | .governorTimeoutWake w => Sys2Proof.Machine.execGovernorTimeoutWake w s
  | .registerFileMove w => Sys2Proof.Machine.execRegisterFileMove w s
  | .groupEviction g => Sys2Proof.Machine.execGroupEviction g s
  | .longLatencyResult w => Sys2Proof.Machine.execLongLatencyResult w s
  | .waitAddrReread w => Sys2Proof.Machine.execWaitAddrReread w s
  | .groupRetirement g => Sys2Proof.Machine.execGroupRetirement g s
  | .gangStart g => Sys2Proof.Machine.execGangStart g s
  | .localTrapEntry w => Sys2Proof.Machine.execLocalTrapEntry w s
  | .systemDelivery w => Sys2Proof.Machine.execSystemDelivery w s
  | .ringmasterFile w => Sys2Proof.Machine.execRingmasterFile w s
  | .handlerWarpFormation die bin => Sys2Proof.Machine.execHandlerWarpFormation die bin s
  | .gatherWindowExpiry die bin => Sys2Proof.Machine.execGatherWindowExpiry die bin s
  | .rowReattach k => Sys2Proof.Machine.execRowReattach k s
  | .whitAddrWrite die v => Sys2Proof.Machine.execWhitAddrWrite die v s
  | .regionCheckpoint w => Sys2Proof.Machine.execRegionCheckpoint w s
  | .lateStoreCheck w => Sys2Proof.Machine.execLateStoreCheck w s
  | .operandLogReplay w => Sys2Proof.Machine.execOperandLogReplay w s
  | .preemptionRequest t compl grace => Sys2Proof.Machine.execPreemptionRequest t compl grace s
  | .preemptionComplete k => Sys2Proof.Machine.execPreemptionComplete k s
  | .cooperativeGraceExpiry g => Sys2Proof.Machine.execCooperativeGraceExpiry g s
  | .warpRestore w ok => Sys2Proof.Machine.execWarpRestore w ok s
  | .cpAsyncRequestComplete core k => Sys2Proof.Machine.execCpAsyncRequestComplete core k s
  | .bulkChunkLand core k => Sys2Proof.Machine.execBulkChunkLand core k s
  | .collectiveStep core k r => Sys2Proof.Machine.execCollectiveStep core k r s
  | .barWaitReread w => Sys2Proof.Machine.execBarWaitReread w s
  | .matrixPassStart cl arr => Sys2Proof.Machine.execMatrixPassStart cl arr s
  | .indexGather cl arr => Sys2Proof.Machine.execIndexGather cl arr s
  | .matrixPassEnd cl arr => Sys2Proof.Machine.execMatrixPassEnd cl arr s
  | .accOperationComplete cl arr => Sys2Proof.Machine.execAccOperationComplete cl arr s
  | .carouselWindowExpiry die grid bin => Sys2Proof.Machine.execCarouselWindowExpiry die grid bin s
  | .carouselResume die grid bin => Sys2Proof.Machine.execCarouselResume die grid bin s
  | .qbindWrite q v => Sys2Proof.Machine.execQbindWrite q v s
  | .sysrootWrite v => Sys2Proof.Machine.execSysrootWrite v s
  | .packetNop q => Sys2Proof.Machine.execPacketNop q s
  | .packetLaunch q => Sys2Proof.Machine.execPacketLaunch q s
  | .packetWait q => Sys2Proof.Machine.execPacketWait q s
  | .waitPacketSatisfied q => Sys2Proof.Machine.execWaitPacketSatisfied q s
  | .packetGraph q => Sys2Proof.Machine.execPacketGraph q s
  | .packetWrite q => Sys2Proof.Machine.execPacketWrite q s
  | .hartRereadTimer q => Sys2Proof.Machine.execHartRereadTimer q s
  | .doorbellRereadTimer q => Sys2Proof.Machine.execDoorbellRereadTimer q s
  | .dispatch k blob => Sys2Proof.Machine.execDispatch k blob s
  | .groupAdmission grid die => Sys2Proof.Machine.execGroupAdmission grid die s
  | .homeWaitExpiry grid => Sys2Proof.Machine.execHomeWaitExpiry grid s
  | .gangReserveExpiry grid => Sys2Proof.Machine.execGangReserveExpiry grid s
  | .gridCompletion grid => Sys2Proof.Machine.execGridCompletion grid s
  | .worldRetirement w => Sys2Proof.Machine.execWorldRetirement w s
  | .exactGroupDispatch grid => Sys2Proof.Machine.execExactGroupDispatch grid s
  | .pageWalk core root va world => Sys2Proof.Machine.execPageWalk core root va world s
  | .faultRecord k => Sys2Proof.Machine.execFaultRecord k s
  | .faultReply token outcome => Sys2Proof.Machine.execFaultReply token outcome s
  | .serviceRecordFile die => Sys2Proof.Machine.execServiceRecordFile die s
  | .ringWriteRetry die => Sys2Proof.Machine.execRingWriteRetry die s
  | .replyDelivery k => Sys2Proof.Machine.execReplyDelivery k s
  | .svccfgWrite d word v => Sys2Proof.Machine.execSvccfgWrite d word v s
  | .ioLoadCompletion k r => Sys2Proof.Machine.execIoLoadCompletion k r s
  | .ioCompletionTimeout k => Sys2Proof.Machine.execIoCompletionTimeout k s
  | .inboundRead p rid addr n => Sys2Proof.Machine.execInboundRead p rid addr n s
  | .inboundWrite p rid addr bytes relaxed => Sys2Proof.Machine.execInboundWrite p rid addr bytes relaxed s
  | .inboundHoldTimeout k => Sys2Proof.Machine.execInboundHoldTimeout k s
  | .inboundContextWrite p e word v confirmed => Sys2Proof.Machine.execInboundContextWrite p e word v confirmed s
  | .errstatWrite d v => Sys2Proof.Machine.execErrstatWrite d v s
  | .eccError d unit corrected loc => Sys2Proof.Machine.execEccError d unit corrected loc s
  | .flitIdle p f => Sys2Proof.Machine.execFlitIdle p f s
  | .flitData p f => Sys2Proof.Machine.execFlitData p f s
  | .flitKeyMarker p f => Sys2Proof.Machine.execFlitKeyMarker p f s
  | .flitRetryRequest p epoch counter => Sys2Proof.Machine.execFlitRetryRequest p epoch counter s
  | .keyAgreement p => Sys2Proof.Machine.execKeyAgreement p s
  | .keyRotationThreshold p => Sys2Proof.Machine.execKeyRotationThreshold p s
  | .keyStallThreshold p => Sys2Proof.Machine.execKeyStallThreshold p s
  | .keyStallTimeout p => Sys2Proof.Machine.execKeyStallTimeout p s
  | .portDown p kind => Sys2Proof.Machine.execPortDown p kind s
  | .portUp p peer => Sys2Proof.Machine.execPortUp p peer s
  | .linkRequestTimeout k => Sys2Proof.Machine.execLinkRequestTimeout k s
  | .holdResponse k => Sys2Proof.Machine.execHoldResponse k s
  | .ulstatWrite p v => Sys2Proof.Machine.execUlstatWrite p v s
  | .powerOn => Sys2Proof.Machine.execPowerOn s
  | .coldStart r => Sys2Proof.Machine.execColdStart r s
  | .warmStart r => Sys2Proof.Machine.execWarmStart r s
  | .startTimeout => Sys2Proof.Machine.execStartTimeout s
  | .startrecWrite v => Sys2Proof.Machine.execStartrecWrite v s
  | .getVersion => Sys2Proof.Machine.execGetVersion s
  | .getCapabilities => Sys2Proof.Machine.execGetCapabilities s
  | .negotiateAlgorithms supported => Sys2Proof.Machine.execNegotiateAlgorithms supported s
  | .getDigests => Sys2Proof.Machine.execGetDigests s
  | .getCertificate => Sys2Proof.Machine.execGetCertificate s
  | .challenge nonce => Sys2Proof.Machine.execChallenge nonce s
  | .getMeasurements index => Sys2Proof.Machine.execGetMeasurements index s
  | .spdmUnsupportedRequest code => Sys2Proof.Machine.execSpdmUnsupportedRequest code s
  | .resetReq grace => Sys2Proof.Machine.execResetReq grace s
  | .resetGraceExpiry => Sys2Proof.Machine.execResetGraceExpiry s
  | .rootevtWrite v => Sys2Proof.Machine.execRootevtWrite v s
  | .migrationStart w dest nonce => Sys2Proof.Machine.execMigrationStart w dest nonce s
  | .migrationSealedState w src nonce handle blob => Sys2Proof.Machine.execMigrationSealedState w src nonce handle blob s
  | .migrationReceipt nonce verified => Sys2Proof.Machine.execMigrationReceipt nonce verified s
  | .migrationConfirmation nonce => Sys2Proof.Machine.execMigrationConfirmation nonce s
  | .migrationAbort nonce => Sys2Proof.Machine.execMigrationAbort nonce s
  | .migrationArmTimeout nonce => Sys2Proof.Machine.execMigrationArmTimeout nonce s
  | .migrationReceiptTimeout nonce => Sys2Proof.Machine.execMigrationReceiptTimeout nonce s
  | .powerAverageWindow watts temp => Sys2Proof.Machine.execPowerAverageWindow watts temp s
  | .thermalTrip temp => Sys2Proof.Machine.execThermalTrip temp s
  | .pwrstatWrite v => Sys2Proof.Machine.execPwrstatWrite v s
  | .registerWrite a v => Sys2Proof.Machine.execRegisterWrite a v s
  | .unassignedEncoding w => Sys2Proof.Machine.execUnassignedEncoding w s
  | .packetReservedType q => Sys2Proof.Machine.execPacketReservedType q s
  | .flitTagFailure p f => Sys2Proof.Machine.execFlitTagFailure p f s
  | .rootPortLinkTraining p up => Sys2Proof.Machine.execRootPortLinkTraining p up s

end Sys2Proof.Machine
end

