-- ==== Sys2Proof/Machine/Turn.lean ====
section
/-! DEFINITION. What the next step does (R41, R66, R71, R72): the slot's choice among the bundles whose next packet can issue, and
the fetch of an instruction word. -/

namespace Sys2Proof.Machine

/-! ### What a step does (R41, R71) -/

/-- The instruction of a word; one that decodes to none is the unassigned encoding itself (R52). -/
noncomputable def instrOf (w : Word) : Instr :=
  match decode w with
  | .ok i => i
  | .error _ => .unassignedEncoding w

/-- What the next step does: nothing but what has been done to reach the state, an instruction word by the issuer, or an
event. -/
inductive Plan where
  | idle (s : State)
  | word (w : Word) (i : Instr) (s : State)
  | event (i : Instr) (s : State)

/-- The address of a program counter in a launch's space (R66, R318). -/
def codeAddr (r : LaunchRec) (pc : Word) : Nat := (r.code.toNat + pc.toNat) % 2 ^ 57

/-- Does the data check of a word of code fail: its line or sector is not what its world may read (R360, R362)? -/
def State.codeBad (s : State) (c : Ctx) (r : LaunchRec) (pc : Word) : Option Cause :=
  if c.world == 0#10 && s.mem.lines.isEmpty && s.mem.poison.isEmpty then .none
  else
    match s.place { c with kern := true } 0 false (codeAddr r pc) with
    | .memory pa buf =>
      match s.lineState c.world buf pa with
      | .stale => .some .stale
      | .bad => .some .poison
      | .good => if s.mem.poisoned pa 4 then .some .poison else .none
    | _ => .none

/-- Why a fetch that cause e stands against does not succeed: a walk that may be served, with its REASON, or a cause (R348,
R355; log 20). -/
def State.codeMiss (s : State) (c : Ctx) (r : LaunchRec) (pc : Word) (e : Cause) : Nat ⊕ Cause :=
  if e != .xlat then .inr e
  else
    match s.place { c with kern := true } 0 false (codeAddr r pc) with
    | .service n => .inl n
    | .trap e => .inr e
    | _ => .inr e

/-- The key under which the fetch of warp k waits for service. -/
def fetchKey (k : Nat) : Nat := 2 ^ 56 + k

/-- The fetch of the issuing bundle fails: cause c is raised at its program counter in every real lane. -/
noncomputable def State.failFetch (s : State) (c : Cause) : Plan :=
  let t := (s.forget (fetchKey s.cur)).raise (trapAll (s.real s.bundle) (Trap.plain c))
  let t := (t.modWarp s.cur (fun x => x.regroupAfter s.me.trap s.bundle t.cc)).deliverAll s.cur []
  .idle { t.passRivals t.rivals with inPacket := false, hints := Hints.empty, rivals := [] }

/-- The issuing bundle fetches its next word (R66); a miss that may be served is, while the bundle stalls (R348). A region end waits
until the older stores of its warp have passed their checks (R278). -/
noncomputable def State.fetchVector (s : State) : Plan :=
  let w := s.me
  let c := s.ctx w
  let r := (s.grid (s.group w.group).grid).record
  match s.fetch c r s.pc with
  | .fails e =>
    match s.codeMiss c r s.pc e with
    | .inr e => s.failFetch e
    | .inl n =>
      match mapFind s.front.failed (fetchKey s.cur) with
      | .some e => s.failFetch e
      | .none => .idle (s.finishStall false (s.askFront (fetchKey s.cur) c (codeAddr r s.pc) 0 n).stall)
  | .word x =>
    match s.codeBad c r s.pc with
    | .some e => s.failFetch e
    | .none =>
      let i := instrOf x
      let s := { s with reads := if w.spoiled.isEmpty then [] else w.readRegs x }
      if endsRegion i && s.storesOut s.cur then .idle (s.finishVector x i s.stall)
      else .word x i s

/-- The control core of a cluster fetches its next word (R57, R220); a miss that may be served is, while the stream waits
(R224). -/
noncomputable def State.fetchControl (s : State) (cl : Nat) : Plan :=
  let c := s.cluster cl
  match c.gang with
  | .none => .idle s
  | .some (g, _) =>
    if c.stopped || c.saved then .idle s
    else
      let r := s.grid g
      let x : Ctx := ⟨cl / 32, 4 * (cl % 32), r.record.ptroot, r.world, true⟩
      let fail (e : Cause) : Plan := .idle { s.controlFault cl e 0#64 with inPacket := false }
      match s.fetch x r.record c.pc with
      | .fails e =>
        match s.codeMiss x r.record c.pc e with
        | .inr e => fail e
        | .inl n => .idle { s.sendFault x (codeAddr r.record c.pc) 5 n (.stream cl) with inPacket := false }
      | .word w =>
        match s.codeBad x r.record c.pc with
        | .some e => fail e
        | .none => .word w (instrOf w) { s with issuer := .control cl, stalled := false }

/-- Can the next packet of a ready bundle allocate its destination entries (R31, R72)? Far from every limit it can; near one, the
packet is tried. -/
noncomputable def State.allocates (s : State) (x : Nat × Nat × Bundle) : Bool :=
  let w := s.warp x.1
  let grid := (s.group w.group).grid
  let q := s.quota grid 47 10 768
  if s.generals w.die w.core + 4 ≤ 768 && (q == 0 || s.fastEntries grid w.die w.core + 4 ≤ q) then true
  else
    let p := s.begin x.1 x.2.2
    match if p.go then p.st.packet x.1 p.st.pc else .none with
    | .none => true
    | .some (pc, h) =>
      let b := p.st.modWarp x.1 (fun w => { w with pc := Lanes.where_ w.pc p.st.bundle (fun _ => pc) })
      let b := if pc == p.st.pc then b else { b with hints := h }
      match b.fetch (b.ctx (b.warp x.1)) (b.grid grid).record pc with
      | .fails _ => true
      | .word v =>
        match exec (instrOf v) b with
        | .next t => !b.allocStalls t
        | _ => true

/-- A packet in progress goes first (R42); else the agenda says what is next (log 2). -/
noncomputable def State.plan (s : State) : Plan :=
  if s.inPacket then
    match s.issuer with
    | .vector => s.fetchVector
    | .control cl => s.fetchControl cl
  else
    match s.agenda with
    | [] => .idle s.tick
    | .cc :: rest => .idle { s with agenda := rest }.tick
    | .event i :: rest => .event i { s with agenda := rest }
    | .control cl :: rest => { s with agenda := rest }.fetchControl cl
    | .slot core k :: rest =>
      let s := { s with agenda := rest }.landCore core
      let l := (s.ready core k).filter s.allocates
      match s.chosen l with
      | .none => .idle s
      | .some (w, j, b) =>
        let others : List (Nat × Nat × Bundle) := l.filter (fun x => !(x.1 == w && x.2.1 == j))
        let p := { s with rivals := others.map (fun (x : Nat × Nat × Bundle) => (x.1, x.2.2.lanes)) }.begin w b
        if p.go then p.st.fetchVector else .idle p.st

end Sys2Proof.Machine
end

