-- ==== Sys2Proof/Machine/Step.lean ====
section
/-! DEFINITION. One step of the device, and the placing of an instruction where the next step fetches it (log 1). -/

namespace Sys2Proof.Machine

/-- One step: what the plan says, with the meaning of the instruction or event. -/
noncomputable def step (s : State) : Host.Outcome State Fault Refusal :=
  match s.plan with
  | .idle t => .next t
  | .word w i b =>
    match exec i b with
    | .next t => .next (b.finish w i t)
    | .fault f => .fault f
    | .refused r => .refused r
  | .event i b =>
    match exec i b with
    | .next t => .next (b.finishEvent t)
    | .fault f => .fault f
    | .refused r => .refused r

/-- The page tables of the placed program: virtual page 1 maps to physical page 1, readable, writable, in user mode (R341). -/
def placedTables (m : Mem) : Mem :=
  let valid := 2 ^ 63
  let m := m.setNum 0x1000 8 (valid + 0x2000)
  let m := m.setNum 0x2000 8 (valid + 0x3000)
  let m := m.setNum 0x3000 8 (valid + 0x4000)
  let m := m.setNum 0x4000 8 (valid + 0x5000)
  m.setNum 0x5008 8 (valid + 2 ^ 61 + 2 ^ 60 + 2 ^ 59 + 0x10000)

/-- The launch record of the placed program: one group of one warp, 32 v- and 128 s-registers, kernel mode (R318). -/
def placedRecord : LaunchRec :=
  { LaunchRec.empty with
    code := 0x10000#64
    codelen := 65536#32
    ctrlpc := 0xFFFFFFFF#32
    regs := 32
    scalars := 128
    groupw := 1
    gang := 1
    flags := 1#16
    ptroot := 0x1000#64 }

/-- The placed grid, already dispatched. -/
def placedGrid : Grid :=
  { Grid.empty with record := placedRecord, threads := 32, status := .dispatched, groups := 1, next := 1, running := 1 }

/-- The placed warp at the kernel entry (R14, R24). -/
def placedWarp (group : Nat) : Warp :=
  let (sp, cl, stk, fr) := defaultSegs 0#32 0#32 0#32
  let w := { Warp.empty with
    group := group
    place := .running
    fast := true
    real := ~~~0#32
    tid := perLane (fun i => BitVec.ofNat 10 i.val)
    segSp := sp
    segCl := cl
    segStk := stk
    segFr := fr
    kern := true }
  (w.checkpoint).reform 0

/-- The placed group, running on core 0 of die 0. -/
def placedGroup (grid warp : Nat) : Group :=
  { Group.empty with grid := grid, warps := [warp], status := .running }

/-- The state with an instruction stored where the next step fetches it: the code image and its page tables are in memory, and
one warp (for majors 0x3D and 0x3E, a control stream) stands at its first word (log 1). -/
def State.withFetchWord (s : State) (nbits w : Nat) : State :=
  let (k, s) := s.newUnit
  let (g, s) := s.newUnit
  let grid := s.front.nextGrid
  let code := w % 2 ^ nbits % 2 ^ 32
  let s := { s with
    mem := (placedTables s.mem).setNum 0x10000 4 code
    grids := mapPut s.grids grid placedGrid
    front := { s.front with nextGrid := grid + 1 }
    inPacket := false }
  let s := (s.setGroup g (placedGroup grid k)).setWarp k (placedWarp g)
  if code / 2 ^ 26 == 0x3D || code / 2 ^ 26 == 0x3E then
    { s.modCluster 0 (fun c => { c with gang := .some (grid, 0#32), pc := 0#32 }) with agenda := [.control 0] }
  else { s with agenda := [.slot 0 0] }

end Sys2Proof.Machine
end

