-- ==== Sys2Proof/Machine/Uses.lean ====
section
/-! DEFINITION. What each instruction names to the decode checks (R43), in one table: its v fields, s-registers, predicate,
hints, formats, privilege and own ILLEGAL conditions; and the conditions under which a control core refuses one (R57,
R222). -/

namespace Sys2Proof.Machine

/-- The use of rds (R114). -/
def rdsUse (s : State) (r : BitVec 7) (n : BitVec 12) (v : BitVec 1) : Use :=
  let info := specialOf s.me.trap s.me.handler n.toNat
  let x := info.getD {}
  let vec := v == 1#1
  let reg := r.toNat
  { v := if vec then (if x.wide then [reg, reg + 1] else [reg]) else []
    s := if vec then [] else [reg]
    la := x.counter, priv := x.prw
    bad := info.isNone || (vec && (32 ≤ reg || (x.wide && reg % 2 == 1))) || (!vec && x.lane) }

/-- The use of wrs (R64, R114). -/
def wrsUse (s : State) (r : BitVec 7) (n : BitVec 12) (v : BitVec 1) : Use :=
  let info := specialOf s.me.trap s.me.handler n.toNat
  let x := info.getD {}
  let vec := v == 1#1
  let reg := r.toNat
  { v := if vec then (if x.wide then [reg, reg + 1] else [reg]) else []
    s := if vec then [] else [reg]
    priv := x.prw
    bad := info.isNone || (x.ro && !(x.prw && !s.me.kern)) || (vec && (32 ≤ reg || (x.wide && reg % 2 == 1)))
      || (!vec && x.lane) }

/-- The use of a one-source FP64 form (R130). -/
def useF64 (d : BitVec 4) (a : Src) (p : BitVec 2) : Use :=
  { v := pairV d ++ srcV64 a, s := srcS a, pred := p, predicated := true, k := Perm.param a.perm, fmts := srcFmt64 a }

/-- The use of a conversion (R134). -/
def cvtUse (d : BitVec 5) (a : Src) (t f : BitVec 4) (p : BitVec 2) : Use :=
  { v := d.toNat :: (if t == 8#4 then [d.toNat + 1] else []) ++ (if f == 8#4 then srcV64 a else srcV a)
    s := srcS a, pred := p, predicated := true, k := Perm.param a.perm
    fmts := if f == 8#4 then srcFmt64 a else srcFmt a f }

/-- The use of vfround (R138). -/
def roundUse (d : BitVec 5) (a : Src) (f : BitVec 4) (p : BitVec 2) : Use :=
  if f == 8#4 then
    { v := [d.toNat, d.toNat + 1] ++ srcV64 a, s := srcS a, pred := p, predicated := true, k := Perm.param a.perm
      fmts := srcFmt64 a }
  else { use1 d a p with fmts := srcFmt a f }

/-- The use of an atomic of n bytes with nv operand registers from field v (R171). -/
def atomUse (n : Nat) (d sb o : BitVec 5) (v nv : Nat) (r : BitVec 2) : Use :=
  { v := (List.range (n / 4)).map (d.toNat + ·) ++ [o.toNat] ++ (List.range nv).map (v + ·), s := [sb.toNat]
    predicated := true, off := true, cache := true, scope := r != 0#2, la := true }

/-- The use of a bulk instruction with n parameter registers (R215). -/
def bulkUse (n : Nat) (p : BitVec 5) (pr : BitVec 2) : Use :=
  { s := (List.range n).map (p.toNat + ·), pred := pr, predicated := true }

/-- The use of a susp whose operand has use u (R298). -/
def suspUse (s : State) (u : Use) (l : BitVec 5) (n : BitVec 6) : Use :=
  { u with s := l.toNat :: u.s, predicated := true
           bad := u.bad || s.noBin n || 28 < popCount ((s.sreg l.toNat).setWidth 32 : Word) }

/-- What an instruction names to the decode checks on a vector core; none for hint words and events. -/
def State.useOf (s : State) (i : Instr) : Option Use :=
  match i with
  -- Control.
  | .bra _ | .park _ _ | .trap _ | .brk =>
    some { predicated := true }
  | .brcAny _ _ | .brcAll _ _ | .brcNone _ _ | .region | .barGroup | .barCluster =>
    some {}
  | .brz r _ | .brnz r _ | .call r _ | .bix r | .callx r =>
    some { v := [r.toNat], predicated := true }
  | .ret r =>
    some { v := [r.toNat] }
  | .enrol _ p | .strike _ p | .mand _ _ _ p | .mor _ _ _ p | .mxor _ _ _ p | .mnot _ _ p | .yield p =>
    some { pred := p, predicated := true }
  | .mpop d _ p | .mfirst d _ p =>
    some { v := [d.toNat], pred := p, predicated := true }
  | .exit p =>
    some { pred := p, predicated := true, bad := s.me.handler }
  | .waitAddr a b p =>
    some { v := srcV64 a ++ srcV b, s := srcS a ++ srcS b, pred := p, predicated := true
           k := Perm.param a.perm || Perm.param b.perm }
  | .voteAny _ a p | .voteAll _ a p =>
    some (voteUse [] a p)
  | .voteBallot d a p =>
    some (voteUse [d.toNat] a p)
  -- System.
  | .rds r n v =>
    some (rdsUse s r n v)
  | .wrs r n v =>
    some (wrsUse s r n v)
  | .rte =>
    some { bad := !s.me.trap || s.me.handler }
  | .gret | .gretSame | .gkill =>
    some { predicated := true, bad := !s.me.handler }
  | .gretPc n =>
    some { v := [n.toNat], predicated := true, bad := decide (24 ≤ n.toNat) || !s.me.handler }
  | .segset n _ =>
    some { s := [n.toNat, n.toNat + 1], priv := true, bad := n == 0#7 || n == 127#7 }
  | .tlbinvVa n =>
    some { s := [n.toNat, n.toNat + 1], priv := true, bad := n == 0#7 || n == 127#7 }
  | .tlbinvRoot n | .dbgStep n =>
    some { s := [n.toNat], priv := true, bad := n == 0#7 }
  | .tlbinvAll | .preack =>
    some { priv := true }
  -- Integer, and the forms with its operands.
  | .vadd d a b p | .vsub d a b p | .vaddSatS32 d a b p | .vaddSatN32 d a b p | .vmulLo d a b p | .vmulHiS32 d a b p
  | .vmulHiN32 d a b p | .vmad d a b p | .vminS32 d a b p | .vminN32 d a b p | .vmaxS32 d a b p | .vmaxN32 d a b p
  | .vand d a b p | .vor d a b p | .vxor d a b p | .vshl d a b p | .vshr d a b p | .vsra d a b p | .vrot d a b p
  | .vaffine d a b p | .vfmt d a b p | .vbfeS32 d a b p | .vbfeN32 d a b p | .vbfi d a b p | .vsext d a b p
  | .vzext d a b p | .vfunpack d a b p | .vshfl d a b p | .vperm d a b p | .vbcast d a b p | .qbcast d a b p =>
    some (use2 d a b p)
  | .vsel d a b c =>
    some { use2 d a b c with selects := true }
  | .vdivS32 d a b p | .vdivN32 d a b p | .vremS32 d a b p | .vremN32 d a b p =>
    some { use2 d a b p with la := true }
  | .vaddc d a b p =>
    some { useMask2 a b p with v := pairV d ++ srcV a ++ srcV b }
  | .vabsS32 d a p | .vneg d a p | .vnot d a p | .vpopc d a p | .vclz d a p | .vbrev d a p | .vmov d a p
  | .vbcs d a p | .qswapH d a p | .qswapV d a p | .qswapD d a p | .vcompact d a _ p | .vexpand d a _ p
  | .wreduceAdd d a p | .wreduceMinS32 d a p | .wreduceMinN32 d a p | .wreduceMaxS32 d a p | .wreduceMaxN32 d a p
  | .wscan d a _ p =>
    some (use1 d a p)
  | .vadd64 d a b p | .vsub64 d a b p | .vmulLo64 d a b p | .vminS64 d a b p | .vminN64 d a b p | .vmaxS64 d a b p
  | .vmaxN64 d a b p =>
    some (useWide2 (pairV d) a b p)
  | .vshl64 d a b p | .vshr64 d a b p | .vsra64 d a b p | .vlea d a b p =>
    some (useWide1 (pairV d) a b p)
  | .vmovrel d r b p =>
    some { use1 d b p with v := [d.toNat, r.toNat] ++ srcV b }
  | .vreadl d a b p =>
    some { useMask2 a b p with s := d.toNat :: srcS a ++ srcS b }
  | .vcmpEq _ a b p | .vcmpNe _ a b p | .vcmpLtS32 _ a b p | .vcmpLeS32 _ a b p | .vcmpLtN32 _ a b p
  | .vcmpLeN32 _ a b p =>
    some (useMask2 a b p)
  | .vcmpEq64 _ a b p | .vcmpNe64 _ a b p | .vcmpLtS64 _ a b p | .vcmpLeS64 _ a b p | .vcmpLtN64 _ a b p
  | .vcmpLeN64 _ a b p =>
    some (useWide2 [] a b p)
  | .vaddImm d a i =>
    some { use1 d a 0#2 with imm := some (immFits i) }
  | .vmovi d i =>
    some { v := [d.toNat], imm := some (immFits i) }
  | .sadd d a b | .ssub d a b | .smul d a b | .sand d a b | .sor d a b | .sxor d a b | .sshl d a b | .sshr d a b
  | .scmpEq d a b | .scmpLtS64 d a b | .scmpLtN64 d a b =>
    some { s := [d.toNat, a.toNat, b.toNat] }
  | .smov d a =>
    some { s := [d.toNat, a.toNat, (0#7).toNat] }
  | .saddImm d a _ =>
    some { s := [d.toNat, a.toNat], imm := some true }
  | .smovi d _ =>
    some { s := [d.toNat], imm := some true }
  | .vshape d v p =>
    some { v := [d.toNat, v.toNat], pred := p, predicated := true }
  | .vidx d p =>
    some { v := [d.toNat], pred := p, predicated := true }
  | .vfree d =>
    some { v := [d.toNat] }
  -- Floating point, F32.
  | .vfaddF32 d a b p | .vfsubF32 d a b p | .vfmulF32 d a b p | .vfminF32 d a b p | .vfmaxF32 d a b p =>
    some { use2 d a b p with fmts := srcFmt a 1#4 ++ srcFmt b 1#4 }
  | .vfmaF32 d a b p =>
    some { use2 d a b p with fmts := srcFmt a 1#4 ++ srcFmt b 1#4 ++ [(d.toNat, 1#4)] }
  | .vfabsF32 d a p | .vfnegF32 d a p | .vfclassF32 d a p =>
    some { use1 d a p with fmts := srcFmt a 1#4 }
  | .vfcmpEqF32 _ a b p | .vfcmpNeF32 _ a b p | .vfcmpLtF32 _ a b p | .vfcmpLeF32 _ a b p | .vfcmpUnF32 _ a b p =>
    some { useMask2 a b p with fmts := srcFmt a 1#4 ++ srcFmt b 1#4 }
  -- Floating point, F16.
  | .vfaddF16 d a b p | .vfsubF16 d a b p | .vfmulF16 d a b p | .vfminF16 d a b p | .vfmaxF16 d a b p =>
    some { use2 d a b p with fmts := srcFmt a 2#4 ++ srcFmt b 2#4 }
  | .vfmaF16 d a b p =>
    some { use2 d a b p with fmts := srcFmt a 2#4 ++ srcFmt b 2#4 ++ [(d.toNat, 2#4)] }
  | .vfabsF16 d a p | .vfnegF16 d a p | .vfclassF16 d a p =>
    some { use1 d a p with fmts := srcFmt a 2#4 }
  | .vfcmpEqF16 _ a b p | .vfcmpNeF16 _ a b p | .vfcmpLtF16 _ a b p | .vfcmpLeF16 _ a b p | .vfcmpUnF16 _ a b p =>
    some { useMask2 a b p with fmts := srcFmt a 2#4 ++ srcFmt b 2#4 }
  | .vfdot2F16 d a b p =>
    some { use2 d a b p with fmts := srcFmt a 2#4 ++ srcFmt b 2#4 ++ [(d.toNat, 1#4)] }
  -- Floating point, Bf16.
  | .vfaddBf16 d a b p | .vfsubBf16 d a b p | .vfmulBf16 d a b p | .vfminBf16 d a b p | .vfmaxBf16 d a b p =>
    some { use2 d a b p with fmts := srcFmt a 3#4 ++ srcFmt b 3#4 }
  | .vfmaBf16 d a b p =>
    some { use2 d a b p with fmts := srcFmt a 3#4 ++ srcFmt b 3#4 ++ [(d.toNat, 3#4)] }
  | .vfabsBf16 d a p | .vfnegBf16 d a p | .vfclassBf16 d a p =>
    some { use1 d a p with fmts := srcFmt a 3#4 }
  | .vfcmpEqBf16 _ a b p | .vfcmpNeBf16 _ a b p | .vfcmpLtBf16 _ a b p | .vfcmpLeBf16 _ a b p | .vfcmpUnBf16 _ a b p =>
    some { useMask2 a b p with fmts := srcFmt a 3#4 ++ srcFmt b 3#4 }
  | .vfdot2Bf16 d a b p =>
    some { use2 d a b p with fmts := srcFmt a 3#4 ++ srcFmt b 3#4 ++ [(d.toNat, 1#4)] }
  -- Floating point, F64.
  | .vfaddF64 d a b p | .vfsubF64 d a b p | .vfmulF64 d a b p | .vfminF64 d a b p | .vfmaxF64 d a b p =>
    some { useWide2 (pairV d) a b p with fmts := srcFmt64 a ++ srcFmt64 b }
  | .vfmaF64 d a b p =>
    some { useWide2 (pairV d) a b p with
      fmts := srcFmt64 a ++ srcFmt64 b ++ [(2 * d.toNat, 8#4), (2 * d.toNat + 1, 9#4)] }
  | .vfabsF64 d a p | .vfnegF64 d a p =>
    some { useF64 d a p with la := false }
  | .vfrcpF64 d a p | .vfrsqF64 d a p | .vfsqrtF64 d a p =>
    some { useF64 d a p with la := true }
  | .vfcmpEqF64 _ a b p | .vfcmpNeF64 _ a b p | .vfcmpLtF64 _ a b p | .vfcmpLeF64 _ a b p | .vfcmpUnF64 _ a b p =>
    some { useWide2 [] a b p with fmts := srcFmt64 a ++ srcFmt64 b }
  | .vfclassF64 d a p =>
    some { v := d.toNat :: srcV64 a, s := srcS a, pred := p, predicated := true, k := Perm.param a.perm
           fmts := srcFmt64 a }
  -- Conversions and transcendentals.
  | .vfcvt d a t f p | .vfcvtRz d a t f p =>
    some (cvtUse d a t f p)
  | .vfpack d a b p | .vfpackRz d a b p =>
    some { use2 d a b p with fmts := srcFmt a 1#4 ++ srcFmt b 1#4 }
  | .vfscale d a b p =>
    some { use2 d a b p with fmts := srcFmt a 1#4 }
  | .vfround d a f p =>
    some (roundUse d a f p)
  | .vftoiS32 d a _ p | .vftoiN32 d a _ p | .wreduceAddF32 d a p | .wreduceMinF32 d a p | .wreduceMaxF32 d a p
  | .wscanF32 d a _ p =>
    some { use1 d a p with fmts := srcFmt a 1#4 }
  | .vitofS32 d a p | .vitofN32 d a p =>
    some { use1 d a p with fmts := srcFmt a 10#4 }
  | .vfrcpF32 d a p | .vfrsqF32 d a p | .vfsqrtF32 d a p | .vfexp2F32 d a p | .vflog2F32 d a p | .vftanhF32 d a p =>
    some { use1 d a p with fmts := srcFmt a 1#4, la := true }
  | .vfexp2F16 d a p | .vflog2F16 d a p | .vftanhF16 d a p =>
    some { use1 d a p with fmts := srcFmt a 2#4, la := true }
  -- Lanes.
  | .qreduce d a o p =>
    some { use1 d a p with fmts := if 3 ≤ o.toNat && o.toNat ≤ 5 then srcFmt a 1#4 else [] }
  | .reorder k l =>
    some { v := [k.toNat], s := [l.toNat] }
  -- Memory.
  | .ld d sb o _ p w v =>
    some { v := widthV d w ++ offV o (v.getLsbD 1), s := [sb.toNat], pred := p, predicated := true, off := true
           cache := true, scope := false, format := formatFits w }
  | .ldAcq d sb o _ p w v =>
    some { v := widthV d w ++ offV o (v.getLsbD 1), s := [sb.toNat], pred := p, predicated := true, off := true
           cache := true, scope := true, format := formatFits w }
  | .ldRo d sb o _ p w _ | .ldStream d sb o _ p w _ | .ldSp d sb o _ p w _ =>
    some { v := widthV d w ++ offV o false, s := [sb.toNat], pred := p, predicated := true, off := true
           cache := true, scope := false, format := formatFits w }
  | .sld d sb _ p w =>
    some { s := [sb.toNat, d.toNat], pred := p, predicated := true, off := true, cache := true
           format := formatFits w }
  | .st d sb o p w v =>
    some { v := widthV d w ++ offV o (v.getLsbD 0), s := [sb.toNat], pred := p, predicated := true, off := true
           cache := true, scope := false }
  | .stRel d sb o p w v =>
    some { v := widthV d w ++ offV o (v.getLsbD 0), s := [sb.toNat], pred := p, predicated := true, off := true
           cache := true, scope := true }
  | .stSp d sb o p w =>
    some { v := widthV d w ++ offV o false, s := [sb.toNat], pred := p, predicated := true, off := true
           cache := true, scope := false }
  | .sst d sb p _ =>
    some { s := [sb.toNat, d.toNat], pred := p, predicated := true, off := true, cache := true }
  | .atomAdd32 d sb o v r | .atomMinS32 d sb o v r | .atomMinN32 d sb o v r | .atomMaxS32 d sb o v r
  | .atomMaxN32 d sb o v r | .atomAnd d sb o v r | .atomOr d sb o v r | .atomXor d sb o v r | .atomXchg32 d sb o v r
  | .atomFaddF32 d sb o v r =>
    some (atomUse 4 d sb o v.toNat 1 r)
  | .atomAdd64 d sb o v r | .atomXchg64 d sb o v r | .atomFaddF64 d sb o v r =>
    some (atomUse 8 d sb o v.toNat 2 r)
  | .atomCas32 d sb o v r =>
    some (atomUse 4 d sb o (2 * v.toNat) 2 r)
  | .atomCas64 d sb o v r =>
    some (atomUse 8 d sb o (4 * v.toNat) 4 r)
  | .fence p sc | .fencePath p sc =>
    some { pred := p, predicated := true, cache := true, scope := true
           bad := (s.cacheHint.1 != 0#3 && s.cacheHint.1 != sc) }
  | .cctl sb o p c =>
    some { v := [o.toNat], s := [sb.toNat], pred := p, predicated := true, off := true, cache := true
           priv := c == 2#2 }
  | .prefetch sb o p _ =>
    some { v := [o.toNat], s := [sb.toNat], pred := p, predicated := true, off := true, cache := true }
  -- Copies and barrier objects.
  | .cpAsync d sb o v _ =>
    some { v := [d.toNat, o.toNat, v.toNat], s := [sb.toNat], predicated := true, off := true, cache := true }
  | .tagWaitAny a p | .tagWaitAll a p | .tagPoll _ a p | .tagClear a p =>
    some (tagUse [] a p)
  | .tagFirst d a p =>
    some (tagUse [d.toNat] a p)
  | .bulkCopy n p =>
    some (bulkUse 4 n p)
  | .bulkGather n p =>
    some (bulkUse 6 n p)
  | .collReduce n p =>
    some (bulkUse 5 n p)
  | .collGather n p =>
    some (bulkUse 5 n p)
  | .barInit a b p | .barWait a b p | .barTest _ a b p =>
    some (barUse [] a (some b) p)
  | .barExpect d a b p =>
    some (barUse [d.toNat] a (some b) p)
  | .barArrive d a p =>
    some (barUse [d.toNat] a none p)
  -- Coroutines.
  | .binit d a n | .wake d a n =>
    some { v := d.toNat :: srcV a, s := srcS a, k := Perm.param a.perm, bad := s.noBin n }
  | .susp l n =>
    some (suspUse s {} l n)
  | .suspTag l a n =>
    some (suspUse s { v := srcV a, s := srcS a, k := Perm.param a.perm } l n)
  | .suspAddr l a n | .suspBar l a n =>
    some (suspUse s (xUse a 3 2) l n)
  | .wakePred _ a _ n | .fxform _ a _ n =>
    some { v := srcV a, s := srcS a, k := Perm.param a.perm, bad := s.noBin n }
  | .wakeAddr d a _ n =>
    some { xUse a 2 1 with v := d.toNat :: (xUse a 2 1).v, predicated := true, bad := (xUse a 2 1).bad || s.noBin n }
  | .fld d a n | .fst d a n =>
    some { v := d.toNat :: srcV a, s := srcS a, k := Perm.param a.perm, predicated := true, bad := s.noBin n }
  | .fcount d n =>
    some { v := [d.toNat], bad := s.noBin n }
  | .resume n =>
    some { bad := s.noBin n }
  -- Services.
  | .svc d c b p =>
    some { v := d.toNat :: srcV b, s := c.toNat :: srcS b, pred := p, predicated := true, k := Perm.param b.perm
           la := true, bad := c == 0#5 }
  | .srecv d n p =>
    some { v := [2 * d.toNat, 2 * d.toNat + 1], s := [n.toNat, n.toNat + 1, n.toNat + 2], pred := p
           predicated := true, bad := n.toNat == 0 || 29 < n.toNat || !s.inServer }
  | .srep _ n b =>
    some { v := srcV b, s := n.toNat :: srcS b, k := Perm.param b.perm }
  | .qpost q i p =>
    some { s := [q.toNat, i.toNat], pred := p, predicated := true, bad := q == 0#5 || i == 0#5 }
  | .launch d n p =>
    some { v := [d.toNat], s := [n.toNat, n.toNat + 1, n.toNat + 2, n.toNat + 3], pred := p, predicated := true
           bad := n.toNat == 0 || 28 < n.toNat }
  | .verdict a =>
    some { v := srcV a, s := srcS a, k := Perm.param a.perm, fmts := srcFmt a 1#4
           bad := s.myGroup.tile != Tile.open || s.me.handler }
  | .mreq d n p =>
    some { v := [d.toNat], s := [n.toNat, n.toNat + 1, n.toNat + 2], pred := p, predicated := true
           bad := n.toNat == 0 || 29 < n.toNat || s.myGrid.record.ctrlpc == 0xFFFFFFFF#32 || nbits (s.sreg (n.toNat + 2)).toNat 2 62 != 0 }
  -- The control core's own instructions are ILLEGAL here (R57), and so is a word that is no instruction.
  | .kadd _ _ _ _ | .ksub _ _ _ _ | .kmul _ _ _ _ | .kand _ _ _ _ | .kor _ _ _ _ | .kxor _ _ _ _ | .kshl _ _ _ _
  | .kshr _ _ _ _ | .kmov _ _ | .kld _ _ _ _ | .kst _ _ _ _ | .kwait _ _ | .dmov _ _ | .mdone _ | .kmovi _ _
  | .kbra _ _ | .kcmp _ _ _ _ | .dset _ _ _ | .mtake _ | .mtakeNw _ | .mma _ _ _ _ | .mmaSp _ _ _ _ | .mmaGx _ _ _ _
  | .mmaF64 _ _ _ _ | .accZero _ | .accLoad _ _ | .accStore _ _ _ => some { bad := true }
  | .unassignedEncoding w => if isHint w then none else some { bad := true }
  -- Hint words, and events of the device.
  | .nop | .hintK _ _ | .hintImm _ | .hintLu _ | .hintPred _ _ | .hintOff _ | .hintCache _ _ _ | .hintSched _ _
  | .bundleReformationTimer _ | .bundlePassedOver _ _ | .spinGovernorDemotion _ | .governorTimeoutWake _
  | .registerFileMove _ | .groupEviction _ | .longLatencyResult _ | .waitAddrReread _ | .groupRetirement _
  | .gangStart _ | .localTrapEntry _ | .systemDelivery _ | .ringmasterFile _ | .handlerWarpFormation _ _
  | .gatherWindowExpiry _ _ | .rowReattach _ | .whitAddrWrite _ _ | .regionCheckpoint _ | .lateStoreCheck _
  | .operandLogReplay _ | .preemptionRequest _ _ _ | .preemptionComplete _ | .cooperativeGraceExpiry _
  | .warpRestore _ _ | .cpAsyncRequestComplete _ _ | .bulkChunkLand _ _ | .collectiveStep _ _ _ | .barWaitReread _
  | .matrixPassStart _ _ | .indexGather _ _ | .matrixPassEnd _ _ | .accOperationComplete _ _
  | .carouselWindowExpiry _ _ _ | .carouselResume _ _ _ | .qbindWrite _ _ | .sysrootWrite _ | .packetNop _
  | .packetLaunch _ | .packetWait _ | .waitPacketSatisfied _ | .packetGraph _ | .packetWrite _ | .hartRereadTimer _
  | .doorbellRereadTimer _ | .dispatch _ _ | .groupAdmission _ _ | .homeWaitExpiry _ | .gangReserveExpiry _
  | .gridCompletion _ | .worldRetirement _ | .exactGroupDispatch _ | .pageWalk _ _ _ _ | .faultRecord _
  | .faultReply _ _ | .serviceRecordFile _ | .ringWriteRetry _ | .replyDelivery _ | .svccfgWrite _ _ _
  | .ioLoadCompletion _ _ | .ioCompletionTimeout _ | .inboundRead _ _ _ _ | .inboundWrite _ _ _ _ _
  | .inboundHoldTimeout _ | .inboundContextWrite _ _ _ _ _ | .errstatWrite _ _ | .eccError _ _ _ _ | .flitIdle _ _
  | .flitData _ _ | .flitKeyMarker _ _ | .flitRetryRequest _ _ _ | .keyAgreement _ | .keyRotationThreshold _
  | .keyStallThreshold _ | .keyStallTimeout _ | .portDown _ _ | .portUp _ _ | .linkRequestTimeout _ | .holdResponse _
  | .ulstatWrite _ _ | .powerOn | .coldStart _ | .warmStart _ | .startTimeout | .startrecWrite _ | .getVersion
  | .getCapabilities | .negotiateAlgorithms _ | .getDigests | .getCertificate | .challenge _ | .getMeasurements _
  | .spdmUnsupportedRequest _ | .resetReq _ | .resetGraceExpiry | .rootevtWrite _ | .migrationStart _ _ _
  | .migrationSealedState _ _ _ _ _ | .migrationReceipt _ _ | .migrationConfirmation _ | .migrationAbort _
  | .migrationArmTimeout _ | .migrationReceiptTimeout _ | .powerAverageWindow _ _ | .thermalTrip _ | .pwrstatWrite _
  | .registerWrite _ _ | .packetReservedType _ | .flitTagFailure _ _ | .rootPortLinkTraining _ _ => none

/-- Whether a control-core instruction takes hint.imm, and whether a field of it is out of its limits (R222, R226 to R254),
with the hints h of its packet; none for instructions of the vector core. -/
def controlUse (h : Hints) (i : Instr) : Option (Bool × Bool) :=
  match i with
  | .kadd _ _ _ _ | .ksub _ _ _ _ | .kmul _ _ _ _ | .kand _ _ _ _ | .kor _ _ _ _ | .kxor _ _ _ _ | .kshl _ _ _ _
  | .kshr _ _ _ _ | .kmov _ _ | .kld _ _ _ _ | .kst _ _ _ _ | .kwait _ _ | .dmov _ _ | .mdone _ => some (false, false)
  | .kmovi _ i | .kbra _ i => some (true, h.imm.isSome && !immFits i)
  | .kcmp _ _ _ c => some (false, decide (5 < c.toNat))
  | .dset _ _ f => some (false, decide (8 < f.toNat))
  | .mtake d | .mtakeNw d => some (false, d == 0#4)
  | .mma n _ _ _ => some (false, decide (12 ≤ n.toNat))
  | .mmaSp n a _ _ | .mmaGx n a _ _ => some (false, a == 31#5 || decide (12 ≤ n.toNat))
  | .mmaF64 n _ _ _ => some (false, decide (12 ≤ 2 * n.toNat))
  | .accZero n | .accLoad n _ | .accStore n _ _ => some (false, decide (12 ≤ n.toNat))
  | .bra _ | .brcAny _ _ | .brcAll _ _ | .brcNone _ _ | .brz _ _ | .brnz _ _ | .park _ _ | .call _ _ | .ret _
  | .bix _ | .callx _ | .enrol _ _ | .strike _ _ | .mand _ _ _ _ | .mor _ _ _ _ | .mxor _ _ _ _ | .mnot _ _ _
  | .mpop _ _ _ | .mfirst _ _ _ | .exit _ | .yield _ | .region | .waitAddr _ _ _ | .voteAny _ _ _ | .voteAll _ _ _
  | .voteBallot _ _ _ | .nop | .hintK _ _ | .hintImm _ | .hintLu _ | .hintPred _ _ | .hintOff _ | .hintCache _ _ _
  | .hintSched _ _ | .rds _ _ _ | .wrs _ _ _ | .trap _ | .rte | .gret | .gretSame | .gretPc _ | .gkill | .segset _ _
  | .tlbinvVa _ | .tlbinvRoot _ | .tlbinvAll | .brk | .dbgStep _ | .preack | .vadd _ _ _ _ | .vsub _ _ _ _
  | .vaddSatS32 _ _ _ _ | .vaddSatN32 _ _ _ _ | .vaddc _ _ _ _ | .vmulLo _ _ _ _ | .vmulHiS32 _ _ _ _
  | .vmulHiN32 _ _ _ _ | .vmad _ _ _ _ | .vdivS32 _ _ _ _ | .vdivN32 _ _ _ _ | .vremS32 _ _ _ _ | .vremN32 _ _ _ _
  | .vminS32 _ _ _ _ | .vminN32 _ _ _ _ | .vmaxS32 _ _ _ _ | .vmaxN32 _ _ _ _ | .vabsS32 _ _ _ | .vneg _ _ _
  | .vand _ _ _ _ | .vor _ _ _ _ | .vxor _ _ _ _ | .vnot _ _ _ | .vsel _ _ _ _ | .vshl _ _ _ _ | .vshr _ _ _ _
  | .vsra _ _ _ _ | .vrot _ _ _ _ | .vpopc _ _ _ | .vclz _ _ _ | .vbrev _ _ _ | .vmov _ _ _ | .vadd64 _ _ _ _
  | .vsub64 _ _ _ _ | .vmulLo64 _ _ _ _ | .vminS64 _ _ _ _ | .vminN64 _ _ _ _ | .vmaxS64 _ _ _ _ | .vmaxN64 _ _ _ _
  | .vshl64 _ _ _ _ | .vshr64 _ _ _ _ | .vsra64 _ _ _ _ | .vlea _ _ _ _ | .vmovrel _ _ _ _ | .vreadl _ _ _ _
  | .vbcs _ _ _ | .vcmpEq _ _ _ _ | .vcmpNe _ _ _ _ | .vcmpLtS32 _ _ _ _ | .vcmpLeS32 _ _ _ _ | .vcmpLtN32 _ _ _ _
  | .vcmpLeN32 _ _ _ _ | .vcmpEq64 _ _ _ _ | .vcmpNe64 _ _ _ _ | .vcmpLtS64 _ _ _ _ | .vcmpLeS64 _ _ _ _
  | .vcmpLtN64 _ _ _ _ | .vcmpLeN64 _ _ _ _ | .vaddImm _ _ _ | .vmovi _ _ | .sadd _ _ _ | .ssub _ _ _ | .smul _ _ _
  | .sand _ _ _ | .sor _ _ _ | .sxor _ _ _ | .sshl _ _ _ | .sshr _ _ _ | .scmpEq _ _ _ | .scmpLtS64 _ _ _
  | .scmpLtN64 _ _ _ | .smov _ _ | .saddImm _ _ _ | .smovi _ _ | .vshape _ _ _ | .vfmt _ _ _ _ | .vaffine _ _ _ _
  | .vidx _ _ | .vfree _ | .vbfeS32 _ _ _ _ | .vbfeN32 _ _ _ _ | .vbfi _ _ _ _ | .vsext _ _ _ _ | .vzext _ _ _ _
  | .vfaddF32 _ _ _ _ | .vfsubF32 _ _ _ _ | .vfmulF32 _ _ _ _ | .vfmaF32 _ _ _ _ | .vfminF32 _ _ _ _
  | .vfmaxF32 _ _ _ _ | .vfabsF32 _ _ _ | .vfnegF32 _ _ _ | .vfcmpEqF32 _ _ _ _ | .vfcmpNeF32 _ _ _ _
  | .vfcmpLtF32 _ _ _ _ | .vfcmpLeF32 _ _ _ _ | .vfcmpUnF32 _ _ _ _ | .vfclassF32 _ _ _ | .vfaddF16 _ _ _ _
  | .vfsubF16 _ _ _ _ | .vfmulF16 _ _ _ _ | .vfmaF16 _ _ _ _ | .vfminF16 _ _ _ _ | .vfmaxF16 _ _ _ _
  | .vfabsF16 _ _ _ | .vfnegF16 _ _ _ | .vfcmpEqF16 _ _ _ _ | .vfcmpNeF16 _ _ _ _ | .vfcmpLtF16 _ _ _ _
  | .vfcmpLeF16 _ _ _ _ | .vfcmpUnF16 _ _ _ _ | .vfclassF16 _ _ _ | .vfdot2F16 _ _ _ _ | .vfaddBf16 _ _ _ _
  | .vfsubBf16 _ _ _ _ | .vfmulBf16 _ _ _ _ | .vfmaBf16 _ _ _ _ | .vfminBf16 _ _ _ _ | .vfmaxBf16 _ _ _ _
  | .vfabsBf16 _ _ _ | .vfnegBf16 _ _ _ | .vfcmpEqBf16 _ _ _ _ | .vfcmpNeBf16 _ _ _ _ | .vfcmpLtBf16 _ _ _ _
  | .vfcmpLeBf16 _ _ _ _ | .vfcmpUnBf16 _ _ _ _ | .vfclassBf16 _ _ _ | .vfdot2Bf16 _ _ _ _ | .vfaddF64 _ _ _ _
  | .vfsubF64 _ _ _ _ | .vfmulF64 _ _ _ _ | .vfmaF64 _ _ _ _ | .vfminF64 _ _ _ _ | .vfmaxF64 _ _ _ _
  | .vfabsF64 _ _ _ | .vfnegF64 _ _ _ | .vfcmpEqF64 _ _ _ _ | .vfcmpNeF64 _ _ _ _ | .vfcmpLtF64 _ _ _ _
  | .vfcmpLeF64 _ _ _ _ | .vfcmpUnF64 _ _ _ _ | .vfclassF64 _ _ _ | .vfcvt _ _ _ _ _ | .vfcvtRz _ _ _ _ _
  | .vfpack _ _ _ _ | .vfpackRz _ _ _ _ | .vfunpack _ _ _ _ | .vfscale _ _ _ _ | .vfround _ _ _ _ | .vftoiS32 _ _ _ _
  | .vftoiN32 _ _ _ _ | .vitofS32 _ _ _ | .vitofN32 _ _ _ | .vfrcpF32 _ _ _ | .vfrsqF32 _ _ _ | .vfsqrtF32 _ _ _
  | .vfexp2F32 _ _ _ | .vflog2F32 _ _ _ | .vftanhF32 _ _ _ | .vfrcpF64 _ _ _ | .vfrsqF64 _ _ _ | .vfsqrtF64 _ _ _
  | .vfexp2F16 _ _ _ | .vflog2F16 _ _ _ | .vftanhF16 _ _ _ | .vshfl _ _ _ _ | .vperm _ _ _ _ | .vbcast _ _ _ _
  | .qswapH _ _ _ | .qswapV _ _ _ | .qswapD _ _ _ | .qbcast _ _ _ _ | .qreduce _ _ _ _ | .wreduceAdd _ _ _
  | .wreduceMinS32 _ _ _ | .wreduceMinN32 _ _ _ | .wreduceMaxS32 _ _ _ | .wreduceMaxN32 _ _ _ | .wscan _ _ _ _
  | .vcompact _ _ _ _ | .vexpand _ _ _ _ | .reorder _ _ | .wreduceAddF32 _ _ _ | .wreduceMinF32 _ _ _
  | .wreduceMaxF32 _ _ _ | .wscanF32 _ _ _ _ | .ld _ _ _ _ _ _ _ | .ldAcq _ _ _ _ _ _ _ | .ldRo _ _ _ _ _ _ _
  | .ldStream _ _ _ _ _ _ _ | .ldSp _ _ _ _ _ _ _ | .sld _ _ _ _ _ | .st _ _ _ _ _ _ | .stRel _ _ _ _ _ _
  | .stSp _ _ _ _ _ | .sst _ _ _ _ | .atomAdd32 _ _ _ _ _ | .atomAdd64 _ _ _ _ _ | .atomMinS32 _ _ _ _ _
  | .atomMinN32 _ _ _ _ _ | .atomMaxS32 _ _ _ _ _ | .atomMaxN32 _ _ _ _ _ | .atomAnd _ _ _ _ _ | .atomOr _ _ _ _ _
  | .atomXor _ _ _ _ _ | .atomXchg32 _ _ _ _ _ | .atomXchg64 _ _ _ _ _ | .atomCas32 _ _ _ _ _ | .atomCas64 _ _ _ _ _
  | .atomFaddF32 _ _ _ _ _ | .atomFaddF64 _ _ _ _ _ | .fence _ _ | .fencePath _ _ | .cctl _ _ _ _ | .prefetch _ _ _ _
  | .cpAsync _ _ _ _ _ | .tagWaitAny _ _ | .tagWaitAll _ _ | .tagFirst _ _ _ | .tagPoll _ _ _ | .tagClear _ _
  | .bulkCopy _ _ | .bulkGather _ _ | .collReduce _ _ | .barInit _ _ _ | .barExpect _ _ _ _ | .barArrive _ _ _
  | .barWait _ _ _ | .barTest _ _ _ _ | .barGroup | .barCluster | .collGather _ _ | .binit _ _ _ | .susp _ _
  | .suspTag _ _ _ | .suspAddr _ _ _ | .suspBar _ _ _ | .wake _ _ _ | .wakePred _ _ _ _ | .wakeAddr _ _ _ _
  | .fld _ _ _ | .fst _ _ _ | .fxform _ _ _ _ | .fcount _ _ | .resume _ | .svc _ _ _ _ | .srecv _ _ _ | .srep _ _ _
  | .qpost _ _ _ | .launch _ _ _ | .verdict _ | .mreq _ _ _ | .bundleReformationTimer _ | .bundlePassedOver _ _
  | .spinGovernorDemotion _ | .governorTimeoutWake _ | .registerFileMove _ | .groupEviction _ | .longLatencyResult _
  | .waitAddrReread _ | .groupRetirement _ | .gangStart _ | .localTrapEntry _ | .systemDelivery _ | .ringmasterFile _
  | .handlerWarpFormation _ _ | .gatherWindowExpiry _ _ | .rowReattach _ | .whitAddrWrite _ _ | .regionCheckpoint _
  | .lateStoreCheck _ | .operandLogReplay _ | .preemptionRequest _ _ _ | .preemptionComplete _
  | .cooperativeGraceExpiry _ | .warpRestore _ _ | .cpAsyncRequestComplete _ _ | .bulkChunkLand _ _
  | .collectiveStep _ _ _ | .barWaitReread _ | .matrixPassStart _ _ | .indexGather _ _ | .matrixPassEnd _ _
  | .accOperationComplete _ _ | .carouselWindowExpiry _ _ _ | .carouselResume _ _ _ | .qbindWrite _ _
  | .sysrootWrite _ | .packetNop _ | .packetLaunch _ | .packetWait _ | .waitPacketSatisfied _ | .packetGraph _
  | .packetWrite _ | .hartRereadTimer _ | .doorbellRereadTimer _ | .dispatch _ _ | .groupAdmission _ _
  | .homeWaitExpiry _ | .gangReserveExpiry _ | .gridCompletion _ | .worldRetirement _ | .exactGroupDispatch _
  | .pageWalk _ _ _ _ | .faultRecord _ | .faultReply _ _ | .serviceRecordFile _ | .ringWriteRetry _
  | .replyDelivery _ | .svccfgWrite _ _ _ | .ioLoadCompletion _ _ | .ioCompletionTimeout _ | .inboundRead _ _ _ _
  | .inboundWrite _ _ _ _ _ | .inboundHoldTimeout _ | .inboundContextWrite _ _ _ _ _ | .errstatWrite _ _
  | .eccError _ _ _ _ | .flitIdle _ _ | .flitData _ _ | .flitKeyMarker _ _ | .flitRetryRequest _ _ _
  | .keyAgreement _ | .keyRotationThreshold _ | .keyStallThreshold _ | .keyStallTimeout _ | .portDown _ _
  | .portUp _ _ | .linkRequestTimeout _ | .holdResponse _ | .ulstatWrite _ _ | .powerOn | .coldStart _ | .warmStart _
  | .startTimeout | .startrecWrite _ | .getVersion | .getCapabilities | .negotiateAlgorithms _ | .getDigests
  | .getCertificate | .challenge _ | .getMeasurements _ | .spdmUnsupportedRequest _ | .resetReq _ | .resetGraceExpiry
  | .rootevtWrite _ | .migrationStart _ _ _ | .migrationSealedState _ _ _ _ _ | .migrationReceipt _ _
  | .migrationConfirmation _ | .migrationAbort _ | .migrationArmTimeout _ | .migrationReceiptTimeout _
  | .powerAverageWindow _ _ | .thermalTrip _ | .pwrstatWrite _ | .registerWrite _ _ | .unassignedEncoding _
  | .packetReservedType _ | .flitTagFailure _ _ | .rootPortLinkTraining _ _ => none

end Sys2Proof.Machine
end

