-- ==== Sys2Proof/Safety.lean ====
section
/-! DEFINITION. The terms that the statements are made in: when an instruction passes its checks, what a step leaves alone,
what the registers that it writes hold afterwards, and the tables of instructions of one shape with their results. -/

namespace Sys2Proof.Machine

/-! ### Instructions of a vector core -/

/-- Instruction i issues on a vector core and passes the decode checks 3 to 6 of R43. -/
def State.runs (s : State) (i : Instr) : Prop :=
  s.issuer = .vector ∧ ∃ u, s.useOf i = some u ∧ s.decodeCheck u = none

/-- The active lanes of instruction i (R63). -/
def State.on (s : State) (i : Instr) : Mask :=
  match s.useOf i with
  | some u => s.active u
  | none => 0#32

/-- The program counters of the issuing warp once the lanes m have stepped past one word. -/
def State.stepped (s : State) (m : Mask) : Lanes Word := Lanes.where_ s.me.pc m (fun i => Lanes.at s.me.pc i + 4#32)

/-- A warp besides its v-registers, with what its region keeps of those, masks, $fcsr, program counters and the results it is owed. -/
def Warp.besides (w : Warp) : Warp :=
  { w with v := zeroV, h := zeroH, m := Vector.replicate 16 0#32, fcsr := 0#32, pc := allLanesOf 0#32, pend := []
           spoiled := [], ckpt := { w.ckpt with moved := [] } }

/-- The device besides its warps and groups, and what the step at hand notes of its own instruction. -/
def State.besides (s : State) : State :=
  { s with warps := [], groups := [], acted := 0#32, renamed := [], taken := 0#32, unit := 0, undone := 0#32, counted := false
           base := 0 }

/-- The results still pending, without the registers that they are to land in. -/
def Warp.pendings (w : Warp) : List Pend := w.pend.map (fun p => { p with dests := [] })
/-- The same, without the s-registers. -/
def Warp.scalarPendings (w : Warp) : List Pend := w.pend.map (fun p => { p with sdest := none })

/-- From s to t nothing changes outside the issuing warp but the groups, which are g; and in the warp nothing but its
v-registers, masks, $fcsr, program counters and pending results. -/
structure quiet (s t : State) (g : Map Group) : Prop where
  device : t.besides = s.besides
  groups : t.groups = g
  warps : t.warps = mapPut s.warps s.cur t.me
  warp : t.me.besides = s.me.besides

/-- No branch was taken and no unit number was used. -/
def noBranch (s t : State) : Prop := t.taken = s.taken ∧ t.unit = s.unit

/-- From s to t nothing changes but the registers numbered in l and $fcsr of the issuing warp, and the program counters of
the lanes m, which have stepped past one word: no other register, mask or special register of the warp, no s-register, no
memory, and no other unit. A register written is no longer owed a pending result. -/
structure frameOn (m : Mask) (s t : State) (l : List Nat) : Prop where
  quiet : quiet s t s.groups
  straight : noBranch s t
  masks : t.me.m = s.me.m
  pc : t.me.pc = s.stepped m
  pending : t.me.pendings = s.me.pendings
  others : ∀ j, j ∉ l → t.me.reg j = s.me.reg j

/-- The same of an instruction that the whole bundle completes, and that leaves $fcsr as it is. -/
def regFrame (s t : State) (l : List Nat) : Prop := frameOn s.bundle s t l ∧ t.me.fcsr = s.me.fcsr

/-- From s to t no register changes, and nothing else but that one result of the lanes m is owed to the registers numbered
in l, with the values of vals for each in turn: it lands behind the window of la instructions (R51). -/
structure owes (s t : State) (l : List (Nat × BitVec 4)) (m : Mask) (la : Nat) (vals : List (Lane → Word)) : Prop where
  quiet : quiet s t s.groups
  straight : t.taken = s.taken
  masks : t.me.m = s.me.m
  regs : t.me.v = s.me.v ∧ t.me.h = s.me.h ∧ t.me.spoiled = s.me.spoiled
  pc : t.me.pc = s.stepped s.bundle
  owed : ∃ p, t.me.pend = s.me.pend ++ [p] ∧ p.dests = l.map (fun d => (d.1, d.2, m)) ∧ p.vals = vals.map perLane ∧
    p.la = la ∧ p.lanes = m ∧ p.got = m ∧ ∀ i, Lanes.at p.left i = la

/-- From s to t register n of the issuing warp takes f in the lanes m, with the format fmt, and keeps its other live
lanes (R21, R63). -/
structure regTakes (s t : State) (n : Nat) (m : Mask) (f : Lane → Word) (fmt : BitVec 4) : Prop where
  inside : ∀ i, Mask.has m i = true → (t.me.reg n).entry.at i = f i
  outside : ∀ i, Mask.has s.me.live i = true → Mask.has m i = false → (t.me.reg n).entry.at i = (s.me.reg n).entry.at i
  format : m ≠ 0#32 → (t.me.reg n).fmt = fmt

/-- The pair that v fields f and f + 1 name takes 64-bit values, low half first (R22). -/
def pairTakes (s t : State) (f : Nat) (m : Mask) (x : Lane → DWord) (lo hi : BitVec 4) : Prop :=
  regTakes s t (s.me.regNo f) m (fun i => (x i).setWidth 32) lo ∧
  regTakes s t (s.me.regNo (f + 1)) m (fun i => (x i >>> 32).setWidth 32) hi

/-- The registers that v fields f and f + 1 name. -/
def State.pairNo (s : State) (f : Nat) : List Nat := [s.me.regNo f, s.me.regNo (f + 1)]

/-- From s to t the v-registers and the pending results are the same. -/
def sameRegs (s t : State) : Prop :=
  t.me.v = s.me.v ∧ t.me.h = s.me.h ∧ t.me.spoiled = s.me.spoiled ∧ t.me.pend = s.me.pend

/-- From s to t nothing changes but mask register d and $fcsr of the issuing warp and the program counters of the issuing
bundle; the lanes m of mask d take f, and a write to m0 is ignored (R18, R104). -/
structure maskTakes (s t : State) (d : Nat) (m : Mask) (f : Lane → Bool) : Prop where
  quiet : quiet s t s.groups
  straight : noBranch s t
  regs : sameRegs s t
  pc : t.me.pc = s.stepped s.bundle
  others : ∀ j, j ≠ d → t.me.mask j = s.me.mask j
  zero : t.me.mask 0 = ~~~0#32
  takes : 0 < d → d < 16 → ∀ i, Mask.has (t.me.mask d) i = if Mask.has m i then f i else Mask.has (s.me.mask d) i

/-- From s to t nothing changes but s-register n of the issuing group, and the program counters of the issuing bundle; the
s-register takes x, and a write to s0 is ignored (R18, R112). An s-register written is no longer owed a pending result. -/
structure sregTakes (s t : State) (n : Nat) (x : DWord) : Prop where
  quiet : ∃ v, quiet s t (mapPut s.groups s.me.group { s.myGroup with s := v })
  straight : noBranch s t
  masks : t.me.m = s.me.m ∧ t.me.fcsr = s.me.fcsr
  regs : t.me.v = s.me.v ∧ t.me.h = s.me.h ∧ t.me.spoiled = s.me.spoiled
  pc : t.me.pc = s.stepped s.bundle
  pending : t.me.scalarPendings = s.me.scalarPendings
  zero : t.sreg 0 = 0#64
  others : ∀ j, j ≠ n → t.sreg j = s.sreg j
  takes : 0 < n → n < 128 → t.sreg n = x

/-- From s to t nothing changes but the program counters of the issuing bundle, whose lanes have stepped past one word. -/
structure stepsPast (s t : State) : Prop where
  quiet : quiet s t s.groups
  straight : noBranch s t
  masks : t.me.m = s.me.m ∧ t.me.fcsr = s.me.fcsr
  regs : sameRegs s t
  pc : t.me.pc = s.stepped s.bundle

/-- The program counters of the issuing warp when the lanes go have gone to f and the other lanes of m have stepped past
one word (R83, R86). -/
def State.gone (s : State) (m go : Mask) (f : Lane → Word) : Lanes Word :=
  perLane (fun i => if Mask.has go i then f i else Lanes.at (s.stepped m) i)

/-- From s to t nothing changes but the program counters of the lanes m: the real lanes go have gone to f by a taken branch,
and the others have stepped past one word. -/
structure branches (m : Mask) (s t : State) (go : Mask) (f : Lane → Word) : Prop where
  quiet : quiet s t s.groups
  taken : t.taken = s.taken ||| go ∧ t.unit = s.unit
  masks : t.me.m = s.me.m ∧ t.me.fcsr = s.me.fcsr
  regs : sameRegs s t
  pc : t.me.pc = s.gone m go f

/-- The same with one register besides, n, whose lanes k take f', raw: a call (R86). -/
structure calls (m : Mask) (s t : State) (go : Mask) (f : Lane → Word) (n : Nat) (k : Mask) (f' : Lane → Word) : Prop where
  quiet : quiet s t s.groups
  taken : t.taken = s.taken ||| go ∧ t.unit = s.unit
  masks : t.me.m = s.me.m ∧ t.me.fcsr = s.me.fcsr
  others : ∀ j, j ≠ n → t.me.reg j = s.me.reg j
  pending : t.me.pendings = s.me.pendings
  link : regTakes s t n k f' 0#4
  pc : t.me.pc = s.gone m go f

/-- From s to t nothing changes but the issuing warp, which is w. -/
structure onlyMe (s t : State) (w : Warp) : Prop where
  device : t.besides = s.besides
  groups : t.groups = s.groups
  warps : t.warps = mapPut s.warps s.cur w

/-- The branches of B format that count the lanes whose mask bit or register decides, each with the lanes that take it: r
contributes and m are the lanes of the mask (R83). -/
def maskBranches : List ((BitVec 4 → BitVec 18 → Instr) × (Mask → Mask → Bool)) :=
  [(.brcAny, fun r m => allLanes.any (fun i => Mask.has r i && Mask.has m i)),
   (.brcAll, fun r m => allLanes.all (fun i => !Mask.has r i || Mask.has m i)),
   (.brcNone, fun r m => allLanes.all (fun i => !Mask.has r i || !Mask.has m i))]

/-- The state after an instruction of use u whose check c fails: the real active lanes raise c, and the other lanes of the
bundle step past the word (R43). -/
def State.failed (s : State) (u : Use) (c : Cause) : State :=
  let hit := s.real (s.active u)
  ((s.acting u).advance (s.bundle &&& ~~~hit)).raise (trapAll hit (Trap.plain c))

/-! ### Integer instructions -/

/-- A value of 32 bits clamped to n..m, as the .sat forms do (R63). -/
def clamp (lo hi x : Int) : Word := BitVec.ofInt 32 (if x < lo then lo else if hi < x then hi else x)

/-- The position and the length of a field, cut at bit 31 (R106). -/
def fieldAt (b : Word) : Nat × Nat := (b.toNat % 32, min (b.toNat / 256 % 64) (32 - b.toNat % 32))

/-- The low n bits of a, zero-extended: 0 when n is 0, a when n is 32 or more (R106). -/
def lowBits (a : Word) (n : Nat) : Word := (a.setWidth n).setWidth 32

/-- The low n bits of a, sign-extended: 0 when n is 0, a when n is 32 or more (R106). -/
def signedLow (a : Word) (n : Nat) : Word := (a.setWidth n).signExtend 32

/-- The highest 1 bit of a word. -/
def topBit (a : Word) : Option Nat := (List.range 32).reverse.find? (fun j => a.getLsbD j)

/-- The instructions of two 32-bit sources, each with lane i's result from its sources' values there (R97, R106). -/
def twoSource : List ((BitVec 5 → Src → Src → BitVec 2 → Instr) × (Word → Word → Word)) :=
  [(.vadd, fun a b => a + b),
   (.vsub, fun a b => a - b),
   (.vaddSatS32, fun a b => clamp (-2147483648) 2147483647 (a.toInt + b.toInt)),
   (.vaddSatN32, fun a b => clamp 0 4294967295 (a.toNat + b.toNat)),
   (.vmulLo, fun a b => a * b),
   (.vmulHiS32, fun a b => BitVec.ofInt 32 (a.toInt * b.toInt / 2 ^ 32)),
   (.vmulHiN32, fun a b => BitVec.ofNat 32 (a.toNat * b.toNat / 2 ^ 32)),
   (.vminS32, fun a b => if a.toInt < b.toInt then a else b),
   (.vminN32, fun a b => if a.toNat < b.toNat then a else b),
   (.vmaxS32, fun a b => if a.toInt < b.toInt then b else a),
   (.vmaxN32, fun a b => if a.toNat < b.toNat then b else a),
   (.vand, fun a b => a &&& b),
   (.vor, fun a b => a ||| b),
   (.vxor, fun a b => a ^^^ b),
   (.vshl, fun a b => a <<< (b.toNat % 32)),
   (.vshr, fun a b => a >>> (b.toNat % 32)),
   (.vsra, fun a b => a.sshiftRight (b.toNat % 32)),
   (.vrot, fun a b => (a <<< (b.toNat % 32)) ||| (a >>> ((32 - b.toNat % 32) % 32))),
   (.vbfeS32, fun a b => signedLow (a >>> (fieldAt b).1) (fieldAt b).2),
   (.vbfeN32, fun a b => lowBits (a >>> (fieldAt b).1) (fieldAt b).2),
   (.vsext, fun a b => signedLow a (b.toNat % 64)),
   (.vzext, fun a b => lowBits a (b.toNat % 64))]

/-- The instructions of one 32-bit source (R97). -/
def oneSource : List ((BitVec 5 → Src → BitVec 2 → Instr) × (Word → Word)) :=
  [(.vabsS32, fun a => if a.toInt < 0 then 0#32 - a else a),
   (.vneg, fun a => 0#32 - a),
   (.vnot, fun a => ~~~a),
   (.vpopc, fun a => BitVec.ofNat 32 ((List.range 32).filter (fun j => a.getLsbD j)).length),
   (.vclz, fun a => match topBit a with | some j => BitVec.ofNat 32 (31 - j) | none => 32#32),
   (.vbrev, fun a => maskOf (fun j => a.getLsbD (31 - j.val)))]

/-- The instructions whose destination is a source too (R99, R106). -/
def threeSource : List ((BitVec 5 → Src → Src → BitVec 2 → Instr) × (Word → Word → Word → Word)) :=
  [(.vmad, fun a b old => a * b + old),
   (.vbfi, fun a b old =>
      let f := BitVec.ofNat 32 (2 ^ (fieldAt b).2 - 1) <<< (fieldAt b).1
      (old &&& ~~~f) ||| ((a <<< (fieldAt b).1) &&& f))]

/-- The instructions of two 64-bit sources (R102). -/
def wideSource : List ((BitVec 4 → Src → Src → BitVec 2 → Instr) × (DWord → DWord → DWord)) :=
  [(.vadd64, fun a b => a + b),
   (.vsub64, fun a b => a - b),
   (.vmulLo64, fun a b => a * b),
   (.vminS64, fun a b => if a.toInt < b.toInt then a else b),
   (.vminN64, fun a b => if a.toNat < b.toNat then a else b),
   (.vmaxS64, fun a b => if a.toInt < b.toInt then b else a),
   (.vmaxN64, fun a b => if a.toNat < b.toNat then b else a)]

/-- The 64-bit instructions whose B is a 32-bit source (R102, R103). -/
def wideNarrow : List ((BitVec 4 → Src → Src → BitVec 2 → Instr) × (DWord → Word → DWord)) :=
  [(.vshl64, fun a c => a <<< (c.toNat % 64)),
   (.vshr64, fun a c => a >>> (c.toNat % 64)),
   (.vsra64, fun a c => a.sshiftRight (c.toNat % 64)),
   (.vlea, fun a c => a + c.setWidth 64)]

/-- The divisions, for a divisor that is not 0 (R101). -/
def divisions : List ((BitVec 5 → Src → Src → BitVec 2 → Instr) × (Word → Word → Word)) :=
  [(.vdivS32, fun a b => BitVec.ofInt 32 (a.toInt.tdiv b.toInt)),
   (.vdivN32, fun a b => BitVec.ofNat 32 (a.toNat / b.toNat)),
   (.vremS32, fun a b => BitVec.ofInt 32 (a.toInt - b.toInt * a.toInt.tdiv b.toInt)),
   (.vremN32, fun a b => BitVec.ofNat 32 (a.toNat - b.toNat * (a.toNat / b.toNat)))]

/-- The 32-bit compares (R104). -/
def compares : List ((BitVec 4 → Src → Src → BitVec 2 → Instr) × (Word → Word → Bool)) :=
  [(.vcmpEq, fun a b => decide (a = b)),
   (.vcmpNe, fun a b => decide (a ≠ b)),
   (.vcmpLtS32, fun a b => decide (a.toInt < b.toInt)),
   (.vcmpLeS32, fun a b => decide (a.toInt ≤ b.toInt)),
   (.vcmpLtN32, fun a b => decide (a.toNat < b.toNat)),
   (.vcmpLeN32, fun a b => decide (a.toNat ≤ b.toNat))]

/-- The 64-bit compares (R104). -/
def wideCompares : List ((BitVec 4 → Src → Src → BitVec 2 → Instr) × (DWord → DWord → Bool)) :=
  [(.vcmpEq64, fun a b => decide (a = b)),
   (.vcmpNe64, fun a b => decide (a ≠ b)),
   (.vcmpLtS64, fun a b => decide (a.toInt < b.toInt)),
   (.vcmpLeS64, fun a b => decide (a.toInt ≤ b.toInt)),
   (.vcmpLtN64, fun a b => decide (a.toNat < b.toNat)),
   (.vcmpLeN64, fun a b => decide (a.toNat ≤ b.toNat))]

/-- The instructions of the scalar unit with two sources (R112). -/
def scalars : List ((BitVec 7 → BitVec 7 → BitVec 7 → Instr) × (DWord → DWord → DWord)) :=
  [(.sadd, fun x y => x + y),
   (.ssub, fun x y => x - y),
   (.smul, fun x y => x * y),
   (.sand, fun x y => x &&& y),
   (.sor, fun x y => x ||| y),
   (.sxor, fun x y => x ^^^ y),
   (.sshl, fun x y => x <<< (y.toNat % 64)),
   (.sshr, fun x y => x >>> (y.toNat % 64)),
   (.scmpEq, fun x y => if x = y then 1#64 else 0#64),
   (.scmpLtS64, fun x y => if x.toInt < y.toInt then 1#64 else 0#64),
   (.scmpLtN64, fun x y => if x.toNat < y.toNat then 1#64 else 0#64)]

/-! ### Control instructions -/

/-- The mask instructions of two masks (R87). -/
def maskPairs : List ((BitVec 4 → BitVec 4 → BitVec 4 → BitVec 2 → Instr) × (Bool → Bool → Bool)) :=
  [(.mand, fun a b => a && b), (.mor, fun a b => a || b), (.mxor, fun a b => a != b)]

/-- The lanes of r whose target fails R66. -/
def State.strays (s : State) (r : Mask) (f : Lane → Word) : Mask :=
  maskOf (fun i => Mask.has r i && ((f i).toNat % 4 != 0 || decide (s.myGrid.record.codelen.toNat ≤ (f i).toNat)))


/-! ### Special registers, traps and system instructions -/

/-- The special registers that a lane has one of, 32 bits or less, with lane i's value (R13, R67, R258). -/
def laneSpecials : List (BitVec 12 × (State → Lane → Word)) :=
  [(0x000#12, fun _ i => BitVec.ofNat 32 i.val),
   (0x001#12, fun _ i => BitVec.ofNat 32 (i.val / 4)),
   (0x00A#12, fun s i => Lanes.at s.me.meet i),
   (0x00B#12, fun s i => (Lanes.at s.me.meetmask i).setWidth 32),
   (0x100#12, fun s i => Lanes.at s.me.cause i),
   (0x101#12, fun s i => Lanes.at s.me.tpc i),
   (0x104#12, fun s i =>
     let o := Lanes.at s.me.origin i
     o.die ++ o.core ++ o.slot ++ o.lane ++ 0#2 ++ o.tid),
   (0x105#12, fun s i => Lanes.at s.me.omasks i),
   (0x106#12, fun s i => Lanes.at s.me.omeet i),
   (0x107#12, fun s i => (Lanes.at s.me.omeetmask i).setWidth 32),
   (0x109#12, fun s i => s.me.oplog i),
   (0x10A#12, fun s i => Lanes.at s.me.ckpt.pc i)]

/-- The other special registers, counters aside: 64 bits wide or not, and the value (R13, R33, R36, R67, R121, R155, R203,
R258, R274). -/
def wholeSpecials : List (BitVec 12 × Bool × (State → DWord)) :=
  [(0x002#12, false, fun s => s.me.no.setWidth 64),
   (0x004#12, false, fun s => s.myGroup.no.setWidth 64),
   (0x005#12, false, fun s => s.myGroup.gang.setWidth 64),
   (0x006#12, false, fun s => BitVec.ofNat 64 (s.myGroup.grid % 2 ^ 32)),
   (0x007#12, false, fun s => s.me.helpers.setWidth 64),
   (0x008#12, false, fun s => BitVec.ofNat 64 (2 * s.me.trap.toNat + s.me.kern.toNat)),
   (0x009#12, false, fun s => s.myGrid.world.setWidth 64),
   (0x00C#12, false, fun s =>
     BitVec.ofNat 64 (4 * (s.myGrid.record.flags.getLsbD 0).toNat + s.myGrid.record.flags.toNat / 16 % 4)),
   (0x00D#12, false, fun s => s.bundle.setWidth 64),
   (0x040#12, false, fun s => s.me.fcsr.setWidth 64),
   (0x041#12, false, fun s => s.myGroup.tol.setWidth 64),
   (0x080#12, true, fun s => s.me.segSp.base),
   (0x081#12, false, fun s => s.me.segSp.lim.setWidth 64),
   (0x082#12, true, fun s => s.me.segCl.base),
   (0x083#12, false, fun s => s.me.segCl.lim.setWidth 64),
   (0x084#12, true, fun s => s.me.segStk.base),
   (0x085#12, false, fun s => s.me.segStk.lim.setWidth 64),
   (0x086#12, true, fun s => s.me.segFr.base),
   (0x087#12, false, fun s => s.me.segFr.lim.setWidth 64),
   (0x088#12, true, fun s => s.me.stkback),
   (0x0C0#12, true, fun s => s.myGroup.doneTags),
   (0x0C1#12, true, fun s => s.myGroup.tagfault),
   (0x0C2#12, false, fun s => s.myGroup.tagcause.setWidth 64),
   (0x0C3#12, false, fun s => (s.barstate s.me.group).setWidth 64),
   (0x0C4#12, false, fun s => (s.clbarstate s.me.group).setWidth 64),
   (0x102#12, false, fun s => s.me.fmask.setWidth 64),
   (0x108#12, false, fun s => BitVec.ofNat 64 s.me.hbank.toNat),
   (0x10B#12, false, fun s => BitVec.ofNat 64 s.myGroup.preq.toNat),
   (0x170#12, true, fun s => (s.die s.me.die).whitAddr),
   (0x171#12, true, fun s => (s.die s.me.die).whitInfo)]

/-- The counters (R115): cycles since the last core reset, nanoseconds of device time, instructions issued by the warp. -/
def counters : List (BitVec 12 × (State → DWord)) :=
  [(0x200#12, fun s => BitVec.ofNat 64 (s.cc - (s.core (128 * s.me.die + s.me.core)).resetAt)),
   (0x201#12, fun s => BitVec.ofNat 64 (s.clock / 1000000)),
   (0x202#12, fun s => s.me.issued)]

/-- The state whose issuing warp's present spin iteration does not qualify (R78). -/
def State.unqualified (s : State) : State :=
  s.modWarp s.cur (fun w => { w with gov := w.gov.spoil })

/-- The handler that a warp's launch names for a cause, and the mode it gives it: 0 system, 1 local, 2 gather (R259). -/
def State.table (s : State) (w : Warp) (c : Cause) : Nat × Word :=
  let e := ((s.grid (s.group w.group).grid).record.traps.getD c.code.toNat 0#64).toNat
  (e % 8, BitVec.ofNat 32 (e / 2 ^ 32))

/-- The issuing warp can take the traps ts at once: it runs, no store check and no trap of it is outstanding, and the traps name
lanes. -/
structure State.takes (s : State) (ts : List (Lane × Trap)) : Prop where
  some : ts ≠ []
  running : s.me.place = .running
  checked : s.me.late = [] ∧ s.me.waiting = []

/-- The state in which the windows of the issuing warp's results are closed, and those that have come have landed (R51). -/
def State.closed (s : State) : State := (s.setMe (s.me.closeWindows s.me.live)).landDue s.cur

/-- No lane of the issuing warp acts for an open tile (R333). -/
def State.untiled (s : State) : Prop := ∀ i, s.tileOf s.me i = none

/-! ### Floating point -/

/-- A floating-point instruction i delivers r, with its flags, in register n under the format fmt (R128): real active lanes
whose flags trap keep the register and their program counters, and the other active lanes take their results and add their
flags to $fcsr. -/
def delivers (s : State) (i : Instr) (n : Nat) (fmt : BitVec 4) (r : Lane → Word × Flags) : Prop :=
  let ts := s.flagTraps (s.on i) (fun l => (r l).2)
  let ok := s.on i &&& ~~~trapLanes ts
  ∃ t, exec i s = .next (t.raise ts) ∧ frameOn (s.bundle &&& ~~~trapLanes ts) s t [n] ∧
    regTakes s t n ok (fun l => (r l).1) fmt ∧ t.me.fcsr = s.me.fcsr ||| (s.flagsOf ok (fun l => (r l).2)).setWidth 32

/-- The same for the pair that v fields f and f + 1 name, of format f64. -/
def deliversPair (s : State) (i : Instr) (f : Nat) (r : Lane → DWord × Flags) : Prop :=
  let ts := s.flagTraps (s.on i) (fun l => (r l).2)
  let ok := s.on i &&& ~~~trapLanes ts
  ∃ t, exec i s = .next (t.raise ts) ∧ frameOn (s.bundle &&& ~~~trapLanes ts) s t (s.pairNo f) ∧
    pairTakes s t f ok (fun l => (r l).1) 8#4 9#4 ∧
    t.me.fcsr = s.me.fcsr ||| (s.flagsOf ok (fun l => (r l).2)).setWidth 32

/-- From s to t nothing changes but mask register d, $fcsr and the program counters of the lanes m: the lanes ok of mask d take
f. -/
structure maskOn (m : Mask) (s t : State) (d : Nat) (ok : Mask) (f : Lane → Bool) : Prop where
  quiet : quiet s t s.groups
  straight : noBranch s t
  regs : sameRegs s t
  pc : t.me.pc = s.stepped m
  others : ∀ j, j ≠ d → t.me.mask j = s.me.mask j
  zero : t.me.mask 0 = ~~~0#32
  takes : 0 < d → d < 16 → ∀ i, Mask.has (t.me.mask d) i = if Mask.has ok i then f i else Mask.has (s.me.mask d) i

/-- The same for a mask register: a compare (R131). -/
def deliversMask (s : State) (i : Instr) (d : Nat) (r : Lane → Bool × Flags) : Prop :=
  let ts := s.flagTraps (s.on i) (fun l => (r l).2)
  let ok := s.on i &&& ~~~trapLanes ts
  ∃ t, exec i s = .next (t.raise ts) ∧ maskOn (s.bundle &&& ~~~trapLanes ts) s t d ok (fun l => (r l).1) ∧
    t.me.fcsr = s.me.fcsr ||| (s.flagsOf ok (fun l => (r l).2)).setWidth 32

/-- The two-source instructions of a lane-word format, with the format's tag and a lane's result (R130). -/
def floatTwo : List ((BitVec 5 → Src → Src → BitVec 2 → Instr) × BitVec 4 × (FCtl → Word → Word → Word × Flags)) :=
  [(.vfaddF32, 1#4, fun c a b => elements f32 (fun u v _ => f32.add c u v) a b 0#32),
   (.vfaddF16, 2#4, fun c a b => elements f16 (fun u v _ => f16.add c u v) a b 0#32),
   (.vfaddBf16, 3#4, fun c a b => elements bf16 (fun u v _ => bf16.add c u v) a b 0#32),
   (.vfsubF32, 1#4, fun c a b => elements f32 (fun u v _ => f32.sub c u v) a b 0#32),
   (.vfsubF16, 2#4, fun c a b => elements f16 (fun u v _ => f16.sub c u v) a b 0#32),
   (.vfsubBf16, 3#4, fun c a b => elements bf16 (fun u v _ => bf16.sub c u v) a b 0#32),
   (.vfmulF32, 1#4, fun c a b => elements f32 (fun u v _ => f32.mul c u v) a b 0#32),
   (.vfmulF16, 2#4, fun c a b => elements f16 (fun u v _ => f16.mul c u v) a b 0#32),
   (.vfmulBf16, 3#4, fun c a b => elements bf16 (fun u v _ => bf16.mul c u v) a b 0#32),
   (.vfminF32, 1#4, fun c a b => elements f32 (fun u v _ => f32.minmax false c u v) a b 0#32),
   (.vfminF16, 2#4, fun c a b => elements f16 (fun u v _ => f16.minmax false c u v) a b 0#32),
   (.vfminBf16, 3#4, fun c a b => elements bf16 (fun u v _ => bf16.minmax false c u v) a b 0#32),
   (.vfmaxF32, 1#4, fun c a b => elements f32 (fun u v _ => f32.minmax true c u v) a b 0#32),
   (.vfmaxF16, 2#4, fun c a b => elements f16 (fun u v _ => f16.minmax true c u v) a b 0#32),
   (.vfmaxBf16, 3#4, fun c a b => elements bf16 (fun u v _ => bf16.minmax true c u v) a b 0#32)]

/-- Those that count vd as a source: fused multiply-add, and the dot products, whose accumulator is FP32 (R130, R133). -/
def floatThree : List ((BitVec 5 → Src → Src → BitVec 2 → Instr) × BitVec 4 × (FCtl → Word → Word → Word → Word × Flags)) :=
  [(.vfmaF32, 1#4, fun c a b z => elements f32 (f32.fma c) a b z),
   (.vfmaF16, 2#4, fun c a b z => elements f16 (f16.fma c) a b z),
   (.vfmaBf16, 3#4, fun c a b z => elements bf16 (bf16.fma c) a b z),
   (.vfdot2F16, 1#4, dot2 f16),
   (.vfdot2Bf16, 1#4, dot2 bf16)]

/-- The one-source instructions that take no lookahead: sign changes of each element, and integers converted (R130, R139). -/
def floatOne : List ((BitVec 5 → Src → BitVec 2 → Instr) × BitVec 4 × (FCtl → Word → Word × Flags)) :=
  [(.vfabsF32, 1#4, fun _ a => (a &&& 0x7FFFFFFF#32, 0#5)),
   (.vfabsF16, 2#4, fun _ a => (a &&& 0x7FFF7FFF#32, 0#5)),
   (.vfabsBf16, 3#4, fun _ a => (a &&& 0x7FFF7FFF#32, 0#5)),
   (.vfnegF32, 1#4, fun _ a => (a ^^^ 0x80000000#32, 0#5)),
   (.vfnegF16, 2#4, fun _ a => (a ^^^ 0x80008000#32, 0#5)),
   (.vfnegBf16, 3#4, fun _ a => (a ^^^ 0x80008000#32, 0#5)),
   (.vitofS32, 1#4, fun c a =>
     let r := f32.round c.mode c.ftz (decide (a.toInt < 0)) a.toInt.natAbs 0
     (BitVec.ofNat 32 r.1, r.2)),
   (.vitofN32, 1#4, fun c a =>
     let r := f32.round c.mode c.ftz false a.toNat 0
     (BitVec.ofNat 32 r.1, r.2))]

/-- The transcendental functions of a lane-word format (R140). -/
def transcendentals : List ((BitVec 5 → Src → BitVec 2 → Instr) × BitVec 4 × (FCtl → Word → Word × Flags)) :=
  [(.vfrcpF32, 1#4, fun c a => elements f32 (fun u _ _ => f32.trans .rcp c u) a 0#32 0#32),
   (.vfrsqF32, 1#4, fun c a => elements f32 (fun u _ _ => f32.trans .rsq c u) a 0#32 0#32),
   (.vfsqrtF32, 1#4, fun c a => elements f32 (fun u _ _ => f32.trans .sqrt c u) a 0#32 0#32),
   (.vfexp2F32, 1#4, fun c a => elements f32 (fun u _ _ => f32.trans .exp2 c u) a 0#32 0#32),
   (.vflog2F32, 1#4, fun c a => elements f32 (fun u _ _ => f32.trans .log2 c u) a 0#32 0#32),
   (.vftanhF32, 1#4, fun c a => elements f32 (fun u _ _ => f32.trans .tanh c u) a 0#32 0#32),
   (.vfexp2F16, 2#4, fun c a => elements f16 (fun u _ _ => f16.trans .exp2 c u) a 0#32 0#32),
   (.vflog2F16, 2#4, fun c a => elements f16 (fun u _ _ => f16.trans .log2 c u) a 0#32 0#32),
   (.vftanhF16, 2#4, fun c a => elements f16 (fun u _ _ => f16.trans .tanh c u) a 0#32 0#32)]

/-- Those of FP64 (R140). -/
def transcendentals64 : List ((BitVec 4 → Src → BitVec 2 → Instr) × (FCtl → Nat → FRes)) :=
  [(.vfrcpF64, f64.trans .rcp), (.vfrsqF64, f64.trans .rsq), (.vfsqrtF64, f64.trans .sqrt)]

/-- The two-source instructions of FP64 (R130). -/
def floatWide : List ((BitVec 4 → Src → Src → BitVec 2 → Instr) × (FCtl → Nat → Nat → FRes)) :=
  [(.vfaddF64, f64.add), (.vfsubF64, f64.sub), (.vfmulF64, f64.mul), (.vfminF64, f64.minmax false),
   (.vfmaxF64, f64.minmax true)]

/-- The floating-point compares of element 0 (R131). -/
def floatCompares : List ((BitVec 4 → Src → Src → BitVec 2 → Instr) × (FCtl → Word → Word → Bool × Flags)) :=
  [(.vfcmpEqF32, fun c a b => f32.cmp .eq c (a.toNat % 2 ^ f32.width) (b.toNat % 2 ^ f32.width)),
   (.vfcmpEqF16, fun c a b => f16.cmp .eq c (a.toNat % 2 ^ f16.width) (b.toNat % 2 ^ f16.width)),
   (.vfcmpEqBf16, fun c a b => bf16.cmp .eq c (a.toNat % 2 ^ bf16.width) (b.toNat % 2 ^ bf16.width)),
   (.vfcmpNeF32, fun c a b => f32.cmp .ne c (a.toNat % 2 ^ f32.width) (b.toNat % 2 ^ f32.width)),
   (.vfcmpNeF16, fun c a b => f16.cmp .ne c (a.toNat % 2 ^ f16.width) (b.toNat % 2 ^ f16.width)),
   (.vfcmpNeBf16, fun c a b => bf16.cmp .ne c (a.toNat % 2 ^ bf16.width) (b.toNat % 2 ^ bf16.width)),
   (.vfcmpLtF32, fun c a b => f32.cmp .lt c (a.toNat % 2 ^ f32.width) (b.toNat % 2 ^ f32.width)),
   (.vfcmpLtF16, fun c a b => f16.cmp .lt c (a.toNat % 2 ^ f16.width) (b.toNat % 2 ^ f16.width)),
   (.vfcmpLtBf16, fun c a b => bf16.cmp .lt c (a.toNat % 2 ^ bf16.width) (b.toNat % 2 ^ bf16.width)),
   (.vfcmpLeF32, fun c a b => f32.cmp .le c (a.toNat % 2 ^ f32.width) (b.toNat % 2 ^ f32.width)),
   (.vfcmpLeF16, fun c a b => f16.cmp .le c (a.toNat % 2 ^ f16.width) (b.toNat % 2 ^ f16.width)),
   (.vfcmpLeBf16, fun c a b => bf16.cmp .le c (a.toNat % 2 ^ bf16.width) (b.toNat % 2 ^ bf16.width)),
   (.vfcmpUnF32, fun c a b => f32.cmp .un c (a.toNat % 2 ^ f32.width) (b.toNat % 2 ^ f32.width)),
   (.vfcmpUnF16, fun c a b => f16.cmp .un c (a.toNat % 2 ^ f16.width) (b.toNat % 2 ^ f16.width)),
   (.vfcmpUnBf16, fun c a b => bf16.cmp .un c (a.toNat % 2 ^ bf16.width) (b.toNat % 2 ^ bf16.width))]

/-- Those of FP64. -/
def floatCompares64 : List ((BitVec 4 → Src → Src → BitVec 2 → Instr) × FCmp) :=
  [(.vfcmpEqF64, .eq),
   (.vfcmpNeF64, .ne),
   (.vfcmpLtF64, .lt),
   (.vfcmpLeF64, .le),
   (.vfcmpUnF64, .un)]

/-- The classes of the elements of a word (R132). -/
def floatClasses : List ((BitVec 5 → Src → BitVec 2 → Instr) × (Word → Word)) :=
  [(.vfclassF32, fun a => BitVec.ofNat 32 (2 ^ f32.classOf a.toNat)),
   (.vfclassF16, fun a => BitVec.ofNat 32 (2 ^ f16.classOf (a.toNat / 65536) * 65536 + 2 ^ f16.classOf (a.toNat % 65536))),
   (.vfclassBf16, fun a => BitVec.ofNat 32 (2 ^ bf16.classOf (a.toNat / 65536) * 65536 + 2 ^ bf16.classOf (a.toNat % 65536)))]

/-- The class that R132 gives a value of a format with exponent field e: the number of its bit. -/
def classBit (v : FVal) (subnormal : Bool) : Nat :=
  match v with
  | .inf true => 0
  | .num true m _ => if m = 0 then 3 else if subnormal then 2 else 1
  | .num false m _ => if m = 0 then 4 else if subnormal then 5 else 6
  | .inf false => 7
  | .nan true _ => 8
  | .nan false _ => 9

/-! ### Lane exchange -/

/-- The quad exchanges: lane i takes A's value of the lane given (R144). -/
def quadSwaps : List ((BitVec 5 → Src → BitVec 2 → Instr) × (Lane → Nat)) :=
  [(.qswapH, fun i => i.val ^^^ 1), (.qswapV, fun i => i.val ^^^ 2), (.qswapD, fun i => i.val ^^^ 3)]

/-- What qreduce's selector combines two values by, and whether it is a float form (R145). -/
def quadOp (o : BitVec 3) (c : FCtl) : Bool × ((Word × Flags) → (Word × Flags) → (Word × Flags)) :=
  let int (f : Word → Word → Word) : Bool × ((Word × Flags) → (Word × Flags) → (Word × Flags)) :=
    (false, fun x y => (f x.1 y.1, 0#5))
  let float (f : Nat → Nat → FRes) : Bool × ((Word × Flags) → (Word × Flags) → (Word × Flags)) :=
    (true, fun x y => (BitVec.ofNat 32 (f x.1.toNat y.1.toNat).1, (f x.1.toNat y.1.toNat).2 ||| x.2 ||| y.2))
  let c := { c with daz := false }
  match o.toNat with
  | 0 => int (fun a b => a + b)
  | 1 => int (fun a b => if a.toInt < b.toInt then a else b)
  | 2 => int (fun a b => if a.toInt < b.toInt then b else a)
  | 3 => float (f32.add c)
  | 4 => float (f32.minmax false c)
  | 5 => float (f32.minmax true c)
  | 6 => int (fun a b => if a.toNat < b.toNat then a else b)
  | _ => int (fun a b => if a.toNat < b.toNat then b else a)

/-- A value as a float form reads it, or as it is (R145, R147). -/
def readAs (c : FCtl) (float : Bool) (x : Word) : Word × Flags :=
  (if float then BitVec.ofNat 32 (f32.dazCode c.daz x.toNat) else x, 0#5)

/-- The integer reductions: the identity and the combination (R146). -/
def intReductions : List ((BitVec 5 → Src → BitVec 2 → Instr) × Word × (Word → Word → Word)) :=
  [(.wreduceAdd, 0#32, fun a b => a + b),
   (.wreduceMinS32, 0x7FFFFFFF#32, fun a b => if a.toInt < b.toInt then a else b),
   (.wreduceMinN32, 0xFFFFFFFF#32, fun a b => if a.toNat < b.toNat then a else b),
   (.wreduceMaxS32, 0x80000000#32, fun a b => if a.toInt < b.toInt then b else a),
   (.wreduceMaxN32, 0#32, fun a b => if a.toNat < b.toNat then b else a)]

/-- The float reductions, each with its identity and its step (R146). -/
def floatReductions : List ((BitVec 5 → Src → BitVec 2 → Instr) × Word × (FCtl → Nat → Nat → FRes)) :=
  [(.wreduceAddF32, 0#32, f32.add), (.wreduceMinF32, 0x7F800000#32, f32.minmax false),
   (.wreduceMaxF32, 0xFF800000#32, f32.minmax true)]

/-- The tree of R146 over the lanes lo to lo + 2^n - 1: lanes outside r are absent. -/
def treeOf (g : (Word × Flags) → (Word × Flags) → (Word × Flags)) (r : Mask) (v : Lane → Word × Flags) :
    Nat → Nat → Option (Word × Flags)
  | 0, lo => if Mask.has r (Fin.ofNat 32 lo) then some (v (Fin.ofNat 32 lo)) else none
  | n + 1, lo =>
    match treeOf g r v n lo, treeOf g r v n (lo + 2 ^ n) with
    | some x, some y => some (g x y)
    | some x, none => some x
    | none, y => y

/-- The running combination of the lanes of r up to lane i, or below it, in ascending order (R147). -/
def runningTo (g : (Word × Flags) → (Word × Flags) → (Word × Flags)) (below : Bool) (r : Mask) (v : Lane → Word × Flags)
    (i : Lane) : Word :=
  (((allLanes.filter (fun j => Mask.has r j)).filter (fun j => if below then j.val < i.val else j.val ≤ i.val)).foldl
    (fun x j => g x (v j)) (0#32, 0#5)).1

/-- What a scan gives lane i: its own running value, and to a helper lane that of the highest lane of r below it (R147). -/
def scanned (g : (Word × Flags) → (Word × Flags) → (Word × Flags)) (below : Bool) (r : Mask) (v : Lane → Word × Flags)
    (i : Lane) : Word :=
  if Mask.has r i then runningTo g below r v i
  else
    match ((allLanes.filter (fun j => Mask.has r j)).filter (fun j => j.val < i.val)).getLast? with
    | some h => runningTo g below r v h
    | none => 0#32

/-- The lane of r with as many lanes of m below it as lane i has (R148). -/
def matching (m r : Mask) (i : Lane) : Option Lane :=
  (allLanes.filter (fun j => Mask.has r j))[(allLanes.filter (fun j => Mask.has m j && decide (j.val < i.val))).length]?

/-! ### Memory -/

/-- The address of lane l's access: S[sbase] + hint.off + V[voff], a pair for the 64-bit form (R164). -/
def State.address (s : State) (sb o : BitVec 5) (pair : Bool) (l : Lane) : DWord :=
  s.sreg sb.toNat + s.offset + (if pair then s.me.lane (o.toNat + 1) l ++ s.me.lane o.toNat l else (s.me.lane o.toNat l).setWidth 64)

/-- The scope of an acquire or release: that of hint.cache, device by default (R175). -/
def State.scope (s : State) : BitVec 3 := if s.cacheHint.1 = 0#3 then 5#3 else s.cacheHint.1

/-- The access of a load, with its destinations and their formats (R54, R167 to R169). -/
def State.loadOf (s : State) : Instr → Option (Access × List (Nat × BitVec 4))
  | .ld d sb o _ _ w v => some (⟨.load, 2 ^ w.toNat, v.getLsbD 0, false, perLane (s.address sb o (v.getLsbD 1)), allLanesOf 0#128,
      0#3, 0#3, s.cacheHint.2.2, false⟩, loadDests d w s.cacheHint.2.1)
  | .ldAcq d sb o _ _ w v => some (⟨.load, 2 ^ w.toNat, v.getLsbD 0, false, perLane (s.address sb o (v.getLsbD 1)),
      allLanesOf 0#128, s.scope, 0#3, s.cacheHint.2.2, false⟩, loadDests d w s.cacheHint.2.1)
  | .ldRo d sb o _ _ w x => some (⟨.readOnly, 2 ^ w.toNat, x.getLsbD 0, false, perLane (s.address sb o false), allLanesOf 0#128,
      0#3, 0#3, s.cacheHint.2.2, false⟩, loadDests d w s.cacheHint.2.1)
  | .ldStream d sb o _ _ w x => some (⟨.streamLoad, 2 ^ w.toNat, x.getLsbD 0, false, perLane (s.address sb o false),
      allLanesOf 0#128, 0#3, 0#3, s.cacheHint.2.2, false⟩, loadDests d w s.cacheHint.2.1)
  | .ldSp d sb o _ _ w x => some (⟨.load, 2 ^ w.toNat, x.getLsbD 0, true, perLane (s.address sb o false), allLanesOf 0#128,
      0#3, 0#3, s.cacheHint.2.2, false⟩, loadDests d w s.cacheHint.2.1)
  | _ => none

/-- The lookahead of a load (R51). -/
def loadLa : Instr → Nat
  | .ld _ _ _ l _ _ _ | .ldAcq _ _ _ l _ _ _ | .ldRo _ _ _ l _ _ _ | .ldStream _ _ _ l _ _ _ | .ldSp _ _ _ l _ _ _ => l.toNat
  | _ => 0

/-- The data of lane l from n registers at v, lowest first (R170). -/
def State.dataOf (s : State) (v n : Nat) (l : Lane) : BitVec 128 :=
  BitVec.ofNat 128 ((List.range n).foldr (fun j x => x * 2 ^ 32 + (s.me.lane (v + j) l).toNat) 0)

/-- The access of a vector store (R170). -/
def State.storeOf (s : State) : Instr → Option Access
  | .st d sb o _ w v => some ⟨.store, 2 ^ w.toNat, false, false, perLane (s.address sb o (v.getLsbD 0)),
      perLane (s.dataOf d.toNat (widthRegs w)), 0#3, 0#3, s.cacheHint.2.2, false⟩
  | .stRel d sb o _ w v => some ⟨.store, 2 ^ w.toNat, false, false, perLane (s.address sb o (v.getLsbD 0)),
      perLane (s.dataOf d.toNat (widthRegs w)), 0#3, s.scope, s.cacheHint.2.2, false⟩
  | .stSp d sb o _ w => some ⟨.store, 2 ^ w.toNat, false, true, perLane (s.address sb o false),
      perLane (s.dataOf d.toNat (widthRegs w)), 0#3, 0#3, s.cacheHint.2.2, false⟩
  | _ => none

/-- The access of an atomic of n bytes with nv operand registers from v: operand X low, Y in the upper half (R171). -/
def State.atomicAccess (s : State) (op : BitVec 4) (n nv : Nat) (sb o : BitVec 5) (v : Nat) (r : BitVec 2) : Access :=
  let word (l : Lane) (j : Nat) : Nat := (s.me.lane (v + j) l).toNat
  ⟨.atomic op, n, false, false, perLane (s.address sb o false),
    perLane (fun l => BitVec.ofNat 128 (
      if n = 4 then word l 0 + (if nv = 2 then word l 1 * 2 ^ 64 else 0)
      else word l 0 + word l 1 * 2 ^ 32 + (if nv = 4 then word l 2 * 2 ^ 64 + word l 3 * 2 ^ 96 else 0))),
    if r.getLsbD 0 then s.scope else 0#3, if r.getLsbD 1 then s.scope else 0#3, s.cacheHint.2.2, false⟩

/-- The access of an atomic, its operation and its destinations with their formats (R56, R171). -/
def State.atomicOf (s : State) : Instr → Option (Access × BitVec 4 × List (Nat × BitVec 4))
  | .atomAdd32 d sb o v r => some (s.atomicAccess 0#4 4 1 sb o v.toNat r, 0#4, [(d.toNat, 0#4)])
  | .atomAdd64 d sb o v r => some (s.atomicAccess 1#4 8 2 sb o v.toNat r, 1#4, [(d.toNat, 0#4), (d.toNat + 1, 0#4)])
  | .atomMinS32 d sb o v r => some (s.atomicAccess 2#4 4 1 sb o v.toNat r, 2#4, [(d.toNat, 0#4)])
  | .atomMinN32 d sb o v r => some (s.atomicAccess 3#4 4 1 sb o v.toNat r, 3#4, [(d.toNat, 0#4)])
  | .atomMaxS32 d sb o v r => some (s.atomicAccess 4#4 4 1 sb o v.toNat r, 4#4, [(d.toNat, 0#4)])
  | .atomMaxN32 d sb o v r => some (s.atomicAccess 5#4 4 1 sb o v.toNat r, 5#4, [(d.toNat, 0#4)])
  | .atomAnd d sb o v r => some (s.atomicAccess 6#4 4 1 sb o v.toNat r, 6#4, [(d.toNat, 0#4)])
  | .atomOr d sb o v r => some (s.atomicAccess 7#4 4 1 sb o v.toNat r, 7#4, [(d.toNat, 0#4)])
  | .atomXor d sb o v r => some (s.atomicAccess 8#4 4 1 sb o v.toNat r, 8#4, [(d.toNat, 0#4)])
  | .atomXchg32 d sb o v r => some (s.atomicAccess 9#4 4 1 sb o v.toNat r, 9#4, [(d.toNat, 0#4)])
  | .atomXchg64 d sb o v r => some (s.atomicAccess 10#4 8 2 sb o v.toNat r, 10#4, [(d.toNat, 0#4), (d.toNat + 1, 0#4)])
  | .atomCas32 d sb o v r => some (s.atomicAccess 11#4 4 2 sb o (2 * v.toNat) r, 11#4, [(d.toNat, 0#4)])
  | .atomCas64 d sb o v r => some (s.atomicAccess 12#4 8 4 sb o (4 * v.toNat) r, 12#4, [(d.toNat, 0#4), (d.toNat + 1, 0#4)])
  | .atomFaddF32 d sb o v r => some (s.atomicAccess 13#4 4 1 sb o v.toNat r, 13#4, [(d.toNat, 1#4)])
  | .atomFaddF64 d sb o v r => some (s.atomicAccess 14#4 8 2 sb o v.toNat r, 14#4, [(d.toNat, 8#4), (d.toNat + 1, 9#4)])
  | _ => none

/-- The access of an instruction that reads or writes memory lane by lane. -/
def State.accessOf (s : State) (i : Instr) : Option Access :=
  ((s.loadOf i).map (·.1)).or ((s.storeOf i).or ((s.atomicOf i).map (·.1)))

/-- The lanes that an instruction's access is made for: the real active ones, and for a load the active helper lanes too
(R15). -/
def State.accessLanes (s : State) (i : Instr) : Mask :=
  if (s.loadOf i).isSome then s.on i else s.real (s.on i)

/-- The state in which the agents of the lanes m are known to the detector (R175). -/
def State.touched (s : State) (m : Mask) : State :=
  (allLanes.filter (fun i => Mask.has (m &&& s.me.live) i)).foldl (fun s i => (s.touch s.cur i).2) s

/-- The checks of R165 pass for lane l, whose access is performed at the spots p. -/
def State.allows (s : State) (i : Instr) (x : Access) (l : Lane) (p : List Spot) : Prop :=
  (s.touched (s.accessLanes i)).judge s.cur (s.instrNo s.cur) s.pc x l = .go p

/-- Nothing holds back the access x of the lanes m: the operand log has room (R281), no lane acts for an open tile (R333), no older
access on path 0x3 waits (R153), and the history is short of every area's room by more than an instruction takes (R195). -/
structure State.free_ (s : State) (x : Access) (m : Mask) : Prop where
  log : s.me.logFull = false
  untiled : s.untiled
  io : s.me.ioWaits x m = false
  rising : mapRising s.races = true
  roomy : s.races.foldl (fun n e => n + e.2.length) 0 + 160 ≤ 2 ^ 20

/-- Byte of a location as the detector numbers them: a scratchpad's, or the home L2's (R7, R154). -/
def State.byteAt (s : State) (loc : Nat) : Byte :=
  if 2 ^ 60 ≤ loc then mapGet 0#8 (s.group (loc / 2 ^ 60 - 1)).sp (loc % 2 ^ 60) else s.mem.byte loc

/-- The locations of the bytes of spots, lowest address first. -/
def locsOf (l : List Spot) : List Nat := l.flatMap (fun p => (List.range p.size).map (fun j => p.loc + j))

/-- Spots in scratchpads and, under one buffer number, in local memory. -/
def homeSpots (buf : Nat) (l : List Spot) : Prop :=
  ∀ p ∈ l, match p with
    | .scratch _ o n => o + n ≤ 2 ^ 60
    | .memory pa n b _ => b = buf ∧ pa + n ≤ 2 ^ 57
    | _ => False

/-- Spots that a load reads at home: those, and in L1 no held copy of a path 0x1 sector, which may be old (R152, R158). -/
def State.freshSpots (s : State) (l : List Spot) : Prop :=
  ∀ p ∈ l, match p with
    | .scratch _ o n => o + n ≤ 2 ^ 60
    | .memory pa n _ path => pa + n ≤ 2 ^ 57 ∧ pa % 32 + n ≤ 32 ∧
        (path = 1 → mapHas (s.core (128 * s.me.die + s.me.core)).ro (pa / 32) = false)
    | _ => False

/-- A warp besides its waits and what the spin governor, the watch and race checks have noted of it, and its meeting registers,
which lanes that a write wakes from a spin may lose (R73, R79). -/
def Warp.unspun (w : Warp) : Warp :=
  { w with gov := Governor.empty, meet := allLanesOf 0#32, meetmask := allLanesOf 0#4, wait := allLanesOf .none, skipRace := allLanesOf none, skipWatch := allLanesOf none
           skipLate := allLanesOf [] }

/-- The device besides warps, groups, memory, the race history and the read-only sectors that cores hold. -/
def State.apart (s : State) : State := { s.besides with agents := [], races := [], rels := [], cores := [], mem := Mem.reset }

/-- From s to t no warp's meeting registers change but those of a warp whose lanes spin (R79). -/
def keepsMeets (s t : State) : Prop :=
  ∀ k, (s.warp k).gov.demoted = false → (t.warp k).meet = (s.warp k).meet ∧ (t.warp k).meetmask = (s.warp k).meetmask

/-- What an access leaves alone: everything but registers of the issuing warp and memory, the ordering it leaves behind
(R184, R193), copies in L1, and what the governor watches. The bundle steps past the word. -/
structure accessFrame (s t : State) : Prop where
  device : t.apart = s.apart
  cores : ∀ k, t.core k = { s.core k with ro := (t.core k).ro }
  others : ∀ k, k ≠ s.cur → (t.warp k).unspun = (s.warp k).unspun
  warp : t.me.besides.unspun = s.me.besides.unspun
  meets : keepsMeets s t
  masks : t.me.m = s.me.m ∧ t.me.fcsr = s.me.fcsr
  straight : noBranch s t
  pc : t.me.pc = s.stepped s.bundle

/-- From s to t the groups differ in scratchpad bytes and their poison alone. -/
def sameGroups (s t : State) : Prop :=
  ∀ k, t.group k = { s.group k with sp := (t.group k).sp, spPoison := (t.group k).spPoison }

/-- What stores leave at a location: the byte of the last of the writes l there, else what it held. -/
def lastByte (l : List (Nat × Byte)) (old : Nat → Byte) (loc : Nat) : Byte :=
  match l.reverse.find? (fun e => e.1 == loc) with
  | some e => e.2
  | none => old loc

/-- The bytes that the lanes of m store, in ascending lane order (R166, R170). -/
def writesOf (x : Access) (m : Mask) (f : Lane → List Spot) : List (Nat × Byte) :=
  (allLanes.filter (fun l => Mask.has m l)).flatMap (fun l =>
    (locsOf (f l)).zip (bytesOfNat x.size (Lanes.at x.data l).toNat))

/-- The lanes of a list make their atomic accesses in turn, over bytes by location: the bytes after, and what each lane read
(R171). -/
def atomicRun (op : BitVec 4) (x : Access) (f : Lane → List Spot) : List Lane → (Nat → Byte) → (Nat → Byte) × (Lane → Nat)
  | [], b => (b, fun _ => 0)
  | l :: t, b =>
    let old := natOfBytes ((locsOf (f l)).map b)
    let b' := match atomicNew op old ((Lanes.at x.data l).toNat % 2 ^ 64) ((Lanes.at x.data l).toNat / 2 ^ 64) with
      | some v => lastByte ((locsOf (f l)).zip (bytesOfNat x.size v)) b
      | none => b
    let r := atomicRun op x f t b'
    (r.1, fun i => if i = l then old else r.2 i)

/-- The ranges of local memory that the lanes of m store to. -/
def storedRanges (m : Mask) (f : Lane → List Spot) : List (Nat × Nat) :=
  (allLanes.filter (fun l => Mask.has m l)).flatMap (fun l => memRanges (f l))

/-- No sector that the lanes store to in part is poisoned, nor a line failing its MAC (R360, R362). -/
def State.sound (s : State) (m : Mask) (f : Lane → List Spot) : Prop :=
  ∀ l, Mask.has m l = true → ∀ p ∈ f l, match p with
    | .memory pa _ buf _ => s.storePoison (s.ctx s.me).world buf pa (storedRanges m f) = false
    | _ => True

/-! ### Copies, barriers and coroutines -/

/-- A warp besides its registers, masks, program counters, owed results and waits with the hints kept for them, and besides
what the governor and the race and watch checks have noted of it. -/
def Warp.aside (w : Warp) : Warp := { w.besides.unspun with kept := allLanesOf none }

/-- What an instruction leaves alone that acts on a unit of its core: its warp but for registers, masks and waits, every other
warp, and the device but for groups, cores, memory and the ordering it leaves behind. The bundle steps past the word. -/
structure unitFrame (s t : State) : Prop where
  device : { t.apart with mem := t.mem, fresh := 0 } = { s.apart with mem := s.mem, fresh := 0 }
  others : ∀ k, k ≠ s.cur → (t.warp k).unspun = (s.warp k).unspun
  warp : t.me.aside = s.me.aside
  meets : keepsMeets s t
  flags : t.me.fcsr = s.me.fcsr
  taken : t.taken = s.taken
  pc : t.me.pc = s.stepped s.bundle

/-- From s to t no register or mask changes. -/
def noReg (s t : State) : Prop := sameRegs s t ∧ t.me.m = s.me.m

/-- From s to t no register but n changes, and no mask; n is no longer owed a result. -/
def oneReg (s t : State) (n : Nat) : Prop :=
  t.me.m = s.me.m ∧ t.me.pendings = s.me.pendings ∧ ∀ j, j ≠ n → t.me.reg j = s.me.reg j

/-- From s to t no register changes and no mask but d, whose lanes m take f; a write to m0 is ignored. -/
def oneMask (s t : State) (d : Nat) (m : Mask) (f : Lane → Bool) : Prop :=
  sameRegs s t ∧ (∀ j, j ≠ d → t.me.mask j = s.me.mask j) ∧ t.me.mask 0 = ~~~0#32 ∧
  (0 < d → d < 16 → ∀ i, Mask.has (t.me.mask d) i = if Mask.has m i then f i else Mask.has (s.me.mask d) i)

/-- The key of the issuing warp's core. -/
def State.coreNo (s : State) : Nat := 128 * s.me.die + s.me.core

/-- The lanes of m. -/
def among (m : Mask) : List Lane := allLanes.filter (fun i => Mask.has m i)

/-- The count of copies under tag j of the issuing group (R202). -/
def State.tagCount (s : State) (j : Nat) : Nat := mapGet 0 s.myGroup.tags j

/-- Nothing has gone wrong under tag j: no data error is recorded, and no copy observed there has conflicted (R198, R205). -/
def State.tagClean (s : State) (j : Nat) : Prop :=
  s.myGroup.tagfault.getLsbD j = false ∧ ∀ e ∈ mapGet [] s.myGroup.tagDone j, (s.agent e).raced = none

/-- A lane whose value a helper lane takes is the lowest real lane of its quad (R206, R211). -/
def Warp.standsFor (w : Warp) (i : Lane) : Lane :=
  if Mask.has w.live i then i else ((allLanes.find? (fun j => Mask.has w.live j && j.val / 4 == i.val / 4))).getD i

/-- From s to t one bulk operation is queued on the issuing core (R215, R219). -/
def bulkQueued (s t : State) (kind : BulkKind) (dst src : DWord) (total : Nat) (obj : Nat × Nat) (chunks : List Nat) : Prop :=
  (∀ k, t.core k = { s.core k with bulk := (t.core k).bulk }) ∧
  ∃ k b, mapFind (t.core s.coreNo).bulk k = some b ∧ b.kind = kind ∧ b.group = s.me.group ∧ b.kern = s.me.kern ∧
    b.dst = dst ∧ b.src = src ∧ b.total = total ∧ b.left = total ∧ b.barGroup = obj.1 ∧ b.barOff = obj.2 ∧
    b.chunks = chunks ∧ b.held = 0

/-- The chunks of an operation of n bytes: 4,096 bytes each (R216). -/
def chunksOf (n : Nat) : List Nat := List.range ((n + 4095) / 4096)

/-- No watch triple of the device is enabled (R274). -/
def State.unwatched (s : State) : Prop := ∀ d, ∀ t ∈ (s.die d).wp.toList, t.2.2.getLsbD 63 = false

/-- An engine of the issuing group can read n bytes at a generic address at once, in local memory at pa (R205, R215). -/
def State.readsAt (s : State) (c : Ctx) (a : DWord) (n pa : Nat) : Prop :=
  let w := { Warp.empty with
    group := s.me.group, die := s.myGroup.die, core := s.myGroup.core, kern := s.me.kern
    segSp := s.me.segSp, segCl := s.me.segCl, segStk := s.me.segStk, segFr := s.me.segFr }
  ∃ path l buf, s.bulkAim w false a = .ranges path l ∧ s.engineAt c false false path (l.headD (0, 0)).1 n = .here pa buf

/-- The location of a barrier object. -/
def objLoc (o : Nat × Nat) : Nat := 2 ^ 60 * (o.1 + 1) + o.2

/-- Word n of the object at a location of bytes b (R208). -/
def wordAt (b : Nat → Byte) (loc n : Nat) : Nat := natOfBytes ((List.range 4).map (fun j => b (loc + 4 * n + j)))

/-- The bytes once the object at a location has the four words w. -/
def putWords (b : Nat → Byte) (loc : Nat) (w : Nat × Nat × Nat × Nat) : Nat → Byte :=
  lastByte (((List.range 16).map (loc + ·)).zip
    (bytesOfNat 4 w.1 ++ bytesOfNat 4 w.2.1 ++ bytesOfNat 4 w.2.2.1 ++ bytesOfNat 4 w.2.2.2)) b

/-- Words 0 to 3 are the bytes that arrived, the bytes expected, EXPA over ARRA, and CAUSE, OVR and PHASE: the phase completes
when some expectation is not 0 and both counts meet theirs (R208). -/
def completed (w : Nat × Nat × Nat × Nat) : Nat × Nat × Nat × Nat :=
  if w.2.2.1 / 65536 + w.2.1 ≠ 0 ∧ w.2.2.1 % 65536 = w.2.2.1 / 65536 ∧ w.1 = w.2.1 then
    (0, 0, w.2.2.1 / 65536 * 65536, w.2.2.2 / 2 ^ 25 * 2 ^ 25 + (w.2.2.2 + 1) % 2 ^ 25)
  else w

/-- OVR set (R209). -/
def overrun (w3 : Nat) : Nat := if w3 / 2 ^ 25 % 2 = 1 then w3 else w3 + 2 ^ 25

/-- The words after an expectation of n more bytes, or one more arrival (R209, R211). -/
def expected (n : Nat) (w : Nat × Nat × Nat × Nat) : Nat × Nat × Nat × Nat :=
  completed (w.1, min (w.2.1 + n) (2 ^ 32 - 1), w.2.2.1, if 2 ^ 32 ≤ w.2.1 + n then overrun w.2.2.2 else w.2.2.2)
def arrivedOne (w : Nat × Nat × Nat × Nat) : Nat × Nat × Nat × Nat :=
  completed (if w.2.2.1 % 65536 = w.2.2.1 / 65536 then (w.1, w.2.1, w.2.2.1, overrun w.2.2.2)
    else (w.1, w.2.1, w.2.2.1 / 65536 * 65536 + (w.2.2.1 + 1) % 65536, w.2.2.2))

/-- The lanes of a list update their objects in turn: the bytes after, and the phase that each read before its update
(R211). -/
def objRun (f : Lane → (Nat × Nat × Nat × Nat) → Nat × Nat × Nat × Nat) (loc : Lane → Nat) :
    List Lane → (Nat → Byte) → (Nat → Byte) × (Lane → Nat)
  | [], b => (b, fun _ => 0)
  | l :: t, b =>
    let w := (wordAt b (loc l) 0, wordAt b (loc l) 1, wordAt b (loc l) 2, wordAt b (loc l) 3)
    let r := objRun f loc t (putWords b (loc l) (f l w))
    (r.1, fun i => if i = l then w.2.2.2 % 2 ^ 25 else r.2 i)

/-- From s to t the groups differ in their scratchpads alone: bytes, poison and what stands beside barrier objects. -/
def samePads (s t : State) : Prop :=
  ∀ k, t.group k = { s.group k with sp := (t.group k).sp, spPoison := (t.group k).spPoison, objs := (t.group k).objs }

/-- Nothing has gone wrong at the object o: no cause is recorded, and no operation counted in its completed phases has
conflicted (R198, R211). -/
def State.objClean (s : State) (o : Nat × Nat) : Prop :=
  s.objCause o.1 o.2 = 0 ∧ ∀ p ∈ (s.obj o.1 o.2).phases, ∀ e ∈ p.2.2, (s.agent e.1).raced = none

/-- The members of the barriers of a list of groups: every unretired real thread, by warp and lane (R214). -/
def State.membersOf (s : State) (l : List Nat) : List (Nat × Lane) :=
  l.flatMap (fun g => (s.group g).warps.flatMap (fun k => (among (s.warp k).live).map (fun i => (k, i))))

/-- The groups of the issuing group's gang that have not retired (R12). -/
def State.myGang (s : State) : List Nat :=
  (s.groups.filter (fun e => !e.2.handler && e.2.grid == s.myGroup.grid && e.2.gang == s.myGroup.gang
    && e.2.status != .retired)).map (·.1)

/-- The frame of an instruction that acts on the rows of a frame area, or on a service ring, or on a Turnstile. -/
def binFrame (s t : State) : Prop := unitFrame { s with frames := [] } { t with frames := [] }
def ringFrame (s t : State) : Prop := unitFrame { s with rings := [] } { t with rings := [] }
def turnFrame (s t : State) : Prop := unitFrame { s with clusters := [] } { t with clusters := [] }

/-- The numbers of the free rows of a bin within its chain, lowest first (R296). -/
def Bin.free (b : Bin) : List Nat := (List.range (32 * b.chain.length)).filter (fun r => !mapHas b.rows r)

/-- From s to t the real lanes m of the instruction are filed in bin n, each in the lowest row free for it, with the condition
of R298 given by kind, arg and waddr, awake where the condition already holds; they leave the warp, and no other row
changes. -/
structure suspends (s t : State) (m : Mask) (n : Nat) (live : Word) (kind : BitVec 2) (arg : Lane → Word)
    (waddr : Lane → DWord) (awake : Lane → Bool) : Prop where
  mem : t.mem = s.mem ∧ t.groups = s.groups ∧ t.cores = s.cores
  gone : t.me.retired = s.me.retired ||| m
  pc : t.me.pc = s.stepped (s.bundle &&& ~~~m)
  regs : s.me.live &&& ~~~m ≠ 0#32 → t.me.v = s.me.v
  areas : ∀ k, k ≠ s.myFrame → t.frame k = s.frame k
  bins : ∀ j, j ≠ n → t.bin s.myFrame j = s.bin s.myFrame j
  filed : ∀ l r, Mask.has m l = true →
    (s.bin s.myFrame n).free[((among m).filter (fun j => decide (j.val < l.val))).length]? = some r →
    ∃ x, mapFind (t.bin s.myFrame n).rows r = some x ∧ x.rpc = s.pc + 4#32 ∧ x.live = live ∧ x.edit = false ∧
      x.kind = kind ∧ x.tid = Lanes.at s.me.tid l ∧ x.arg = arg l ∧ x.waddr = waddr l ∧ x.group = s.me.group ∧
      x.regs = ((List.range 32).filter (fun j => live.getLsbD j)).map (fun j => (s.me.reg j).entry.at l) ∧ x.awake = awake l
  kept : ∀ r x, mapFind (s.bin s.myFrame n).rows r = some x → mapFind (t.bin s.myFrame n).rows r = some x

/-- A row besides its being awake and what its wake released. -/
def Row.asleep (r : Row) : Row :=
  { r with awake := false, woken := 0, age := 0, pub := [], pubCls := 0, engines := [], fault := 0#6 }

/-- From s to t the sleeping rows of bin n that are numbered in l wake, and nothing else of the frame areas changes (R299). -/
structure wakes (s t : State) (n : Nat) (l : List Nat) : Prop where
  areas : ∀ k, k ≠ s.myFrame → t.frame k = s.frame k
  bins : ∀ j, j ≠ n → t.bin s.myFrame j = s.bin s.myFrame j
  none_ : ∀ r, mapFind (s.bin s.myFrame n).rows r = none → mapFind (t.bin s.myFrame n).rows r = none
  woken : ∀ r x, mapFind (s.bin s.myFrame n).rows r = some x → x.awake = false → r ∈ l →
    ∃ y, mapFind (t.bin s.myFrame n).rows r = some y ∧ y.awake = true ∧ y.woken = s.cc ∧ y.asleep = x.asleep
  others : ∀ r x, mapFind (s.bin s.myFrame n).rows r = some x → x.awake = true ∨ r ∉ l →
    mapFind (t.bin s.myFrame n).rows r = some x

/-- The numbers of the sleeping rows of bin n that satisfy f. -/
def State.sleepers (s : State) (n : Nat) (f : Row → Bool) : List Nat :=
  ((s.bin s.myFrame n).rows.filter (fun r => !r.2.awake && f r.2)).map (·.1)

/-- The value of column c of a row that stores it (R293). -/
def Row.value (r : Row) (c : Nat) : Option Word :=
  if r.live.getLsbD c then some (r.regs.getD ((List.range c).filter (fun j => r.live.getLsbD j)).length 0#32) else none

/-! ### Control cores -/

/-- Instruction i issues as an instruction of the control core of cluster cl, and passes its checks (R43, R222). -/
def State.controls (s : State) (cl : Nat) (i : Instr) : Prop :=
  s.issuer = .control cl ∧ ∃ imm, controlUse (s.cluster cl).hints i = some (imm, false) ∧
    controlMisuse (s.cluster cl).hints imm = false

/-- The stream's cluster becomes c and steps past its word, and nothing else of the device changes. -/
def streamStep (s t : State) (cl : Nat) (c : Cluster) : Prop :=
  t = { s with clusters := mapPut s.clusters cl { c with pc := c.pc + 4#32 } }

/-- A cluster whose k-register d is x; k0 reads zero (R221, R226). -/
def Cluster.withK (c : Cluster) (d : BitVec 5) (x : DWord) : Cluster :=
  if d = 0#5 then c else { c with k := c.k.set d.toNat x d.isLt }

/-- The scalar instructions of a control core: K[kd] takes the operation on K[ka] and K[kb] + imm (R226). -/
noncomputable def streamOps : List ((BitVec 5 → BitVec 5 → BitVec 5 → BitVec 6 → Instr) × (DWord → DWord → DWord)) :=
  [(.kadd, fun x y => x + y), (.ksub, fun x y => x - y), (.kmul, fun x y => x * y), (.kand, fun x y => x &&& y),
   (.kor, fun x y => x ||| y), (.kxor, fun x y => x ^^^ y), (.kshl, fun x y => x <<< (y.toNat % 64)),
   (.kshr, fun x y => x >>> (y.toNat % 64))]

/-- The comparisons of kcmp by code (R228). -/
def streamCompares : List (BitVec 6 × (DWord → DWord → Bool)) :=
  [(0#6, fun x y => decide (x = y)), (1#6, fun x y => decide (x ≠ y)), (2#6, fun x y => decide (x.toInt < y.toInt)),
   (3#6, fun x y => decide (x.toNat < y.toNat)), (4#6, fun x y => decide (x.toInt ≤ y.toInt)),
   (5#6, fun x y => decide (x.toNat ≤ y.toNat))]

/-- What an instruction of a stream leaves alone that reaches memory or the matrix engine: other clusters, warps, and the
device but for memory, groups and the ordering it leaves behind. -/
structure streamFrame (s t : State) (cl : Nat) : Prop where
  device : { t.apart with clusters := [], fresh := 0 } = { s.apart with clusters := [], fresh := 0 }
  cores : t.cores = s.cores
  others : ∀ k, k ≠ cl → t.cluster k = s.cluster k
  warps : ∀ k, (t.warp k).unspun = (s.warp k).unspun
  meets : keepsMeets s t

/-- Does mtake take entry a of a Turnstile rather than b: by age once an entry is older than 4,096 cc, otherwise by priority
and then age; then by member and by index (R234)? -/
def preferred (old : Bool) (a b : TEntry) (n m : Nat) : Prop :=
  let tie : Prop := a.age = b.age ∧ (a.member < b.member ∨ (a.member = b.member ∧ n < m))
  if old then b.age < a.age ∨ tie else b.prio < a.prio ∨ (a.prio = b.prio ∧ (b.age < a.age ∨ tie))

/-- The matrix instructions that queue an operation, with the operation, the check that it must pass at issue, and whether it
acts on a pair of accumulators (R243 to R254). -/
def State.opOf (s : State) (cl : Nat) : Instr → Option (MatOp × Option Cause × Bool)
  | .mma n a b st =>
    let c := s.cluster cl
    let o : MatOp := { MatOp.new .mma n.toNat with a := c.desc a, b := c.desc b, meta_ := c.desc (a + 1#5), step := st.toNat }
    some (o, s.passCheck c o, false)
  | .mmaSp n a b st =>
    let c := s.cluster cl
    let o : MatOp := { MatOp.new .sparse n.toNat with a := c.desc a, b := c.desc b, meta_ := c.desc (a + 1#5), step := st.toNat }
    some (o, s.passCheck c o, false)
  | .mmaGx n a b st =>
    let c := s.cluster cl
    let o : MatOp := { MatOp.new .gathered n.toNat with a := c.desc a, b := c.desc b, meta_ := c.desc (a + 1#5), step := st.toNat }
    some (o, s.passCheck c o, false)
  | .mmaF64 n a b st =>
    let c := s.cluster cl
    let o : MatOp := { MatOp.new .f64 (2 * n.toNat) with
      a := c.desc a, b := c.desc b, meta_ := c.desc (a + 1#5), step := st.toNat }
    some (o, s.passCheck c o, true)
  | .accZero n => some (MatOp.new .zero n.toNat, none, false)
  | .accLoad n m =>
    let d := (s.cluster cl).desc m
    some ({ MatOp.new .load n.toNat with a := d }, s.drainCheck (s.cluster cl) d n.toNat false, d.fmt == 8)
  | .accStore n m k =>
    let d := (s.cluster cl).desc m
    let h := (s.cluster cl).kreg k
    some ({ MatOp.new .store n.toNat with
        a := d, request := if k ≠ 0#5 ∧ h.getLsbD 63 = true then some (h.toNat % 64) else none },
      s.drainCheck (s.cluster cl) d n.toNat true, d.fmt == 8)
  | _ => none

/-! ### Events -/

/-- A warp w re-formed at cc now is x: its runnable lanes share a bundle where they share a program counter and the hints kept
for it, and only helper lanes' program counters change (R16, R68, R70). -/
structure reformed (w x : Warp) (now : Nat) : Prop where
  rest : { x with pc := w.pc, bundles := w.bundles, formed := w.formed } = w
  formed : x.formed = now
  pcs : ∀ i, Mask.has w.runnable i = true → Lanes.at x.pc i = Lanes.at w.pc i
  bundles : ∀ i j, Mask.has w.runnable i = true → Mask.has w.runnable j = true →
    ((∃ b ∈ x.bundles, Mask.has b.lanes i = true ∧ Mask.has b.lanes j = true) ↔
      Lanes.at w.pc i = Lanes.at w.pc j ∧ w.carried i = w.carried j)

/-- A warp's registers, masks and marks of progress: all that the scheduler never touches. -/
def Warp.values (w : Warp) : Vector VReg 32 × Vector VReg 8 × Vector Mask 16 × Word × DWord × Lanes Word × Lanes (BitVec 4) :=
  (w.v, w.h, w.m, w.fcsr, w.issued, w.meet, w.meetmask)

/-- The same without the meeting registers, which a lane may lose that leaves a wait at its meeting point (R73). -/
def Warp.contents (w : Warp) : Vector VReg 32 × Vector VReg 8 × Vector Mask 16 × Word × DWord := (w.v, w.h, w.m, w.fcsr, w.issued)

/-- From s to t group g and its running warps are stopped and saved, with dest and st saying where they are (R81, R285). -/
structure stopped (s t : State) (g : Nat) (dest : Residence) (st : GroupStatus) : Prop where
  group : (t.group g).status = st ∧ (t.group g).preq = false
  warps : ∀ k ∈ (s.group g).warps, (s.warp k).place = .running →
    (t.warp k).place = dest ∧ (t.warp k).bundles = [] ∧ (t.warp k).pc = (s.warp k).pc ∧ (t.warp k).m = (s.warp k).m

/-- From s to t memory differs in the n bytes at a alone. -/
def onlyBytes (s t : State) (a n : Nat) : Prop := ∀ b, b < a ∨ a + n ≤ b → t.mem.byte b = s.mem.byte b

/-- Every trap of ts has, for warp w, the mode given and the handler h (R259). -/
def State.allMode (s : State) (w : Warp) (ts : List (Lane × Trap)) (mode : Nat) (h : Word) : Prop :=
  ∀ x ∈ ts, x.2.cause ≠ .quota ∧ x.2.cause ≠ .fmtx ∧ (s.table w x.2.cause).1 = mode ∧
    (mode = 1 → (s.table w x.2.cause).2 = h)

/-- What local entry at h with the traps ts makes of warp w (R262). -/
structure entersLocal (w x : Warp) (ts : List (Lane × Trap)) (h : Word) : Prop where
  mode : x.trap = true ∧ x.hbank = false ∧ x.h = zeroH ∧ x.fmask = trapLanes ts ∧ x.waiting = []
  kept : x.v = w.v ∧ x.m = w.m ∧ x.fcsr = w.fcsr ∧ x.pend = w.pend
  lanes : ∀ i, Mask.has (w.live &&& ~~~w.detached) i = true →
    Lanes.at x.tpc i = Lanes.at w.pc i ∧ Lanes.at x.pc i = h
  told : ∀ i, match trapOf ts i with
    | some t => Lanes.at x.taddr i = t.addr ∧ Lanes.at x.cause i = t.word
    | none => Lanes.at x.taddr i = 0#64 ∧ Lanes.at x.cause i = 0#32

/-- The handler warp x that the bin b of a die forms on a core (R269, R270). -/
structure handles (s : State) (x : Warp) (die core : Nat) (b : TrapBin) : Prop where
  unit : x.handler = true ∧ x.die = die ∧ x.core = core ∧ x.slot = 63 ∧ x.place = .running
  real : ∀ i : Lane, Mask.has x.real i = decide (i.val < b.rows.length)
  rows : ∀ (i : Lane) r, b.rows[i.val]? = some r →
    Lanes.at x.pc i = b.handler ∧ Lanes.at x.origin i = r.origin ∧ Lanes.at x.tpc i = r.tpc ∧ Lanes.at x.cause i = r.cause ∧
    Lanes.at x.taddr i = r.taddr ∧ Lanes.at x.done i = r.done
  regs : ∀ (i : Lane) r, b.rows[i.val]? = some r → ∀ n, n < min (s.grid b.grid).record.regs 28 →
    (x.reg n).entry.at i = (r.regs.getD n (0#32, 0#4)).1

/-- The four words of the object at a location (R208). -/
def wordsAt (b : Nat → Byte) (loc : Nat) : Nat × Nat × Nat × Nat := (wordAt b loc 0, wordAt b loc 1, wordAt b loc 2, wordAt b loc 3)

/-- The words of an object once n bytes have arrived, or once a failed operation's cause has been recorded (R209, R215). -/
def counted (n : Nat) (w : Nat × Nat × Nat × Nat) : Nat × Nat × Nat × Nat :=
  completed (min (w.1 + n) (2 ^ 32 - 1), w.2.1, w.2.2.1, if 2 ^ 32 ≤ w.1 + n then overrun w.2.2.2 else w.2.2.2)
def stamped (c : Cause) (w : Nat × Nat × Nat × Nat) : Nat × Nat × Nat × Nat :=
  (w.1, w.2.1, w.2.2.1, if w.2.2.2 / 2 ^ 26 = 0 then w.2.2.2 + c.code.toNat * 2 ^ 26 else w.2.2.2)

/-- The bytes once the object at a location has words f of those it had. -/
def objStep (f : Nat × Nat × Nat × Nat → Nat × Nat × Nat × Nat) (b : Nat → Byte) (loc : Nat) : Nat → Byte :=
  putWords b loc (f (wordsAt b loc))

/-- The bytes once the list l stands at a location. -/
def putBytes (b : Nat → Byte) (loc : Nat) (l : List Byte) : Nat → Byte :=
  lastByte (((List.range l.length).map (loc + ·)).zip l) b

/-- Element j of accumulator n of a cluster, row major (R242). -/
def Cluster.element (c : Cluster) (n j : Nat) : Word := mapGet 0#32 c.acc (n * 8192 + j)

/-- From one cluster to another the accumulators besides those of l keep their elements. -/
def otherAccs (c d : Cluster) (l : List Nat) : Prop := ∀ n, n ∉ l → ∀ j < 8192, d.element n j = c.element n j

/-- Queue hart q, which neither waits in a WAIT nor has its packet behind it, has read packet i, of bytes b, and the state is u
then (R314). -/
def State.reads_ (s u : State) (q : BitVec 5) (i : Nat) (b : List Byte) : Prop :=
  (s.hart q).state ≠ .waitCond ∧ (s.hart q).state ≠ .pass ∧ s.head q = .packet u i b

/-- Hart q can pass packet i: the descriptor, which it reads as d, and the packet's header can be written. -/
def State.passes (s : State) (q : BitVec 5) (i : Nat) (d : List Byte) : Prop :=
  let a := descOf (s.hart q).bind
  s.frontCan q.toNat (s.hartCtx q) a 64 = .bytes [] ∧ s.frontGet q.toNat (s.hartCtx q) a 64 = .bytes d ∧
  s.frontCan q.toNat (s.hartCtx q) (slotOf d i) 4 = .bytes []

/-- From u to t hart q completes packet i under the descriptor d: the header becomes 0, then RIDX passes it, and the hart goes on or
sleeps at DOOR (R314). -/
structure passed (u t : State) (q : BitVec 5) (i : Nat) (d : List Byte) : Prop where
  mem : t.mem = ((u.frontPut (u.hartCtx q) (slotOf d i) (bytesOfNat 4 0)).frontPut (u.hartCtx q)
    (descOf (u.hart q).bind + 24) (bytesOfNat 8 (i + 1))).mem
  hart : t.hart q = { u.hart q with
    state := if !(u.qbind q).getLsbD 63 || i + 1 == num d 16 8 then .idle else .waitHeader
    packet := [] }

/-- The code-2 record of a queue that stops (R316, R365). -/
def stopRecord (q : BitVec 5) (i code : Nat) : DevRec :=
  { code := 2, body := bytesOfNat 8 q.toNat ++ bytesOfNat 8 i ++ bytesOfNat 4 code ++ List.replicate 44 0#8, warp := none
    cluster := none }

/-- From u to t hart q stops its queue at packet i: ERRIDX is written, then ERRCODE, and the record is posted (R316). -/
structure stopsQueue (u t : State) (q : BitVec 5) (i code : Nat) : Prop where
  mem : t.mem = ((u.frontPut (u.hartCtx q) (descOf (u.hart q).bind + 48) (bytesOfNat 8 i)).frontPut (u.hartCtx q)
    (descOf (u.hart q).bind + 40) (bytesOfNat 4 code)).mem
  hart : t.hart q = { u.hart q with state := .stopped, packet := [] }
  record : (t.ring 0).waiting = (u.ring 0).waiting ++ [.record (stopRecord q i code)]

/-- Grid x is a launch that the front end has accepted with these addresses and threads, and nothing of it has started (R316,
R319). -/
def Grid.isNew (x : Grid) (record args compl threads : Nat) : Prop :=
  x.status = .accepted ∧ x.recAddr = BitVec.ofNat 64 record ∧ x.argAddr = BitVec.ofNat 64 args ∧
  x.compl = BitVec.ofNat 64 compl ∧ x.threads = threads ∧ x.next = 0 ∧ x.running = 0 ∧ x.retired = 0

/-- From s to t the core of the machine is as it was: warps, groups, grids and memory. -/
structure sameWork (s t : State) : Prop where
  warps : t.warps = s.warps
  groups : t.groups = s.groups
  grids : t.grids = s.grids
  mem : t.mem = s.mem

/-- From s to t link p alone differs, now l. -/
def onlyLink (s t : State) (p : Nat) (l : Link) : Prop :=
  { t with links := s.links } = s ∧ t.link p = l ∧ ∀ q, q ≠ p → t.link q = s.link q

/-- The record of an uncorrectable error (R363, R365). -/
def errorRecord (d : Nat) (unit : BitVec 4) (loc : DWord) : DevRec :=
  { code := 3
    body := bytesOfNat 1 d ++ bytesOfNat 1 unit.toNat ++ List.replicate 6 0#8 ++ bytesOfNat 8 loc.toNat ++ List.replicate 48 0#8
    warp := none, cluster := none }
/-- The record of a refused inbound request of port p (R365, R376). -/
def inboundRecord (p : Nat) (rid : BitVec 16) (addr : DWord) (write : Bool) (code : Nat) : DevRec :=
  { code := 4
    body := bytesOfNat 8 addr.toNat ++ bytesOfNat 2 rid.toNat ++ bytesOfNat 1 p ++ bytesOfNat 1 (if write then 1 else 0)
      ++ bytesOfNat 1 code ++ List.replicate 51 0#8
    warp := none, cluster := none }
/-- From s to t the record r waits to be filed on die 0 while fewer than 64 wait there, and else is dropped (R366). -/
def buffered (s t : State) (r : DevRec) : Prop :=
  (t.ring 0).waiting = if (s.ring 0).records.length < 64 then (s.ring 0).waiting ++ [.record r] else (s.ring 0).waiting

/-- From s to t port p refuses an inbound request with a cause code: IDROP and LASTRID are set, a read ends Unsupported Request, and
the code-4 record is posted (R373, R376). -/
structure refuses (s t : State) (p : Nat) (rid : BitVec 16) (addr : DWord) (write : Bool) (code : Nat) : Prop where
  work : sameWork s t
  stat : ∀ j, j < 64 → (t.port p).stat.getLsbD j =
    if j = 60 then true else if 16 ≤ j ∧ j ≤ 31 then rid.getLsbD (j - 16) else (s.port p).stat.getLsbD j
  completed : (t.port p).completed = if write then (s.port p).completed else (s.port p).completed ++ [(rid, addr, .unsupported)]
  record : buffered s t (inboundRecord p rid addr write code)

/-- Lane i of warp k waits for the value of the warp's one pending result x, a 4-byte load, and no trap of the warp waits for it. -/
def State.awaits (s : State) (k id : Nat) (i : Lane) (x : Pend) : Prop :=
  (s.warp k).pend = [x] ∧ (s.warp k).deferred = [] ∧ (∀ op, x.acc.kind ≠ .atomic op) ∧ x.id = id ∧ x.acc.size = 4 ∧ x.acc.scalar = false ∧ x.dests ≠ [] ∧ Mask.has x.lanes i = true ∧
  x.vals.length = 1
/-- From s to t the value v arrives for lane i of the one pending result x of warp k. -/
structure arrives (s t : State) (k : Nat) (i : Lane) (x : Pend) (v : Word) : Prop where
  mem : t.mem = s.mem
  values : (t.warp k).values = (s.warp k).values
  pend : ∃ y, (t.warp k).pend = [y] ∧ y.dests = x.dests ∧ y.lanes = x.lanes ∧ Mask.has y.got i = true ∧
    Mask.has y.remote i = false ∧ ∀ l, x.vals = [l] → y.vals = [Lanes.put l i v]
/-- From s to t a request of lane i for result id of warp k fails with a cause, which is raised once the instruction is looked at
(R281). -/
def marksFailed (s t : State) (k id : Nat) (i : Lane) (c : Cause) : Prop :=
  ((t.warp k).pending id).map (fun p => p.failed) = ((s.warp k).pending id).map (fun p => (i, c) :: p.failed)

/-- From s to t register a of the front end's block takes v, and nothing but that block's registers differs. -/
def frontTakes (s t : State) (a : Nat) (f : Nat → Bool) : Prop :=
  { t with front := s.front } = s ∧ (∀ j, j < 64 → (t.frontRead a).getLsbD j = f j) ∧ ∀ b, b ≠ a → t.frontRead b = s.frontRead b

/-- Flit f is the next on link l in counter order, of a kind and with no reserved bit (R383, R386). -/
def Link.expects (l : Link) (f : Flit) (kind : BitVec 4) : Prop :=
  l.up = true ∧ f.epoch = l.rxEpoch ∧ f.counter = l.rxCounter ∧ f.kind = kind ∧ f.reservedZero = true ∧ kind.toNat < 4
/-- Does an acknowledgement of (ae, a) cover a sent flit (R385)? -/
def SentFlit.acked (x : SentFlit) (ae a : Nat) : Prop := x.epoch < ae ∨ (x.epoch = ae ∧ x.counter ≤ a)
/-- From l to m flit f is verified: it is the last one, a failure is over, and no flit that its ACK leaves open is dropped (R385,
R386). -/
def Link.verifies (l m : Link) (f : Flit) : Prop :=
  m.rxLast = (f.epoch, f.counter) ∧ m.fails = 0 ∧ m.retryAsked = false ∧ m.up = true ∧ m.peer = l.peer ∧
  ∀ x ∈ l.sent, ¬x.acked f.ackEpoch f.ack → x ∈ m.sent
/-- From l to m a flit of a kind is sent under the next counter, with an ACK of the last flit verified. -/
def Link.sends (l m : Link) (kind : BitVec 4) : Prop :=
  ∃ g, m.sent = l.sent ++ [⟨l.txEpoch, l.txCounter, g⟩] ∧ g.kind = kind ∧ g.epoch = l.txEpoch ∧ g.counter = l.txCounter ∧
    (g.ackEpoch, g.ack) = l.rxLast
/-- Link m has a packet to send or has sent it. -/
def Link.hands (m : Link) (x : LinkPacket) : Prop := x ∈ m.out ∨ ∃ g ∈ m.sent, x ∈ g.flit.packets
/-- May link l send one more flit, of a kind other than a key's (R385, R388)? -/
def Link.free (l : Link) : Bool :=
  decide (l.sent.length < 64) && decide (l.txCounter < 2 ^ 32 - 1) && !(l.stalled || l.keyLate)

/-- From s to t writer n of event records, whose register is evt, writes the record b or, with EN 0, nothing (R392, R400). -/
def recordsEvent (s t : State) (n : Nat) (evt : DWord) (b : List Byte) : Prop :=
  let a := (evt &&& keepBits (-1#64) 56 4).toNat
  (evt.getLsbD 63 = false → t.mem = s.mem) ∧
  (evt.getLsbD 63 = true → s.frontCan (eventKey n) s.sysCtx a 16 = .bytes [] → t.mem = (s.frontPut s.sysCtx a b).mem)
/-- The record of a KIND of port p (R392). -/
def State.linkRecord (s : State) (p kind : Nat) (peer : BitVec 9) : List Byte :=
  bytesOfNat 2 p ++ bytesOfNat 1 kind ++ [0#8] ++ bytesOfNat 2 peer.toNat ++ bytesOfNat 2 0 ++ bytesOfNat 8 (s.clock / 1000000)
/-- Root's record of a KIND (R400). -/
def State.rootRecord (s : State) (kind word : Nat) : List Byte :=
  bytesOfNat 1 kind ++ List.replicate 3 0#8 ++ bytesOfNat 4 word ++ bytesOfNat 8 (s.clock / 1000000)

/-- From s to t port p goes down with a KIND: keys and buffers are gone, DOWNS counts, and the event is recorded (R390, R392). -/
structure goesDown (s t : State) (p kind : Nat) : Prop where
  keys : (t.link p).up = false ∧ (t.link p).keyed = false ∧ (t.link p).nextKey = false
  buffers : (t.link p).sent = [] ∧ (t.link p).out = [] ∧ (t.link p).reqs = []
  peer : (t.link p).peer = (s.link p).peer ∧ (t.link p).retries = (s.link p).retries ∧ (t.link p).evt = (s.link p).evt
  downs : (t.link p).downs = if (s.link p).downs = 255#8 then 255#8 else (s.link p).downs + 1#8
  event : recordsEvent s t p (s.link p).evt (s.linkRecord p kind (s.link p).peer)
/-- Nothing waits behind port p. -/
def State.nothingOn (s : State) (p : Nat) : Prop := (s.link p).reqs = [] ∧ s.faults = []

/-- From s to t a start of a kind fails (R398): its count rises, and what starts next follows from the count. -/
def failsStart (s t : State) (kind : BitVec 3) : Prop :=
  t.firm.phase = .pending ∧ t.firm.ready = false ∧ t.firm.fuses = s.firm.fuses ∧
  (kind = 1#3 →
    t.firm.wfail = (if s.firm.wfail = 15#4 then 15#4 else s.firm.wfail + 1#4) ∧ t.firm.cfail = s.firm.cfail ∧
    (t.firm.wfail.toNat < 3 → t.firm.nextWarm = true ∧ t.firm.reason = 3#4) ∧
    (3 ≤ t.firm.wfail.toNat → t.firm.nextWarm = false ∧ t.firm.reason = 2#4)) ∧
  (kind ≠ 1#3 →
    t.firm.cfail = (if s.firm.cfail = 15#4 then 15#4 else s.firm.cfail + 1#4) ∧ t.firm.wfail = s.firm.wfail ∧
    t.firm.nextWarm = false ∧
    (t.firm.cfail.toNat < 3 → t.firm.reason = 3#4) ∧ (3 ≤ t.firm.cfail.toNat → t.firm.reason = 4#4))
/-- Nothing runs on the compute dies. -/
def State.isStill (t : State) : Prop := t.warps = [] ∧ t.groups = [] ∧ t.grids = [] ∧ t.worlds = []
/-- From s to t firmware alone changes, to f. -/
def firmTakes (s t : State) (f : Firmware) : Prop := t.firm = f ∧ { t with firm := s.firm, fresh := s.fresh } = s

/-- The lane that lane i reads under a perm code with parameter k (R47). -/
def laneRead (p : Perm) (k i : Nat) : Nat :=
  match p with
  | .direct | .scalar => i
  | .broadcast => k
  | .rotate => (i + 32 - k) % 32
  | .butterfly => i ^^^ k
  | .mirror => 31 - i
  | .quadBroadcast => (i &&& 28) + (k &&& 3)
  | .quadButterfly => i ^^^ (k &&& 3)
/-- The parameter of a source, the second being B: that of hint.k, or the default of its code (R47, R50). -/
def State.parameter (s : State) (second : Bool) (p : Perm) : Nat :=
  match s.hints.k, p with
  | some (b, a), _ => if second then b.toNat else a.toNat
  | none, .rotate | none, .butterfly | none, .quadButterfly => 1
  | none, _ => 0

/-- u is the state in which the packet at hand goes on, or in which the next one that the agenda's slot chooses begins (R42,
R71). -/
def State.issues (s u : State) : Prop :=
  (s.inPacket = true ∧ s.issuer = .vector ∧ u = s) ∨
  (s.inPacket = false ∧ ∃ core k rest w j b, s.agenda = .slot core k :: rest ∧
    let c := { s with agenda := rest }.landCore core
    let l := (c.ready core k).filter c.allocates
    c.chosen l = some (w, j, b) ∧
    let others : List (Nat × Nat × Bundle) := l.filter (fun x => !(x.1 == w && x.2.1 == j))
    let p := { c with rivals := others.map (fun (x : Nat × Nat × Bundle) => (x.1, x.2.2.lanes)) }.begin w b
    p.go = true ∧ u = p.st)
/-- u is the state in which the control core of cluster cl goes on (R57). -/
def State.controlIssues (s u : State) (cl : Nat) : Prop :=
  (s.inPacket = true ∧ s.issuer = .control cl ∧ u = s) ∨
  (s.inPacket = false ∧ ∃ rest, s.agenda = .control cl :: rest ∧ u = { s with agenda := rest })
/-- Word w decodes to i; a word that decodes to nothing is the unassigned encoding (R52). -/
def reads (w : Word) (i : Instr) : Prop := decode w = .ok i ∨ (∃ e, decode w = .error e) ∧ i = .unassignedEncoding w

/-- From s to t the warps, groups and memory alone differ. -/
def State.outer (s : State) : State :=
  { s.besides with mem := Mem.reset, rings := [] }

end Sys2Proof.Machine
end

