-- ==== Sys2Proof/Certificates/Slice0/Obligations.lean ====
section
/-! DEFINITION. The statements for the provers. -/

open Sys2Proof Sys2Proof.Machine

/-! ### Decoding and checks -/

/-- Check 3 to 6 of R43: an instruction whose use fails a check raises that check's cause in its real active lanes and does
nothing else; on a control core an instruction of the vector core is ILLEGAL (R57).

What the rules leave open here is taken as in log 19. -/
def Obligations.FailedChecks : Prop :=
  (∀ i s u c, s.issuer = .vector → s.useOf i = some u → s.decodeCheck u = some c → exec i s = .next (s.failed u c)) ∧
  (∀ i s u cl, s.issuer = .control cl → s.useOf i = some u → controlUse (s.cluster cl).hints i = none →
    exec i s = .next (s.controlFault cl .illegal 0#64)) ∧
  (∀ w s, s.issuer = .vector → isHint w = false → exec (.unassignedEncoding w) s = .next (s.failed { bad := true } .illegal))

/-- R41, R52, R66, R71: a step of a bundle or of a control core runs the instruction that the four bytes at its program counter
decode to, and a step of an event that event; what follows it is the model's (an access for whose history there is no room
stalls, R195, log 51); every instruction answers a next state. -/
def Obligations.StepRunsDecoded : Prop :=
  (∀ (s u : State) w i t, s.issues u → u.fetch (u.ctx u.me) (u.grid u.myGroup.grid).record u.pc = .word w → reads w i →
    u.codeBad (u.ctx u.me) (u.grid u.myGroup.grid).record u.pc = none →
    (endsRegion i = true → u.storesOut u.cur = false) →
    let v := { u with reads := if u.me.spoiled.isEmpty then [] else u.me.readRegs w }
    exec i v = .next t → step s = .next (v.finishVector w i t)) ∧
  (∀ (s u : State) cl g lo w i t, s.controlIssues u cl → (u.cluster cl).gang = some (g, lo) → (u.cluster cl).stopped = false →
    (u.cluster cl).saved = false →
    let c : Ctx := ⟨cl / 32, 4 * (cl % 32), (u.grid g).record.ptroot, (u.grid g).world, true⟩
    u.fetch c (u.grid g).record (u.cluster cl).pc = .word w → reads w i →
    u.codeBad c (u.grid g).record (u.cluster cl).pc = none →
    let v := { u with issuer := .control cl, stalled := false }
    exec i v = .next t → step s = .next (v.finish w i t)) ∧
  (∀ (s : State) i rest t, s.inPacket = false → s.agenda = .event i :: rest → exec i { s with agenda := rest } = .next t →
    step s = .next (State.finishEvent { s with agenda := rest } t)) ∧
  (∀ (s : State) c r (pc : Word) pa, pc.toNat < r.codelen.toNat →
    s.physical { c with kern := true } false ((r.code.toNat + pc.toNat) % 2 ^ 57) = some pa →
    s.fetch c r pc = .word (wordOfBytes (s.mem.byte pa) (s.mem.byte (pa + 1)) (s.mem.byte (pa + 2)) (s.mem.byte (pa + 3)))) ∧
  (∀ i s, ∃ t, exec i s = .next t) ∧ ∀ s, ∃ t, step s = .next t

/-- R41, R44, R46 and the examples of the instructions' rules: words of the spec and the instructions that they stand for. -/
def Obligations.DecodedWords : Prop :=
  ∀ e ∈ [(0x069BFFF8#32, Instr.brnz 6#5 0x3FFF8#18),
      (0x0C402062#32, .mand 2#4 1#4 3#4 0#2),
      (0x4C403C60#32, .vshl 2#5 ⟨.direct, 1#5⟩ ⟨.scalar, 3#5⟩ 0#2),
      (0x44C04060#32, .vmad 6#5 ⟨.direct, 2#5⟩ ⟨.direct, 3#5⟩ 0#2),
      (0x24060008#32, .rds 6#7 0#12 1#1),
      (0x80C04063#32, .vfmaF32 6#5 ⟨.direct, 2#5⟩ ⟨.direct, 3#5⟩ 0#2),
      (0xA0805020#32, .vfcvt 4#5 ⟨.direct, 2#5⟩ 8#4 1#4 0#2),
      (0xB0A04060#32, .vshfl 5#5 ⟨.direct, 2#5⟩ ⟨.direct, 3#5⟩ 0#2),
      (0xC0A22188#32, .ld 5#5 2#5 4#5 3#4 0#2 2#3 0#2),
      (0xD8A22180#32, .atomAdd32 5#5 2#5 4#5 6#5 0#2),
      (0xE1021A40#32, .cpAsync 8#5 2#5 3#5 9#5 0#6),
      (0xE8BCC002#32, .barArrive 5#5 ⟨.scalar, 6#5⟩ 0#2),
      (0xF8011020#32, .mma 0#5 1#5 2#5 1#6),
      (0x25000070#32, .trap 7#12),
      (0xEC7C8042#32, .wake 3#5 ⟨.scalar, 4#5⟩ 2#6),
      (0xF07E8004#32, .launch 3#5 20#5 0#2)],
    decode e.1 = .ok e.2

/-- R41, R44: the word that the encoder gives a well-formed instruction decodes to that instruction, every operand at every value. -/
def Obligations.EncodingsDecode : Prop :=
  ∀ i : Instr, i.wf = true → i.isWord = true → decode (encode i) = .ok i

/-! ### The whole machine -/

/-- R159, R362: a step answers a next state, whose physical memory is in its one canonical form if it was before. -/
def Obligations.StepKeepsMemoryForm : Prop :=
  ∀ s : State, s.mem.wf = true → ∃ t, step s = .next t ∧ t.mem.wf = true

/-- R276, R310, R311, R324, R363, R364, R373, R375, R391, R397, R398, R400, R402: what reset leaves. Every register of I/O space has
the reset value of its table, STARTREC and PWRSTAT hold a first cold start at 600 MHz, the debug registers are 0, nothing runs,
and memory is zero and in its canonical form. That a cold start has loaded the OS image is the model's choice (log 1). -/
def Obligations.ResetState : Prop :=
  (∀ a, State.reset.frontRead a =
    if a = 0x1418 then BitVec.ofNat 64 (600 * 2 ^ 42) else if a = 0x1400 then BitVec.ofNat 64 (ownDevice * 2 ^ 39) else 0#64) ∧
  (∀ p off, State.reset.portRead p off = if off = 0 then 50#64 else 0#64) ∧
  (∀ d, (State.reset.die d).wp = Vector.replicate 16 (0#64, 0#64, 0#64) ∧ (State.reset.die d).whitAddr = 0#64 ∧
    (State.reset.die d).whitInfo = 0#64) ∧
  (∀ c, (State.reset.core c).bp = Vector.replicate 16 (0#64, 0#64)) ∧
  State.reset.isStill ∧ State.reset.clock = 0 ∧ (∀ a, State.reset.mem.byte a = 0#8) ∧ State.reset.mem.wf = true

/-! ### Control -/

/-- R83: a direct branch takes the real active lanes that its condition selects to its target, and the others fall through;
the brc forms count the mask over the real active lanes. -/
def Obligations.DirectBranches : Prop :=
  (∀ i s, s.runs (.bra i) →
    ∃ t, exec (.bra i) s = .next t ∧ branches s.bundle s t (s.real (s.on (.bra i))) (fun _ => s.pc + (i.signExtend 32 <<< 2))) ∧
  (∀ e ∈ maskBranches, ∀ m i s, s.runs (e.1 m i) →
    ∃ t, exec (e.1 m i) s = .next t ∧
      branches s.bundle s t (if e.2 (s.real (s.on (e.1 m i))) (s.me.mask m.toNat) then s.real (s.on (e.1 m i)) else 0#32)
        (fun _ => s.pc + (i.signExtend 32 <<< 2))) ∧
  (∀ r i s, s.runs (.brz r i) →
    ∃ t, exec (.brz r i) s = .next t ∧
      branches s.bundle s t (maskOf (fun j => Mask.has (s.real (s.on (.brz r i))) j && s.me.lane r.toNat j == 0#32))
        (fun _ => s.pc + (i.signExtend 32 <<< 2))) ∧
  (∀ r i s, s.runs (.brnz r i) →
    ∃ t, exec (.brnz r i) s = .next t ∧
      branches s.bundle s t (maskOf (fun j => Mask.has (s.real (s.on (.brnz r i))) j && s.me.lane r.toNat j != 0#32))
        (fun _ => s.pc + (i.signExtend 32 <<< 2)))

/-- R85, R86: park records the meeting point and the mask and goes there; call and callx write the address of the next word
into their register, every active lane's, and go; ret and bix go where the register says. Real active lanes whose target is
misaligned or outside the image trap, and go nowhere (R66); a helper lane with such a target is given the link 0 (R15).

What the rules leave open here is taken as in log 17. -/
def Obligations.JumpsAndCalls : Prop :=
  (∀ m i s, s.runs (.park m i) →
    ∃ t, exec (.park m i) s = .next t ∧
      let r := s.real (s.on (.park m i))
      let to_ := s.pc + (i.signExtend 32 <<< 2)
      t.taken = s.taken ||| r ∧ t.unit = s.unit ∧
      onlyMe s t { s.me with
        meet := Lanes.where_ s.me.meet r (fun _ => to_)
        meetmask := Lanes.where_ s.me.meetmask r (fun _ => m)
        pc := s.gone s.bundle r (fun _ => to_) }) ∧
  (∀ r i s, s.runs (.call r i) →
    ∃ t, exec (.call r i) s = .next t ∧
      calls s.bundle s t (s.real (s.on (.call r i))) (fun _ => s.pc + (i.signExtend 32 <<< 2)) (s.me.regNo r.toNat)
        (s.on (.call r i)) (fun _ => s.pc + 4#32)) ∧
  (∀ r s, s.runs (.callx r) →
    let go := s.real (s.on (.callx r))
    let bad := s.strays go (s.me.lane r.toNat)
    ∃ t ts, exec (.callx r) s = .next (t.raise ts) ∧ ts = s.badTargets go (s.me.lane r.toNat) ∧ trapLanes ts = bad ∧
      calls (s.bundle &&& ~~~bad) s t (go &&& ~~~bad) (s.me.lane r.toNat) (s.me.regNo r.toNat)
        (s.on (.callx r) &&& ~~~bad)
        (fun i => if Mask.has (s.strays (s.on (.callx r)) (s.me.lane r.toNat)) i then 0#32 else s.pc + 4#32)) ∧
  (∀ i r s, i = .ret r ∨ i = .bix r → s.runs i →
    let go := s.real (s.on i)
    let bad := s.strays go (s.me.lane r.toNat)
    ∃ t ts, exec i s = .next (t.raise ts) ∧ ts = s.badTargets go (s.me.lane r.toNat) ∧ trapLanes ts = bad ∧
      branches (s.bundle &&& ~~~bad) s t (go &&& ~~~bad) (s.me.lane r.toNat)) ∧
  (∀ s, State.raise s [] = s)

/-- R84, R87, R88: masks are written in the real active lanes; a count takes all 32 bits of its mask; the any and all votes
count the real active lanes and write the active ones, and a ballot gives each active lane the whole word. -/
def Obligations.MasksAndVotes : Prop :=
  (∀ e ∈ maskPairs, ∀ d a b p s, s.runs (e.1 d a b p) →
    ∃ t, exec (e.1 d a b p) s = .next t ∧ t.me.fcsr = s.me.fcsr ∧
      maskTakes s t d.toNat (s.real (s.on (e.1 d a b p)))
        (fun i => e.2 (Mask.has (s.me.mask a.toNat) i) (Mask.has (s.me.mask b.toNat) i))) ∧
  (∀ d a p s, s.runs (.mnot d a p) →
    ∃ t, exec (.mnot d a p) s = .next t ∧ t.me.fcsr = s.me.fcsr ∧
      maskTakes s t d.toNat (s.real (s.on (.mnot d a p))) (fun i => !Mask.has (s.me.mask a.toNat) i)) ∧
  (∀ m p s, s.runs (.enrol m p) →
    ∃ t, exec (.enrol m p) s = .next t ∧ t.me.fcsr = s.me.fcsr ∧
      maskTakes s t m.toNat (s.real (s.on (.enrol m p))) (fun _ => true)) ∧
  (∀ m p s, s.runs (.strike m p) →
    ∃ t, exec (.strike m p) s = .next t ∧ noBranch s t ∧
      let r := s.real (s.on (.strike m p))
      onlyMe s t { s.me.setMask m.toNat (s.me.mask m.toNat &&& ~~~r) with
        meet := Lanes.where_ s.me.meet r (fun _ => 0#32)
        meetmask := Lanes.where_ s.me.meetmask r (fun _ => 0#4)
        pc := s.stepped s.bundle }) ∧
  (∀ d a p s, s.runs (.mpop d a p) →
    ∃ t, exec (.mpop d a p) s = .next t ∧ regFrame s t [s.me.regNo d.toNat] ∧
      regTakes s t (s.me.regNo d.toNat) (s.real (s.on (.mpop d a p)))
        (fun _ => BitVec.ofNat 32 (allLanes.filter (fun i => Mask.has (s.me.mask a.toNat) i)).length) 0#4) ∧
  (∀ d a p s, s.runs (.mfirst d a p) →
    ∃ t, exec (.mfirst d a p) s = .next t ∧ regFrame s t [s.me.regNo d.toNat] ∧
      regTakes s t (s.me.regNo d.toNat) (s.real (s.on (.mfirst d a p)))
        (fun _ => match allLanes.find? (fun i => Mask.has (s.me.mask a.toNat) i) with
          | some i => BitVec.ofNat 32 i.val
          | none => 32#32) 0#4) ∧
  (∀ d a p s, s.runs (.voteAny d a p) →
    ∃ t, exec (.voteAny d a p) s = .next t ∧ t.me.fcsr = s.me.fcsr ∧
      maskTakes s t d.toNat (s.on (.voteAny d a p))
        (fun _ => allLanes.any (fun i => Mask.has (s.real (s.on (.voteAny d a p))) i && (s.srcA a).at i != 0#32))) ∧
  (∀ d a p s, s.runs (.voteAll d a p) →
    ∃ t, exec (.voteAll d a p) s = .next t ∧ t.me.fcsr = s.me.fcsr ∧
      maskTakes s t d.toNat (s.on (.voteAll d a p))
        (fun _ => allLanes.all (fun i => !Mask.has (s.real (s.on (.voteAll d a p))) i || (s.srcA a).at i != 0#32))) ∧
  (∀ d a p s, s.runs (.voteBallot d a p) →
    ∃ t, exec (.voteBallot d a p) s = .next t ∧ regFrame s t [s.me.regNo d.toNat] ∧
      regTakes s t (s.me.regNo d.toNat) (s.on (.voteBallot d a p))
        (fun _ => maskOf (fun i => Mask.has (s.real (s.on (.voteBallot d a p))) i && (s.srcA a).at i != 0#32)) 0#4)

/-- R89 to R91, R93: exit retires the real active lanes, which lose their mask bits, and leaves the others running (the retired
lanes go on with their bundle as helper lanes, R290); yield
makes the warp the youngest of its class; region waits for the warp's pending results, but for those that a local handler's entry
froze, and then takes a checkpoint at the next word; a hint word joins its payload to the packet's hints, and nop has no effect. -/
def Obligations.EndsAndMarkers : Prop :=
  (∀ p s, s.runs (.exit p) →
    let r := s.real (s.on (.exit p))
    ∃ t, exec (.exit p) s = .next t ∧ t.besides = s.besides ∧ t.groups = s.groups ∧ noBranch s t ∧
      t.warps = mapPut s.warps s.cur t.me ∧ t.me.retired = s.me.retired ||| r ∧ t.me.real = s.me.real ∧
      (∀ n, 0 < n → n < 16 → t.me.mask n = s.me.mask n &&& ~~~r) ∧ t.me.fcsr = s.me.fcsr ∧
      t.me.meet = s.me.meet ∧ t.me.meetmask = s.me.meetmask ∧ t.me.issued = s.me.issued ∧
      t.me.pc = s.stepped s.bundle ∧ (t.me.place = .gone ↔ s.me.live &&& ~~~r = 0#32 ∨ s.me.place = .gone) ∧
      (s.me.live &&& ~~~r ≠ 0#32 → t.me.v = s.me.v ∧ t.me.h = s.me.h)) ∧
  (∀ p s, s.runs (.yield p) →
    ∃ t, exec (.yield p) s = .next t ∧ noBranch s t ∧ onlyMe s t { s.me with yielded := true, pc := s.stepped s.bundle }) ∧
  (∀ s, s.runs .region → (∀ p ∈ s.me.pend, s.me.frozen p = true) →
    ∃ t, exec .region s = .next t ∧ noBranch s t ∧
      onlyMe s t (Warp.checkpoint { s.me with pc := s.stepped s.bundle })) ∧
  (∀ s, s.runs .region → (∃ p ∈ s.me.pend, s.me.frozen p = false) →
    ∃ t, exec .region s = .next t ∧ t.stalled = true ∧ t.me.pc = Lanes.where_ s.me.pc s.bundle (fun _ => s.start) ∧
      t.me.issued = s.startIssued ∧ sameRegs s t ∧ t.me.m = s.me.m) ∧
  (∀ s, s.issuer = .vector →
    let past (h : Hints) : State := { s.advance s.bundle with hints := h, inPacket := true }
    let bad (b : Bool) : Bool := s.hints.bad || b
    exec .nop s = .next (past s.hints) ∧
    (∀ b a, exec (.hintK b a) s = .next (past { s.hints with k := some (b, a), bad := bad s.hints.k.isSome })) ∧
    (∀ i, exec (.hintImm i) s = .next (past { s.hints with imm := some i, bad := bad s.hints.imm.isSome })) ∧
    (∀ l, exec (.hintLu l) s = .next (past { s.hints with lu := some l, bad := bad s.hints.lu.isSome })) ∧
    (∀ n m, exec (.hintPred n m) s = .next (past { s.hints with pred := some (n, m), bad := bad s.hints.pred.isSome })) ∧
    (∀ o, exec (.hintOff o) s = .next (past { s.hints with off := some o, bad := bad s.hints.off.isSome })) ∧
    (∀ c f p, exec (.hintCache c f p) s =
      .next (past { s.hints with cache := some (c, f, p), bad := bad s.hints.cache.isSome })) ∧
    (∀ c l, ∃ t, exec (.hintSched c l) s = .next t ∧ t.hints = { s.hints with sched := some (c, l), bad := bad s.hints.sched.isSome } ∧
      t.inPacket = true ∧ t.me = { s.me with pc := s.stepped s.bundle, withheld := if c = 1#2 then s.me.withheld ||| s.bundle else s.me.withheld }) ∧
    (∀ w, isHint w = true → exec (.unassignedEncoding w) s = .next (past { s.hints with bad := true })))

/-! ### Special registers, traps and system instructions -/

/-- R114, R115: rds reads a special register once for the issue into an s-register, or for every active lane into a
v-register, a pair for a 64-bit one; a counter is read as it stands at the issue when no lookahead is asked. An access to $fcsr first
lands the floating-point results that the warp is owed (R122, log 23).

What the rules leave open here is taken as in log 58. -/
def Obligations.ReadSpecials : Prop :=
  (∀ e ∈ wholeSpecials, ∀ r s, s.runs (.rds r e.1 0#1) →
    let u := s.awaitFlags e.1.toNat
    ∃ t, exec (.rds r e.1 0#1) s = .next t ∧ sregTakes u t r.toNat (e.2.2 u)) ∧
  (∀ e ∈ wholeSpecials, e.2.1 = false → ∀ r s, s.runs (.rds r e.1 1#1) →
    let u := s.awaitFlags e.1.toNat
    ∃ t, exec (.rds r e.1 1#1) s = .next t ∧ regFrame u t [s.me.regNo r.toNat] ∧
      regTakes u t (s.me.regNo r.toNat) (s.on (.rds r e.1 1#1)) (fun _ => (e.2.2 u).setWidth 32) 0#4) ∧
  (∀ e ∈ wholeSpecials, e.2.1 = true → ∀ r s, s.runs (.rds r e.1 1#1) →
    ∃ t, exec (.rds r e.1 1#1) s = .next t ∧ regFrame s t (s.pairNo r.toNat) ∧
      pairTakes s t r.toNat (s.on (.rds r e.1 1#1)) (fun _ => e.2.2 s) 0#4 0#4) ∧
  (∀ e ∈ laneSpecials, ∀ r s, s.runs (.rds r e.1 1#1) →
    ∃ t, exec (.rds r e.1 1#1) s = .next t ∧ regFrame s t [s.me.regNo r.toNat] ∧
      regTakes s t (s.me.regNo r.toNat) (s.on (.rds r e.1 1#1)) (e.2 s) 0#4) ∧
  (∀ r s, s.runs (.rds r 0x003#12 1#1) →
    ∃ t, exec (.rds r 0x003#12 1#1) s = .next t ∧ regFrame s t [s.me.regNo r.toNat] ∧
      ∀ i, Mask.has s.me.live i = true → Mask.has (s.on (.rds r 0x003#12 1#1)) i = true →
        (t.me.reg (s.me.regNo r.toNat)).entry.at i = (Lanes.at s.me.tid i).setWidth 32) ∧
  (∀ r s, s.runs (.rds r 0x103#12 1#1) →
    ∃ t, exec (.rds r 0x103#12 1#1) s = .next t ∧ regFrame s t (s.pairNo r.toNat) ∧
      pairTakes s t r.toNat (s.on (.rds r 0x103#12 1#1)) (fun i => Lanes.at s.me.taddr i) 0#4 0#4) ∧
  (∀ e ∈ counters, ∀ r s, s.runs (.rds r e.1 0#1) → s.schedLa = 0 →
    ∃ t, exec (.rds r e.1 0#1) s = .next t ∧ sregTakes s.unqualified t r.toNat (e.2 s)) ∧
  (∀ e ∈ counters, ∀ r s, s.runs (.rds r e.1 1#1) → s.schedLa = 0 →
    ∃ t, exec (.rds r e.1 1#1) s = .next t ∧ regFrame s.unqualified t (s.pairNo r.toNat) ∧
      pairTakes s.unqualified t r.toNat (s.on (.rds r e.1 1#1)) (fun _ => e.2 s) 0#4 0#4)

/-- R64, R114, R122, R155, R203, R258, R274: wrs writes a special register once for the issue, and a lane's own from that
lane; a value that sets a reserved bit raises ILLEGAL and writes nothing. An access to $fcsr first lands the floating-point
results that the warp is owed (R122, log 23). -/
def Obligations.WriteSpecials : Prop :=
  (∀ r s, s.runs (.wrs r 0x040#12 0#1) →
    let u := s.awaitFlags 0x040
    let x := (u.sreg r.toNat).toNat % 2 ^ 32
    (x / 2 ^ 22 = 0 ∧ x / 2 ^ 13 % 8 = 0 ∧ x / 2 ^ 5 % 8 = 0 ∧ x / 2 ^ 16 % 8 ≤ 4 →
      ∃ t, exec (.wrs r 0x040#12 0#1) s = .next t ∧ noBranch s t ∧
        onlyMe u t { u.me with fcsr := BitVec.ofNat 32 x, pc := s.stepped s.bundle }) ∧
    (x / 2 ^ 22 ≠ 0 ∨ x / 2 ^ 13 % 8 ≠ 0 ∨ x / 2 ^ 5 % 8 ≠ 0 ∨ 4 < x / 2 ^ 16 % 8 →
      ∃ x, s.useOf (.wrs r 0x040#12 0#1) = some x ∧ exec (.wrs r 0x040#12 0#1) s = .next (u.failed x .illegal))) ∧
  (∀ r s, s.runs (.wrs r 0x088#12 0#1) → (s.sreg r.toNat).toNat % 128 = 0 →
    ∃ t, exec (.wrs r 0x088#12 0#1) s = .next t ∧ noBranch s t ∧
      onlyMe s t { s.me with stkback := s.sreg r.toNat, pc := s.stepped s.bundle }) ∧
  (∀ r s, s.runs (.wrs r 0x108#12 0#1) → (s.sreg r.toNat).toNat % 2 ^ 32 < 2 →
    ∃ t, exec (.wrs r 0x108#12 0#1) s = .next t ∧ noBranch s t ∧
      onlyMe s t { s.me with hbank := (s.sreg r.toNat).getLsbD 0, pc := s.stepped s.bundle }) ∧
  (∀ r s, s.runs (.wrs r 0x0C1#12 0#1) →
    ∃ t, exec (.wrs r 0x0C1#12 0#1) s = .next t ∧ t.me = { s.me with pc := s.stepped s.bundle } ∧
      let f := s.myGroup.tagfault &&& ~~~(s.sreg r.toNat)
      quiet s t (mapPut s.groups s.me.group
        { s.myGroup with tagfault := f, tagcause := if f = 0#64 then 0#6 else s.myGroup.tagcause })) ∧
  (∀ n : Fin 16, ∀ r s, s.runs (.wrs r (BitVec.ofNat 12 (0x120 + 2 * n.val)) 0#1) → (s.sreg r.toNat).toNat % 4 = 0 →
    ∃ t, exec (.wrs r (BitVec.ofNat 12 (0x120 + 2 * n.val)) 0#1) s = .next t ∧
      let k := 128 * s.me.die + s.me.core
      t.core k = { s.core k with bp := (s.core k).bp.set n.val (s.sreg r.toNat, ((s.core k).bp[n.val]).2) } ∧
      (∀ j, j ≠ k → t.core j = s.core j) ∧ t.me = { s.me with pc := s.stepped s.bundle }) ∧
  (∀ n : Fin 16, ∀ r s, s.runs (.wrs r (BitVec.ofNat 12 (0x142 + 3 * n.val)) 0#1) → (s.sreg r.toNat).toNat / 2 ^ 42 % 2 ^ 17 = 0 →
    ∃ t, exec (.wrs r (BitVec.ofNat 12 (0x142 + 3 * n.val)) 0#1) s = .next t ∧
      let d := s.die s.me.die
      t.die s.me.die = { d with wp := d.wp.set n.val ((d.wp[n.val]).1, (d.wp[n.val]).2.1, s.sreg r.toNat) } ∧
      (∀ j, j ≠ s.me.die → t.die j = s.die j) ∧ t.me = { s.me with pc := s.stepped s.bundle }) ∧
  (∀ r s, s.runs (.wrs r 0x101#12 1#1) →
    (∀ i, Mask.has (s.real (s.on (.wrs r 0x101#12 1#1))) i = true → (s.me.lane r.toNat i).toNat % 4 = 0) →
    ∃ t, exec (.wrs r 0x101#12 1#1) s = .next t ∧ noBranch s t ∧
      onlyMe s t { s.me with
        tpc := Lanes.where_ s.me.tpc (s.real (s.on (.wrs r 0x101#12 1#1))) (s.me.lane r.toNat)
        pc := s.stepped s.bundle }) ∧
  (∀ r s, s.runs (.wrs r 0x105#12 1#1) →
    (∀ i, Mask.has (s.real (s.on (.wrs r 0x105#12 1#1))) i = true →
      (s.me.lane r.toNat i).toNat < 2 ^ 16 ∧ (s.me.lane r.toNat i).toNat % 2 = 0) →
    ∃ t, exec (.wrs r 0x105#12 1#1) s = .next t ∧ noBranch s t ∧
      onlyMe s t { s.me with
        omasks := Lanes.where_ s.me.omasks (s.real (s.on (.wrs r 0x105#12 1#1))) (s.me.lane r.toNat)
        pc := s.stepped s.bundle })

/-- R273: trap raises SWTRAP with its code and brk raises BKPT, in the real active lanes, which stay at the instruction; the
other lanes of the bundle step past it. -/
def Obligations.SoftwareTraps : Prop :=
  (∀ c s, s.runs (.trap c) →
    let hit := s.real (s.on (.trap c))
    (∃ u, s.useOf (.trap c) = some u ∧ exec (.trap c) s = .next (((s.acting u).advance (s.bundle &&& ~~~hit)).raise
      (trapAll hit ⟨.swtrap, 0#64, c, false, false⟩))) ∧
    ∀ i x, trapOf (trapAll hit ⟨.swtrap, 0#64, c, false, false⟩) i = some x → x.word = BitVec.ofNat 32 (c.toNat * 2 ^ 20 + 22)) ∧
  (∀ s, s.runs .brk →
    let hit := s.real (s.on .brk)
    ∃ u, s.useOf .brk = some u ∧
      exec .brk s = .next (((s.acting u).advance (s.bundle &&& ~~~hit)).raise (trapAll hit (Trap.plain .bkpt))))

/-- R259, R260, R262: traps whose causes have local mode and one handler enter it: every live attached lane saves its program
counter in $tpc and goes to the handler, the lanes that trapped are in $fmask with their $cause and $taddr, h0 to h7 read
zero, TRAP is 1, and nothing else of the device changes. With no reserve slot free the traps wait.

R259, R261, R265: a trap whose cause has system mode, and every trap in trap mode or in a handler warp, stops the warp:
a record of code 0 with the 64-byte body of R265 waits on the warp's die, and the warp waits for the answer with its program
counters and registers as they were.

R267: a trap whose cause has gather mode detaches its lane, which waits to be filed as a row; the other lanes go on.

R51: a delivery closes the windows of the warp's results, and those that have come land. R115, R282: a packet that traps has issued,
and its traps are delivered at once where no older access of their lanes is unresolved.

What the rules leave open here is taken as in log 33. -/
def Obligations.TrapEntries : Prop :=
  (∀ (s : State) (ts : List (Lane × Trap)) (h : Word), s.takes ts → s.me.trap = false → s.me.handler = false →
     (∀ x ∈ ts, x.2.cause ≠ .quota ∧ x.2.cause ≠ .fmtx ∧ s.table s.me x.2.cause = (1, h)) →
     ∀ hints : Lane → Hints,
     let inn := s.me.live &&& ~~~s.me.detached
     let d := s.closed
     let t := s.takeTraps s.cur hints ts
     (s.reserveFree s.me.die s.me.core = true →
       t.besides = s.besides ∧ t.groups = d.groups ∧ t.warps = mapPut s.warps s.cur t.me ∧ t.me.trap = true ∧
       t.me.hbank = false ∧ t.me.h = zeroH ∧ t.me.fmask = trapLanes ts ∧ t.me.v = d.me.v ∧ t.me.m = s.me.m ∧
       t.me.fcsr = d.me.fcsr ∧ t.me.meet = s.me.meet ∧ t.me.meetmask = s.me.meetmask ∧ t.me.issued = s.me.issued ∧
       t.me.pend = d.me.pend ∧ t.me.waiting = [] ∧
       (∀ i, Mask.has inn i = true → Lanes.at t.me.tpc i = Lanes.at s.me.pc i ∧ Lanes.at t.me.pc i = h) ∧
       (∀ i, Mask.has inn i = false → Lanes.at t.me.tpc i = Lanes.at s.me.tpc i ∧ Lanes.at t.me.pc i = Lanes.at s.me.pc i) ∧
       ∀ i, match trapOf ts i with
         | some x => Lanes.at t.me.taddr i = x.addr ∧
             Lanes.at t.me.cause i = BitVec.ofNat 32 (x.sw.toNat * 2 ^ 20 + 128 * x.rb.toNat + x.cause.code.toNat)
         | none => Lanes.at t.me.taddr i = 0#64 ∧ Lanes.at t.me.cause i = 0#32) ∧
     (s.reserveFree s.me.die s.me.core = false →
       t.besides = s.besides ∧ t.groups = d.groups ∧ t.me.waiting = ts ∧ t.me.trap = false ∧ t.me.pc = s.me.pc ∧
       t.me.v = d.me.v)) ∧
  (∀ (s : State) (ts : List (Lane × Trap)), s.takes ts →
     (s.me.trap = true ∨ s.me.handler = true ∨ ∀ x ∈ ts, x.2.cause = .quota ∨ x.2.cause = .fmtx ∨ (s.table s.me x.2.cause).1 = 0) →
     ∀ hints : Lane → Hints,
     let d := s.closed
     let t := s.takeTraps s.cur hints ts
     t.outer = s.outer ∧ t.groups = d.groups ∧ t.warps = mapPut s.warps s.cur t.me ∧ t.me.place = .system ∧
     t.me.sysmask = trapLanes ts ∧ t.me.pc = s.me.pc ∧ t.me.v = d.me.v ∧ t.me.h = d.me.h ∧ t.me.m = s.me.m ∧
     t.me.trap = s.me.trap ∧ t.me.tpc = s.me.tpc ∧ t.me.cause = s.me.cause ∧
     ∃ r, (t.ring s.me.die).waiting = (s.ring s.me.die).waiting ++ [.record r] ∧ r.code = 0 ∧ r.warp = some s.cur ∧
       r.body.length = 64) ∧
  (∀ (s : State) (ts : List (Lane × Trap)), s.takes ts → s.me.trap = false → s.me.handler = false →
     (∀ x ∈ ts, x.2.cause ≠ .quota ∧ x.2.cause ≠ .fmtx ∧ (s.table s.me x.2.cause).1 = 2) →
     ∀ hints : Lane → Hints,
     let d := s.closed
     let t := s.takeTraps s.cur hints ts
     t.besides = s.besides ∧ t.groups = d.groups ∧ t.me.detached = s.me.detached ||| trapLanes ts ∧
     t.me.filing = s.me.filing ++ ts ∧ t.me.pc = s.me.pc ∧ t.me.v = d.me.v ∧ t.me.m = s.me.m ∧ t.me.place = .running) ∧
  (∀ s : State, s.me.pend = [] → s.closed.me = s.me ∧ s.closed.groups = s.groups) ∧
  (∀ (s : State) (ts : List (Lane × Trap)), ts ≠ [] → s.me.loggedLanes &&& trapLanes ts = 0#32 →
     s.raise ts = ({ s with undone := s.undone ||| trapLanes ts }.account).takeTraps s.cur (fun _ => s.hints) ts)

/-- R264, R271, R272: rte holds its lanes in place until every handler lane is held, and then the warp leaves trap mode, h0 to
h7 are freed and each lane goes to its $tpc; the gret forms send a row home for each lane, to return at $tpc + 4, at $tpc or
at the address that a register gives, and retire the lane; gkill retires the origin lane too (where no lane waits in a reorder,
whose completion would move threads).

What the rules leave open here is taken as in logs 33 and 34. -/
def Obligations.TrapReturns : Prop :=
  (∀ s, s.runs .rte →
    let inn := s.me.entered &&& s.me.live &&& ~~~s.me.detached
    let held := maskOf (fun i => Mask.has (s.real (s.on .rte)) i || Lanes.at s.me.wait i == Wait.rte)
    (inn &&& ~~~held ≠ 0#32 →
      ∃ t, exec .rte s = .next t ∧ noBranch s t ∧
        onlyMe s t { s.me with wait := Lanes.where_ s.me.wait (s.real (s.on .rte)) (fun _ => .rte) }) ∧
    (inn &&& ~~~held = 0#32 → s.strays inn (fun i => Lanes.at s.me.tpc i) = 0#32 →
      ∃ t, exec .rte s = .next t ∧ t.me.trap = false ∧ t.me.h = zeroH ∧ t.me.v = s.me.v ∧ t.me.fcsr = s.me.fcsr ∧
        t.me.fmask = 0#32 ∧ t.mem = s.mem ∧ (∀ n, t.sreg n = s.sreg n) ∧
        ∀ i, Mask.has inn i = true → Lanes.at t.me.pc i = Lanes.at s.me.tpc i ∧ Lanes.at t.me.wait i = Lanes.at s.me.suspended i)) ∧
  (∀ i f s, (i = .gret ∧ f = fun l => Lanes.at s.me.tpc l + 4#32) ∨ (i = .gretSame ∧ f = fun l => Lanes.at s.me.tpc l) ∨
      (∃ n, i = .gretPc n ∧ f = s.me.lane n.toNat) →
    s.runs i → s.strays (s.real (s.on i)) f = 0#32 →
    ∃ t, exec i s = .next t ∧ t.me.retired = s.me.retired ||| s.real (s.on i) ∧ t.mem = s.mem ∧
      ∀ l, Mask.has (s.real (s.on i)) l = true →
        ∃ j r, mapFind t.returning j = some r ∧ r.origin = Lanes.at s.me.origin l ∧ r.pc = f l ∧
          r.regs = (List.range (s.declared s.me)).map (fun n => ((s.me.reg n).entry.at l, (s.me.reg n).fmt))) ∧
  (∀ s, s.runs .gkill → (∀ k i a b, Lanes.at (s.warp k).wait i ≠ .reorder a b) →
    ∃ t, exec .gkill s = .next t ∧ ∀ l, Mask.has (s.real (s.on .gkill)) l = true → Mask.has t.me.retired l = true ∧
      let o := Lanes.at s.me.origin l
      (o.warp ≠ s.cur → Mask.has ((s.warp o.warp).live &&& (s.warp o.warp).detached) ⟨o.lane.toNat, o.lane.isLt⟩ = true →
        Mask.has (t.warp o.warp).retired ⟨o.lane.toNat, o.lane.isLt⟩ = true))

/-- R277, R287, R289, R350: segset moves a window of the warp, tlbinv drops cached translations on every core and die, dbg.step
sets the step state of the warp in a slot, and preack stops the group when a request is pending and has no effect
otherwise.

What the rules leave open here is taken as in log 35. -/
def Obligations.SystemInstructions : Prop :=
  (∀ n j s, s.runs (.segset n j) → s.untiled → (s.sreg (n.toNat + 1)).toNat < 2 ^ 32 →
    s.segBad s.me j.toNat (s.sreg n.toNat) (s.sreg (n.toNat + 1)).toNat = none →
    let g : Seg := ⟨s.sreg n.toNat, (s.sreg (n.toNat + 1)).setWidth 32⟩
    ∃ t, exec (.segset n j) s = .next t ∧ noBranch s t ∧
      onlyMe s t { s.me with
        segSp := if j = 0#2 then g else s.me.segSp
        segCl := if j = 1#2 then g else s.me.segCl
        segStk := if j = 2#2 then g else s.me.segStk
        segFr := if j = 3#2 then g else s.me.segFr
        pc := s.stepped s.bundle }) ∧
  (∀ i (drops : TlbEntry → Bool) s,
    (i = .tlbinvAll ∧ drops = fun _ => true) ∨
    (∃ n, i = .tlbinvRoot n ∧ (s.sreg n.toNat).toNat % 4096 = 0 ∧ drops = fun e => e.root == s.sreg n.toNat) ∨
    (∃ n, i = .tlbinvVa n ∧ (s.sreg n.toNat).toNat / 2 ^ 57 % 8 = 0 ∧ (s.sreg n.toNat).toNat / 2 ^ 60 < 4 ∧
      (s.sreg (n.toNat + 1)).toNat % 4096 = 0 ∧
      drops = fun e => e.root == s.sreg (n.toNat + 1) && e.page == (s.sreg n.toNat).toNat % 2 ^ 57 / e.size) →
    s.runs i → s.untiled → s.storesOut s.cur = false →
    ∃ t, exec i s = .next t ∧ t.me = { s.me with pc := s.stepped s.bundle } ∧ t.mem = s.mem ∧ t.groups = s.groups ∧
      (∀ k, (t.core k).tlb = (s.core k).tlb.filter (fun e => !drops e)) ∧
      (∀ d, (t.die d).tlb = (s.die d).tlb.filter (fun e => !drops e))) ∧
  (∀ n s, s.runs (.dbgStep n) → (s.sreg n.toNat).toNat / 2 ^ 13 % 2 ^ 50 = 0 →
    ∃ t, exec (.dbgStep n) s = .next t ∧ t.mem = s.mem ∧ t.groups = s.groups ∧
      ∀ k, k ≠ s.cur → mapHas s.warps k = true →
        t.warp k = { s.warp k with
          step := if (s.warp k).die = s.me.die ∧ (s.warp k).core = (s.sreg n.toNat).toNat / 64 % 128 ∧
              (s.warp k).slot = (s.sreg n.toNat).toNat % 64 ∧ (s.warp k).inSlot = true
            then (s.sreg n.toNat).getLsbD 63 else (s.warp k).step }) ∧
  (∀ s, s.runs .preack → s.myGroup.preq = false → ∃ t, exec .preack s = .next t ∧ stepsPast s t) ∧
  (∀ s, s.runs .preack → s.myGroup.preq = true → s.myGroup.status = .running →
    ∃ t, exec .preack s = .next t ∧ (t.group s.me.group).status = .preempted ∧ (t.group s.me.group).preq = false)

/-! ### Floating point -/

/-- R128: the real active lanes trap whose raised flags, those that $fcsr enables and the trap table does not ignore, are any;
the cause is the first of INV, DZ, OVF, UNF, INX among them. -/
def Obligations.FlagTraps : Prop :=
  ∀ (s : State) (m : Mask) (fl : Lane → Flags),
    let t (i : Lane) : Flags := fl i &&& BitVec.ofNat 5 (s.me.fcsr.toNat / 2 ^ 8) &&& ~~~s.ignored
    trapLanes (s.flagTraps m fl) = maskOf (fun i => Mask.has (s.real m) i && t i != 0#5) ∧
    ∀ i x, trapOf (s.flagTraps m fl) i = some x → x.addr = 0#64 ∧ x.rb = false ∧
      x.cause = (if (t i).getLsbD 4 then .fpinv else if (t i).getLsbD 3 then .fpdz else if (t i).getLsbD 2 then .fpovf
        else if (t i).getLsbD 1 then .fpunf else .fpinx)

/-- R118, R123, R127: a finite value of a format rounds to its own encoding and raises no flag, whatever the rounding mode,
unless FTZ flushes it. -/
def Obligations.RoundExact : Prop :=
  ∀ f ∈ [f64, f32, f16, bf16, e4m3, e5m2, e2m1, e3m2, e2m3], ∀ (mode : RMode) (ftz : Bool) (c : Nat) (neg : Bool) (m : Nat) (e : Int),
    c < 2 ^ f.width → f.val c = .num neg m e → (ftz && f.flushes && f.subnormal c) = false →
      f.round mode ftz neg m e = (c, 0#5)

/-- R129, R130, R133: the results of the instructions of the lane-word formats, element by element, with their flags.

R129, R130, R132: the results of the FP64 instructions in a pair, and a class, raw and with no flag.

What the rules leave open here is taken as in logs 10 and 32. -/
def Obligations.FloatResults : Prop :=
  ((∀ e ∈ floatTwo, ∀ d a b p s, s.runs (e.1 d a b p) →
     delivers s (e.1 d a b p) (s.me.regNo d.toNat) e.2.1 (fun i => e.2.2 s.fctl ((s.srcA a).at i) ((s.srcB b).at i))) ∧
   (∀ e ∈ floatThree, ∀ d a b p s, s.runs (e.1 d a b p) →
     delivers s (e.1 d a b p) (s.me.regNo d.toNat) e.2.1
       (fun i => e.2.2 s.fctl ((s.srcA a).at i) ((s.srcB b).at i) (s.me.lane d.toNat i))) ∧
   (∀ e ∈ floatOne, ∀ d a p s, s.runs (e.1 d a p) →
     delivers s (e.1 d a p) (s.me.regNo d.toNat) e.2.1 (fun i => e.2.2 s.fctl ((s.srcA a).at i)))) ∧
  ((∀ e ∈ floatWide, ∀ d a b p s, s.runs (e.1 d a b p) →
     deliversPair s (e.1 d a b p) (2 * d.toNat) (fun i =>
       let r := e.2 s.fctl (Lanes.at (s.src64 false a).lanes i).toNat (Lanes.at (s.src64 true b).lanes i).toNat
       (BitVec.ofNat 64 r.1, r.2))) ∧
   (∀ d a b p s, s.runs (.vfmaF64 d a b p) →
     deliversPair s (.vfmaF64 d a b p) (2 * d.toNat) (fun i =>
       let r := f64.fma s.fctl (Lanes.at (s.src64 false a).lanes i).toNat (Lanes.at (s.src64 true b).lanes i).toNat
         (s.me.lane (2 * d.toNat + 1) i ++ s.me.lane (2 * d.toNat) i).toNat
       (BitVec.ofNat 64 r.1, r.2))) ∧
   (∀ d a p s, s.runs (.vfabsF64 d a p) →
     deliversPair s (.vfabsF64 d a p) (2 * d.toNat)
       (fun i => (Lanes.at (s.src64 false a).lanes i &&& 0x7FFFFFFFFFFFFFFF#64, 0#5))) ∧
   (∀ d a p s, s.runs (.vfnegF64 d a p) →
     deliversPair s (.vfnegF64 d a p) (2 * d.toNat)
       (fun i => (Lanes.at (s.src64 false a).lanes i ^^^ 0x8000000000000000#64, 0#5))) ∧
   (∀ d a p s, s.runs (.vfclassF64 d a p) →
     ∃ t, exec (.vfclassF64 d a p) s = .next t ∧ regFrame s t [s.me.regNo d.toNat] ∧
       regTakes s t (s.me.regNo d.toNat) (s.on (.vfclassF64 d a p))
         (fun i => BitVec.ofNat 32 (2 ^ f64.classOf (Lanes.at (s.src64 false a).lanes i).toNat)) 0#4) ∧
   (∀ e ∈ floatClasses, ∀ d a p s, s.runs (e.1 d a p) →
     ∃ t, exec (e.1 d a p) s = .next t ∧ regFrame s t [s.me.regNo d.toNat] ∧
       regTakes s t (s.me.regNo d.toNat) (s.on (e.1 d a p)) (fun i => e.2 ((s.srcA a).at i)) 0#4) ∧
   (∀ f ∈ [f64, f32, f16, bf16], ∀ c : Nat, f.classOf c = classBit (f.val c) (f.exp c == 0)))

/-- R131: a compare writes the active lanes of md from element 0, -0 equal to +0, with INV for a NaN in lt and le and for a
signalling NaN in all.
R104: the active lanes of md take the comparison, and nothing else changes; a write to m0 is ignored.

What the rules leave open here is taken as in log 32. -/
def Obligations.Comparisons : Prop :=
  ((∀ e ∈ floatCompares, ∀ d a b p s, s.runs (e.1 d a b p) →
     deliversMask s (e.1 d a b p) d.toNat (fun i => e.2 s.fctl ((s.srcA a).at i) ((s.srcB b).at i))) ∧
   (∀ e ∈ floatCompares64, ∀ d a b p s, s.runs (e.1 d a b p) →
     deliversMask s (e.1 d a b p) d.toNat (fun i =>
       f64.cmp e.2 s.fctl (Lanes.at (s.src64 false a).lanes i).toNat (Lanes.at (s.src64 true b).lanes i).toNat)) ∧
   (∀ f ∈ [f64, f32, f16, bf16], ∀ (c : FCtl) (x y : Nat),
     let nan := (f.src c.daz x).isNan || (f.src c.daz y).isNan
     ((f.cmp .un c x y).1 = nan) ∧ ((f.cmp .ne c x y).1 = !(f.cmp .eq c x y).1) ∧
     (nan = true → (f.cmp .eq c x y).1 = false ∧ f.cmp .lt c x y = (false, fINV) ∧ f.cmp .le c x y = (false, fINV)) ∧
     (nan = false → (f.cmp .le c x y).1 = ((f.cmp .lt c x y).1 || (f.cmp .eq c x y).1) ∧ (f.cmp .lt c x y).2 = 0#5))) ∧
  ((∀ e ∈ compares, ∀ d a b p s, s.runs (e.1 d a b p) →
     ∃ t, exec (e.1 d a b p) s = .next t ∧ t.me.fcsr = s.me.fcsr ∧
       maskTakes s t d.toNat (s.on (e.1 d a b p)) (fun i => e.2 ((s.srcA a).at i) ((s.srcB b).at i))) ∧
   (∀ e ∈ wideCompares, ∀ d a b p s, s.runs (e.1 d a b p) →
     ∃ t, exec (e.1 d a b p) s = .next t ∧ t.me.fcsr = s.me.fcsr ∧
       maskTakes s t d.toNat (s.on (e.1 d a b p))
         (fun i => e.2 (Lanes.at (s.src64 false a).lanes i) (Lanes.at (s.src64 true b).lanes i))))

/-- R134 to R139: conversions between formats, packing and unpacking of elements, scaling, rounding to integral values, and
conversions to integers.

What the rules leave open here is taken as in logs 32 and 54. -/
def Obligations.Conversions : Prop :=
  (∀ i rz d a t f p s, (rz = false ∧ i = .vfcvt d a t f p) ∨ (rz = true ∧ i = .vfcvtRz d a t f p) → i.wf = true → s.runs i →
    let x (l : Lane) : Nat := (if f = 8#4 then Lanes.at (s.src64 false a).lanes l else ((s.srcA a).at l).setWidth 64).toNat
    let r (l : Lane) : FRes := convert (fmtOfCode f) (fmtOfCode t) (s.fctl.rz rz) (x l % 2 ^ (fmtOfCode f).width)
    if t = 8#4 then deliversPair s i d.toNat (fun l => (BitVec.ofNat 64 (r l).1, (r l).2))
    else delivers s i (s.me.regNo d.toNat) t (fun l => (BitVec.ofNat 32 (r l).1, (r l).2))) ∧
  (∀ i rz d a b p s, (rz = false ∧ i = .vfpack d a b p) ∨ (rz = true ∧ i = .vfpackRz d a b p) → s.runs i →
    let old := s.me.reg (s.me.regNo d.toNat)
    match packedOf old.fmt with
    | none => ∃ u, s.useOf i = some u ∧ exec i s = .next (s.failed u .fmt)
    | some k => delivers s i (s.me.regNo d.toNat) old.fmt (fun l =>
        let e := packElement k s.fctl rz ((s.srcA a).at l) ((s.srcB b).at l)
        (packWord k (old.entry.at l) e.1, e.2))) ∧
  (∀ d a b p s, s.runs (.vfunpack d a b p) →
    match packedOf (s.srcFormat a) with
    | none => ∃ u, s.useOf (.vfunpack d a b p) = some u ∧ exec (.vfunpack d a b p) s = .next (s.failed u .fmt)
    | some k => delivers s (.vfunpack d a b p) (s.me.regNo d.toNat) 1#4
        (fun l => unpackElement k s.fctl ((s.srcA a).at l) (((s.srcB b).at l).toNat % 8))) ∧
  (∀ d a b p s, s.runs (.vfscale d a b p) →
    delivers s (.vfscale d a b p) (s.me.regNo d.toNat) 1#4 (fun l =>
      let r := f32.scale s.fctl ((s.srcA a).at l).toNat (max (-512) (min 511 ((s.srcB b).at l).toInt))
      (BitVec.ofNat 32 r.1, r.2))) ∧
  (∀ d a f p s, (Instr.vfround d a f p).wf = true → s.runs (.vfround d a f p) →
    if f = 8#4 then
      deliversPair s (.vfround d a f p) d.toNat (fun l =>
        let r := f64.roundIntegral s.fctl (Lanes.at (s.src64 false a).lanes l).toNat
        (BitVec.ofNat 64 r.1, r.2))
    else
      delivers s (.vfround d a f p) (s.me.regNo d.toNat) f (fun l =>
        elements (fmtOfCode f) (fun u _ _ => (fmtOfCode f).roundIntegral s.fctl u) ((s.srcA a).at l) 0#32 0#32)) ∧
  (∀ d a r p s, s.runs (.vftoiS32 d a r p) →
    delivers s (.vftoiS32 d a r p) (s.me.regNo d.toNat) 10#4 (fun l =>
      let q := toInt (if r = 1#1 then .rtz else s.fctl.mode) (-2147483648) 2147483647 (f32.src s.fctl.daz ((s.srcA a).at l).toNat)
      (BitVec.ofInt 32 q.1, q.2))) ∧
  (∀ d a r p s, s.runs (.vftoiN32 d a r p) →
    delivers s (.vftoiN32 d a r p) (s.me.regNo d.toNat) 0#4 (fun l =>
      let q := toInt (if r = 1#1 then .rtz else s.fctl.mode) 0 4294967295 (f32.src s.fctl.daz ((s.srcA a).at l).toNat)
      (BitVec.ofInt 32 q.1, q.2)))

/-- R51, R122, R140: the transcendental functions complete, and their results land with their flags at once with no lookahead, and
with some behind the window, with the flags of their real lanes; lanes whose flags trap are as R128 says.

What the rules leave open here is taken as in log 9. -/
def Obligations.Transcendentals : Prop :=
  (∀ e ∈ transcendentals, ∀ d a p s, s.runs (e.1 d a p) →
    let r (i : Lane) : Word × Flags := e.2.2 s.fctl ((s.srcA a).at i)
    let on := s.on (e.1 d a p)
    (s.schedLa = 0 → (∀ i, Mask.has (s.real on) i = true → s.trapping (r i).2 = 0#5) →
      ∃ t, exec (e.1 d a p) s = .next t ∧ frameOn s.bundle s t [s.me.regNo d.toNat] ∧
        regTakes s t (s.me.regNo d.toNat) on (fun i => (r i).1) e.2.1 ∧
        t.me.fcsr = s.me.fcsr ||| (s.flagsOf on (fun i => (r i).2)).setWidth 32) ∧
    (s.schedLa = 0 → delivers s (e.1 d a p) (s.me.regNo d.toNat) e.2.1 r) ∧
    (s.schedLa ≠ 0 → on ≠ 0#32 → (∀ i, Mask.has (s.real on) i = true → s.trapping (r i).2 = 0#5) →
      ∃ t, exec (e.1 d a p) s = .next t ∧ owes s t [(s.me.regNo d.toNat, e.2.1)] on s.schedLa [fun i => (r i).1] ∧
        t.me.fcsr = s.me.fcsr ∧ ∃ p, t.me.pend = s.me.pend ++ [p] ∧
          p.flags = some (perLane (fun i => if Mask.has (s.real on) i then (r i).2 else 0#5)))) ∧
  (∀ e ∈ transcendentals64, ∀ d a p s, s.runs (e.1 d a p) →
    let r (i : Lane) : DWord × Flags :=
      let q := e.2 s.fctl (Lanes.at (s.src64 false a).lanes i).toNat
      (BitVec.ofNat 64 q.1, q.2)
    let on := s.on (e.1 d a p)
    (s.schedLa = 0 → (∀ i, Mask.has (s.real on) i = true → s.trapping (r i).2 = 0#5) →
      ∃ t, exec (e.1 d a p) s = .next t ∧ frameOn s.bundle s t (s.pairNo (2 * d.toNat)) ∧
        pairTakes s t (2 * d.toNat) on (fun i => (r i).1) 8#4 9#4 ∧
        t.me.fcsr = s.me.fcsr ||| (s.flagsOf on (fun i => (r i).2)).setWidth 32) ∧
    (s.schedLa = 0 → deliversPair s (e.1 d a p) (2 * d.toNat) r) ∧
    (s.schedLa ≠ 0 → on ≠ 0#32 → (∀ i, Mask.has (s.real on) i = true → s.trapping (r i).2 = 0#5) →
      ∃ t, exec (e.1 d a p) s = .next t ∧
        owes s t [(s.me.regNo (2 * d.toNat), 8#4), (s.me.regNo (2 * d.toNat + 1), 9#4)] on s.schedLa
          [fun i => (r i).1.setWidth 32, fun i => ((r i).1 >>> 32).setWidth 32] ∧
        t.me.fcsr = s.me.fcsr ∧ ∃ p, t.me.pend = s.me.pend ++ [p] ∧
          p.flags = some (perLane (fun i => if Mask.has (s.real on) i then (r i).2 else 0#5))))

/-! ### Lane exchange -/

/-- R141 to R144: lane moves read A in any lane of the warp and write the active lanes with A's format; vperm writes only lanes
that an active lane names, from the highest that does. -/
def Obligations.LaneMoves : Prop :=
  (∀ e ∈ quadSwaps, ∀ d a p s, s.runs (e.1 d a p) →
    ∃ t, exec (e.1 d a p) s = .next t ∧ regFrame s t [s.me.regNo d.toNat] ∧
      regTakes s t (s.me.regNo d.toNat) (s.on (e.1 d a p)) (fun i => (s.srcA a).at (Fin.ofNat 32 (e.2 i))) (s.srcFormat a)) ∧
  (∀ d a b p s, s.runs (.vshfl d a b p) →
    ∃ t, exec (.vshfl d a b p) s = .next t ∧ regFrame s t [s.me.regNo d.toNat] ∧
      regTakes s t (s.me.regNo d.toNat) (s.on (.vshfl d a b p))
        (fun i => (s.srcA a).at (Fin.ofNat 32 (((s.srcB b).at i).toNat % 32))) (s.srcFormat a)) ∧
  (∀ d a b p s, s.runs (.qbcast d a b p) →
    ∃ t, exec (.qbcast d a b p) s = .next t ∧ regFrame s t [s.me.regNo d.toNat] ∧
      regTakes s t (s.me.regNo d.toNat) (s.on (.qbcast d a b p))
        (fun i => (s.srcA a).at (Fin.ofNat 32 (i.val / 4 * 4 + ((s.srcB b).at i).toNat % 4))) (s.srcFormat a)) ∧
  (∀ d a b p s, s.runs (.vperm d a b p) →
    let on := s.on (.vperm d a b p)
    let names (i j : Lane) : Prop := Mask.has on i = true ∧ ((s.srcB b).at i).toNat % 32 = j.val
    ∃ t hit f, exec (.vperm d a b p) s = .next t ∧ regFrame s t [s.me.regNo d.toNat] ∧
      regTakes s t (s.me.regNo d.toNat) hit f (s.srcFormat a) ∧
      ∀ j, (Mask.has hit j = true ↔ Mask.has on j = true ∧ ∃ i, names i j) ∧
        ∀ i, Mask.has hit j = true → names i j → (∀ k, names k j → k.val ≤ i.val) → f j = (s.srcA a).at i) ∧
  (∀ d a b p s, s.runs (.vbcast d a b p) →
    ∃ t, exec (.vbcast d a b p) s = .next t ∧
      match s.first (s.on (.vbcast d a b p)) with
      | none => stepsPast s t
      | some i0 => regFrame s t [s.me.regNo d.toNat] ∧
        regTakes s t (s.me.regNo d.toNat) (s.on (.vbcast d a b p))
          (fun _ => (s.srcA a).at (Fin.ofNat 32 (((s.srcB b).at i0).toNat % 32))) (s.srcFormat a))

/-- R145 to R147: qreduce combines the values of each quad as a tree of two levels, wreduce those of the real active lanes
by the halving tree, and wscan runs over them in ascending order; the real lanes count the flags of every step. -/
def Obligations.Reductions : Prop :=
  (∀ d a o p s, s.runs (.qreduce d a o p) →
    let op := quadOp o s.fctl
    let x (i : Lane) (k : Nat) : Word × Flags := readAs s.fctl op.1 ((s.srcA a).at (Fin.ofNat 32 (i.val / 4 * 4 + k)))
    delivers s (.qreduce d a o p) (s.me.regNo d.toNat) (if op.1 then 1#4 else 0#4)
      (fun i => op.2 (op.2 (x i 0) (x i 1)) (op.2 (x i 2) (x i 3)))) ∧
  (∀ e ∈ intReductions, ∀ d a p s, s.runs (e.1 d a p) →
    let r := s.real (s.on (e.1 d a p))
    ∃ t, exec (e.1 d a p) s = .next t ∧ regFrame s t [s.me.regNo d.toNat] ∧
      regTakes s t (s.me.regNo d.toNat) (s.on (e.1 d a p))
        (fun _ => (allLanes.filter (fun j => Mask.has r j)).foldl (fun x j => e.2.2 x ((s.srcA a).at j)) e.2.1) 0#4) ∧
  (∀ e ∈ floatReductions, ∀ d a p s, s.runs (e.1 d a p) →
    let c := s.fctl
    let step (x y : Word × Flags) : Word × Flags :=
      let r := e.2.2 { c with daz := false } x.1.toNat y.1.toNat
      (BitVec.ofNat 32 r.1, r.2 ||| x.2 ||| y.2)
    delivers s (e.1 d a p) (s.me.regNo d.toNat) 1#4 (fun _ =>
      (treeOf step (s.real (s.on (e.1 d a p))) (fun i => readF32 c ((s.srcA a).at i)) 5 0).getD (e.2.1, 0#5))) ∧
  (∀ d a x p s, s.runs (.wscan d a x p) →
    let r := s.real (s.on (.wscan d a x p))
    ∃ t, exec (.wscan d a x p) s = .next t ∧ regFrame s t [s.me.regNo d.toNat] ∧
      regTakes s t (s.me.regNo d.toNat) (s.on (.wscan d a x p))
        (scanned (fun u v => (u.1 + v.1, 0#5)) (x == 1#1) r (fun i => ((s.srcA a).at i, 0#5))) 0#4) ∧
  (∀ d a x p s, s.runs (.wscanF32 d a x p) →
    let r := s.real (s.on (.wscanF32 d a x p))
    let c := { s.fctl with daz := false }
    let step (u v : Word × Flags) : Word × Flags :=
      let q := f32.add c u.1.toNat v.1.toNat
      (BitVec.ofNat 32 q.1, q.2 ||| u.2 ||| v.2)
    let val (i : Lane) : Word × Flags := readAs s.fctl true ((s.srcA a).at i)
    delivers s (.wscanF32 d a x p) (s.me.regNo d.toNat) 1#4 (fun i =>
      (scanned step (x == 1#1) r val i,
        ((allLanes.filter (fun j => Mask.has r j)).foldl (fun u j => step u (val j)) (0#32, 0#5)).2)))

/-- R148: vcompact packs the values of the lanes that a mask selects into the lowest real active lanes, zeros after them, and
vexpand spreads the values of the lowest real active lanes to the selected ones; no helper lane takes part.

R149, R150: reorder waits for the pending results of its threads; its threads arrive, and wait while a member has not;
when the threads of a group of one warp have all arrived they are sorted by key, lower lane first, into the lowest lanes,
each with its $tid and the registers that the live mask names.

What the rules leave open here is taken as in logs 30 and 63. -/
def Obligations.CompactionAndReorder : Prop :=
  ((∀ d a n p s, s.runs (.vcompact d a n p) →
     let r := s.real (s.on (.vcompact d a n p))
     ∃ t, exec (.vcompact d a n p) s = .next t ∧ regFrame s t [s.me.regNo d.toNat] ∧
       regTakes s t (s.me.regNo d.toNat) r
         (fun i => match matching r (r &&& s.me.mask n.toNat) i with | some j => (s.srcA a).at j | none => 0#32) (s.srcFormat a)) ∧
   (∀ d a n p s, s.runs (.vexpand d a n p) →
     let r := s.real (s.on (.vexpand d a n p))
     let l := r &&& s.me.mask n.toNat
     ∃ t, exec (.vexpand d a n p) s = .next t ∧ regFrame s t [s.me.regNo d.toNat] ∧
       regTakes s t (s.me.regNo d.toNat) l
         (fun i => match matching l r i with | some j => (s.srcA a).at j | none => 0#32) (s.srcFormat a))) ∧
  ((∀ k l s, s.runs (.reorder k l) → (s.me.pend.any (fun p => (p.lanes &&& s.bundle) != 0#32)) = true →
     ∃ t, exec (.reorder k l) s = .next t ∧ t.stalled = true ∧ t.me.pc = Lanes.where_ s.me.pc s.bundle (fun _ => s.start) ∧
       t.me.wait = s.me.wait) ∧
   (∀ k l s j, s.runs (.reorder k l) → (s.me.pend.any (fun p => (p.lanes &&& s.bundle) != 0#32)) = false →
     (s.cur, j) ∈ s.members s.me.group → Mask.has s.bundle j = false → Lanes.at s.me.wait j = .none →
     ∃ t, exec (.reorder k l) s = .next t ∧ t.me.pc = s.stepped s.bundle ∧ t.me.v = s.me.v ∧ t.me.m = s.me.m ∧
       t.groups = s.groups ∧ t.mem = s.mem ∧
       t.me.wait = Lanes.where_ s.me.wait (s.real (s.on (.reorder k l))) (fun _ => .reorder k l)) ∧
   (∀ k l s, s.runs (.reorder k l) → s.me.pend = [] → s.myGroup.warps = [s.cur] → s.me.place ≠ .gone → s.me.live ≠ 0#32 →
     s.real (s.on (.reorder k l)) = s.me.live → (∀ i j, Mask.has s.me.live i = true → Mask.has s.me.live j = true →
       Lanes.at s.me.pc i = Lanes.at s.me.pc j) →
     ((s.sreg l.toNat).setWidth 32 : Word).toNat / 2 ^ s.myGrid.record.regs = 0 →
     let key (i : Lane) : Nat := (s.me.lane k.toNat i).toNat
     ∃ (t : State) (order : List Lane), exec (.reorder k l) s = .next t ∧ order.Perm (allLanes.filter (fun i => Mask.has s.me.live i)) ∧
       order.Pairwise (fun i j => key i < key j ∨ key i = key j ∧ i.val < j.val) ∧
       t.me.real = maskOf (fun i => decide (i.val < order.length)) ∧ t.me.retired = 0#32 ∧
       ∀ r i, order[r]? = some i → r < 32 ∧ Lanes.at t.me.tid (Fin.ofNat 32 r) = Lanes.at s.me.tid i ∧
         ∀ n, n < 32 → (s.sreg l.toNat).getLsbD n = true →
           (t.me.reg n).entry.at (Fin.ofNat 32 r) = (s.me.reg n).entry.at i))

/-! ### Memory -/

/-- R151, R154, R165: the first four checks of an access in order: a path above 3 or a set reserved bit is SEGV, a misaligned
address ALIGN, a write on path 0x1 PROT, and an access past a window's limit SEGV; an access within the scratchpad window
goes to the warp's own scratchpad.

R165, R258, R260: a real active lane whose access fails a check raises the cause with its generic address and makes no
access; the other lanes step past the instruction.

What the rules leave open here is taken as in log 25. -/
def Obligations.AccessChecks : Prop :=
  (∀ (s : State) (w : Warp) (l : Lane) (x : Access),
     let a := (Lanes.at x.addr l).toNat
     let va := a % 2 ^ 57
     (x.offset = true →
       (a % x.size ≠ 0 → s.aim w l x = .fails .align) ∧
       (a % x.size = 0 → w.segSp.lim.toNat < a + x.size → s.aim w l x = .fails .segv) ∧
       (a % x.size = 0 → a + x.size ≤ w.segSp.lim.toNat → s.aim w l x = .scratch w.group a)) ∧
     (x.offset = false → x.kind ≠ .readOnly → x.kind ≠ .streamLoad →
       (4 ≤ a / 2 ^ 60 ∨ a / 2 ^ 57 % 8 ≠ 0 → s.aim w l x = .fails .segv) ∧
       (a / 2 ^ 60 < 4 → a / 2 ^ 57 % 8 = 0 →
         (w.window va ≠ none → a / 2 ^ 60 ≠ 0 → s.aim w l x = .fails .segv) ∧
         (w.window va = none ∨ a / 2 ^ 60 = 0 →
           (a % x.size ≠ 0 → s.aim w l x = .fails .align) ∧
           (a % x.size = 0 → a / 2 ^ 60 = 1 → x.writes = true → s.aim w l x = .fails .prot) ∧
           (a % x.size = 0 → a / 2 ^ 60 = 3 → x.size ≠ 4 → x.size ≠ 8 → s.aim w l x = .fails .prot) ∧
           (a % x.size = 0 → w.window va = some .scratch →
             s.aim w l x = if w.segSp.lim.toNat < va - w.segSp.base.toNat + x.size then .fails .segv
               else .scratch w.group (va - w.segSp.base.toNat)) ∧
           (a % x.size = 0 → a / 2 ^ 60 = 0 → w.window va = none → x.isAtomic = false →
             s.aim w l x = .ranges 0 [(va, x.size)]))))) ∧
  (∀ i x s (c : Lane → Cause), s.accessOf i = some x → s.runs i → s.me.logFull = false → s.me.ioWaits x (s.on i) = false →
     (∀ l, Mask.has (s.on i) l = true → Mask.has s.me.live l = true ∧ c l ≠ .race ∧ c l ≠ .watch ∧
       (s.touched (s.accessLanes i)).judge s.cur (s.instrNo s.cur) s.pc x l = .fails (c l)) →
     ∃ t, exec i s = .next (t.raise ((allLanes.filter (fun l => Mask.has (s.on i) l)).map (fun l =>
         (l, ⟨c l, if x.offset then s.me.segSp.base + Lanes.at x.addr l else Lanes.at x.addr l, 0#12, false, false⟩)))) ∧
       t.mem = s.mem ∧ t.groups = s.groups ∧ sameRegs s t ∧ t.me.m = s.me.m ∧ t.me.fcsr = s.me.fcsr ∧
       t.me.pc = s.stepped (s.bundle &&& ~~~s.on i))

/-- R4, R54, R164, R167 to R169: a load whose lanes pass the checks at home gives each destination register its word of the
bytes read, lowest address first, extended to 32 bits; it changes no memory. (Nowhere in this section does a stack's history area
become full, R195, or an access on path 0x3 wait for an older one, R153.)

R51: the same with lookahead: the values land behind the window, and until then no register changes.

What the rules leave open here is taken as in log 5. -/
def Obligations.LoadResults : Prop :=
  (∀ i x ds s (f : Lane → List Spot), s.loadOf i = some (x, ds) → s.runs i → i.wf = true → s.free_ x (s.on i) → loadLa i = 0 →
     (∀ l, Mask.has (s.on i) l = true → s.allows i x l (f l) ∧ s.freshSpots (f l)) →
     ∃ t, exec i s = .next t ∧ accessFrame s t ∧ t.mem = s.mem ∧ t.groups = s.groups ∧ t.me.pendings = s.me.pendings ∧
       (∀ j, j ∉ ds.map (fun d => s.me.regNo d.1) → t.me.reg j = s.me.reg j) ∧
       ∀ j d, ds[j]? = some d →
         regTakes s t (s.me.regNo d.1) (s.on i)
           (fun l => (x.words (BitVec.ofNat 128 (natOfBytes ((locsOf (f l)).map s.byteAt)))).getD j 0#32) d.2) ∧
  (∀ i x ds s (f : Lane → List Spot), s.loadOf i = some (x, ds) → s.runs i → i.wf = true → s.free_ x (s.on i) → loadLa i ≠ 0 →
     s.on i ≠ 0#32 → (∀ l, Mask.has (s.on i) l = true → s.allows i x l (f l) ∧ s.freshSpots (f l)) →
     ∃ t p, exec i s = .next t ∧ t.mem = s.mem ∧ t.groups = s.groups ∧ t.me.v = s.me.v ∧ t.me.h = s.me.h ∧ t.me.m = s.me.m ∧
       t.me.fcsr = s.me.fcsr ∧ t.me.pc = s.stepped s.bundle ∧ t.me.pend = s.me.pend ++ [p] ∧ p.la = loadLa i ∧ p.got = s.on i ∧
       p.dests = ds.map (fun d => (s.me.regNo d.1, d.2, s.on i)) ∧
       ∀ j, j < ds.length → ∀ l, Mask.has (s.on i) l = true → ∃ v, p.vals[j]? = some v ∧
         Lanes.at v l = (x.words (BitVec.ofNat 128 (natOfBytes ((locsOf (f l)).map s.byteAt)))).getD j 0#32)

/-- R4, R164, R166, R170: a store whose lanes pass the checks at home leaves, at every location of memory and scratchpads, the
byte of the highest lane that stores there, and otherwise what the location held; it changes no register.

What the rules leave open here is taken as in log 5. -/
def Obligations.StoreResults : Prop :=
  ∀ i x s (f : Lane → List Spot) buf, s.storeOf i = some x → s.runs i → s.free_ x (s.on i) →
    let m := s.real (s.on i)
    (∀ l, Mask.has m l = true → s.allows i x l (f l) ∧ homeSpots buf (f l)) → s.sound m f →
    ∃ t, exec i s = .next t ∧ accessFrame s t ∧ sameGroups s t ∧ sameRegs s t ∧
      ∀ loc, t.byteAt loc = lastByte (writesOf x m f) s.byteAt loc

/-- R171: the lanes of an atomic act in ascending order, each on what the one before it left; its destination takes what
the lane read. -/
def Obligations.AtomicResults : Prop :=
  ∀ i x op ds s (f : Lane → List Spot) buf, s.atomicOf i = some (x, op, ds) → s.runs i → i.wf = true → s.free_ x (s.on i) →
    s.schedLa = 0 →
    let m := s.real (s.on i)
    (∀ l, Mask.has m l = true → s.allows i x l (f l) ∧ homeSpots buf (f l) ∧ (f l).length ≤ 1) →
    let r := atomicRun op x f (allLanes.filter (fun l => Mask.has m l)) s.byteAt
    ∃ t, exec i s = .next t ∧ accessFrame s t ∧ sameGroups s t ∧ (∀ loc, t.byteAt loc = r.1 loc) ∧
      (∀ j, j ∉ ds.map (fun d => s.me.regNo d.1) → t.me.reg j = s.me.reg j) ∧
      ∀ j d, ds[j]? = some d →
        regTakes s t (s.me.regNo d.1) m (fun l => BitVec.ofNat 32 (r.2 l / 2 ^ (32 * j))) d.2

/-- R169, R170: sld and sst make one access for the issue, by the lowest active real lane; sld writes its s-register with the
zero-extended value. -/
def Obligations.ScalarAccesses : Prop :=
  (∀ d sb l p w s i0 sp, s.runs (.sld d sb l p w) → l = 0#4 →
    s.first (s.on (.sld d sb l p w)) = some i0 →
    let x : Access := ⟨.load, 2 ^ w.toNat, false, false, allLanesOf (s.sreg sb.toNat + s.offset), allLanesOf 0#128, 0#3, 0#3,
      s.cacheHint.2.2, true⟩
    s.free_ x (laneBit i0) → (s.touched (laneBit i0)).judge s.cur (s.instrNo s.cur) s.pc x i0 = .go sp → s.freshSpots sp →
    ∃ t, exec (.sld d sb l p w) s = .next t ∧ accessFrame s t ∧ t.mem = s.mem ∧
      t.me.v = s.me.v ∧ t.me.h = s.me.h ∧ (∀ j, j ≠ d.toNat → t.sreg j = s.sreg j) ∧
      (0 < d.toNat → t.sreg d.toNat = BitVec.ofNat 64 (natOfBytes ((locsOf sp).map s.byteAt)))) ∧
  (∀ d sb p w s i0 sp buf, s.runs (.sst d sb p w) →
    s.first (s.on (.sst d sb p w)) = some i0 →
    let x : Access := ⟨.store, 2 ^ w.toNat, false, false, allLanesOf (s.sreg sb.toNat + s.offset),
      allLanesOf ((s.sreg d.toNat).setWidth 128), 0#3, 0#3, s.cacheHint.2.2, true⟩
    s.free_ x (laneBit i0) → (s.touched (laneBit i0)).judge s.cur (s.instrNo s.cur) s.pc x i0 = .go sp → homeSpots buf sp → s.sound (laneBit i0) (fun _ => sp) →
    ∃ t, exec (.sst d sb p w) s = .next t ∧ accessFrame s t ∧ sameGroups s t ∧ sameRegs s t ∧
      ∀ loc, t.byteAt loc = lastByte ((locsOf sp).zip (bytesOfNat (2 ^ w.toNat) (s.sreg d.toNat).toNat)) s.byteAt loc) ∧
  (∀ i s, (∃ d sb l p w, i = .sld d sb l p w) ∨ (∃ d sb p w, i = .sst d sb p w) → s.runs i → s.me.logFull = false →
    s.first (s.on i) = none → ∃ t, exec i s = .next t ∧ stepsPast s t)

/-- R172, R173: a fence orders and changes no value; prefetch has no effect; cctl.wb and cctl.wbinv keep the value of every
byte, cctl.inv drops the lines that its lanes name, so that their bytes read as they were last written back, and cctl.l1
drops the core's read-only copies.

R92: each active real lane of wait.addr reads its word once, and waits while it equals its operand; so, for one, at the words of
the warp's own scratchpad that its window holds.

What the rules leave open here is taken as in log 26. -/
def Obligations.CacheControlAndAddressWaits : Prop :=
  ((∀ i p sc s, i = .fence p sc ∨ i = .fencePath p sc → s.runs i → s.me.logFull = false →
     ∃ t, exec i s = .next t ∧ accessFrame s t ∧ t.mem = s.mem ∧ t.groups = s.groups ∧ sameRegs s t ∧ t.cores = s.cores) ∧
   (∀ sb o p l s, s.runs (.prefetch sb o p l) → s.me.logFull = false → ∃ t, exec (.prefetch sb o p l) s = .next t ∧ stepsPast s t) ∧
   (∀ sb o p c s (f : Lane → List Spot), s.runs (.cctl sb o p c) → s.me.logFull = false →
     let m := s.real (s.on (.cctl sb o p c))
     let x : Access := ⟨.cctl c, 1, false, false, perLane (s.address sb o false), allLanesOf 0#128, 0#3, 0#3, 0#3, false⟩
     s.me.ioWaits x m = false →
     (∀ l, Mask.has m l = true → (s.touched m).judge s.cur (s.instrNo s.cur) s.pc x l = .go (f l) ∧ homeSpots 0 (f l)) →
     ∃ t, exec (.cctl sb o p c) s = .next t ∧ t.groups = s.groups ∧ sameRegs s t ∧ t.me.pc = s.stepped s.bundle ∧
       t.me.m = s.me.m ∧ t.me.fcsr = s.me.fcsr ∧
       (c ≠ 2#2 → ∀ a, t.mem.byte a = s.mem.byte a) ∧
       (c = 2#2 → (∀ r ∈ storedRanges m f, s.lineAway (s.ctx s.me).world 0 r.1 = false) → ∀ a, t.mem.byte a =
         if (storedRanges m f).any (fun r => r.1 / 128 == a / 128) then mapGet 0#8 s.mem.hbm a else s.mem.byte a))) ∧
  (∀ a b p s (v : Lane → Word), s.runs (.waitAddr a b p) →
     let m := s.real (s.on (.waitAddr a b p))
     (∀ l, Mask.has m l = true → s.waitRead s.cur l (Lanes.at (s.src64 false a).lanes l) = .word (v l)) →
     ∃ t, exec (.waitAddr a b p) s = .next t ∧ t.mem = s.mem ∧ t.groups = s.groups ∧ t.me.v = s.me.v ∧ t.me.m = s.me.m ∧
       t.me.fcsr = s.me.fcsr ∧ t.me.pc = s.stepped s.bundle ∧
       ∀ l, Lanes.at t.me.wait l = if Mask.has m l then
           (if v l = (s.srcB b).at l then .addr (Lanes.at (s.src64 false a).lanes l) ((s.srcB b).at l) else .none)
         else Lanes.at s.me.wait l) ∧
  (∀ a b p s (o : Lane → Nat), s.runs (.waitAddr a b p) →
     let m := s.real (s.on (.waitAddr a b p))
     let at_ (l : Lane) : DWord := Lanes.at (s.src64 false a).lanes l
     (∀ l, Mask.has m l = true → (at_ l).toNat = s.me.segSp.base.toNat + o l ∧ (at_ l).toNat < 2 ^ 57 ∧ (at_ l).toNat % 4 = 0 ∧
       o l < 2 ^ 19 ∧ o l + 4 ≤ s.me.segSp.lim.toNat) → s.myGroup.spPoison = [] →
     ∃ t, exec (.waitAddr a b p) s = .next t ∧ t.mem = s.mem ∧ t.groups = s.groups ∧ t.me.v = s.me.v ∧ t.me.m = s.me.m ∧
       t.me.fcsr = s.me.fcsr ∧ t.me.pc = s.stepped s.bundle ∧
       ∀ l, Lanes.at t.me.wait l = if Mask.has m l then
           (if BitVec.ofNat 32 (natOfBytes ((List.range 4).map (fun j => mapGet 0#8 s.myGroup.sp (o l + j)))) = (s.srcB b).at l then
             .addr (at_ l) ((s.srcB b).at l) else .none)
         else Lanes.at s.me.wait l)

/-! ### Copies and tags -/

/-- R202 to R204: each real active lane of cp.async queues its copy of min(V, 32) bytes under the tag, whose counter counts it;
where the counter or the engine's 512 requests would overflow, the instruction waits.
R202, R203, R206: tag.wait.any waits until a tag of its set has no copy outstanding, tag.wait.all until none has; tag.first
gives the lowest such tag of its set, or 64, and tag.poll whether all are such.

R206: tag.clear drops queued copies of its group under the tags of its lanes' sets, never one that has begun, and then
waits as tag.wait.all does.

What the rules leave open here is taken as in log 28. -/
def Obligations.AsyncCopiesAndTags : Prop :=
  (∀ d sb o v tag s, s.runs (.cpAsync d sb o v tag) →
     let m := s.real (s.on (.cpAsync d sb o v tag))
     let n := (among m).length
     let len (l : Lane) : Nat := min ((s.me.lane v.toNat l).toNat % 64) 32
     let dst (l : Lane) : Nat := (s.me.lane d.toNat l).toNat
     (s.me.logFull = false → s.tagCount tag.toNat + n ≤ 65535 → s.copiesHeld s.coreNo + n ≤ 512 →
       (∀ l, Mask.has m l = true → s.copyCheck s.me (dst l) (s.address sb o false l) (len l) = .spots []) →
       ∃ t, exec (.cpAsync d sb o v tag) s = .next t ∧ unitFrame s t ∧ noReg s t ∧ t.mem = s.mem ∧
         (∀ k, t.core k = { s.core k with reqs := (t.core k).reqs }) ∧
         (∀ k, t.group k = { s.group k with tags := (t.group k).tags }) ∧ (∀ k, k ≠ s.me.group → t.group k = s.group k) ∧
         (∀ j, t.tagCount j = s.tagCount j + (if j = tag.toNat then n else 0)) ∧
         ∀ l, Mask.has m l = true → ∃ k r, mapFind (t.core s.coreNo).reqs k = some r ∧ r.group = s.me.group ∧ r.dst = dst l ∧
           r.src = s.address sb o false l ∧ r.n = len l ∧ r.tag = tag.toNat ∧ r.begun = false ∧ r.parts = []) ∧
     (s.me.logFull = true ∨ 65535 < s.tagCount tag.toNat + n ∨ 512 < s.copiesHeld s.coreNo + n →
       ∃ t, exec (.cpAsync d sb o v tag) s = .next t ∧ t.stalled = true ∧
         t.me.pc = Lanes.where_ s.me.pc s.bundle (fun _ => s.start))) ∧
  (((∀ any a p i s, (any = true ∧ i = .tagWaitAny a p) ∨ (any = false ∧ i = .tagWaitAll a p) → s.runs i →
      let m := s.real (s.on i)
      let set (l : Lane) : DWord := Lanes.at (s.src64 false a).lanes l
      let ready (l : Lane) : Prop :=
        if any = true then set l = 0#64 ∨ ∃ j, j < 64 ∧ (set l).getLsbD j = true ∧ s.tagCount j = 0
        else ∀ j, j < 64 → (set l).getLsbD j = true → s.tagCount j = 0
      (∀ l j, Mask.has m l = true → (set l).getLsbD j = true → s.tagCount j = 0 → s.tagClean j) →
      ∃ t, exec i s = .next t ∧ unitFrame s t ∧ noReg s t ∧ t.mem = s.mem ∧ t.groups = s.groups ∧ t.cores = s.cores ∧
        ∀ l, (Mask.has m l = true → ¬ready l → Lanes.at t.me.wait l = if any = true then .tagAny (set l) else .tagAll (set l)) ∧
          (Mask.has m l = false ∨ ready l → Lanes.at t.me.wait l = Lanes.at s.me.wait l)) ∧
    (∀ d a p s, s.runs (.tagFirst d a p) →
      let on := s.on (.tagFirst d a p)
      let first (l : Lane) : Option Nat := (List.range 64).find? (fun j =>
        (Lanes.at (s.src64 false a).lanes (s.me.standsFor l)).getLsbD j && s.tagCount j == 0)
      (∀ l j, Mask.has (s.real on) l = true → first l = some j → s.tagClean j) →
      ∃ t, exec (.tagFirst d a p) s = .next t ∧ unitFrame s t ∧ oneReg s t (s.me.regNo d.toNat) ∧ t.mem = s.mem ∧
        t.groups = s.groups ∧ t.cores = s.cores ∧ t.me.wait = s.me.wait ∧
        regTakes s t (s.me.regNo d.toNat) on (fun l => BitVec.ofNat 32 ((first l).getD 64)) 0#4) ∧
    (∀ d a p s, s.runs (.tagPoll d a p) →
      let on := s.on (.tagPoll d a p)
      let done (l : Lane) : Bool := (List.range 64).all (fun j =>
        !(Lanes.at (s.src64 false a).lanes (s.me.standsFor l)).getLsbD j || s.tagCount j == 0)
      (∀ l j, Mask.has (s.real on) l = true → done l = true → (Lanes.at (s.src64 false a).lanes l).getLsbD j = true →
        s.tagClean j) →
      ∃ t, exec (.tagPoll d a p) s = .next t ∧ unitFrame s t ∧ t.mem = s.mem ∧ t.groups = s.groups ∧ t.cores = s.cores ∧
        t.me.wait = s.me.wait ∧ oneMask s t d.toNat on done)) ∧
   (∀ a p s, s.runs (.tagClear a p) →
      let m := s.real (s.on (.tagClear a p))
      let set (l : Lane) : DWord := Lanes.at (s.src64 false a).lanes l
      let c := 128 * s.myGroup.die + s.myGroup.core
      (∀ l j, Mask.has m l = true → (set l).getLsbD j = true → s.tagClean j) →
      ∃ t, exec (.tagClear a p) s = .next t ∧ unitFrame s t ∧ noReg s t ∧ t.mem = s.mem ∧
        (∀ k, t.core k = { s.core k with reqs := (t.core k).reqs }) ∧ (∀ k, k ≠ c → t.core k = s.core k) ∧
        (∀ e ∈ (t.core c).reqs, e ∈ (s.core c).reqs) ∧
        (∀ e ∈ (s.core c).reqs, e ∉ (t.core c).reqs → ∃ x ∈ (s.core c).reqs, x.1 = e.1 ∧ x.2.group = s.me.group ∧
          x.2.begun = false ∧ ∃ l, Mask.has m l = true ∧ (set l).getLsbD x.2.tag = true) ∧
        (∀ k, t.group k = { s.group k with tags := (t.group k).tags }) ∧ (∀ k, k ≠ s.me.group → t.group k = s.group k) ∧
        (∀ j, t.tagCount j ≤ s.tagCount j) ∧
        (∀ j, (∀ l, Mask.has m l = true → (set l).getLsbD j = false) → t.tagCount j = s.tagCount j) ∧
        ∀ l, ((∀ j, j < 64 → (set l).getLsbD j = true → t.tagCount j = 0) ∨ Mask.has m l = false →
            Lanes.at t.me.wait l = Lanes.at s.me.wait l) ∧
          (Mask.has m l = true → (∃ j, j < 64 ∧ (set l).getLsbD j = true ∧ t.tagCount j ≠ 0) →
            Lanes.at t.me.wait l = .tagAll (set l))))

/-! ### Bulk operations -/

/-- R215, R216, R219: bulk.copy and bulk.gather check their parameters, then their object and their ranges, and queue one
operation for the issue; parameters out of their limits are ILLEGAL, 16 operations queued make it wait, and with no real lane
active nothing happens.

What the rules leave open here is taken as in logs 29 and 65. -/
def Obligations.BulkOperations : Prop :=
  (∀ n p s, s.runs (.bulkCopy n p) →
    let i : Instr := .bulkCopy n p
    let len := (s.block n 2).toNat
    let good : Prop := (s.block n 0).toNat % 16 = 0 ∧ (s.block n 1).toNat % 16 = 0 ∧ len % 16 = 0 ∧ len ≤ 2 ^ 24
    (s.first (s.on i) = none → ∃ t, exec i s = .next t ∧ stepsPast s t) ∧
    (s.first (s.on i) ≠ none → ¬good → ∃ u, s.useOf i = some u ∧ exec i s = .next (s.failed u .illegal)) ∧
    (s.first (s.on i) ≠ none → good → 16 ≤ s.bulkHeld s.coreNo →
      ∃ t, exec i s = .next t ∧ t.stalled = true ∧ t.me.pc = Lanes.where_ s.me.pc s.bundle (fun _ => s.start)) ∧
    (∀ o, s.first (s.on i) ≠ none → good → s.bulkHeld s.coreNo < 16 → s.objAt s.me (s.block n 3) = .inr o →
      s.bulkRange s.me false (s.block n 1) len = none → s.bulkRange s.me true (s.block n 0) len = none →
      ∃ t, exec i s = .next t ∧
        (len = 0 → stepsPast s t) ∧
        (len ≠ 0 → unitFrame s t ∧ noReg s t ∧ t.mem = s.mem ∧ t.groups = s.groups ∧ t.me.wait = s.me.wait ∧
          bulkQueued s t .copy (s.block n 0) (s.block n 1) len o (chunksOf len)))) ∧
  (∀ n p s, s.runs (.bulkGather n p) →
    let i : Instr := .bulkGather n p
    let r := (s.block n 4).toNat % 65536
    let c := (s.block n 4).toNat / 65536
    let good : Prop := (s.block n 0).toNat % 16 = 0 ∧ (s.block n 1).toNat % 16 = 0 ∧ (s.block n 2).toNat % 4 = 0 ∧
      r % 16 = 0 ∧ 16 ≤ r ∧ r ≤ 65520 ∧ 1 ≤ c ∧ c ≤ 4096 ∧ (s.block n 5).toNat % 16 = 0
    let row (k : Nat) : DWord := s.block n 1 + BitVec.ofNat 64 (k * (s.block n 5).toNat)
    (s.first (s.on i) = none → ∃ t, exec i s = .next t ∧ stepsPast s t) ∧
    (s.first (s.on i) ≠ none → ¬good → ∃ u, s.useOf i = some u ∧ exec i s = .next (s.failed u .illegal)) ∧
    (∀ o rows g off lo hi f, s.first (s.on i) = some f → good → s.bulkHeld s.coreNo < 16 →
      s.objAt s.me (s.block n 3) = .inr o → s.indexList s.me (s.block n 2) c = some (rows, g, off) →
      lo ∈ rows → hi ∈ rows → (∀ k ∈ rows, lo ≤ k ∧ k ≤ hi) → s.bulkRange s.me false (row lo) 1 = none →
      s.bulkRange s.me false (row hi) r = none → s.bulkRange s.me true (s.block n 0) (r * c) = none →
      (s.group g).sectorBad off (4 * c) = false →
      (s.touched (laneBit f)).racy (threadAgent s.me f) 4 (s.instrNo s.cur) false (objLoc (g, off)) (4 * c) = false →
      ∃ t, exec i s = .next t ∧ unitFrame s t ∧ noReg s t ∧ t.mem = s.mem ∧ t.groups = s.groups ∧ t.me.wait = s.me.wait ∧
        bulkQueued s t (.gather r rows (s.block n 5).toNat) (s.block n 0) (s.block n 1) (r * c) o (chunksOf (r * c))))

/-- R217, R218, R333: a collective checks its parameters and ranges as a bulk copy does, and in an open tile it is SNETATOM. Where
its engine can read the communicator record at once, the record's N, RANK, ID, SEQ and DEV are those the record holds, SEQ advances,
and the operation queued is a copy of the source where the communicator has one member, and otherwise a collective of the element
type, the operation and the size given, whose steps are all to come.

What the rules leave open here is taken as in logs 29 and 61. -/
def Obligations.Collectives : Prop :=
  ∀ gather n p i s, (gather = false ∧ i = .collReduce n p) ∨ (gather = true ∧ i = .collGather n p) → s.runs i →
    let q := (s.block n 2).toNat
    let size := if gather = true then q % 2 ^ 32 else 4 * (q % 2 ^ 32)
    let good : Prop := (s.block n 0).toNat % 16 = 0 ∧ (s.block n 1).toNat % 16 = 0 ∧ (s.block n 4).toNat % 64 = 0 ∧
      (if gather = true then q < 2 ^ 32 ∧ q % 16 = 0 ∧ 16 ≤ q ∧ q ≤ 2 ^ 24
       else 1 ≤ q % 2 ^ 32 ∧ q % 2 ^ 32 ≤ 2 ^ 24 ∧ q / 2 ^ 32 % 16 ≤ 1 ∧ q / 2 ^ 36 % 16 ≤ 2 ∧ q < 2 ^ 40)
    (s.first (s.on i) = none → ∃ t, exec i s = .next t ∧ stepsPast s t) ∧
    (s.first (s.on i) ≠ none → ¬good → ∃ u, s.useOf i = some u ∧ exec i s = .next (s.failed u .illegal)) ∧
    (s.first (s.on i) ≠ none → good → 16 ≤ s.bulkHeld s.coreNo →
      ∃ t, exec i s = .next t ∧ t.stalled = true ∧ t.me.pc = Lanes.where_ s.me.pc s.bundle (fun _ => s.start)) ∧
    (∀ f, s.first (s.on i) = some f → good → s.bulkHeld s.coreNo < 16 → s.tileOf s.me f ≠ none →
      ∃ u, s.useOf i = some u ∧ exec i s = .next (s.failed u .snetatom)) ∧
    (∀ f o pa pb buf (at_ : Nat → Nat), s.first (s.on i) = some f → good → s.bulkHeld s.coreNo < 16 → s.tileOf s.me f = none →
      s.groupTile s.me.group = none → s.unwatched → s.objAt s.me (s.block n 3) = .inr o →
      let ctx := s.engineCtx s.me.group s.me.kern
      let rec_ := s.block n 4
      let members := s.mem.num (pa + 8) 2
      let dev (j : Nat) : Nat := s.mem.num (at_ (16 * (j / 8)) + 2 * (j % 8)) 2 % 512
      let total := if gather = true then members * size else size
      s.commCount ctx rec_ = members → s.bulkRange s.me false (s.block n 1) size = none → s.bulkRange s.me true (s.block n 0) total = none →
      1 ≤ members → s.readsAt ctx rec_ 16 pa →
      (∀ x ∈ pieces 0 (2 * members), s.readsAt ctx (rec_ + BitVec.ofNat 64 (16 + x.1)) x.2 (at_ x.1)) →
      s.engineAt ctx false true (pathOf rec_) (rec_.toNat % 2 ^ 57 + 12) 4 = .here pb buf →
      (∀ j, j < members →
        dev j = ownDevice ∨ (s.routeTo (dev j) ≠ none ∧ (ctx.world = 0#10 ∨ ∃ r ∈ (s.world ctx.world).roster, r.toNat = dev j))) →
      ∃ t, exec i s = .next t ∧ unitFrame s t ∧ noReg s t ∧ t.groups = s.groups ∧
        (s.me.gov.demoted = false → t.me.wait = s.me.wait) ∧
        (∀ a, t.mem.byte a = putBytes s.mem.byte pb (bytesOfNat 4 (s.mem.num (pa + 12) 4 + 1)) a) ∧
        bulkQueued s t
          (if members ≤ 1 then .copy else .collective
            { comm := rec_, ident := BitVec.ofNat 64 (s.mem.num pa 8), rank := s.mem.num (pa + 10) 2
              seq := s.mem.num (pa + 12) 4, devs := (List.range members).map dev, gather := gather
              float := q / 2 ^ 32 % 16 == 1, op := q / 2 ^ 36 % 16, size := size, step := 0, own := [], inbox := none })
          (s.block n 0) (s.block n 1) total o (if members ≤ 1 then chunksOf total else []))

/-! ### Barriers -/

/-- R207 to R209, R211: the real active lanes of bar.init, bar.expect and bar.arrive update their objects in ascending order, as
R208 completes phases; expect and arrive give the phase that each lane found.

R211, R213: a lane of bar.wait waits while the phase of its object equals its operand's low 25 bits; bar.test gives whether
they differ, and each helper lane what its quad's lowest real lane finds.

What the rules leave open here is taken as in log 30. -/
def Obligations.BarrierObjects : Prop :=
  ((∀ a b p s (o : Lane → Nat × Nat), s.runs (.barInit a b p) →
     let m := s.real (s.on (.barInit a b p))
     (∀ l, Mask.has m l = true → s.objAt s.me (Lanes.at (s.src64 false a).lanes l) = .inr (o l)) →
     ∃ t, exec (.barInit a b p) s = .next t ∧ unitFrame s t ∧ noReg s t ∧ t.mem = s.mem ∧ t.cores = s.cores ∧ samePads s t ∧
       ∀ loc, t.byteAt loc = (objRun (fun l _ => (0, 0, ((s.srcB b).at l).toNat % 65536 * 65536, 0)) (fun l => objLoc (o l))
         (among m) s.byteAt).1 loc) ∧
   (∀ d a b p s (o : Lane → Nat × Nat), s.runs (.barExpect d a b p) →
     let m := s.real (s.on (.barExpect d a b p))
     (∀ l, Mask.has m l = true → s.objAt s.me (Lanes.at (s.src64 false a).lanes l) = .inr (o l)) →
     let r := objRun (fun l => expected ((s.srcB b).at l).toNat) (fun l => objLoc (o l)) (among m) s.byteAt
     ∃ t, exec (.barExpect d a b p) s = .next t ∧ unitFrame s t ∧ oneReg s t (s.me.regNo d.toNat) ∧ t.mem = s.mem ∧
       t.cores = s.cores ∧ samePads s t ∧ (∀ loc, t.byteAt loc = r.1 loc) ∧
       regTakes s t (s.me.regNo d.toNat) m (fun l => BitVec.ofNat 32 (r.2 l)) 0#4) ∧
   (∀ d a p s (o : Lane → Nat × Nat), s.runs (.barArrive d a p) →
     let m := s.real (s.on (.barArrive d a p))
     (∀ l, Mask.has m l = true → s.objAt s.me (Lanes.at (s.src64 false a).lanes l) = .inr (o l)) →
     let r := objRun (fun _ => arrivedOne) (fun l => objLoc (o l)) (among m) s.byteAt
     ∃ t, exec (.barArrive d a p) s = .next t ∧ unitFrame s t ∧ oneReg s t (s.me.regNo d.toNat) ∧ t.mem = s.mem ∧
       t.cores = s.cores ∧ samePads s t ∧ (∀ loc, t.byteAt loc = r.1 loc) ∧
       regTakes s t (s.me.regNo d.toNat) m (fun l => BitVec.ofNat 32 (r.2 l)) 0#4)) ∧
  ((∀ a b p s (o : Lane → Nat × Nat), s.runs (.barWait a b p) →
     let m := s.real (s.on (.barWait a b p))
     let ad (l : Lane) : DWord := Lanes.at (s.src64 false a).lanes l
     let same (l : Lane) : Bool := s.phase (o l).1 (o l).2 == ((s.srcB b).at l).toNat % 2 ^ 25
     (∀ l, Mask.has m l = true → s.objAt s.me (ad l) = .inr (o l) ∧ (same l = true ∨ s.objClean (o l))) →
     ∃ t, exec (.barWait a b p) s = .next t ∧ unitFrame s t ∧ noReg s t ∧ t.mem = s.mem ∧ t.cores = s.cores ∧
       t.groups = s.groups ∧
       ∀ l, Lanes.at t.me.wait l =
         if Mask.has m l && same l then .bar (ad l) ((s.srcB b).at l) else Lanes.at s.me.wait l) ∧
   (∀ d a b p s (o : Lane → Nat × Nat), s.runs (.barTest d a b p) →
     let on := s.on (.barTest d a b p)
     let same (l : Lane) : Bool := s.phase (o l).1 (o l).2 == ((s.srcB b).at l).toNat % 2 ^ 25
     (∀ l, Mask.has s.me.live l = true → s.objAt s.me (Lanes.at (s.src64 false a).lanes l) = .inr (o l) ∧
       (same l = true ∨ s.objClean (o l))) →
     (∀ l, Mask.has on l = true → Mask.has s.me.live (s.me.standsFor l) = true) →
     ∃ t, exec (.barTest d a b p) s = .next t ∧ unitFrame s t ∧ t.mem = s.mem ∧ t.cores = s.cores ∧ t.groups = s.groups ∧
       t.me.wait = s.me.wait ∧ oneMask s t d.toNat on (fun l => !same (s.me.standsFor l))))

/-- R214: the threads of bar.group and bar.cluster wait until every unretired thread of the group, or of the gang's unretired
groups, has arrived; then all go on, and the barrier's count rises.

What the rules leave open here is taken as in log 30. -/
def Obligations.GroupBarriers : Prop :=
  ∀ cluster i x s, (cluster = false ∧ i = .barGroup ∧ x = Wait.group) ∨ (cluster = true ∧ i = .barCluster ∧ x = Wait.cluster) →
    s.runs i →
    let m := s.real (s.on i)
    let l := s.membersOf (if cluster = true then s.myGang else [s.me.group])
    let there (e : Nat × Lane) : Prop := Lanes.at (s.warp e.1).wait e.2 = x ∨ (e.1 = s.cur ∧ Mask.has m e.2 = true)
    ((∃ e ∈ l, ¬there e) ∨ l = [] →
      ∃ t, exec i s = .next t ∧ unitFrame s t ∧ noReg s t ∧ t.mem = s.mem ∧ t.cores = s.cores ∧ t.groups = s.groups ∧
        ∀ j, Lanes.at t.me.wait j = if Mask.has m j then x else Lanes.at s.me.wait j) ∧
    ((∀ e ∈ l, there e) → l ≠ [] →
      ∃ t, exec i s = .next t ∧ noReg s t ∧ t.mem = s.mem ∧ t.cores = s.cores ∧ t.me.pc = s.stepped s.bundle ∧
        (∀ e ∈ l, Lanes.at (t.warp e.1).wait e.2 = .none) ∧
        (∀ k, k ≠ s.cur → (t.warp k).v = (s.warp k).v ∧ (t.warp k).m = (s.warp k).m ∧ (t.warp k).pc = (s.warp k).pc ∧
          ∀ j, (k, j) ∉ l → Lanes.at (t.warp k).wait j = Lanes.at (s.warp k).wait j) ∧
        t.myGroup.gen = s.myGroup.gen + (if cluster = true then 0 else 1) ∧
        (s.me.group ∈ s.myGang → (s.groups.filter (fun e => e.1 == s.me.group)).length = 1 →
          t.myGroup.clgen = s.myGroup.clgen + (if cluster = true then 1 else 0)) ∧
        ∀ k, (t.group k).s = (s.group k).s)

/-! ### Coroutines -/

/-- R293, R296, R298, R299: each real active lane of a susp is filed in a row with its registers, its thread and its condition,
and leaves its warp; a row whose condition already holds is awake.
R299, R301, R302: wake wakes the oldest numbers of sleeping rows of kind 0, at most 2,048, and counts them; wake.pred wakes
the rows whose column compares with its operand; wake.addr stores, and wakes the rows that wait on the addresses stored to.

What the rules leave open here is taken as in log 37. -/
def Obligations.SuspensionsAndWakes : Prop :=
  (∀ i (l : BitVec 5) (n : BitVec 6) s, s.runs i →
     let m := s.real (s.on i)
     let live : Word := (s.sreg l.toNat).setWidth 32
     live.toNat / 2 ^ s.declared s.me = 0 → s.untiled → s.me.pend = [] → (s.bin s.myFrame n.toNat).busy = none →
     (among m).length ≤ (s.bin s.myFrame n.toNat).free.length →
     (i = .susp l n → ∃ t, exec i s = .next t ∧ suspends s t m n.toNat live 0#2 (fun _ => 0#32) (fun _ => 0#64) (fun _ => false)) ∧
     (∀ a, i = .suspTag l a n →
       let tag (j : Lane) : Word := (s.srcA a).at j &&& 63#32
       ∃ t, exec i s = .next t ∧
         suspends s t m n.toNat live 1#2 tag (fun _ => 0#64) (fun j => s.tagCount (tag j).toNat == 0)) ∧
     (∀ a (f : Lane → List Spot), i = .suspAddr l a n →
       let ad (j : Lane) : DWord := Lanes.at (s.xAddr a) j
       (∀ j, Mask.has m j = true → s.judge s.cur (s.instrNo s.cur) s.pc (s.xLoad a) j = .go (f j) ∧ s.freshSpots (f j)) →
       ∃ t, exec i s = .next t ∧
         suspends s t m n.toNat live 2#2 (fun j => Lanes.at (s.xValue a) j) ad
           (fun j => BitVec.ofNat 32 (natOfBytes ((locsOf (f j)).map s.byteAt)) != Lanes.at (s.xValue a) j)) ∧
     (∀ a (o : Lane → Nat × Nat), i = .suspBar l a n →
       let ad (j : Lane) : DWord := Lanes.at (s.xAddr a) j
       let phase (j : Lane) : Word := Lanes.at (s.xValue a) j &&& 0x1FFFFFF#32
       (∀ j, Mask.has m j = true → s.objAt s.me (ad j) = .inr (o j)) →
       ∃ t, exec i s = .next t ∧
         suspends s t m n.toNat live 3#2 phase ad
           (fun j => (s.group (o j).1).spLive && s.phase (o j).1 (o j).2 != (phase j).toNat))) ∧
  ((∀ d a n s i0, s.runs (.wake d a n) → s.untiled → (s.bin s.myFrame n.toNat).busy = none → s.first (s.on (.wake d a n)) = some i0 →
     let rows := (s.sleepers n.toNat (fun r => r.kind == 0#2)).take (min ((s.srcA a).at i0).toNat 2048)
     ∃ t, exec (.wake d a n) s = .next t ∧ binFrame s t ∧ oneReg s t (s.me.regNo d.toNat) ∧ t.mem = s.mem ∧
       t.groups = s.groups ∧ t.cores = s.cores ∧ wakes s t n.toNat rows ∧
       regTakes s t (s.me.regNo d.toNat) (s.on (.wake d a n)) (fun _ => BitVec.ofNat 32 rows.length) 0#4) ∧
   (∀ d a c n s i0, s.runs (.wakePred d a c n) → s.untiled → (s.bin s.myFrame n.toNat).busy = none → s.first (s.on (.wakePred d a c n)) = some i0 →
     d.toNat < s.declared s.me →
     let x := (s.srcA a).at i0
     let holds (v : Word) : Bool := match c.toNat with
       | 0 => decide (v = x)
       | 1 => decide (v ≠ x)
       | 2 => decide (v.toInt < x.toInt)
       | _ => decide (v.toNat < x.toNat)
     ∃ t, exec (.wakePred d a c n) s = .next t ∧ binFrame s t ∧ noReg s t ∧ t.mem = s.mem ∧ t.groups = s.groups ∧
       t.cores = s.cores ∧ wakes s t n.toNat (s.sleepers n.toNat (fun r => (r.value d.toNat).any holds))) ∧
   (∀ d a r n s (f : Lane → List Spot) buf, s.runs (.wakeAddr d a r n) → (s.bin s.myFrame n.toNat).busy = none →
     let m := s.real (s.on (.wakeAddr d a r n))
     let x : Access := ⟨.store, 4, false, false, s.xAddr a, perLane (s.dataOf d.toNat 1), 0#3, if r = 1#1 then 5#3 else 0#3, 0#3,
       false⟩
     (∀ l, Mask.has m l = true → s.allows (.wakeAddr d a r n) x l (f l) ∧ homeSpots buf (f l) ∧
       (Lanes.at x.addr l).toNat / 2 ^ 60 ≠ 3) → s.free_ x m → s.sound m f →
     ∃ t, exec (.wakeAddr d a r n) s = .next t ∧ accessFrame { s with frames := [] } { t with frames := [] } ∧ sameGroups s t ∧
       sameRegs s t ∧ (∀ loc, t.byteAt loc = lastByte (writesOf x m f) s.byteAt loc) ∧
       wakes s t n.toNat (s.sleepers n.toNat (fun q => q.kind == 2#2 &&
         (among m).any (fun l => q.waddr == Lanes.at x.addr l)))))

/-- R303, R305 to R308: fld and fst read and write a column of one tile of rows, fxform changes a column of every row, fcount
reads the occupancy word, binit sets an empty bin's window and cap, and resume names the group of the oldest awake row.

What the rules leave open here is taken as in log 37. -/
def Obligations.FrameEdits : Prop :=
  (∀ d a n s i0, s.runs (.fld d a n) → (s.bin s.myFrame n.toNat).busy = none → s.first (s.on (.fld d a n)) = some i0 →
    let x := ((s.srcA a).at i0).toNat
    x / 256 % 32 < s.declared s.me →
    ∃ t, exec (.fld d a n) s = .next t ∧ regFrame s t [s.me.regNo d.toNat] ∧
      regTakes s t (s.me.regNo d.toNat) (s.on (.fld d a n)) (fun j =>
        match mapFind (s.bin s.myFrame n.toNat).rows (32 * (x % 64) + j.val) with
        | some r => (r.value (x / 256 % 32)).getD 0#32
        | none => 0#32) 0#4) ∧
  (∀ d a n s i0, s.runs (.fst d a n) → (s.bin s.myFrame n.toNat).busy = none → s.first (s.on (.fst d a n)) = some i0 →
    let x := ((s.srcA a).at i0).toNat
    let c := x / 256 % 32
    let m := s.real (s.on (.fst d a n))
    c < s.declared s.me →
    ∃ t, exec (.fst d a n) s = .next t ∧ binFrame s t ∧ noReg s t ∧ t.mem = s.mem ∧ t.groups = s.groups ∧ t.cores = s.cores ∧
      (∀ k, k ≠ s.myFrame → t.frame k = s.frame k) ∧ (∀ j, j ≠ n.toNat → t.bin s.myFrame j = s.bin s.myFrame j) ∧
      ∀ k, mapFind (t.bin s.myFrame n.toNat).rows k = (mapFind (s.bin s.myFrame n.toNat).rows k).map (fun r =>
        if k / 32 = x % 64 ∧ Mask.has m (Fin.ofNat 32 k) = true then r.edited c (fun _ => s.me.lane d.toNat (Fin.ofNat 32 k))
        else r)) ∧
  (∀ d a o n s i0, s.runs (.fxform d a o n) → (s.bin s.myFrame n.toNat).busy = none →
    s.first (s.on (.fxform d a o n)) = some i0 → d.toNat < s.declared s.me →
    let x := (s.srcA a).at i0
    let f (r : Word) : Word := match o.toNat with | 0 => r + x | 1 => r &&& x | 2 => r ||| x | _ => x
    ∃ t, exec (.fxform d a o n) s = .next t ∧ binFrame s t ∧ noReg s t ∧ t.mem = s.mem ∧ t.groups = s.groups ∧
      t.cores = s.cores ∧ (∀ k, k ≠ s.myFrame → t.frame k = s.frame k) ∧
      (∀ j, j ≠ n.toNat → t.bin s.myFrame j = s.bin s.myFrame j) ∧
      ∀ k, mapFind (t.bin s.myFrame n.toNat).rows k =
        (mapFind (s.bin s.myFrame n.toNat).rows k).map (fun r => r.edited d.toNat f)) ∧
  (∀ (r : Row) c f, (r.live.getLsbD c = true → ((List.range c).filter (fun j => r.live.getLsbD j)).length < r.regs.length) →
    (r.edited c f).value c = (r.value c).map f ∧ ((r.value c).isSome = true → (r.edited c f).edit = true) ∧
    ∀ j, j ≠ c → (r.edited c f).value j = r.value j) ∧
  (∀ d n s, s.runs (.fcount d n) → (s.bin s.myFrame n.toNat).busy = none → s.first (s.on (.fcount d n)) ≠ none →
    let b := s.bin s.myFrame n.toNat
    ∃ t, exec (.fcount d n) s = .next t ∧ regFrame s t [s.me.regNo d.toNat] ∧
      regTakes s t (s.me.regNo d.toNat) (s.on (.fcount d n))
        (fun _ => BitVec.ofNat 32 (b.chain.length * 2 ^ 24 + (b.rows.filter (fun r => r.2.awake)).length * 2 ^ 12
          + b.rows.length)) 0#4) ∧
  (∀ d a n s i0, s.runs (.binit d a n) → (s.bin s.myFrame n.toNat).busy = none → s.first (s.on (.binit d a n)) = some i0 →
    let x := ((s.srcA a).at i0).toNat
    let b := s.bin s.myFrame n.toNat
    ∃ t, exec (.binit d a n) s = .next t ∧ binFrame s t ∧ oneReg s t (s.me.regNo d.toNat) ∧ t.mem = s.mem ∧
      t.groups = s.groups ∧ t.cores = s.cores ∧
      regTakes s t (s.me.regNo d.toNat) (s.on (.binit d a n)) (fun _ => if b.rows.isEmpty then 1#32 else 0#32) 0#4 ∧
      (∀ j, j ≠ n.toNat → t.bin s.myFrame j = s.bin s.myFrame j) ∧
      t.bin s.myFrame n.toNat =
        if b.rows.isEmpty then { b with window := max 64 (x % 65536), cap := min 64 (max 1 (x / 65536 % 128)) } else b) ∧
  (∀ n s, s.runs (.resume n) → (s.bin s.myFrame n.toNat).busy = none → s.first (s.on (.resume n)) ≠ none →
    let b := s.bin s.myFrame n.toNat
    ∃ t, exec (.resume n) s = .next t ∧ binFrame s t ∧ noReg s t ∧ t.mem = s.mem ∧ t.groups = s.groups ∧ t.cores = s.cores ∧
      (∀ j, j ≠ n.toNat → t.bin s.myFrame j = s.bin s.myFrame j) ∧
      ((∀ e ∈ b.rows, e.2.awake = false) → t.bin s.myFrame n.toNat = b) ∧
      ∀ e ∈ b.rows, e.2.awake = true → (∀ x ∈ b.rows, x.2.awake = true → x = e ∨ e.2.woken < x.2.woken) →
        t.bin s.myFrame n.toNat = { b with forced := some e.2.group })

/-! ### Service calls and launches -/

/-- R364, R366 to R369: svc waits for a reply under its code, with each lane's two arguments; srecv takes the next record's
slot and reads it into registers, and waits where none is ready; srep answers a call lane by lane, its mask's lanes with SVCERR, and frees the slot.

What the rules leave open here is taken as in log 45. -/
def Obligations.ServiceCalls : Prop :=
  (∀ d c b p s, s.runs (.svc d c b p) → s.untiled →
    let i : Instr := .svc d c b p
    let m := s.real (s.on i)
    let x := (s.sreg c.toNat).toNat
    let g := s.ring s.me.die
    (m = 0#32 → ∃ t, exec i s = .next t ∧ stepsPast s t) ∧
    (m ≠ 0#32 → 2 ^ 16 ≤ x → ∃ u, s.useOf i = some u ∧ exec i s = .next (s.failed u .illegal)) ∧
    (m ≠ 0#32 → x < 2 ^ 16 → (x < 16 ∨ g.on = false) → ∃ u, s.useOf i = some u ∧ exec i s = .next (s.failed u .svcerr)) ∧
    (m ≠ 0#32 → 16 ≤ x → x < 2 ^ 16 → g.on = true →
      ∃ t id y r, exec i s = .next t ∧ t.mem = s.mem ∧ t.groups = s.groups ∧ t.me.v = s.me.v ∧ t.me.h = s.me.h ∧ t.me.m = s.me.m ∧
        t.me.fcsr = s.me.fcsr ∧ t.me.pc = s.stepped s.bundle ∧
        mapFind (t.ring s.me.die).calls id = some y ∧ (t.ring s.me.die).waiting = g.waiting ++ [.call id] ∧
        y.warp = s.cur ∧ y.lanes = m ∧ y.code = x ∧ y.filed = none ∧ y.replies = none ∧
        (∀ l, Mask.has m l = true → Lanes.at y.argA l = s.me.lane d.toNat l ∧ Lanes.at y.argB l = (s.srcB b).at l) ∧
        t.me.pend = s.me.pend ++ [r] ∧ r.id = id ∧ r.dests = [(s.me.regNo d.toNat, 0#4, m)] ∧ r.remote = m ∧ r.la = s.schedLa ∧
        ∀ l, Lanes.at t.me.wait l = if Mask.has m l && s.schedLa == 0 then .svc id else Lanes.at s.me.wait l)) ∧
  (∀ d n p s i0, s.runs (.srecv d n p) → s.first (s.on (.srecv d n p)) = some i0 →
    let g := s.ring s.me.die
    let key := 2 ^ 53 + s.me.die
    (s.nextRecord s.me.die = none →
      ∃ t id, exec (.srecv d n p) s = .next t ∧ unitFrame s t ∧ noReg s t ∧ t.mem = s.mem ∧ t.groups = s.groups ∧ t.cores = s.cores ∧
        ∀ l, Lanes.at t.me.wait l =
          if Mask.has (s.on (.srecv d n p)) l then .recv id (2 * d.toNat) n.toNat else Lanes.at s.me.wait l) ∧
    (∀ k e b, s.nextRecord s.me.die = some k → s.frontCan key s.sysCtx (g.addr k) 4 = .bytes e →
      s.frontGet key s.sysCtx (g.addr k) 320 = .bytes b →
      let field (o w : Nat) : Nat := natOfBytes ((b.drop o).take w)
      ∃ t, exec (.srecv d n p) s = .next t ∧ t.me.m = s.me.m ∧ t.me.fcsr = s.me.fcsr ∧ t.me.pc = s.stepped s.bundle ∧
        t.sreg n.toNat = BitVec.ofNat 64 (2 ^ 63 + (g.slot k).gen.toNat * 2 ^ 32 + k) ∧
        t.sreg (n.toNat + 1) = BitVec.ofNat 64 (field 8 4 * 2 ^ 32 + field 6 2 * 2 ^ 16 + field 4 2) ∧
        t.sreg (n.toNat + 2) = BitVec.ofNat 64 (field 16 4 * 2 ^ 32 + field 12 4) ∧
        (∀ j, j ≠ n.toNat → j ≠ n.toNat + 1 → j ≠ n.toNat + 2 → t.sreg j = s.sreg j) ∧
        (∀ j, j ∉ s.pairNo (2 * d.toNat) → t.me.reg j = s.me.reg j) ∧
        regTakes s t (s.me.regNo (2 * d.toNat)) (s.on (.srecv d n p)) (fun l => BitVec.ofNat 32 (field (64 + 8 * l.val) 4)) 0#4 ∧
        regTakes s t (s.me.regNo (2 * d.toNat + 1)) (s.on (.srecv d n p))
          (fun l => BitVec.ofNat 32 (field (68 + 8 * l.val) 4)) 0#4 ∧
        ((t.ring s.me.die).slot k).ready = false ∧ ((t.ring s.me.die).slot k).owed = some s.me.group)) ∧
  (∀ e n b s, s.runs (.srep e n b) →
    let i : Instr := .srep e n b
    let h := (s.sreg n.toNat).toNat
    let k := h % 2 ^ 12
    let slot := (s.ring s.me.die).slot k
    let valid : Prop := h / 2 ^ 63 = 1 ∧ slot.gen.toNat = h / 2 ^ 32 % 2 ^ 16 ∧ slot.owed = some s.me.group
    let freed (t : State) : Prop := ((t.ring s.me.die).slot k).filing = none ∧ ((t.ring s.me.die).slot k).owed = none
    (s.real (s.on i) = 0#32 → ∃ t, exec i s = .next t ∧ stepsPast s t) ∧
    (s.real (s.on i) ≠ 0#32 → ¬valid → ∃ u, s.useOf i = some u ∧ exec i s = .next (s.failed u .illegal)) ∧
    (∀ c y, s.real (s.on i) ≠ 0#32 → valid → slot.filing = some (.call c) → mapFind (s.ring s.me.die).calls c = some y →
      ∃ t z rep, exec i s = .next t ∧ ringFrame s t ∧ noReg s t ∧ t.mem = s.mem ∧ t.groups = s.groups ∧ t.cores = s.cores ∧
        freed t ∧ mapFind (t.ring s.me.die).calls c = some z ∧ z = { y with replies := some rep, back := z.back } ∧
        ∀ l, Lanes.at rep l = if e ≠ 0#4 ∧ Mask.has (s.me.mask e.toNat) l = true then none else some ((s.srcB b).at l)) ∧
    (∀ r, s.real (s.on i) ≠ 0#32 → valid → slot.filing = some (.record r) → r.code ≠ 0 →
      ∃ t, exec i s = .next t ∧ ringFrame s t ∧ noReg s t ∧ t.mem = s.mem ∧ t.groups = s.groups ∧ t.cores = s.cores ∧ freed t) ∧
    (∀ r w, s.real (s.on i) ≠ 0#32 → valid → slot.filing = some (.record r) → r.code = 0 →
      ∀ j, r.warp = some j → j ≠ s.cur → (s.warp j).place = .system → (s.group (s.warp j).group).status = .running →
      s.readBack j (s.unedited j) = some w → w.waiting = [] → w.returned = [] → w.trap = false →
      ((s.srcB b).at 0).toNat < 2 →
      ∃ t, exec i s = .next t ∧ freed t ∧ (t.warp j).place ≠ .system ∧ (t.warp j).sysmask = 0#32))

/-- R233, R337 to R339: qpost raises the doorbell word to its operand and wakes the queue's hart; launch gives the front end a
new grid and returns its number; verdict waits with its value; mreq fills a free entry of the Turnstile and returns its
handle.

What the rules leave open here is taken as in logs 31, 38 and 39. -/
def Obligations.Requests : Prop :=
  (∀ q n p s i0, s.runs (.qpost q n p) → s.first (s.on (.qpost q n p)) = some i0 →
    let i : Instr := .qpost q n p
    let x := s.sreg q.toNat
    let k : BitVec 5 := x.setWidth 5
    let b := s.qbind k
    let a := descOf b + 16
    (32 ≤ x.toNat → ∃ u, s.useOf i = some u ∧ exec i s = .next (s.failed u .illegal)) ∧
    (x.toNat < 32 → s.untiled → b.getLsbD 63 = false ∨ (s.me.kern = false ∧ b.getLsbD 61 = false) →
      ∃ u, s.useOf i = some u ∧ exec i s = .next (s.failed u .prot)) ∧
    (∀ e d pa, x.toNat < 32 → s.untiled → b.getLsbD 63 = true → (s.me.kern = true ∨ b.getLsbD 61 = true) →
      s.frontCan (2 ^ 51 + k.toNat) s.sysCtx a 8 = .bytes e → s.frontGet (2 ^ 51 + k.toNat) s.sysCtx a 8 = .bytes d →
      s.physical s.sysCtx true a = some pa →
      let v := max (natOfBytes d) (s.sreg n.toNat).toNat
      ∃ t, exec i s = .next t ∧ noReg s t ∧ t.me.fcsr = s.me.fcsr ∧ t.me.pc = s.stepped s.bundle ∧ t.groups = s.groups ∧
        (∀ z, t.mem.byte z = lastByte (((List.range 8).map (pa + ·)).zip (bytesOfNat 8 v)) s.mem.byte z) ∧
        (t.hart k).state = (if (s.hart k).state = .idle then .waitHeader else (s.hart k).state) ∧
        ∀ j, j ≠ k → t.hart j = s.hart j)) ∧
  (∀ d n p s i0, s.runs (.launch d n p) → s.first (s.on (.launch d n p)) = some i0 →
    let i : Instr := .launch d n p
    let w (j : Nat) : DWord := s.sreg (n.toNat + j)
    let good : Prop := (w 0).toNat % 128 = 0 ∧ (w 1).toNat % 8 = 0 ∧ (w 2).toNat % 32 = 0 ∧ 0 < (w 3).toNat ∧
      (w 3).toNat < 2 ^ 32
    let full : Prop := 256 ≤ (s.grids.filter (fun e => e.2.status == .accepted && e.2.list == s.me.die)).length
    (¬good → ∃ u, s.useOf i = some u ∧ exec i s = .next (s.failed u .illegal)) ∧
    (good → s.untiled → full → ∃ t, exec i s = .next t ∧ t.stalled = true ∧
      t.me.pc = Lanes.where_ s.me.pc s.bundle (fun _ => s.start)) ∧
    (good → s.untiled → ¬full →
      ∃ t k, exec i s = .next t ∧ oneReg s t (s.me.regNo d.toNat) ∧ t.me.fcsr = s.me.fcsr ∧ t.me.pc = s.stepped s.bundle ∧
        t.groups = s.groups ∧ regTakes s t (s.me.regNo d.toNat) (s.on i) (fun _ => BitVec.ofNat 32 k) 0#4 ∧
        k < 2 ^ 32 ∧ (k ≠ 0 → s.gridLive k = false) ∧
        (t.grid k).status = .accepted ∧ (t.grid k).recAddr = w 0 ∧ (t.grid k).argAddr = w 1 ∧ (t.grid k).compl = w 2 ∧
        (t.grid k).threads = (w 3).toNat ∧ (t.grid k).inRoot = s.myGrid.record.ptroot ∧ (t.grid k).inWorld = s.myGrid.world ∧
        (t.grid k).inKern = s.me.kern ∧ (t.grid k).list = s.me.die)) ∧
  (∀ a s, s.runs (.verdict a) →
    ∃ t, exec (.verdict a) s = .next t ∧ unitFrame s t ∧ noReg s t ∧ t.mem = s.mem ∧ t.groups = s.groups ∧ t.cores = s.cores ∧
      ∀ l, Lanes.at t.me.wait l =
        if Mask.has (s.real (s.on (.verdict a))) l then .verdict ((s.srcA a).at l) else Lanes.at s.me.wait l) ∧
  (∀ d n p s i0 o, s.runs (.mreq d n p) → s.first (s.on (.mreq d n p)) = some i0 →
    s.objAt s.me (s.sreg (n.toNat + 1)) = .inr o → o.2 < 2 ^ 19 → s.gangSize s.myGroup ≤ 4 →
    let cl := 32 * s.me.die + s.me.core / 4
    let c := s.cluster cl
    let member := s.myGroup.no.toNat % s.gangSize s.myGroup
    let prio := (s.sreg (n.toNat + 2)).toNat % 4
    ((∀ e : BitVec 6, (c.entry e).valid = true) → ∃ t, exec (.mreq d n p) s = .next t ∧ t.stalled = true ∧
      t.me.pc = Lanes.where_ s.me.pc s.bundle (fun _ => s.start)) ∧
    ((∃ e : BitVec 6, (c.entry e).valid = false) →
      ∃ t, ∃ e : BitVec 6, exec (.mreq d n p) s = .next t ∧ turnFrame s t ∧ oneReg s t (s.me.regNo d.toNat) ∧
        t.mem = s.mem ∧ t.groups = s.groups ∧ t.cores = s.cores ∧ (c.entry e).valid = false ∧
        (∀ k, k ≠ cl → t.cluster k = s.cluster k) ∧ t.cluster cl = c.setEntry e ((t.cluster cl).entry e) ∧
        let x := (t.cluster cl).entry e
        x.payload = s.sreg n.toNat ∧ x.valid = true ∧ x.taken = false ∧ x.omember = (s.group o.1).no.toNat % s.gangSize s.myGroup ∧
        x.ooffset = o.2 ∧ x.member = member ∧ x.prio = prio ∧ x.age = 0 ∧
        regTakes s t (s.me.regNo d.toNat) (s.on (.mreq d n p))
          (fun _ => BitVec.ofNat 32 (member * 256 + prio * 64 + e.toNat)) 0#4))

/-! ### Control cores and the matrix engine -/

/-- R221, R226 to R229, R239: the scalar instructions, moves, compares and descriptor writes of a control core, and its branch,
which goes nowhere outside the control section.

What the rules leave open here is taken as in log 31. -/
def Obligations.StreamOperations : Prop :=
  (∀ e ∈ streamOps, ∀ d a b i s cl, s.controls cl (e.1 d a b i) →
    let c := s.cluster cl
    ∃ t, exec (e.1 d a b i) s = .next t ∧ streamStep s t cl (c.withK d (e.2 (c.kreg a) (c.kreg b + i.signExtend 64)))) ∧
  (∀ d a s cl, s.controls cl (.kmov d a) →
    ∃ t, exec (.kmov d a) s = .next t ∧ streamStep s t cl ((s.cluster cl).withK d ((s.cluster cl).kreg a))) ∧
  (∀ d i s cl, s.controls cl (.kmovi d i) →
    let c := s.cluster cl
    ∃ t, exec (.kmovi d i) s = .next t ∧ streamStep s t cl (c.withK d
      ((match c.hints.imm with | some u => u ++ i.setWidth 10 | none => i.signExtend 32).signExtend 64))) ∧
  (∀ e ∈ streamCompares, ∀ d a b s cl, s.controls cl (.kcmp d a b e.1) →
    let c := s.cluster cl
    ∃ t, exec (.kcmp d a b e.1) s = .next t ∧
      streamStep s t cl (c.withK d (if e.2 (c.kreg a) (c.kreg b) then 1#64 else 0#64))) ∧
  (∀ d i s cl, s.controls cl (.kbra d i) →
    let c := s.cluster cl
    let r := s.controlRecord c
    let off : Word := match c.hints.imm with | some u => u ++ i.setWidth 10 | none => i.signExtend 32
    let to_ := c.pc + 4#32 * off
    let taken : Prop := d = 0#5 ∨ c.kreg d ≠ 0#64
    let inside : Prop := r.ctrlpc = 0xFFFFFFFF#32 ∨ r.ctrlpc.toNat ≤ to_.toNat
    (¬taken → ∃ t, exec (.kbra d i) s = .next t ∧ streamStep s t cl c) ∧
    (taken → inside → to_.toNat < r.codelen.toNat →
      exec (.kbra d i) s = .next { s with clusters := mapPut s.clusters cl { c with pc := to_ } }) ∧
    (taken → ¬inside ∨ r.codelen.toNat ≤ to_.toNat → exec (.kbra d i) s = .next (s.controlFault cl .segv 0#64))) ∧
  (∀ d a f s cl, s.controls cl (.dset d a f) →
    let c := s.cluster cl
    (∀ x, (c.desc d).set f.toNat (c.kreg a) = some x →
      ∃ t, exec (.dset d a f) s = .next t ∧ streamStep s t cl { c with d := c.d.set d.toNat x d.isLt }) ∧
    ((c.desc d).set f.toNat (c.kreg a) = none → exec (.dset d a f) s = .next (s.controlFault cl .fmt 0#64))) ∧
  (∀ d a s cl, s.controls cl (.dmov d a) →
    let c := s.cluster cl
    ∃ t, exec (.dmov d a) s = .next t ∧ streamStep s t cl { c with d := c.d.set d.toNat (c.desc a) d.isLt }) ∧
  (∀ (d : Desc) x v, d.set 1 x = some v → v.rows = x.toNat ∧ v.cols = d.cols ∧ v.pitch = d.pitch ∧ v.fmt = d.fmt ∧
    v.offset = d.offset ∧ v.w1 = d.w1)

/-- R225, R230, R231: kld and kst reach memory and the gang's scratchpads, and wait while a matrix operation touches the
bytes; kwait waits while the phase of its object equals its operand's low 25 bits, and raises a recorded cause.

What the rules leave open here is taken as in logs 31 and 67. -/
def Obligations.StreamAccesses : Prop :=
  (∀ d a w i s cl g o, s.controls cl (.kld d a w i) →
    let c := s.cluster cl
    let n := if w = 1#1 then 8 else 4
    let ad := c.kreg a + i.signExtend 64 * BitVec.ofNat 64 n
    s.controlAim c ad n false = .scratch g o →
    (s.opsTouch c g o n = true →
      ∃ t, exec (.kld d a w i) s = .next t ∧ t.stalled = true ∧ t.clusters = s.clusters ∧ t.mem = s.mem ∧ t.groups = s.groups) ∧
    (s.opsTouch c g o n = false → (s.group g).sectorBad o n = true →
      exec (.kld d a w i) s = .next (s.controlFault cl .poison ad)) ∧
    (s.opsTouch c g o n = false → (s.group g).sectorBad o n = false →
      ((s.obj g o).marked = true ∨ s.racy c.agent 4 0 false (objLoc (g, o)) n = false) →
      ∃ t, exec (.kld d a w i) s = .next t ∧ streamFrame s t cl ∧ t.mem = s.mem ∧ t.groups = s.groups ∧
        t.cluster cl = { c.withK d (BitVec.ofNat 64 (natOfBytes ((List.range n).map (fun j => mapGet 0#8 (s.group g).sp (o + j)))))
          with pc := c.pc + 4#32 })) ∧
  (∀ d a w i s cl path va pa buf, s.controls cl (.kld d a w i) →
    let c := s.cluster cl
    let n := if w = 1#1 then 8 else 4
    s.controlAim c (c.kreg a + i.signExtend 64 * BitVec.ofNat 64 n) n false = .ranges path va →
    s.place (s.controlCtx cl) path false va = .memory pa buf → s.lineState (s.controlCtx cl).world buf pa = .good →
    s.mem.poisoned pa n = false → (path = 1 ∨ s.racy c.agent path 0 false pa n = false) → s.unwatched →
    ∃ t, exec (.kld d a w i) s = .next t ∧ streamFrame s t cl ∧ t.mem = s.mem ∧ t.groups = s.groups ∧
      t.cluster cl = { c.withK d (BitVec.ofNat 64 (s.mem.num pa n)) with pc := c.pc + 4#32 }) ∧
  (∀ d a w i s cl g o, s.controls cl (.kst d a w i) →
    let c := s.cluster cl
    let n := if w = 1#1 then 8 else 4
    s.controlAim c (c.kreg a + i.signExtend 64 * BitVec.ofNat 64 n) n true = .scratch g o → s.opsTouch c g o n = false →
    ((s.obj g o).marked = true ∨ s.racy c.agent 4 0 true (objLoc (g, o)) n = false) → o + n ≤ 2 ^ 60 →
    ∃ t, exec (.kst d a w i) s = .next t ∧ streamFrame s t cl ∧ sameGroups s t ∧ t.mem = s.mem ∧
      t.cluster cl = { c with pc := c.pc + 4#32 } ∧
      ∀ loc, t.byteAt loc =
        lastByte (((List.range n).map (objLoc (g, o) + ·)).zip (bytesOfNat n (c.kreg d).toNat)) s.byteAt loc) ∧
  (∀ d a w i s cl path va pa buf, s.controls cl (.kst d a w i) →
    let c := s.cluster cl
    let n := if w = 1#1 then 8 else 4
    s.controlAim c (c.kreg a + i.signExtend 64 * BitVec.ofNat 64 n) n true = .ranges path va →
    s.place (s.controlCtx cl) path true va = .memory pa buf →
    s.storePoison (s.controlCtx cl).world buf pa [(pa, n)] = false → s.racy c.agent path 0 true pa n = false → path ≠ 1 → s.unwatched →
    ∃ t, exec (.kst d a w i) s = .next t ∧ streamFrame s t cl ∧ t.groups = s.groups ∧ t.cluster cl = { c with pc := c.pc + 4#32 } ∧
      ∀ z, t.mem.byte z = lastByte (((List.range n).map (pa + ·)).zip (bytesOfNat n (c.kreg d).toNat)) s.mem.byte z) ∧
  (∀ a b s cl g o, s.controls cl (.kwait a b) →
    let c := s.cluster cl
    s.controlObj c (c.kreg a) = .inr (g, o) →
    (s.phase g o = (c.kreg b).toNat % 2 ^ 25 →
      ∃ t, exec (.kwait a b) s = .next t ∧ t.stalled = true ∧ t.clusters = s.clusters) ∧
    (s.phase g o ≠ (c.kreg b).toNat % 2 ^ 25 → s.objCause g o = 0 →
      ∃ t, exec (.kwait a b) s = .next t ∧ streamFrame s t cl ∧ t.mem = s.mem ∧ t.groups = s.groups ∧
        t.cluster cl = { c with pc := c.pc + 4#32 }))

/-- R223, R234 to R236: mtake takes the entry that R234 prefers into its pair, the .nw form takes zeros where there is none,
and mtake waits for one; mdone answers its taken request by an arrival at the request's object, clears the entry's VALID
and TAKEN, and waits for the cluster's operations.

What the rules leave open here is taken as in log 31. -/
def Obligations.Turnstile : Prop :=
  (∀ nw d i s cl n, (nw = false ∧ i = .mtake d) ∨ (nw = true ∧ i = .mtakeNw d) → s.controls cl i →
    let c := s.cluster cl
    let pending (k : BitVec 6) : Prop := (c.entry k).valid = true ∧ (c.entry k).taken = false
    let old := (List.range 64).any (fun k => (c.entry (BitVec.ofNat 6 k)).valid && !(c.entry (BitVec.ofNat 6 k)).taken
      && decide (4096 < (c.entry (BitVec.ofNat 6 k)).age))
    let e := c.entry n
    pending n → (∀ k, pending k → k ≠ n → preferred old e (c.entry k) n.toNat k.toNat) →
    ∃ t x, exec i s = .next t ∧ streamFrame s t cl ∧ t.mem = s.mem ∧ t.groups = s.groups ∧
      t.cluster cl = { ((c.setEntry n x).withK (BitVec.ofNat 5 (2 * d.toNat)) e.payload).withK (BitVec.ofNat 5 (2 * d.toNat + 1))
        (BitVec.ofNat 64 (2 ^ 63 + e.member * 256 + e.prio * 64 + n.toNat)) with pc := c.pc + 4#32 } ∧
      x.valid = true ∧ x.taken = true ∧ x.payload = e.payload ∧ x.omember = e.omember ∧ x.ooffset = e.ooffset ∧
      x.word2 = e.word2) ∧
  (∀ nw d i s cl, (nw = false ∧ i = .mtake d) ∨ (nw = true ∧ i = .mtakeNw d) → s.controls cl i →
    let c := s.cluster cl
    (∀ k : BitVec 6, (c.entry k).valid = false ∨ (c.entry k).taken = true) →
    (nw = true ∨ (s.gangExited c = true ∧ ∃ k : BitVec 6, (c.entry k).taken = true) →
      ∃ t, exec i s = .next t ∧ streamStep s t cl
        ((c.withK (BitVec.ofNat 5 (2 * d.toNat)) 0#64).withK (BitVec.ofNat 5 (2 * d.toNat + 1)) 0#64)) ∧
    (nw = false → s.gangExited c = false →
      ∃ t, exec i s = .next t ∧ t.stalled = true ∧ t.clusters = s.clusters ∧ t.mem = s.mem ∧ t.groups = s.groups) ∧
    (nw = false → s.gangExited c = true → (∀ k : BitVec 6, (c.entry k).taken = false) →
      ∃ t, exec i s = .next t ∧ (t.cluster cl).gang = none ∧ (∀ k, (t.cluster cl).kreg k = 0#64) ∧ (t.cluster cl).acc = [] ∧
        t.mem = s.mem ∧ t.groups = s.groups)) ∧
  (∀ a s cl, s.controls cl (.mdone a) →
    let c := s.cluster cl
    let h := c.kreg a
    let n : BitVec 6 := h.setWidth 6
    let e := c.entry n
    let good : Prop := h.getLsbD 63 = true ∧ e.valid = true ∧ e.taken = true
    (¬good → exec (.mdone a) s = .next (s.controlFault cl .illegal 0#64)) ∧
    (good → c.ops ≠ [] → ∃ t, exec (.mdone a) s = .next t ∧ t.stalled = true ∧ t.clusters = s.clusters) ∧
    (∀ k f r, good → c.ops = [] → c.accFault = (k, f) :: r →
      exec (.mdone a) s = .next (State.controlFault
        { s with clusters := mapPut s.clusters cl { c with accFault := c.accFault.filter (fun x => x.2.2 != f.2) } } cl f.1 0#64)) ∧
    (∀ g, good → c.ops = [] → c.accFault = [] → s.gangMember c e.omember = some g →
      ∃ t x, exec (.mdone a) s = .next t ∧ streamFrame s t cl ∧ samePads s t ∧ t.mem = s.mem ∧
        t.cluster cl = { c.setEntry n x with ran := [], pc := c.pc + 4#32 } ∧
        x.valid = false ∧ x.taken = false ∧ x.payload = e.payload ∧ x.omember = e.omember ∧ x.ooffset = e.ooffset ∧
        x.word2 = e.word2 ∧
        ∀ loc, t.byteAt loc = putWords s.byteAt (objLoc (g, e.ooffset))
          (arrivedOne (wordAt s.byteAt (objLoc (g, e.ooffset)) 0, wordAt s.byteAt (objLoc (g, e.ooffset)) 1,
            wordAt s.byteAt (objLoc (g, e.ooffset)) 2, wordAt s.byteAt (objLoc (g, e.ooffset)) 3)) loc))

/-- R243 to R245, R250 to R254: a matrix instruction queues its operation on the array that owns its accumulator, behind at most
two others; a fault recorded for its accumulator is raised first, and then the checks of issue. An acc.store that counts a
request needs a taken entry.

What the rules leave open here is taken as in log 31. -/
def Obligations.MatrixQueues : Prop :=
  ∀ i s cl o chk pair, s.opOf cl i = some (o, chk, pair) → s.controls cl i →
    let c := s.cluster cl
    let accs := if pair = true then [o.acc, o.acc + 1] else [o.acc]
    let q := c.queue (o.acc / 2)
    let missing : Prop := ∃ j, o.request = some j ∧
      ((c.entry (BitVec.ofNat 6 j)).valid = false ∨ (c.entry (BitVec.ofNat 6 j)).taken = false)
    (missing → exec i s = .next (s.controlFault cl .illegal 0#64)) ∧
    (∀ k f, ¬missing → k ∈ accs → mapFind c.accFault k = some f → k = o.acc ∨ mapFind c.accFault o.acc = none →
      exec i s = .next (State.controlFault
        { s with clusters := mapPut s.clusters cl { c with accFault := c.accFault.filter (fun x => x.2.2 != f.2) } } cl f.1 0#64)) ∧
    (¬missing → (∀ k ∈ accs, mapFind c.accFault k = none) →
      (∀ e, chk = some e → exec i s = .next (s.controlFault cl e 0#64)) ∧
      (chk = none → 3 ≤ q.length →
        ∃ t, exec i s = .next t ∧ t.stalled = true ∧ t.clusters = s.clusters ∧ t.mem = s.mem ∧ t.groups = s.groups) ∧
      (chk = none → q.length < 3 →
        ∃ t n g, exec i s = .next t ∧ streamFrame s t cl ∧ t.mem = s.mem ∧ t.groups = s.groups ∧
          t.cluster cl = { c with
            queues := mapPut c.queues (o.acc / 2) (q ++ [{ o with agent := n, gather := g }]), pc := c.pc + 4#32 }))

/-! ### Events of the scheduler, of traps and of pre-emption -/

/-- R30, R51, R68, R72, R78, R79, R81, R92, R213: the timer re-forms a warp's bundles; a bundle passed over counts, and one passed
over 64 times issues first; the spin governor makes the lanes at its target wait and wakes them after 65,536 cc; a warp moves
between the register files with no value changed; a gang is evicted when all of its launch waits and others wait to run; a
result that is due lands; a lane that waits for a word or a phase goes on when a read finds it changed.

What the rules leave open here is taken as in logs 2, 22 and 40. -/
def Obligations.SchedulerEvents : Prop :=
  (∀ k (s : State), (s.warp k).withheld = 0#32 → (s.warp k).formed + 8 ≤ s.cc →
    ∃ x, exec (.bundleReformationTimer k) s = .next (s.setWarp k x) ∧ reformed (s.warp k) x s.cc) ∧
  (∀ k (s : State), (s.warp k).withheld ≠ 0#32 ∨ s.cc < (s.warp k).formed + 8 →
    exec (.bundleReformationTimer k) s = .next s) ∧
  (∀ k j (s : State), ∃ x, exec (.bundlePassedOver k j) s = .next (s.setWarp k x) ∧
    { x with bundles := (s.warp k).bundles } = s.warp k ∧
    ∀ n : Nat, x.bundles[n]? = (s.warp k).bundles[n]?.map (fun b => if n = j then { b with passed := b.passed + 1 } else b)) ∧
  (∀ (s : State) l x y, x ∈ l → s.chosen l = some y → 64 ≤ x.2.2.passed → 64 ≤ y.2.2.passed) ∧
  (∀ k (s : State) l, l ∈ (s.warp k).gov.loops → 256 ≤ l.count → (∀ j ∈ (s.warp k).gov.loops, 256 ≤ j.count → j = l) →
    ∃ x, exec (.spinGovernorDemotion k) s = .next (s.setWarp k x) ∧ x.values = (s.warp k).values ∧ x.gov.demoted = true ∧
      ((s.warp k).gov.demoted = false → x.gov.since = s.cc ∧ x.gov.tracked = l.sectors) ∧
      ∀ i, Lanes.at x.wait i = if Mask.has (s.warp k).runnable i && Lanes.at (s.warp k).pc i == l.target then .spin
        else Lanes.at (s.warp k).wait i) ∧
  (∀ k (s : State), (∀ l ∈ (s.warp k).gov.loops, l.count < 256) → exec (.spinGovernorDemotion k) s = .next s) ∧
  (∀ k (s : State), (s.warp k).gov.demoted = true → (s.warp k).gov.since + 65536 ≤ s.cc →
    ∃ x, exec (.governorTimeoutWake k) s = .next (s.setWarp k x) ∧ x.contents = (s.warp k).contents ∧ x.gov.loops = [] ∧
      x.gov.demoted = false ∧
      ∀ i, Mask.has (s.warp k).live i = true →
        Lanes.at x.wait i = if Lanes.at (s.warp k).wait i = .spin then .none else Lanes.at (s.warp k).wait i) ∧
  (∀ k (s : State), (s.warp k).fast = true → s.slowRoom k = true →
    exec (.registerFileMove k) s = .next (s.setWarp k { s.warp k with fast := false })) ∧
  (∀ k p (s : State), let w := s.warp k
    w.fast = false → w.place = .running → p < 16 → (∀ e ∈ s.activeSet w.die w.core, e.2.pos ≠ p) →
    (∀ q < p, ∃ e ∈ s.activeSet w.die w.core, e.2.pos = q) → s.fastRoom k = true →
    exec (.registerFileMove k) s = .next (s.setWarp k { w with fast := true, pos := p })) ∧
  (∀ g (s : State), (s.group g).status = .running → s.isServer (s.group g).grid = false →
    s.launchWaits (s.group g).grid = true → s.hasOutside (s.group g).grid = true →
    ∃ t, exec (.groupEviction g) s = .next t ∧
      ∀ j ∈ s.gangOf g, (s.group j).status = .running → stopped s t j .evicted .evicted) ∧
  (∀ g (s : State), (s.group g).status ≠ .running ∨ s.isServer (s.group g).grid = true ∨ s.groupWaits g = false →
    exec (.groupEviction g) s = .next s) ∧
  (∀ k (s : State) p n fmt m l, (s.warp k).place = .running → (s.warp k).pend = [p] → (s.warp k).frozen p = false → p.dests = [(n, fmt, m)] → p.vals = [l] →
    p.sdest = none → n < 40 → p.uniform = false → p.lanes &&& ~~~p.got = 0#32 → p.lanes ≠ 0#32 →
    (∀ i, Mask.has p.lanes i = true → Lanes.at p.left i = 0) →
    ∃ x, exec (.longLatencyResult k) s = .next (s.setWarp k x) ∧ x.pend = [] ∧ x.m = (s.warp k).m ∧ x.pc = (s.warp k).pc ∧
      (∀ j, j ≠ n → x.reg j = (s.warp k).reg j) ∧
      ∀ i, Mask.has (s.warp k).live i = true → (Mask.has m i = true → (x.reg n).entry.at i = Lanes.at l i) ∧
        (Mask.has m i = false →
          (x.reg n).entry.at i = ((s.warp k).reg n).entry.at i)) ∧
  (∀ k (s : State) (v : Lane → Word), (s.warp k).place ≠ .gone →
    (∀ i a x, Mask.has (s.warp k).live i = true → Lanes.at (s.warp k).wait i = .addr a x → s.waitRead k i a = .word (v i)) →
    ∃ t, exec (.waitAddrReread k) s = .next t ∧ t.mem = s.mem ∧ t.groups = s.groups ∧ (t.warp k).contents = (s.warp k).contents ∧
      (t.warp k).pc = (s.warp k).pc ∧
      ∀ i, Lanes.at (t.warp k).wait i = match Lanes.at (s.warp k).wait i with
        | .addr a x => if Mask.has (s.warp k).live i && v i != x then .none else .addr a x
        | y => y) ∧
  (∀ k (s : State) (o : Lane → Nat × Nat), (s.warp k).place ≠ .gone →
    (∀ i a x, Mask.has (s.warp k).live i = true → Lanes.at (s.warp k).wait i = .bar a x →
      s.objAt (s.warp k) a = .inr (o i) ∧ (s.phase (o i).1 (o i).2 = x.toNat % 2 ^ 25 ∨ s.objClean (o i))) →
    ∃ t, exec (.barWaitReread k) s = .next t ∧ t.mem = s.mem ∧ t.groups = s.groups ∧ (t.warp k).contents = (s.warp k).contents ∧
      (t.warp k).pc = (s.warp k).pc ∧
      ∀ i, Lanes.at (t.warp k).wait i = match Lanes.at (s.warp k).wait i with
        | .bar a x => if Mask.has (s.warp k).live i && s.phase (o i).1 (o i).2 != x.toNat % 2 ^ 25 then .none else .bar a x
        | y => y)

/-- R262, R265, R267 to R271, R274, R278, R279, R281: the delivery of waiting traps; the Ringmaster's filing of a row, its
handler warps and its window; a returned row; the watch-hit register; the checkpoint of a region, the rollback to it, and
the replay of a logged access.

What the rules leave open here is taken as in logs 33 and 34. -/
def Obligations.TrapEvents : Prop :=
  (∀ k h (s : State), let w := s.warp k
    w.place = .running → w.late = [] → w.waiting ≠ [] → w.trap = false → w.handler = false → s.allMode w w.waiting 1 h →
    s.reserveFree w.die w.core = true →
    let d := (s.setWarp k (w.closeWindows w.live)).landDue k
    ∃ x, exec (.localTrapEntry k) s = .next (d.setWarp k x) ∧ entersLocal (d.warp k) x w.waiting h) ∧
  (∀ k (s : State), let w := s.warp k
    w.place = .running → w.late = [] → w.waiting ≠ [] → s.allMode w w.waiting 0 0#32 →
    ∃ t, exec (.systemDelivery k) s = .next t ∧ t.outer = s.outer ∧ t.groups = s.groups ∧ (t.warp k).place = .system ∧
      (t.warp k).sysmask = trapLanes w.waiting ∧ (t.warp k).values = w.values ∧ (t.warp k).pc = w.pc ∧
      ∃ r, (t.ring w.die).waiting = (s.ring w.die).waiting ++ [.record r] ∧ r.code = 0 ∧ r.warp = some k ∧ r.body.length = 64) ∧
  (∀ k i x n (s : State), let w := s.warp k
    let f := min (s.declared w) 28
    w.pend = [] → w.filing = [(i, x)] →
    (s.die w.die).binFor (s.grid (s.group w.group).grid).world (s.group w.group).grid (s.handler w x.cause) x.cause = some n →
    ∃ t b r, exec (.ringmasterFile k) s = .next t ∧ t.warp k = { w with filing := [] } ∧ t.mem = s.mem ∧ t.groups = s.groups ∧
      mapFind (t.die w.die).bins n = some b ∧
      b.rows = (match mapFind (s.die w.die).bins n with | some b => b.rows | none => []) ++ [r] ∧
      r.tpc = Lanes.at w.pc i ∧ r.cause = x.word ∧ r.taddr = x.addr ∧ r.omeet = Lanes.at w.meet i ∧
      r.omeetmask = Lanes.at w.meetmask i ∧ r.origin.warp = k ∧ r.origin.lane.toNat = i.val ∧ r.regs.length = f ∧
      ∀ j < f, r.regs[j]? = some ((w.reg j).entry.at i, (w.reg j).fmt)) ∧
  (∀ k i x n b (s : State), let w := s.warp k
    w.pend = [] → w.filing = [(i, x)] →
    (s.die w.die).binFor (s.grid (s.group w.group).grid).world (s.group w.group).grid (s.handler w x.cause) x.cause = none →
    (s.die w.die).oldestBin = some n → mapFind (s.die w.die).bins n = some b →
    ∃ t, exec (.ringmasterFile k) s = .next t ∧ t.warp k = w ∧ mapFind (t.die w.die).bins n = some { b with forming := true }) ∧
  (∀ die n b core (s : State), mapFind (s.die die).bins n = some b → s.stoppedOn b.grid die = false →
    32 ≤ b.rows.length ∨ b.forming = true ∨ s.starved b = true → s.handlerCore die b = some core →
    ∃ t, exec (.handlerWarpFormation die n) s = .next t ∧ mapFind (t.die die).bins n = none ∧ t.mem = s.mem ∧
      (t.group (s.unit + 1)).grid = b.grid ∧ (t.group (s.unit + 1)).handler = true ∧ (t.group (s.unit + 1)).warps = [s.unit] ∧
      handles s (t.warp s.unit) die core b) ∧
  (∀ die n b (s : State), mapFind (s.die die).bins n = some b →
    (b.rows.length < 32 ∧ b.forming = false ∧ s.starved b = false) ∨ s.stoppedOn b.grid die = true →
    exec (.handlerWarpFormation die n) s = .next s) ∧
  (∀ die n b core (s : State), die < 4 → mapFind (s.die die).bins n = some b → b.rows ≠ [] → s.binWindow b ≤ b.age →
    s.stoppedOn b.grid die = false → (∀ d < 4, d ≠ die → (s.die d).bins = []) →
    s.handlerCore die { b with forming := true } = some core →
    ∃ t, exec (.gatherWindowExpiry die n) s = .next t ∧ mapFind (t.die die).bins n = none ∧
      handles s (t.warp s.unit) die core b) ∧
  (∀ die n b from_ j x (s : State), die < 4 → mapFind (s.die die).bins n = some b → b.rows ≠ [] → s.binWindow b ≤ b.age →
    from_ < 4 → from_ ≠ die → (s.die from_).bins = [(j, x)] → (∀ d < 4, d ≠ die → d ≠ from_ → (s.die d).bins = []) →
    s.stoppedOn b.grid die = false → x.world = b.world → x.grid = b.grid → x.handler = b.handler → x.cause = b.cause →
    let y : TrapBin := { b with rows := b.rows ++ x.rows.take (32 - b.rows.length), forming := true }
    s.handlerCore die y = none →
    ∃ t, exec (.gatherWindowExpiry die n) s = .next t ∧ mapFind (t.die die).bins n = some y ∧
      (t.die from_).bins = (if x.rows.length ≤ 32 - b.rows.length then []
        else [(j, { x with rows := x.rows.drop (32 - b.rows.length) })])) ∧
  (∀ die n b (s : State), mapFind (s.die die).bins n = some b → b.rows = [] ∨ b.age < s.binWindow b ∨ s.stoppedOn b.grid die = true →
    exec (.gatherWindowExpiry die n) s = .next s) ∧
  (∀ j r (s : State), let k := r.origin.warp
    let i : Lane := ⟨r.origin.lane.toNat, r.origin.lane.isLt⟩
    mapFind s.returning j = some r → (s.warp k).place = .running → Mask.has ((s.warp k).live &&& (s.warp k).detached) i = true →
    ∃ t, exec (.rowReattach j) s = .next t ∧ mapFind t.returning j = none ∧ t.mem = s.mem ∧ t.groups = s.groups ∧
      Mask.has (t.warp k).detached i = false ∧ Lanes.at (t.warp k).pc i = r.pc ∧
      ∀ n : Nat, ∀ y, r.regs[n]? = some y → n < 32 → ((t.warp k).reg n).entry.at i = y.1 ∧ ((t.warp k).reg n).fmt = y.2) ∧
  (∀ j r (s : State), mapFind s.returning j = some r → (s.warp r.origin.warp).place ≠ .running →
    (s.warp r.origin.warp).place ≠ .gone →
    ∃ t, exec (.rowReattach j) s = .next t ∧ mapFind t.returning j = none ∧
      t.warp r.origin.warp = { s.warp r.origin.warp with returned := (s.warp r.origin.warp).returned ++ [r] }) ∧
  (∀ d (v : DWord) (s : State), ∃ t, exec (.whitAddrWrite d v) s = .next t ∧ t.warps = s.warps ∧ t.mem = s.mem ∧
    (t.die d).bins = (s.die d).bins ∧ (t.die d).wp = (s.die d).wp ∧
    (v.getLsbD 63 = true → ∀ j, j < 64 →
      (t.die d).whitAddr.getLsbD j = (decide (j ≠ 63) && (s.die d).whitAddr.getLsbD j) ∧
      (t.die d).whitInfo.getLsbD j = (decide (j < 40 ∨ 48 ≤ j) && (s.die d).whitInfo.getLsbD j)) ∧
    (v.getLsbD 63 = false → t.die d = s.die d)) ∧
  (∀ k (s : State), let w := s.warp k
    w.late = [] → w.ckpt.issued = w.issued →
    ∃ x, exec (.regionCheckpoint k) s = .next (s.setWarp k x) ∧ { x with ckpt := w.ckpt } = w ∧ x.ckpt.v = w.v ∧
      x.ckpt.h = w.h ∧ x.ckpt.m = w.m ∧ x.ckpt.pc = w.pc ∧ x.ckpt.meet = w.meet ∧ x.ckpt.meetmask = w.meetmask ∧
      x.ckpt.wait = w.wait ∧ x.ckpt.pend = w.pend) ∧
  (∀ k (s : State), (s.warp k).late = [] ∨ (s.warp k).place ≠ .running → exec (.lateStoreCheck k) s = .next s) ∧
  (∀ k (s : State), let w := s.warp k
    w.late ≠ [] → w.place = .running → w.ckpt.pend = [] → (∀ x ∈ w.late, (s.table w x.cause).1 = 0) →
    (∃ x ∈ w.late, Mask.has (w.live &&& ~~~w.detached) x.lane = true) →
    ∃ t, exec (.lateStoreCheck k) s = .next t ∧ (t.warp k).place = .system ∧ (t.warp k).late = [] ∧
      (t.warp k).v = w.ckpt.v ∧ (t.warp k).h = w.ckpt.h ∧ (t.warp k).m = w.ckpt.m ∧
      (∀ i, Mask.has (w.live &&& ~~~w.detached) i = true → Lanes.at (t.warp k).meet i = Lanes.at w.ckpt.meet i ∧
        Lanes.at (t.warp k).meetmask i = Lanes.at w.ckpt.meetmask i ∧ Lanes.at (t.warp k).pc i = Lanes.at w.ckpt.pc i) ∧
      (∀ i, Mask.has (t.warp k).sysmask i =
        (Mask.has (w.live &&& ~~~w.detached) i && w.late.any (fun x => x.lane == i)))) ∧
  (∀ k (s : State), (s.warp k).place ≠ .running → exec (.operandLogReplay k) s = .next s) ∧
  (∀ k i p l (s : State), let own := (s.warp k).segs
    let r := (s.modWarp k (fun w => w.withSegs p.segs)).accessAll k p.id p.instr p.pc p.acc (laneBit i) p.stored
    (s.warp k).place = .running → (s.warp k).pend = [p] → p.logged = laneBit i → p.held = 0#32 → Mask.has p.lanes i = true →
    (∀ j, p.acc.kind ≠ .copy j) → p.acc.scalar = false → p.acc.size = 4 → p.vals = [l] → p.dests ≠ [] →
    s.atHart k p.id i = false → r.traps = [] → Mask.has r.logged i = false → Mask.has r.remote i = false →
    (r.st.warp k).pend = [p] → (r.st.warp k).deferred = [] →
    ∃ t q, exec (.operandLogReplay k) s = .next t ∧ t.mem = r.st.mem ∧ t.groups = r.st.groups ∧ (t.warp k).pend = [q] ∧ (t.warp k).segs = own ∧
      Mask.has q.logged i = false ∧ Mask.has q.got i = true ∧
      q.vals = [Lanes.where_ l (laneBit i) (fun _ => (Lanes.at r.vals i).setWidth 32)])

/-- R285 to R288: a pre-emption request stops and saves the groups it names, but asks cooperative ones, which are stopped when
their grace runs out; once all have stopped the completion word is written, to a value that the spec does not give; a saved
warp that is restored runs with what its save area holds, and one whose save area does not match is not restored.

What the rules leave open here is taken as in logs 3, 36 and 55. -/
def Obligations.PreemptionEvents : Prop :=
  (∀ (p : PreemptTarget) compl grace (s : State), (s.groups.map (·.1)).Nodup →
    ∃ t, exec (.preemptionRequest p compl grace) s = .next t ∧
      mapFind t.front.preempts s.unit = some ⟨p, compl, s.clock + (if grace = 0 then 100 else grace) * 1000000000⟩ ∧
      (∀ n, s.preemptNamesCluster p n (s.cluster n) = true → (t.cluster n).saved = true) ∧
      ∀ g x, mapFind s.groups g = some x → s.preemptNames p x = true → x.status = .running →
        (s.cooperative x = false → stopped s t g .preempted .preempted) ∧
        (s.cooperative x = true → (t.group g).status = .running ∧ (t.group g).preq = true ∧
          (t.group g).graceEnd = s.clock + (if grace = 0 then 100 else grace) * 1000000000)) ∧
  (∀ k p pa (s : State), mapFind s.front.preempts k = some p →
    (∀ e ∈ s.groups, s.preemptNames p.target e.2 = true → e.2.status ≠ .running ∧ e.2.status ≠ .exiting) →
    (∀ e ∈ s.clusters, s.preemptNamesCluster p.target e.1 e.2 = true → ∀ q ∈ e.2.queues, ∀ o ∈ q.2, o.started = false) →
    ∃ t, exec (.preemptionComplete k) s = .next t ∧ mapFind t.front.preempts k = none ∧
      (∀ j, (t.warp j).values = (s.warp j).values) ∧ t.groups = s.groups ∧
      ((∀ e ∈ s.clusters, s.preemptNamesCluster p.target e.1 e.2 = false) →
        s.physical s.sysCtx true p.compl.toNat = some pa → onlyBytes s t pa 4)) ∧
  (∀ k p (s : State), mapFind s.front.preempts k = some p →
    (∃ e ∈ s.groups, s.preemptNames p.target e.2 = true ∧ (e.2.status = .running ∨ e.2.status = .exiting)) ∨
      (∃ e ∈ s.clusters, s.preemptNamesCluster p.target e.1 e.2 = true ∧ ∃ q ∈ e.2.queues, ∃ o ∈ q.2, o.started = true) →
    exec (.preemptionComplete k) s = .next s) ∧
  (∀ g (s : State), (s.group g).preq = true → (s.group g).graceEnd ≤ s.clock →
    ∃ t, exec (.cooperativeGraceExpiry g) s = .next t ∧
      ∀ j ∈ s.gangOf g, (s.group j).status = .running → stopped s t j .preempted .preempted) ∧
  (∀ g (s : State), (s.group g).preq = false ∨ s.clock < (s.group g).graceEnd →
    exec (.cooperativeGraceExpiry g) s = .next s) ∧
  (∀ k ok n x (s : State), let w := s.warp k
    w.place = .evicted ∨ w.place = .preempted → w.waiting = [] → w.returned = [] → s.freeSlot w.die w.core = some n →
    s.readBack k ok = some x → x.killed = 0#32 → (x.trap = true → x.handler = false → s.reserveFree w.die w.core = true) →
    (∀ g ∈ s.gangOf w.group, (s.group g).tile ≠ .open) →
    ∃ t, exec (.warpRestore k ok) s = .next t ∧ t.mem = s.mem ∧ (t.warp k).place = .running ∧ (t.warp k).slot = n ∧
      (t.warp k).v = x.v ∧ (t.warp k).h = x.h ∧ (t.warp k).fcsr = x.fcsr ∧ (t.warp k).issued = x.issued ∧
      (t.warp k).trap = x.trap ∧ (∀ i, Mask.has x.runnable i = true → Lanes.at (t.warp k).pc i = Lanes.at x.pc i) ∧
      (w.group ∈ s.gangOf w.group → k ∈ (s.group w.group).warps → (s.group w.group).status = .evicted ∨ (s.group w.group).status = .preempted →
        (∀ g ∈ s.gangOf w.group, ∀ j ∈ (s.group g).warps, j ≠ k →
          (s.warp j).place ≠ .evicted ∧ (s.warp j).place ≠ .preempted) →
        (t.group w.group).status = .running)) ∧
  (∀ k ok (s : State), (s.warp k).place ≠ .gone → s.readBack k ok = none → exec (.warpRestore k ok) s = .next s)

/-! ### Events of the engines and of the Carousel -/

/-- R204, R205, R215, R216, R218: a request of cp.async writes 32 bytes, zero past its valid ones, and its tag's count falls; with a
data error the bytes are zero and the tag's fault is recorded; a chunk of a bulk copy lands and its bytes are counted; a step
of a collective lands or stops the operation, whose remaining bytes count as arrived. A saved group's operations stay.
R244, R245, R250, R252, R254: a pass that can start reads its operands and leaves its accumulator as it is; at its end the
accumulator takes every element at once, or with a fault none, and the fault is recorded; the gather unit reads 64 indexes;
an accumulator is cleared, loaded from a tile or drained into one.
R303, R304: the window of a bin triggers a resume of the group of its oldest awake row; a resume takes up to 32 awake rows of
that group out of the bin and loads them into a fresh warp, a lane for each: its thread, its program counter, and the
registers that the rows store.

What the rules leave open here is taken as in logs 28, 29, 31, 37, 61, 64 and 68. -/
def Obligations.EngineEvents : Prop :=
  ((∀ core k r pa buf (s : State), let va := r.src.toNat % 2 ^ 57
     let path := nbits r.src.toNat 60 4
     mapFind (s.core core).reqs k = some r → s.groupActive r.group = true → mapHas r.parts 0 = false →
     s.copyAsked core k 0 = false → 0 < r.n → va % 32 + r.n ≤ 32 →
     s.groupTile r.group = none → s.engineAt (s.engineCtx r.group r.kern) false false path va r.n = .here pa buf →
     ∃ t, exec (.cpAsyncRequestComplete core k) s = .next t ∧ mapFind (t.core core).reqs k = none ∧ t.mem = s.mem ∧
       (∀ j, mapGet 0#8 (t.group r.group).sp j = if j < r.dst ∨ r.dst + 32 ≤ j then mapGet 0#8 (s.group r.group).sp j
         else if j < r.dst + r.n then s.mem.byte (pa + (j - r.dst)) else 0#8) ∧
       (∀ j, mapGet 0 (t.group r.group).tags j = mapGet 0 (s.group r.group).tags j - (if j = r.tag then 1 else 0)) ∧
       (t.group r.group).tagfault = (s.group r.group).tagfault) ∧
   (∀ core k r c (s : State), let va := r.src.toNat % 2 ^ 57
     let path := nbits r.src.toNat 60 4
     mapFind (s.core core).reqs k = some r → s.groupActive r.group = true → mapHas r.parts 0 = false →
     s.copyAsked core k 0 = false → 0 < r.n → va % 32 + r.n ≤ 32 →
     s.groupTile r.group = none → s.engineAt (s.engineCtx r.group r.kern) false false path va r.n = .fails c → r.tag < 64 →
     ∃ t, exec (.cpAsyncRequestComplete core k) s = .next t ∧ mapFind (t.core core).reqs k = none ∧ t.mem = s.mem ∧
       (∀ j, mapGet 0#8 (t.group r.group).sp j = if j < r.dst ∨ r.dst + 32 ≤ j then mapGet 0#8 (s.group r.group).sp j else 0#8) ∧
       (∀ j, mapGet 0 (t.group r.group).tags j = mapGet 0 (s.group r.group).tags j - (if j = r.tag then 1 else 0)) ∧
       (t.group r.group).tagfault = (s.group r.group).tagfault ||| BitVec.twoPow 64 r.tag ∧
       (t.group r.group).tagcause = if (s.group r.group).tagcause = 0#6 then c.code else (s.group r.group).tagcause) ∧
   (∀ core k r (s : State), mapFind (s.core core).reqs k = some r → s.groupActive r.group = false →
     exec (.cpAsyncRequestComplete core k) s = .next s) ∧
   (∀ core k b g o g' o' (s : State), mapFind (s.core core).bulk k = some b → s.groupActive b.group = true → b.held = 0 →
     b.rest = [] → b.kind = .copy → b.chunks = [0] → 0 < b.total → b.total ≤ 16 → b.left = b.total → b.barOff < 2 ^ 32 →
     o < 2 ^ 32 → o' < 2 ^ 32 → s.bulkAim (b.asWarp s) false b.src = .scratch g o → (s.group g).sectorBad o b.total = false →
     s.bulkAim (b.asWarp s) true b.dst = .scratch g' o' →
     ∃ t, exec (.bulkChunkLand core k) s = .next t ∧ mapFind (t.core core).bulk k = none ∧ t.mem = s.mem ∧
       ∀ loc, t.byteAt loc = objStep (counted b.total)
         (putBytes s.byteAt (objLoc (g', o')) ((List.range b.total).map (fun j => s.byteAt (objLoc (g, o) + j))))
         (objLoc (b.barGroup, b.barOff)) loc) ∧
   (∀ core k b (s : State), mapFind (s.core core).bulk k = some b → s.groupActive b.group = false →
     exec (.bulkChunkLand core k) s = .next s) ∧
   (∀ core k b x (s : State), mapFind (s.core core).bulk k = some b → s.groupActive b.group = true → b.kind = .collective x →
     b.barOff < 2 ^ 32 →
     ∀ r c, (r, c) ∈ [(CollStep.mismatch, Cause.peer), (.linkFailed, .link)] →
       ∃ t, exec (.collectiveStep core k r) s = .next t ∧ mapFind (t.core core).bulk k = none ∧ t.mem = s.mem ∧
         ∀ loc, t.byteAt loc = objStep (fun w => counted b.left (stamped c w)) s.byteAt (objLoc (b.barGroup, b.barOff)) loc) ∧
   (∀ core k b x bytes g o (s : State), let seg := x.segment (x.receives x.step)
     mapFind (s.core core).bulk k = some b → s.groupActive b.group = true → b.kind = .collective x → b.held = 0 → b.rest = [] →
     b.barOff < 2 ^ 32 → x.inbox = none → x.step < x.steps → bytes.length = seg.2 → 0 < seg.2 → seg.2 ≤ 16 →
     (if x.gather = true then 0 < x.step else x.devs.length - 1 ≤ x.step) → o + seg.2 < 2 ^ 32 →
     s.bulkAim (b.asWarp s) true (b.dst + BitVec.ofNat 64 seg.1) = .scratch g o →
     ∃ t, exec (.collectiveStep core k (.receive bytes)) s = .next t ∧ t.mem = s.mem ∧
       mapFind (t.core core).bulk k = (if b.left ≤ seg.2 ∧ b.chunks = [] then none
         else some { b with left := b.left - seg.2, kind := .collective { x with step := x.step + 1, own := [] } }) ∧
       ∀ loc, t.byteAt loc = objStep (counted seg.2) (putBytes s.byteAt (objLoc (g, o)) bytes)
         (objLoc (b.barGroup, b.barOff)) loc) ∧
   (∀ core k b x bytes g o g' o' (s : State), let seg := x.segment (x.receives x.step)
     mapFind (s.core core).bulk k = some b → s.groupActive b.group = true → b.kind = .collective x → b.held = 0 → b.rest = [] →
     b.barOff < 2 ^ 32 → x.inbox = none → x.own = [] → x.gather = false → x.step + 2 = x.devs.length → bytes.length = seg.2 →
     0 < seg.2 → seg.2 ≤ 16 → o + seg.2 < 2 ^ 32 → o' + seg.2 < 2 ^ 32 →
     s.bulkAim (b.asWarp s) false (b.src + BitVec.ofNat 64 seg.1) = .scratch g' o' → (s.group g').sectorBad o' seg.2 = false →
     s.bulkAim (b.asWarp s) true (b.dst + BitVec.ofNat 64 seg.1) = .scratch g o →
     ∃ t, exec (.collectiveStep core k (.receive bytes)) s = .next t ∧ t.mem = s.mem ∧
       ∀ loc, t.byteAt loc = objStep (counted seg.2) (putBytes s.byteAt (objLoc (g, o))
         (x.combineAll ((List.range seg.2).map (fun j => s.byteAt (objLoc (g', o') + j))) bytes))
         (objLoc (b.barGroup, b.barOff)) loc)) ∧
  ((∀ cl arr o (s : State), (s.cluster cl).startable arr = some o → o.isPass = true → (o.kind = .gathered → o.rows ≠ none) →
     let c := s.cluster cl
     ∃ t, exec (.matrixPassStart cl arr) s = .next t ∧ t.mem = s.mem ∧ t.groups = s.groups ∧ t.warps = s.warps ∧
       (∀ k, k ≠ cl → t.cluster k = s.cluster k) ∧
       t.cluster cl = { c with queues := mapPut c.queues arr ({ o with
         started := true, fault := (s.passResult cl o).1, result := (s.passResult cl o).2 } :: (c.queue arr).drop 1) }) ∧
   (∀ cl arr (s : State), (s.cluster cl).startable arr = none → exec (.matrixPassStart cl arr) s = .next s) ∧
   (∀ cl arr o g (s : State), let c := s.cluster cl
     c.queue arr = [o] → o.kind = .gathered → o.started = false → o.rows = none → c.saved = false →
     c.ops.any (fun p => o.after p) = false → s.gangMember c o.meta_.member = some g →
     let rows := (List.range 64).map (fun j => s.spNum g (o.meta_.offset + 2 * j) 2)
     let got (l : List (List Nat)) (f : Option Cause) (t : State) : Prop := exec (.indexGather cl arr) s = .next t ∧ t.mem = s.mem ∧
       t.groups = s.groups ∧ t.warps = s.warps ∧
       t.cluster cl = { c with queues := mapPut c.queues arr [{ o with rows := some rows, latch := l, fault := f }] }
     (s.poisonedIn c [o.indexVector] = true → ∃ t, got [] (some .poison) t) ∧
     (s.poisonedIn c [o.indexVector] = false → (∃ r ∈ rows, o.a.rows ≤ r) → ∃ t, got [] (some .fmt) t) ∧
     ((∀ r ∈ rows, r < o.a.rows) → ∀ ga, s.gangMember c o.a.member = some ga →
       s.poisonedIn c (o.indexVector :: o.aReads rows) = false →
       ∃ t, got (rows.map (fun r => (List.range o.kp).map (fun j => s.elem ga o.a r (o.step * o.kp + j)))) none t)) ∧
   (∀ cl arr o q (s : State), let c := s.cluster cl
     let n := if o.kind = .f64 then 16384 else 8192
     c.queue arr = o :: q → o.started = true → o.fault = none → mapRising o.result = true → o.result.length = n →
     (∀ e ∈ o.result, e.1 < n) →
     ∃ t, exec (.matrixPassEnd cl arr) s = .next t ∧ t.mem = s.mem ∧ t.groups = s.groups ∧ t.warps = s.warps ∧
       (t.cluster cl).queue arr = q ∧ (t.cluster cl).accFault = c.accFault ∧
       (∀ j < n, (t.cluster cl).element o.acc j = mapGet 0#32 o.result j) ∧
       otherAccs c (t.cluster cl) (if o.kind = .f64 then [o.acc, o.acc + 1] else [o.acc])) ∧
   (∀ cl arr o q f (s : State), let c := s.cluster cl
     c.queue arr = o :: q → o.started = true → o.fault = some f →
     ∃ t, exec (.matrixPassEnd cl arr) s = .next t ∧ (t.cluster cl).acc = c.acc ∧ mapFind (t.cluster cl).accFault o.acc = some (f, o.agent) ∧
       (o.kind = .f64 → mapFind (t.cluster cl).accFault (o.acc + 1) = some (f, o.agent)) ∧
       ∀ p ∈ (t.cluster cl).queue arr, p ∈ q ∧ p.acc ≠ o.acc) ∧
   (∀ cl arr o q (s : State), (s.cluster cl).queue arr = o :: q → o.started = false →
     exec (.matrixPassEnd cl arr) s = .next s) ∧
   (∀ cl arr o (s : State), let c := s.cluster cl
     c.startable arr = some o → o.kind = .zero →
     ∃ t, exec (.accOperationComplete cl arr) s = .next t ∧ t.mem = s.mem ∧ t.groups = s.groups ∧ otherAccs c (t.cluster cl) [o.acc] ∧
       (o.fault = none → (t.cluster cl).queue arr = (c.queue arr).drop 1) ∧ ∀ j < 8192, (t.cluster cl).element o.acc j = 0#32) ∧
   (∀ cl arr o g (s : State), let c := s.cluster cl
     c.startable arr = some o → o.kind = .load → o.a.fmt = 1 → s.gangMember c o.a.member = some g → s.poisonedIn c o.reads = false →
     ∃ t, exec (.accOperationComplete cl arr) s = .next t ∧ t.mem = s.mem ∧ t.groups = s.groups ∧ otherAccs c (t.cluster cl) [o.acc] ∧
       ∀ r < 64, ∀ n < 128,
         (t.cluster cl).element o.acc (128 * r + n) = BitVec.ofNat 32 (s.spNum g (o.a.offset + r * o.a.pitch + 4 * n) 4)) ∧
   (∀ cl arr o g (s : State), let c := s.cluster cl
     c.startable arr = some o → o.kind = .store → o.a.fmt = 1 → s.gangMember c o.a.member = some g → o.request = none →
     512 ≤ o.a.pitch → (∀ r < 64, (s.group g).spoilsAt (o.a.offset + r * o.a.pitch) 512 = false) →
     ∃ t, exec (.accOperationComplete cl arr) s = .next t ∧ t.mem = s.mem ∧ (t.cluster cl).acc = c.acc ∧
       ∀ r < 64, ∀ n < 128, t.spNum g (o.a.offset + r * o.a.pitch + 4 * n) 4 = (c.element o.acc (128 * r + n)).toNat) ∧
   (∀ cl arr o g (s : State), let c := s.cluster cl
     c.startable arr = some o → o.kind = .store → o.a.fmt = 1 → s.gangMember c o.a.member = some g → o.request = none →
     (s.group g).spoilsAt o.a.offset 512 = true →
     ∃ t, exec (.accOperationComplete cl arr) s = .next t ∧ t.mem = s.mem ∧ t.groups = s.groups ∧
       mapFind (t.cluster cl).accFault o.acc = some (.poison, o.agent))) ∧
  ((∀ die grid n e (s : State), let f := frameKey grid die
     (s.bin f n).oldest = some e → (s.bin f n).window ≤ e.2.age →
     ∃ t, exec (.carouselWindowExpiry die grid n) s = .next t ∧ t.warps = s.warps ∧ t.groups = s.groups ∧ t.mem = s.mem ∧
       t.bin f n = { s.bin f n with expired := some e.2.group }) ∧
   (∀ die grid n (s : State), let f := frameKey grid die
     (∀ e, (s.bin f n).oldest = some e → e.2.age < (s.bin f n).window) →
     ∃ t, exec (.carouselWindowExpiry die grid n) s = .next t ∧ t.warps = s.warps ∧ t.bin f n = s.bin f n) ∧
   (∀ die grid n (e : Nat × Row) slot no (s : State), let f := frameKey grid die
     let b := s.bin f n
     let g := e.2.group
     let x := s.group g
     let mine := b.rows.filter (fun r => r.2.awake && r.2.group == g)
     let live := (x.warps.filter (fun k => (s.warp k).place != .gone)).map (fun k => (s.warp k).no.toNat)
     b.busy = none → b.taken = [] → b.oldest = some e → 32 ≤ mine.length ∨ b.forced = some g ∨ b.expired = some g →
     x.status = .running ∨ x.status = .exiting → live.length < 32 → s.freeSlot x.die x.core = some slot →
     (List.range 32).find? (fun j => !live.contains j) = some no →
     (∀ r ∈ mine.take 32, r.2.fault = 0#6 ∧ ∀ k ∈ r.2.engines, (s.agent k.1).raced = none) →
     ∃ t, exec (.carouselResume die grid n) s = .next t ∧ t.mem = s.mem ∧ (t.group g).status = .running ∧
       (t.group g).warps = x.warps ++ [s.unit] ∧ (∀ r ∈ mine.take 32, mapFind (t.bin f n).rows r.1 = none) ∧
       let w := t.warp s.unit
       w.group = g ∧ w.slot = slot ∧ w.no.toNat = no ∧ w.place = .running ∧
       (∀ i : Lane, Mask.has w.real i = decide (i.val < (mine.take 32).length)) ∧
       ∀ (i : Lane) r, (mine.take 32)[i.val]? = some r →
         Lanes.at w.tid i = r.2.tid ∧ Lanes.at w.pc i = r.2.rpc ∧
         ∀ c v, c < 32 → r.2.value c = some v → (w.reg c).entry.at i = v) ∧
   (∀ die grid n (s : State), (s.bin (frameKey grid die) n).oldest = none → (s.bin (frameKey grid die) n).taken = [] →
     exec (.carouselResume die grid n) s = .next s))

/-! ### Events of the front end -/

/-- R311 to R314: a write to QBIND keeps its fields and starts, stops or abandons the hart; SYSROOT keeps its bits; a sleeping hart
looks at DOOR; a hart that looks reads the packet at RIDX when DOOR is past it; and what the front end writes at an address
changes those bytes alone.
R315 to R317, R321, R322: what the packets do. A NOP passes; a LAUNCH is accepted under a new number; a WRITE stores its value and
passes; a WAIT begins to wait, and passes when its word or phase says so; a GRAPH waits while its table is resident, and else
its nodes without predecessors are accepted; a malformed packet and a reserved type stop the queue; a packet with BAR waits
for the launches before it.

What the rules leave open here is taken as in logs 2 and 39. -/
def Obligations.QueueHartsAndPackets : Prop :=
  ((∀ q (v : DWord) (s : State), ∃ t, exec (.qbindWrite q v) s = .next t ∧ t.warps = s.warps ∧ t.mem = s.mem ∧ t.grids = s.grids ∧
     (∀ j, j < 64 → (t.qbind q).getLsbD j = (decide (61 ≤ j ∨ (6 ≤ j ∧ j ≤ 56)) && v.getLsbD j)) ∧
     (∀ p, p ≠ q → t.qbind p = s.qbind p ∧ t.hart p = s.hart p) ∧
     (t.hart q).state = (match (s.hart q).state with
       | .waitGraph => .waitGraph
       | .mid => .mid
       | .pass => .pass
       | .waitBar => if v.getLsbD 63 then .waitBar else .idle
       | .waitCond => if v.getLsbD 63 then .waitCond else .idle
       | _ => if v.getLsbD 63 then .waitHeader else .idle)) ∧
   (∀ (v : DWord) (s : State), ∃ x, exec (.sysrootWrite v) s = .next { s with front := { s.front with sysroot := x } } ∧
     ∀ j, j < 64 → x.getLsbD j = (decide (12 ≤ j ∧ j ≤ 39) && v.getLsbD j)) ∧
   (∀ q (s : State), (s.hart q).state = .idle → (s.qbind q).getLsbD 63 = true →
     exec (.doorbellRereadTimer q) s = .next (s.setHart q { s.hart q with state := .waitHeader })) ∧
   (∀ q (s : State), (s.hart q).state ≠ .idle ∨ (s.qbind q).getLsbD 63 = false → exec (.doorbellRereadTimer q) s = .next s) ∧
   (∀ q d p (s : State), let c := s.sysCtx
     let i := num d 24 8
     (s.hart q).state = .waitHeader → (s.qbind q).getLsbD 63 = true →
     s.frontCan q.toNat c (descOf (s.qbind q)) 64 = .bytes [] → s.frontGet q.toNat c (descOf (s.qbind q)) 64 = .bytes d →
     i < num d 16 8 →
     s.frontCan q.toNat c (slotOf d i) 64 = .bytes [] → s.frontGet q.toNat c (slotOf d i) 64 = .bytes p →
     ∃ u, s.reads_ u q i p ∧ u.mem = s.mem ∧ u.warps = s.warps ∧ u.groups = s.groups ∧ u.grids = s.grids ∧
       u.hart q = ⟨s.qbind q, s.sysCtx.root, .mid, i, p⟩) ∧
   (∀ (s : State) c va b pa buf, s.place c 0 true va = .memory pa buf → va < 2 ^ 57 → 0 < b.length →
     va % 65536 + b.length ≤ 65536 →
     ∀ a, (s.frontPut c va b).mem.byte a = if pa ≤ a ∧ a < pa + b.length then b.getD (a - pa) 0#8 else s.mem.byte a)) ∧
  ((∀ q i b d (s u : State), s.reads_ u q i b → num b 0 1 = 1 → packetError b = none → num b 1 1 = 0 → u.passes q i d →
     ∃ t, exec (.packetNop q) s = .next t ∧ passed u t q i d ∧ t.grids = u.grids ∧ t.groups = u.groups) ∧
   (∀ q i b (s u : State), s.reads_ u q i b → num b 0 1 = 1 → packetError b = none → num b 1 1 = 1 → u.queueDone q = false →
     exec (.packetNop q) s = .next (u.setHart q { u.hart q with state := .waitBar })) ∧
   (∀ q i b e (s u : State), s.reads_ u q i b → packetError b = some e →
     ∀ x ∈ [(1, Instr.packetNop q), (2, .packetLaunch q), (3, .packetWait q), (4, .packetGraph q), (5, .packetWrite q)],
       num b 0 1 = x.1 → ∃ t, exec x.2 s = .next t ∧ stopsQueue u t q i e) ∧
   (∀ q i b (s u : State), s.reads_ u q i b → 6 ≤ num b 0 1 →
     ∃ t, exec (.packetReservedType q) s = .next t ∧ stopsQueue u t q i 1) ∧
   (∀ q i b (s u : State), s.reads_ u q i b → num b 0 1 = 2 → packetError b = none → num b 1 1 = 0 →
     ∃ t, exec (.packetLaunch q) s = .next t ∧ t.warps.map (·.1) = u.warps.map (·.1) ∧
       (t.grid u.gridNumber).isNew (num b 8 8) (num b 16 8) (num b 24 8) (num b 32 4) ∧
       (t.grid u.gridNumber).fromQueue = true ∧ (t.grid u.gridNumber).inKern = (u.hart q).bind.getLsbD 62 ∧
       ∀ d, num b 24 8 = 0 → u.passes q i d → passed u t q i d) ∧
   (∀ q d x (s : State), (s.hart q).state = .pass →
     x ∈ [(1, Instr.packetNop q), (2, .packetLaunch q), (4, .packetGraph q), (5, .packetWrite q)] →
     (num (s.hart q).packet 0 1 ≠ x.1 → exec x.2 s = .next s) ∧
     (num (s.hart q).packet 0 1 = x.1 → s.passes q (s.hart q).idx d →
       ∃ t, exec x.2 s = .next t ∧ passed s t q (s.hart q).idx d)) ∧
   (∀ q i b d (s u : State), let v := u.frontPut (u.hartCtx q) (num b 8 8) (bytesOfNat 8 (num b 16 8))
     s.reads_ u q i b → num b 0 1 = 5 → packetError b = none → num b 1 1 = 0 →
     u.frontCan q.toNat (u.hartCtx q) (num b 8 8) 8 = .bytes [] → v.passes q i d →
     ∃ t, exec (.packetWrite q) s = .next t ∧ passed v t q i d) ∧
   (∀ q i b (s u : State), s.reads_ u q i b → num b 0 1 = 5 → packetError b = none → num b 1 1 = 0 →
     u.frontCan q.toNat (u.hartCtx q) (num b 8 8) 8 = .lost → ∃ t, exec (.packetWrite q) s = .next t ∧ stopsQueue u t q i 4) ∧
   (∀ q i b (s u : State), s.reads_ u q i b → num b 0 1 = 3 → packetError b = none → num b 1 1 = 0 →
     exec (.packetWait q) s = .next (u.setHart q { u.hart q with state := .waitCond })) ∧
   (∀ q x (s : State), let h := s.hart q
     x = .waitPacketSatisfied q ∨ x = .hartRereadTimer q → h.state = .waitCond →
     (∀ w d, num h.packet 4 1 % 4 = 0 → s.frontGet q.toNat (s.hartCtx q) (num h.packet 8 8) 4 = .bytes w →
       s.passes q h.idx d →
       let old := natOfBytes w
       let new := num h.packet 24 4
       (num h.packet 4 1 / 4 = 0 ∧ old = new ∨ num h.packet 4 1 / 4 = 1 ∧ old ≠ new ∨ num h.packet 4 1 / 4 = 2 ∧ new ≤ old →
         ∃ t, exec x s = .next t ∧ passed s t q h.idx d) ∧
       (num h.packet 4 1 / 4 = 0 ∧ old ≠ new ∨ num h.packet 4 1 / 4 = 1 ∧ old = new ∨ num h.packet 4 1 / 4 = 2 ∧ old < new →
         exec x s = .next s)) ∧
     (∀ d, num h.packet 4 1 % 4 = 1 → s.passes q h.idx d →
       (s.namedGroup (num h.packet 8 4) (num h.packet 12 4) = none → ∃ t, exec x s = .next t ∧ passed s t q h.idx d) ∧
       (∀ g, s.namedGroup (num h.packet 8 4) (num h.packet 12 4) = some g →
         (s.phase g (num h.packet 16 4) = num h.packet 24 4 → exec x s = .next s) ∧
         (s.phase g (num h.packet 16 4) ≠ num h.packet 24 4 → ∃ t, exec x s = .next t ∧ passed s t q h.idx d)))) ∧
   (∀ q i b e (s u : State), s.reads_ u q i b → num b 0 1 = 4 → packetError b = none → num b 1 1 = 0 → e ∈ u.front.graphs →
     e.2.table = BitVec.ofNat 64 (num b 8 8) →
     exec (.packetGraph q) s = .next (u.setHart q { u.hart q with state := .waitGraph })) ∧
   (∀ q i b r h tb (s u : State), let a := num b 8 8
     let n := tb.drop 64
     s.reads_ u q i b → num b 0 1 = 4 → packetError b = none → num b 1 1 = 0 →
     (∀ e ∈ u.front.graphs, e.2.table ≠ BitVec.ofNat 64 a) → r < 8 → mapHas u.front.graphs r = false →
     (∀ j < r, mapHas u.front.graphs j = true) →
     u.frontGet q.toNat (u.hartCtx q) a 64 = .bytes h → num h 0 2 = 1 → clean h [(0, 2)] = true →
     u.frontGet q.toNat (u.hartCtx q) a 128 = .bytes tb → tb.length = 128 → entryOk tb 0 = true → num n 28 2 = 0 → num n 32 2 = 0 →
     num n 0 8 ≠ 0 →
     ∃ t g x, exec (.packetGraph q) s = .next t ∧ mapFind t.front.graphs r = some g ∧ g.nodes = [x] ∧ x.started = true ∧
       x.ended = none ∧ (t.grid u.gridNumber).isNew (num n 0 8) (num n 8 8) (num n 16 8) (num n 24 4) ∧
       (t.grid u.gridNumber).graph = some (r, 0)))

/-- R12, R89, R221, R319, R320, R326 to R330, R335, R352: an accepted grid starts when its record keeps its limits and is refused when
not; the next group of a grid is placed where there is room, with its arguments and its warps at the kernel entry; a group or
a gang that has waited may go elsewhere or keep its cluster; a gang starts together, with its control stream; a group retires
when nothing holds it; a grid completes when all of it has retired; a world that no grid uses leaves nothing behind.

What the rules leave open here is taken as in logs 2 and 40. -/
def Obligations.LaunchEvents : Prop :=
  (∀ k blob b a (s : State), let x := s.grid k
    let r := parseRecord b
    x.status = .accepted → (∀ e ∈ s.front.records, e.2.grid ≠ some k) → x.lost = false → x.recAddr.toNat % 128 = 0 →
    x.argAddr.toNat % 8 = 0 → s.frontGet (dispatchKey k) (s.gridCtx x) x.recAddr.toNat 896 = .bytes b →
    s.frontGet (dispatchKey k) (s.gridCtx x) (x.argAddr.toNat + 8) 248 = .bytes a → r.snet = false →
    (r.accepted x.threads x.inKern (s.classSp r) = true → r.keyh = 0#64 →
      ∃ t, exec (.dispatch k blob) s = .next t ∧ t.mem = s.mem ∧ t.warps = s.warps ∧ (t.grid k).status = .dispatched ∧
        (t.grid k).record = r ∧ (t.grid k).world = x.inWorld ∧
        (t.grid k).groups = (x.threads + 32 * r.groupw - 1) / (32 * r.groupw) ∧
        ∀ j : Fin 32, 1 ≤ j.val → (t.grid k).args[j.val] = BitVec.ofNat 64 (num a (8 * (j.val - 1)) 8)) ∧
    (r.accepted x.threads x.inKern (s.classSp r) = false →
      ∃ t, exec (.dispatch k blob) s = .next t ∧ t.groups = s.groups ∧ (t.grid k).status = .refused)) ∧
  (∀ k blob (s : State), (s.grid k).status = .accepted → (∀ e ∈ s.front.records, e.2.grid ≠ some k) →
    (s.grid k).lost = true ∨ (s.grid k).recAddr.toNat % 128 ≠ 0 ∨ (s.grid k).argAddr.toNat % 8 ≠ 0 →
    ∃ t, exec (.dispatch k blob) s = .next t ∧ t.groups = s.groups ∧ (t.grid k).status = .refused) ∧
  (∀ grid die no c (s : State), let x := s.grid grid
    x.status = .dispatched → die < 4 → x.exactOf = none → x.next < x.groups → no = x.next → no < 2 ^ 32 → x.record.groupw ≤ 32 →
    x.record.ganged = false → s.dieFor grid no die = true → s.coreFor grid no die = some (no, c) →
    (∀ e ∈ s.grids, e.1 ≠ grid → rankLt (s.rank e.1) (s.rank grid) = true → s.wants e.1 die = false) →
    ∃ t, exec (.groupAdmission grid die) s = .next t ∧ t.mem = s.mem ∧ (t.grid grid).next = no + 1 ∧
      (t.grid grid).running = x.running + 1 ∧
      let g := t.group s.unit
      g.grid = grid ∧ g.no = BitVec.ofNat 32 no ∧ g.die = die ∧ g.core = c ∧ g.status = .running ∧
      g.spSize = x.record.scratch.toNat ∧ (∀ j : Fin 32, 1 ≤ j.val → g.sreg j.val = x.args[j.val]) ∧
      (∀ j, 32 ≤ j → g.sreg j = 0#64) ∧
      ∀ k ∈ g.warps, (t.warp k).group = s.unit ∧ (t.warp k).place = .running ∧ (t.warp k).retired = 0#32 ∧
        ∀ i, (Mask.has (t.warp k).real i = decide ((no * x.record.groupw + (t.warp k).no.toNat) * 32 + i.val < x.threads)) ∧
          Lanes.at (t.warp k).pc i = x.record.entry) ∧
  (∀ grid die no (s : State), (s.grid grid).nextGroup = some no → (s.grid grid).record.ganged = false →
    s.coreFor grid no die = none → exec (.groupAdmission grid die) s = .next s) ∧
  (∀ grid (s : State), let x := s.grid grid
    exec (.homeWaitExpiry grid) s = .next (s.setGrid grid
      (if x.status = .dispatched ∧ x.since + 20000000000 ≤ s.clock then { x with anywhere := true } else x)) ∧
    exec (.gangReserveExpiry grid) s = .next (s.setGrid grid
      (if x.reserve ≠ none ∧ x.since + 50000000000 < s.clock then { x with exclusive := true } else x))) ∧
  (∀ g (s : State), let x := s.group g
    let l := s.groups.filter (fun e => !e.2.handler && e.2.grid == x.grid && e.2.gang == x.gang)
    let r := (s.grid x.grid).record
    x.status = .ready → l.length = r.gang → (∀ e ∈ l, e.2.status = .ready) →
    (r.control = true → (s.cluster (clusterKey x.die x.core)).gang = none) →
    ∃ t, exec (.gangStart g) s = .next t ∧ t.mem = s.mem ∧ (∀ e ∈ l, (t.group e.1).status = .running) ∧
      (t.grid x.grid).reserve = none ∧ (t.grid x.grid).exclusive = false ∧
      (r.control = true → let c := t.cluster (clusterKey x.die x.core)
        c.gang = some (x.grid, x.gang) ∧ c.pc = r.ctrlpc ∧ c.kreg 31#5 = BitVec.ofNat 64 x.gang.toNat ∧ c.kreg 0#5 = 0#64 ∧
        (∀ j : Fin 31, 1 ≤ j.val → c.kreg (BitVec.ofNat 5 j.val) = (s.grid x.grid).args[j.val]'(by omega)) ∧
        (∀ j, c.desc j = Desc.empty) ∧ c.acc = [] ∧ c.turn = (s.cluster (clusterKey x.die x.core)).turn)) ∧
  (∀ g (s : State), let x := s.group g
    x.status ≠ .ready ∨ ((s.grid x.grid).record.control = true ∧ (s.cluster (clusterKey x.die x.core)).gang ≠ none) →
    exec (.gangStart g) s = .next s) ∧
  (∀ g (s : State), let x := s.group g
    let y := s.grid x.grid
    s.mayRetire g = true → x.tile ≠ .open →
    ∃ t, exec (.groupRetirement g) s = .next t ∧ t.mem = s.mem ∧ (t.group g).status = .retired ∧ (t.group g).warps = [] ∧
      (∀ k ∈ x.warps, mapFind t.warps k = none) ∧ (t.grid x.grid).running = y.running - 1 ∧
      (t.grid x.grid).retired = (if y.exactOf = none then y.retired + 1 else y.retired) ∧
      (t.grid x.grid).pass = y.pass + (if x.tile = .passed then 1 else 0) ∧
      (t.grid x.grid).fail = y.fail + (if x.tile = .failed then 1 else 0) ∧
      (t.grid x.grid).overs = y.overs + (if x.tile = .overflowed then 1 else 0) ∧
      (t.grid x.grid).todo = y.todo ++ (if x.tile = .failed ∨ x.tile = .overflowed then [x.no] else [])) ∧
  (∀ g (s : State), s.mayRetire g = false → exec (.groupRetirement g) s = .next s) ∧
  (∀ grid (s : State), let x := s.grid grid
    x.status = .dispatched → x.exactOf = none → x.exactGrid = none → x.retired = x.groups → x.controls = 0 → x.todo = [] →
    x.graph = none → s.front.records = [] → s.front.failed = [] →
    ∃ t, exec (.gridCompletion grid) s = .next t ∧ (t.grid grid).status = .complete ∧ (∀ e ∈ t.groups, e.2.grid ≠ grid) ∧
      (∀ e ∈ t.frames, e.1 / 4 ≠ grid) ∧ (x.compl = 0#64 → t.mem = s.mem) ∧
      let a := x.compl.toNat
      let c := s.gridCtx x
      (x.compl ≠ 0#64 → a % 32 = 0 → s.frontCan (2 ^ 50 + s.unit) c a 32 = .bytes [] →
        t.mem = ((s.frontPut c (a + 8) ([grid, x.retired, x.pass, x.fail, x.overs, 0].flatMap (bytesOfNat 4))).frontPut c a
          (bytesOfNat 4 1)).mem)) ∧
  (∀ grid (s : State), (s.grid grid).status ≠ .dispatched ∨ (s.grid grid).retired ≠ (s.grid grid).groups →
    exec (.gridCompletion grid) s = .next s) ∧
  (∀ w (s : State), w ≠ 0#10 → mapHas s.worlds w.toNat = true →
    (∀ g ∈ s.grids, ¬(g.2.status = .dispatched ∧ g.2.world = w) ∧ ¬(g.2.status = .accepted ∧ g.2.fromQueue = false ∧ g.2.inWorld = w)) →
    ∃ t, exec (.worldRetirement w) s = .next t ∧ mapFind t.worlds w.toNat = none ∧ (∀ a, t.mem.byte a = s.mem.byte a) ∧
      (∀ c ∈ t.cores, ∀ e ∈ c.2.tlb, e.world ≠ w) ∧ (∀ d ∈ t.dies, ∀ e ∈ d.2.tlb, e.world ≠ w) ∧
      ∀ b ∈ (s.world w).buffers, (mapGet 0#32 s.versions b.1.toNat).toNat % 1024 = w.toNat →
        (mapGet 0#32 t.versions b.1.toNat).toNat / 1024 % 4 = 0 ∧
        (mapGet 0#32 t.versions b.1.toNat).toNat / 4096 = (mapGet 0#32 s.versions b.1.toNat).toNat / 4096) ∧
  (∀ w (s : State), w = 0#10 ∨ mapHas s.worlds w.toNat = false → exec (.worldRetirement w) s = .next s) ∧
  (∀ grid no rest e (s : State), (s.grid grid).todo = no :: rest → (s.grid grid).exactGrid = some e → e ≠ grid →
    ∃ t, exec (.exactGroupDispatch grid) s = .next t ∧ t.mem = s.mem ∧ (t.grid grid).todo = rest ∧
      (t.grid e).todo = (s.grid e).todo ++ [no]) ∧
  (∀ grid (s : State), (s.grid grid).todo = [] → exec (.exactGroupDispatch grid) s = .next s)

/-! ### Events of translation, of the service rings and of the root ports -/

/-- R344, R345, R348, R349, R363, R364, R366, R370: a page walk that ends at a leaf fills the L1 TLB and the die's cache; a fault
hart of the home device takes a record while one is free, and its reply repeats the walk or raises the cause; the filer writes
the oldest waiting record into the next free slot; a reply lands in its caller's register; the words of SVCCFG; errors
counted, poisoned and recorded.

What the rules leave open here is taken as in logs 2, 43, 44 and 45. -/
def Obligations.ServiceEvents : Prop :=
  (∀ core (root va : DWord) w e size (s : State), walk s.mem root.toNat (va.toNat % 2 ^ 57) = .leaf e size →
    s.walksOn core root w = true →
    let x : TlbEntry := ⟨root, w, va.toNat % 2 ^ 57 / size, size, BitVec.ofNat 64 e⟩
    ∃ t, exec (.pageWalk core root va w) s = .next t ∧ { t with cores := s.cores, dies := s.dies } = s ∧
      x ∈ (t.core core).tlb ∧ x ∈ (t.die (core / 128)).tlb ∧ (∀ y ∈ (t.core core).tlb, y = x ∨ y ∈ (s.core core).tlb) ∧
      ((s.core core).tlb.length ≤ 128 → (t.core core).tlb.length ≤ 128)) ∧
  (∀ core (root va : DWord) w (s : State),
    (∀ e size, walk s.mem root.toNat (va.toNat % 2 ^ 57) ≠ .leaf e size) ∨ s.walksOn core root w = false →
    exec (.pageWalk core root va w) s = .next s) ∧
  (∀ k f (s : State), mapFind s.faults k = some f → f.home.toNat = ownDevice → f.taken = false →
    ((s.faults.filter (fun e => e.2.taken)).length < 8 →
      ∃ t, exec (.faultRecord k) s = .next t ∧ { t with faults := s.faults } = s ∧
        mapFind t.faults k = some { f with taken := true } ∧ ∀ j, j ≠ k → mapFind t.faults j = mapFind s.faults j) ∧
    (8 ≤ (s.faults.filter (fun e => e.2.taken)).length → exec (.faultRecord k) s = .next s)) ∧
  (∀ k f w id i n (s : State), mapFind s.faults k = some f → f.who = some (.lane w id i n) → (∀ q ∈ s.ports, q.2.held = []) →
    (s.mayReply f .retry = true → exec (.faultReply k .retry) s = .next { s with faults := mapDel s.faults k }) ∧
    (∀ o ∈ [(FaultOutcome.xlat, Cause.xlat), (.prot, .prot), (.unreachable, .link)], s.mayReply f o.1 = true →
      ∃ t, exec (.faultReply k o.1) s = .next t ∧ mapFind t.faults k = none ∧ t.mem = s.mem ∧ t.groups = s.groups ∧
        marksFailed s t w id i o.2) ∧
    (∀ o, s.mayReply f o = false → exec (.faultReply k o) s = .next s)) ∧
  (∀ die f b l w (s : State), let g := s.ring die
    let c := s.sysCtx
    g.on = true → g.waiting = f :: l → (g.slot g.next).owed = none → s.frontCan (ringKey die) c (g.addr g.next) 320 = .bytes [] →
    s.frontGet (ringKey die) c (g.addr g.next) 4 = .bytes w → num w 0 4 % 2 = 0 →
    ((∃ r, f = .record r ∧ b = r.bytes) ∨ ∃ k x, f = .call k ∧ mapFind g.calls k = some x ∧ b = x.bytes) →
    ∀ x ∈ [Instr.serviceRecordFile die, .ringWriteRetry die],
    ∃ t, exec x s = .next t ∧ ((∀ e ∈ s.warps, e.2.gov.demoted = false) → t.warps = s.warps) ∧ t.groups = s.groups ∧
      t.mem = ((s.frontPut c (g.addr g.next + 4) b).frontPut c (g.addr g.next) (bytesOfNat 4 1)).mem ∧
      (t.ring die).waiting = l ∧ (t.ring die).next = (g.next + 1) % g.size ∧ ((t.ring die).slot g.next).ready = true ∧
      ((t.ring die).slot g.next).gen = (g.slot g.next).gen + 1#16 ∧ ((t.ring die).slot g.next).filing = some f) ∧
  (∀ die x (s : State), x = .serviceRecordFile die ∨ (x = .ringWriteRetry die ∧ mapHas s.front.failed (ringKey die) = false) →
    (s.ring die).waiting = [] ∨ (s.ring die).on = false ∨ ((s.ring die).slot (s.ring die).next).owed ≠ none →
    exec x s = .next s) ∧
  (∀ k die g c rep p n fmt (s : State), s.rings.find? (fun r => mapHas r.2.calls k) = some (die, g) → mapFind g.calls k = some c →
    c.replies = some rep → (∀ i, Mask.has p.lanes i = true → Lanes.at rep i ≠ none) →
    (s.warp c.warp).place = .running → (s.warp c.warp).pend = [p] → p.id = k → (s.warp c.warp).frozen p = false →
    p.dests = [(n, fmt, p.lanes)] → p.vals.length = 1 → p.sdest = none → n < 40 → p.uniform = false → p.remote = p.lanes →
    p.got = 0#32 → p.lanes ≠ 0#32 → p.lanes &&& ~~~(s.warp c.warp).live = 0#32 →
    (∀ i, Mask.has p.lanes i = true → Lanes.at p.left i = 0) →
    ∃ t, exec (.replyDelivery k) s = .next t ∧ t.mem = s.mem ∧ t.groups = s.groups ∧ mapFind (t.ring die).calls k = none ∧
      (t.warp c.warp).pend = [] ∧ (t.warp c.warp).pc = (s.warp c.warp).pc ∧ (t.warp c.warp).m = (s.warp c.warp).m ∧
      (∀ j, j ≠ n → (t.warp c.warp).reg j = (s.warp c.warp).reg j) ∧
      ∀ i, (Mask.has p.lanes i = true → some (((t.warp c.warp).reg n).entry.at i) = Lanes.at rep i) ∧
        (Mask.has p.lanes i = false → Mask.has (s.warp c.warp).live i = true →
          ((t.warp c.warp).reg n).entry.at i = ((s.warp c.warp).reg n).entry.at i) ∧
        Lanes.at (t.warp c.warp).wait i =
          if Mask.has p.lanes i && Lanes.at (s.warp c.warp).wait i == .svc k then .none else Lanes.at (s.warp c.warp).wait i) ∧
  (∀ k (s : State), s.rings.find? (fun r => mapHas r.2.calls k) = none → exec (.replyDelivery k) s = .next s) ∧
  (∀ (d : BitVec 2) (v : DWord) (s : State), let r := s.ring d.toNat
    (∃ t, exec (.svccfgWrite d false v) s = .next t ∧ { t with rings := s.rings } = s ∧
      (∀ e, e ≠ d.toNat → t.ring e = s.ring e) ∧ (t.ring d.toNat).w1 = r.w1 ∧ (t.ring d.toNat).waiting = r.waiting ∧
      (t.ring d.toNat).calls = r.calls ∧
      (∀ j, j < 64 → (t.ring d.toNat).w0.getLsbD j = if j = 63 then v.getLsbD 63
        else decide (6 ≤ j ∧ j ≤ 56) && (if r.on then r.w0.getLsbD j else v.getLsbD j)) ∧
      (if !r.on && v.getLsbD 63 then (t.ring d.toNat).next = 0 ∧ (t.ring d.toNat).slots = []
        else (t.ring d.toNat).next = r.next ∧ (t.ring d.toNat).slots = r.slots)) ∧
    (∃ x, exec (.svccfgWrite d true v) s = .next (s.modRing d.toNat (fun r => { r with w1 := x })) ∧
      ∀ j, j < 64 → x.getLsbD j = if r.on && nbits v.toNat 32 4 != nbits r.w1.toNat 32 4 then r.w1.getLsbD j
        else decide (j ≤ 35) && v.getLsbD j)) ∧
  (∀ d (v : DWord) (s : State), d < 5 → ∃ t, exec (.errstatWrite d v) s = .next t ∧
    frontTakes s t (0x1000 + 8 * d) (fun j => decide (28 ≤ j ∧ j ≤ 31) && (s.frontRead (0x1000 + 8 * d)).getLsbD j)) ∧
  (∀ d (unit : BitVec 4) loc c (s : State), d < 5 → unit.toNat < 8 → ∃ t, exec (.eccError d unit c loc) s = .next t ∧
    (let old := s.frontRead (0x1000 + 8 * d)
     let new := t.frontRead (0x1000 + 8 * d)
     fieldBits new 44 20 = (if c then min (fieldBits old 44 20 + 1) (2 ^ 20 - 1) else fieldBits old 44 20) ∧
     fieldBits new 32 12 = (if c then fieldBits old 32 12 else min (fieldBits old 32 12 + 1) 4095) ∧
     fieldBits new 28 4 = unit.toNat ∧ fieldBits new 0 28 = 0) ∧
    (c = true → { t with front := s.front } = s) ∧
    (c = false → buffered s t (errorRecord d unit loc) ∧ (∀ a, t.mem.byte a = s.mem.byte a) ∧
      ∀ q, mapGet false t.mem.poison q = if (unit ∈ [3#4, 5#4, 7#4] ∧ q = loc.toNat / 32) ∨ (unit = 6#4 ∧ q / 2 = loc.toNat / 64)
        then true else mapGet false s.mem.poison q)) ∧
  (∀ d (unit : BitVec 4) loc c (s : State), 5 ≤ d ∨ 8 ≤ unit.toNat → exec (.eccError d unit c loc) s = .next s)

/-- R310, R372 to R376: a register of I/O space takes the bits that it has; a link's training is told by UP; an inbound context
takes its words; a read at an endpoint gives its lane what it returns, or all ones with the status bit of its failure; an
inbound request is performed in local memory or refused.

What the rules leave open here is taken as in logs 2 and 46. -/
def Obligations.PortsAndRegisters : Prop :=
  (∀ k p r x (s : State), s.portOfRead k = some (p, r) → s.awaits r.warp r.pend r.lane x → r.size = 4 →
    ((∀ h ∈ (s.port p).held, h.2.write = false) →
      (∀ v : DWord, ∃ t, exec (.ioLoadCompletion k (.data v)) s = .next t ∧ arrives s t r.warp r.lane x (v.setWidth 32) ∧
        mapFind (t.port p).reads k = none ∧ (t.port p).stat = (s.port p).stat) ∧
      (∃ t, exec (.ioLoadCompletion k .unsupported) s = .next t ∧ arrives s t r.warp r.lane x (-1#32) ∧
        mapFind (t.port p).reads k = none ∧
        (t.port p).stat = (s.port p).stat ||| BitVec.twoPow 64 63) ∧
      exec (.ioLoadCompletion k .poisoned) s = .next ((s.modPort p (fun q => { q with
        stat := q.stat ||| BitVec.twoPow 64 61, reads := mapDel q.reads k })).failLater r.warp x (laneBit r.lane) (fun _ => .poison))) ∧
    ((∃ h ∈ (s.port p).held, h.2.write = true) → ∀ c, exec (.ioLoadCompletion k c) s = .next s) ∧
    (r.since + max 1 ((s.port p).ctl.toNat % 256) * 10 ^ 12 ≤ s.clock →
      ∃ t, exec (.ioCompletionTimeout k) s = .next t ∧ arrives s t r.warp r.lane x (-1#32) ∧ mapFind (t.port p).reads k = none ∧
        (t.port p).stat = (s.port p).stat ||| BitVec.twoPow 64 62) ∧
    (s.clock < r.since + max 1 ((s.port p).ctl.toNat % 256) * 10 ^ 12 → exec (.ioCompletionTimeout k) s = .next s)) ∧
  (∀ (p : BitVec 2) rid addr n (s : State), (s.port p.toNat).held = [] →
    (∀ c, s.admitInbound p.toNat rid addr false n = .refuse c →
      ∃ t, exec (.inboundRead p rid addr n) s = .next t ∧ refuses s t p.toNat rid addr false c) ∧
    (∀ w pa buf, s.admitInbound p.toNat rid addr false n = .go w [(pa, n, buf)] →
      s.pieceBad ⟨4, 0, 0#64, w, false⟩ (pa, n, buf) = false →
      ∃ t, exec (.inboundRead p rid addr n) s = .next t ∧ t.mem = s.mem ∧
        (t.port p.toNat).completed = (s.port p.toNat).completed ++ [(rid, addr, .data (s.mem.bytes pa n))])) ∧
  (∀ (p : BitVec 2) rid addr b x (s : State), (s.port p.toNat).held = [] →
    (∀ c, s.admitInbound p.toNat rid addr true b.length = .refuse c →
      ∃ t, exec (.inboundWrite p rid addr b x) s = .next t ∧ refuses s t p.toNat rid addr true c) ∧
    (∀ w pa buf, s.admitInbound p.toNat rid addr true b.length = .go w [(pa, b.length, buf)] →
      ∃ t, exec (.inboundWrite p rid addr b x) s = .next t ∧ t.warps.length = s.warps.length ∧
        (t.port p.toNat).held = [] ∧
        ∀ a, t.mem.byte a = if pa ≤ a ∧ a < pa + b.length then b.getD (a - pa) 0#8 else s.mem.byte a)) ∧
  (∀ k p q h c r va (s : State), s.ports = [(p, q)] → q.held = [(k, h)] →
    (h.since + max 1 (q.ctl.toNat % 256) * 10 ^ 12 ≤ s.clock → s.admitInbound p h.rid h.addr h.write h.n = .hold c r va →
      ∃ t, exec (.inboundHoldTimeout k) s = .next t ∧ refuses s t p h.rid h.addr h.write (if r = 2 then 15 else 14) ∧
        (t.port p).held = []) ∧
    (s.clock < h.since + max 1 (q.ctl.toNat % 256) * 10 ^ 12 → exec (.inboundHoldTimeout k) s = .next s)) ∧
  (∀ (p : BitVec 2) (e : BitVec 6) (v : DWord) b word (s : State), ∃ t, exec (.inboundContextWrite p e word v b) s = .next t ∧
    { t with ports := s.ports } = s ∧ (t.port p.toNat).stat = (s.port p.toNat).stat ∧
    mapGet false (t.port p.toNat).confirmed e.toNat = b ∧
    ∀ j : Fin 64, let old := (s.port p.toNat).ctx[j.val]
      let new := (t.port p.toNat).ctx[j.val]
      if j.val = e.toNat then
        (if word then new = (old.1, v) else new.2 = old.2 ∧ ∀ i, i < 64 → new.1.getLsbD i =
          (decide (i = 63 ∨ i ≤ 41) && v.getLsbD i))
      else new = old) ∧
  (∀ (p : BitVec 2) (up : BitVec 4) (s : State), ∃ x, exec (.rootPortLinkTraining p up) s =
      .next (s.modPort p.toNat (fun q => { q with stat := x })) ∧
    ∀ j, j < 64 → x.getLsbD j = if 32 ≤ j ∧ j ≤ 35 then
        decide (j = 32 ∨ (s.port p.toNat).ctl.getLsbD 63 = true) && up.getLsbD (j - 32)
      else (s.port p.toNat).stat.getLsbD j) ∧
  (∀ (v : DWord) (s : State),
    (∀ j, j < 256 → ∃ t, exec (.registerWrite (BitVec.ofNat 64 (0x100 + 8 * j)) v) s = .next t ∧
      frontTakes s t (0x100 + 8 * j) (fun i => decide (26 ≤ i) && v.getLsbD i)) ∧
    (∀ p, p < 24 → ∃ x, exec (.registerWrite (BitVec.ofNat 64 (0x1300 + 8 * p)) v) s =
        .next (s.modLink p (fun l => { l with evt := x })) ∧
      ∀ i, i < 64 → x.getLsbD i = (decide (i = 63 ∨ (4 ≤ i ∧ i ≤ 56)) && v.getLsbD i)) ∧
    (∀ p, p < 4 → (∃ x, exec (.registerWrite (BitVec.ofNat 64 (0x10000 + 0x1000 * p)) v) s =
          .next (s.modPort p (fun q => { q with ctl := x })) ∧
        ∀ i, i < 64 → x.getLsbD i = (decide (i = 63 ∨ i ≤ 7) && v.getLsbD i)) ∧
      (∃ x, exec (.registerWrite (BitVec.ofNat 64 (0x10008 + 0x1000 * p)) v) s =
          .next (s.modPort p (fun q => { q with stat := x })) ∧
        ∀ i, i < 64 → x.getLsbD i = ((s.port p).stat.getLsbD i && !(decide (60 ≤ i) && v.getLsbD i)))) ∧
    (∀ q : BitVec 5, exec (.registerWrite (BitVec.ofNat 64 (8 * q.toNat)) v) s = exec (.qbindWrite q v) s) ∧
    (∀ d, d < 5 → exec (.registerWrite (BitVec.ofNat 64 (0x1000 + 8 * d)) v) s = exec (.errstatWrite d v) s) ∧
    (∀ (d : BitVec 2) b, exec (.registerWrite (BitVec.ofNat 64 (0x1040 + 16 * d.toNat + if b then 8 else 0)) v) s =
      exec (.svccfgWrite d b v) s) ∧
    (∀ p, p < 24 → exec (.registerWrite (BitVec.ofNat 64 (0x1200 + 8 * p)) v) s = exec (.ulstatWrite p v) s) ∧
    exec (.registerWrite 0x1400#64 v) s = exec (.startrecWrite v) s ∧
    exec (.registerWrite 0x1408#64 v) s = exec (.rootevtWrite v) s ∧
    exec (.registerWrite 0x1410#64 v) s = exec (.sysrootWrite v) s ∧
    exec (.registerWrite 0x1418#64 v) s = exec (.pwrstatWrite v) s ∧
    (∀ a : DWord, a.toNat % 8 ≠ 0 ∨ (0x900 ≤ a.toNat ∧ a.toNat < 0x1000) ∨ (0x1420 ≤ a.toNat ∧ a.toNat < 0x10000) ∨
      (0x14000 ≤ a.toNat) → exec (.registerWrite a v) s = .next s))

/-! ### Events of the links, of starts and of firmware -/

/-- R357, R381, R383 to R392: a flit in counter order is verified, with its credits and ACK; its packets are served, and a peer's
request is performed in memory or refused; a marker moves the receiver to the next epoch; a flit out of order or with a bad tag
is dropped and a retry asked for, and a third bad tag or a reserved kind takes the port down; the keys' thresholds; a port that
goes down erases its keys and raises LINK, and one that comes up starts at epoch 0; a request waits at most 4 ms.

What the rules leave open here is taken as in logs 2, 12 and 47. -/
def Obligations.LinkEvents : Prop :=
  (∀ p f (s : State), (s.link p).expects f 0#4 → ∃ t, exec (.flitIdle p f) s = .next t ∧ { t with links := s.links } = s ∧
    (s.link p).verifies (t.link p) f ∧ (t.link p).rxEpoch = (s.link p).rxEpoch ∧ (t.link p).rxCounter = (s.link p).rxCounter + 1 ∧
    ((s.link p).out = [] → (s.link p).nextKey = false →
      (t.link p).credits = ((s.link p).credits.1 + f.cred0.toNat, (s.link p).credits.2.1 + f.cred1.toNat,
        (s.link p).credits.2.2 + f.cred2.toNat) ∧ ∀ x, x ∈ (t.link p).sent ↔ x ∈ (s.link p).sent ∧ ¬x.acked f.ackEpoch f.ack)) ∧
  (∀ p f (s : State), (s.link p).expects f 2#4 → ∃ t, exec (.flitKeyMarker p f) s = .next t ∧ { t with links := s.links } = s ∧
    (s.link p).verifies (t.link p) f ∧ (t.link p).rxEpoch = (s.link p).rxEpoch + 1 ∧ (t.link p).rxCounter = 0) ∧
  (∀ p f token key op (s : State), (s.link p).expects f 1#4 → f.packets = [.request token key op] →
    ∃ t, exec (.flitData p f) s = .next t ∧ (s.link p).verifies (t.link p) f ∧
      (t.link p).rxCounter = (s.link p).rxCounter + 1 ∧ t.groups = s.groups ∧
      (s.keyWorld key = none → t.mem = s.mem ∧ (t.link p).hands (.refusal token Cause.peer.code)) ∧
      ∀ w pa, s.keyWorld key = some w →
        (∀ n, op = .read pa n → t.mem = s.mem ∧ (t.link p).hands
          (if s.peerReads w pa n then .response token (s.mem.bytes pa n) else .refusal token Cause.poison.code)) ∧
        (∀ b, op = .write pa b → 0 < b.length →
          (s.peerSpoils w pa b.length = true → t.mem = s.mem ∧ (t.link p).hands (.refusal token Cause.poison.code)) ∧
          (s.peerSpoils w pa b.length = false → (t.link p).hands (.response token []) ∧
            ∀ a, t.mem.byte a = if pa ≤ a ∧ a < pa + b.length then b.getD (a - pa) 0#8 else s.mem.byte a)) ∧
        (∀ aop x y, op = .atomic pa aop x y → s.peerReads w pa (atomicSize aop) = true →
          (t.link p).hands (.response token (s.mem.bytes pa (atomicSize aop))) ∧
          ∀ v, atomicNew aop (natOfBytes (s.mem.bytes pa (atomicSize aop))) x.toNat y.toNat = some v →
            ∀ a, t.mem.byte a = if pa ≤ a ∧ a < pa + atomicSize aop then (bytesOfNat (atomicSize aop) v).getD (a - pa) 0#8
              else s.mem.byte a)) ∧
  (∀ p f token b k id i n x (s : State), (s.link p).expects f 1#4 → f.packets = [.response token b] → b.length = 4 →
    mapFind (s.link p).reqs token = some ⟨.lane k id i 0, n⟩ → (s.dropRequest p token).laneAsks k id i = false →
    s.awaits k id i x →
    ∃ t, exec (.flitData p f) s = .next t ∧ (s.link p).verifies (t.link p) f ∧ mapFind (t.link p).reqs token = none ∧
      arrives s t k i x (BitVec.ofNat 32 (natOfBytes b))) ∧
  (∀ p f (s : State), (s.link p).up = true → f.epoch ≠ (s.link p).rxEpoch ∨ f.counter ≠ (s.link p).rxCounter →
    ∀ x ∈ [Instr.flitIdle p f, .flitData p f, .flitKeyMarker p f, .flitTagFailure p f],
      ((s.link p).retryAsked = true → exec x s = .next s) ∧
      ((s.link p).retryAsked = false → (s.link p).free = true → ∃ t, exec x s = .next t ∧ { t with links := s.links } = s ∧
        (s.link p).sends (t.link p) 3#4 ∧ (t.link p).retryAsked = true ∧ (t.link p).rxLast = (s.link p).rxLast ∧
        (t.link p).rxCounter = (s.link p).rxCounter ∧ (t.link p).authf = (s.link p).authf)) ∧
  (∀ p f (s : State), (s.link p).up = true → f.epoch = (s.link p).rxEpoch → f.counter = (s.link p).rxCounter →
    (4 ≤ f.kind.toNat ∨ f.reservedZero = false → s.nothingOn p →
      ∀ x ∈ [Instr.flitIdle p f, .flitData p f, .flitKeyMarker p f], ∃ t, exec x s = .next t ∧ goesDown s t p 2) ∧
    ((s.link p).fails < 2 → ∃ t, exec (.flitTagFailure p f) s = .next t ∧ { t with links := s.links } = s ∧
      (t.link p).fails = (s.link p).fails + 1 ∧
      (t.link p).authf = (if (s.link p).authf = 255#8 then 255#8 else (s.link p).authf + 1#8) ∧
      (t.link p).rxCounter = (s.link p).rxCounter ∧ ((s.link p).free = true → (s.link p).sends (t.link p) 3#4)) ∧
    (2 ≤ (s.link p).fails → s.nothingOn p → ∃ t, exec (.flitTagFailure p f) s = .next t ∧ goesDown s t p 1)) ∧
  (∀ p e c (s : State), ∃ t l, exec (.flitRetryRequest p e c) s = .next t ∧ onlyLink s t p l ∧ l.sent = (s.link p).sent ∧
    ((s.link p).up = false → l = s.link p) ∧
    ((s.link p).up = true → l.rxCounter = (s.link p).rxCounter + 1 ∧
      l.rxLast = ((s.link p).rxEpoch, (s.link p).rxCounter) ∧
      l.retries.toNat = min (2 ^ 21 - 1) ((s.link p).retries.toNat
        + ((s.link p).sent.filter (fun x => decide (e < x.epoch ∨ (e = x.epoch ∧ c ≤ x.counter)))).length))) ∧
  (∀ p (s : State), let l := s.link p
    (l.up = true → 2 ^ 32 - 2 ^ 24 ≤ l.txCounter → l.agreeing = false → l.nextKey = false →
      ∃ t, exec (.keyRotationThreshold p) s = .next t ∧ { t with links := s.links } = s ∧ (t.link p).agreeing = true ∧
        (t.link p).hands .keyMessage) ∧
    (l.up = false ∨ l.txCounter < 2 ^ 32 - 2 ^ 24 ∨ l.agreeing = true ∨ l.nextKey = true →
      exec (.keyRotationThreshold p) s = .next s) ∧
    (l.up = true → l.agreeing = true → l.sent.length < 64 → l.out = [] →
      ∃ t m, exec (.keyAgreement p) s = .next t ∧ onlyLink s t p m ∧ l.sends m 2#4 ∧ m.agreeing = false ∧ m.nextKey = false ∧
        m.txEpoch = l.txEpoch + 1 ∧ m.txCounter = 0 ∧ m.oldTx = true ∧ m.stalled = false) ∧
    (l.up = false ∨ l.agreeing = false → exec (.keyAgreement p) s = .next s) ∧
    (l.up = true → 2 ^ 32 - 2 ^ 16 ≤ l.txCounter → l.nextKey = false → l.stalled = false →
      ∃ t, exec (.keyStallThreshold p) s = .next t ∧ onlyLink s t p { l with stalled := true, stalledAt := s.clock }) ∧
    (l.up = false ∨ l.txCounter < 2 ^ 32 - 2 ^ 16 ∨ l.nextKey = true ∨ l.stalled = true →
      exec (.keyStallThreshold p) s = .next s) ∧
    (l.up = true → l.stalled = true → l.stalledAt + 100 * 10 ^ 12 ≤ s.clock → s.nothingOn p →
      ∃ t, exec (.keyStallTimeout p) s = .next t ∧ goesDown s t p 3) ∧
    (l.stalled = false ∨ s.clock < l.stalledAt + 100 * 10 ^ 12 → exec (.keyStallTimeout p) s = .next s)) ∧
  (∀ p kind (s : State), ((s.link p).up = false → exec (.portDown p kind) s = .next s) ∧
    ((s.link p).up = true → s.nothingOn p → ∃ t, exec (.portDown p kind) s = .next t ∧ goesDown s t p kind.toNat) ∧
    (∀ j k id i o n, (s.link p).up = true → s.faults = [] → (∀ q ∈ s.ports, q.2.held = []) →
      (s.link p).reqs = [(j, ⟨.lane k id i o, n⟩)] → (∀ e ∈ s.warps, e.2.gov.demoted = false) →
      ∃ t, exec (.portDown p kind) s = .next t ∧ goesDown s t p kind.toNat ∧ marksFailed s t k id i .link)) ∧
  (∀ p peer (s : State), (24 ≤ p ∨ (s.link p).up = true → exec (.portUp p peer) s = .next s) ∧
    (p < 24 → (s.link p).up = false → ∃ t, exec (.portUp p peer) s = .next t ∧
      recordsEvent s t p (s.link p).evt (s.linkRecord p 5 peer) ∧
      let l := t.link p
      l.up = true ∧ l.keyed = true ∧ l.peer = peer ∧ l.txEpoch = 0 ∧ l.rxEpoch = 0 ∧ l.rxCounter = 0 ∧ l.txCounter = 1 ∧
      l.reqs = [] ∧ l.out = [] ∧ l.downs = (s.link p).downs ∧ l.retries = (s.link p).retries ∧ l.authf = (s.link p).authf ∧
      ∃ g, l.sent = [⟨0, 0, g⟩] ∧ g.kind = 0#4 ∧ g.cred0.toNat = min 255 (Config.linkBuffer 0) ∧
        g.cred1.toNat = min 255 (Config.linkBuffer 1) ∧ g.cred2.toNat = min 255 (Config.linkBuffer 2))) ∧
  (∀ j p k id i o n (s : State), s.links.findSome? (fun e => (mapFind e.2.reqs j).map (fun r => (e.1, r))) =
      some (p, ⟨.lane k id i o, n⟩) →
    (4 * 10 ^ 12 ≤ n → (∀ q ∈ s.ports, q.2.held = []) → ∃ t, exec (.linkRequestTimeout j) s = .next t ∧
      mapFind (t.link p).reqs j = none ∧ marksFailed s t k id i .link ∧ t.mem = s.mem) ∧
    (n < 4 * 10 ^ 12 → exec (.linkRequestTimeout j) s = .next s)) ∧
  (∀ j f k id i o (s : State), s.links.findSome? (fun e => (mapFind e.2.reqs j).map (fun r => (e.1, r))) = none →
    mapFind s.faults j = some f → f.who = some (.lane k id i o) → f.home.toNat ≠ ownDevice →
    (4 * 10 ^ 12 ≤ f.waited → (∀ q ∈ s.ports, q.2.held = []) → ∃ t, exec (.linkRequestTimeout j) s = .next t ∧
      mapFind t.faults j = none ∧ marksFailed s t k id i .link ∧ t.mem = s.mem) ∧
    (f.waited < 4 * 10 ^ 12 → exec (.linkRequestTimeout j) s = .next s)) ∧
  (∀ j (s : State), ∃ t, exec (.holdResponse j) s = .next t ∧ { t with links := s.links } = s ∧
    ∀ p k, mapFind (t.link p).reqs k = (mapFind (s.link p).reqs k).map (fun r => if k = j then { r with waited := 0 } else r)) ∧
  (∀ p (v : DWord) (s : State), (24 ≤ p → exec (.ulstatWrite p v) s = .next s) ∧
    (p < 24 → ∃ t, exec (.ulstatWrite p v) s = .next t ∧
      onlyLink s t p { s.link p with retries := 0#21, authf := 0#8, downs := 0#8 }))

/-- R394, R396 to R400, R402: power on and the starts, their failures and their successes; the answers over the sideband; a hot
reset and its grace; migration; the clock's steps; the thermal trip.

What the rules leave open here is taken as in logs 2, 8, 48, 49 and 50. -/
def Obligations.FirmwareEvents : Prop :=
  (∀ s : State, ∃ t, exec .powerOn s = .next t ∧ t.isStill ∧ t.mem = Mem.reset ∧ t.firm.phase = .pending ∧ t.firm.nextWarm = false ∧
    t.firm.reason = 0#4 ∧ t.firm.wfail = 0#4 ∧ t.firm.cfail = 0#4 ∧ t.firm.fuses = s.firm.fuses) ∧
  (∀ r (s : State), s.firm.phase = .pending → s.firm.nextWarm = false →
    let k := if 3 ≤ s.firm.cfail.toNat then 2#3 else 0#3
    (r.imagesVerify = true → s.firm.fuses ≤ r.versions → ∃ t, exec (.coldStart r) s = .next t ∧ t.isStill ∧ t.mem = Mem.reset ∧
      t.clock = 0 ∧ t.firm.phase = .osLoaded ∧ t.firm.ready = false ∧ t.firm.kind = k ∧ t.firm.loaded = r.versions ∧
      t.firm.loadedAt = 0 ∧ t.firm.openKey = s.firm.openKey + 1 ∧ t.firm.stackKeys = s.firm.stackKeys + 1 ∧
      t.firm.fuses = s.firm.fuses ∧ t.firm.cfail = s.firm.cfail) ∧
    (r.imagesVerify = false ∨ r.versions < s.firm.fuses →
      ∃ t, exec (.coldStart r) s = .next t ∧ t.isStill ∧ failsStart s t k)) ∧
  (∀ r (s : State), s.firm.phase = .pending → s.firm.nextWarm = true →
    (r.imagesVerify = true → s.firm.fuses ≤ r.versions → r.hbmPasses = true → ∃ t, exec (.warmStart r) s = .next t ∧ t.isStill ∧
      t.clock = s.clock ∧ t.firm.phase = .osLoaded ∧ t.firm.ready = false ∧ t.firm.kind = 1#3 ∧ t.firm.loaded = r.versions ∧
      t.firm.loadedAt = s.clock ∧ t.firm.openKey = s.firm.openKey ∧
      (∀ a, t.mem.byte a = if s.mem.lines.any (fun l => l.1 / 1024 == a / 65536) then 0#8 else s.mem.byte a) ∧
      ∀ p ∈ r.lanesUp, p < 24 → ∀ d, mapFind s.firm.trained p = some d → (t.link p).up = true ∧ (t.link p).peer = d) ∧
    (r.imagesVerify = false ∨ r.versions < s.firm.fuses ∨ r.hbmPasses = false →
      ∃ t, exec (.warmStart r) s = .next t ∧ t.isStill ∧ failsStart s t 1#3)) ∧
  (∀ r (s : State), (s.firm.phase ≠ .pending ∨ s.firm.nextWarm = true → exec (.coldStart r) s = .next s) ∧
    (s.firm.phase ≠ .pending ∨ s.firm.nextWarm = false → exec (.warmStart r) s = .next s)) ∧
  (∀ s : State, (s.firm.phase = .osLoaded → s.firm.loadedAt + 60 * 10 ^ 15 ≤ s.clock →
      ∃ t, exec .startTimeout s = .next t ∧ t.isStill ∧ failsStart s t s.firm.kind) ∧
    (s.firm.phase ≠ .osLoaded ∨ s.clock < s.firm.loadedAt + 60 * 10 ^ 15 → exec .startTimeout s = .next s)) ∧
  (∀ (v : DWord) (s : State), (v.getLsbD 63 = false → exec (.startrecWrite v) s = .next s) ∧
    (v.getLsbD 63 = true → ∃ t, exec (.startrecWrite v) s = .next t ∧ { t with firm := s.firm } = s ∧ t.firm.ready = true ∧
      (s.firm.phase = .osLoaded → s.clock < s.firm.loadedAt + 60 * 10 ^ 15 → t.firm.phase = .up ∧ t.firm.wfail = 0#4 ∧
        t.firm.cfail = 0#4 ∧ t.firm.fuses = max s.firm.fuses s.firm.loaded) ∧
      (s.firm.phase ≠ .osLoaded → t.firm = { s.firm with ready := true }))) ∧
  (∀ s : State, let said (a : SidebandAnswer) : Firmware := { s.firm with answers := s.firm.answers ++ [a] }
    exec .getVersion s = .next { s with firm := said (.version 1 3) } ∧
    (∃ t v, exec .getCapabilities s = .next t ∧ firmTakes s t (said (.capabilities v))) ∧
    (∃ t v, exec .getDigests s = .next t ∧ firmTakes s t (said (.digests v))) ∧
    (∃ t v, exec .getCertificate s = .next t ∧ firmTakes s t (said (.certificate v))) ∧
    (∀ n, ∃ t v, exec (.challenge n) s = .next t ∧ firmTakes s t (said (.challenge n v))) ∧
    exec (.negotiateAlgorithms true) s = .next { s with firm := said .algorithms } ∧
    (∃ t, ∃ a ∈ [SidebandAnswer.noAlgorithms, .error .unsupportedRequest],
      exec (.negotiateAlgorithms false) s = .next t ∧ firmTakes s t (said a)) ∧
    (∀ c, exec (.spdmUnsupportedRequest c) s = .next { s with firm := said (.error .unsupportedRequest) }) ∧
    ∀ n : Byte, ∃ a, exec (.getMeasurements n) s = .next { s with firm := said a } ∧
      (n = 0#8 → a = .measurementCount 6) ∧ (6 < n.toNat → n ≠ 255#8 → a = .error .invalidRequest) ∧
      (1 ≤ n.toNat → n.toNat ≤ 6 → a = .measurements [(n.toNat, s.firm.measurement n.toNat)]) ∧
      (n = 255#8 → a = .measurements ([1, 2, 3, 4, 5, 6].map (fun j => (j, s.firm.measurement j))))) ∧
  (∀ (g : BitVec 16) (s : State), let ms := if g = 0#16 then 50 else g.toNat
    let said (a : SidebandAnswer) : State := { s with firm := { s.firm with answers := s.firm.answers ++ [a] } }
    (500 < ms → exec (.resetReq g) s = .next (said (.error .invalidRequest))) ∧
    (ms ≤ 500 → s.firm.resetEnd ≠ none → exec (.resetReq g) s = .next (said .success)) ∧
    (ms ≤ 500 → s.firm.resetEnd = none → s.firm.phase ≠ .up → exec (.resetReq g) s = .next (said (.error .busy))) ∧
    (ms ≤ 500 → s.firm.resetEnd = none → s.firm.phase = .up → ∃ t, exec (.resetReq g) s = .next t ∧
      t.firm = { (said .success).firm with resetEnd := some (s.clock + ms * 10 ^ 12) } ∧
      recordsEvent s t 24 s.firm.rootevt (s.rootRecord 1 ms))) ∧
  (∀ e (s : State), s.firm.resetEnd = some e → e ≤ s.clock → ∃ t, exec .resetGraceExpiry s = .next t ∧ t.isStill ∧
    t.firm.phase = .pending ∧ t.firm.ready = false ∧ t.firm.nextWarm = true ∧ t.firm.reason = 1#4 ∧ t.firm.resetEnd = none ∧
    t.links = [] ∧
    (s.isStill → t.firm.fuses = s.firm.fuses ∧
      ∀ p, (s.link p).up = true → mapFind t.firm.trained p = some (s.link p).peer)) ∧
  (∀ s : State, s.firm.resetEnd = none ∨ (∃ e, s.firm.resetEnd = some e ∧ s.clock < e) →
    exec .resetGraceExpiry s = .next s) ∧
  (∀ (v : DWord) (s : State), ∃ t x, exec (.rootevtWrite v) s = .next t ∧ { t with firm := s.firm } = s ∧
    t.firm = { s.firm with
      rootevt := x, resetEnd := if v.getLsbD 62 && s.firm.resetEnd.isSome then some s.clock else s.firm.resetEnd } ∧
    ∀ j, j < 64 → x.getLsbD j = (decide (j = 63 ∨ (4 ≤ j ∧ j ≤ 56)) && v.getLsbD j)) ∧
  (∀ w dest nonce (s : State), let busy := s.firm.migrations.any (fun e => e.2.source && e.2.world == w && !e.2.abandoned)
    (w ≠ 0#10 → mapHas s.worlds w.toNat = true → s.migration nonce = none → busy = false → (s.groups.map (·.1)).Nodup →
      ∃ t, exec (.migrationStart w dest nonce) s = .next t ∧ t.worlds = s.worlds ∧
        (∃ b, t.migration nonce = some ⟨w, dest, true, (s.world w).handle, b, s.clock, false⟩ ∧ b.key = (s.world w).key ∧
          b.egress = (s.world w).egress ∧ b.roster = (s.world w).roster ∧ b.buffers = (s.world w).buffers) ∧
        ∀ g x, mapFind s.groups g = some x → s.preemptNames (.world w) x = true → x.status = .running →
          stopped s t g .preempted .preempted) ∧
    (w = 0#10 ∨ mapHas s.worlds w.toNat = false ∨ s.migration nonce ≠ none ∨ busy = true →
      exec (.migrationStart w dest nonce) s = .next s)) ∧
  (∀ w src nonce handle blob (s : State),
    (w ≠ 0#10 → s.slotOpen w.toNat = true → s.migration nonce = none →
      ∃ t, exec (.migrationSealedState w src nonce handle blob) s = .next t ∧ t.worlds = s.worlds ∧
        t.migration nonce = some ⟨w, src, false, handle, blob, s.clock, false⟩ ∧ t.slotOpen w.toNat = false ∧
        recordsEvent s t 24 s.firm.rootevt (s.rootRecord 2 (w.toNat + 1024 * src.toNat))) ∧
    (w = 0#10 ∨ s.slotOpen w.toNat = false ∨ s.migration nonce ≠ none →
      exec (.migrationSealedState w src nonce handle blob) s = .next s)) ∧
  (∀ nonce m (s : State), s.migration nonce = some m →
    (m.source = true → m.abandoned = false → s.clock < m.since + 30 * 10 ^ 15 →
      ∃ t, exec (.migrationReceipt nonce true) s = .next t ∧ mapFind t.worlds m.world.toNat = none ∧ t.migration nonce = none) ∧
    (∀ b, b = false ∨ m.source = false ∨ m.abandoned = true ∨ m.since + 30 * 10 ^ 15 ≤ s.clock →
      exec (.migrationReceipt nonce b) s = .next s) ∧
    (m.source = false → s.clock < m.since + 30 * 10 ^ 15 →
      ∃ t, exec (.migrationConfirmation nonce) s = .next t ∧ t.migration nonce = none ∧
      mapFind t.worlds m.world.toNat = some ⟨m.blob.key, m.handle, m.blob.egress, m.blob.roster, m.blob.buffers⟩) ∧
    (m.source = true ∨ m.since + 30 * 10 ^ 15 ≤ s.clock → exec (.migrationConfirmation nonce) s = .next s) ∧
    (m.source = true → exec (.migrationAbort nonce) s = .next s ∧
      exec (.migrationArmTimeout nonce) s = .next s) ∧
    (∀ x, x = Instr.migrationAbort nonce ∨ (x = .migrationArmTimeout nonce ∧ m.since + 30 * 10 ^ 15 ≤ s.clock) →
      m.source = false → ∃ t, exec x s = .next t ∧ t.migration nonce = none ∧ t.worlds = s.worlds ∧
        recordsEvent s t 24 s.firm.rootevt (s.rootRecord 4 (m.world.toNat + 1024 * m.peer.toNat))) ∧
    (s.clock < m.since + 30 * 10 ^ 15 →
      exec (.migrationArmTimeout nonce) s = .next s ∧ exec (.migrationReceiptTimeout nonce) s = .next s) ∧
    (m.source = true → m.since + 30 * 10 ^ 15 ≤ s.clock → ∃ t, exec (.migrationReceiptTimeout nonce) s = .next t ∧
      t.migration nonce = some { m with abandoned := true } ∧ t.worlds = s.worlds ∧ t.mem = s.mem)) ∧
  (∀ watts temp (s : State), let f := s.front
    (s.clock < f.windowAt + 10 ^ 12 → exec (.powerAverageWindow watts temp) s = .next s) ∧
    (f.windowAt + 10 ^ 12 ≤ s.clock → ∃ freq steps, exec (.powerAverageWindow watts temp) s = .next { s with front := { f with
        windowAt := s.clock, power := watts, temp := temp, freq := freq, steps := steps } } ∧
      (3200 < watts ∨ 105 < temp → 300 < f.freq → freq = f.freq - 25 ∧
        steps = if f.steps = 255#8 then 255#8 else f.steps + 1#8) ∧
      ((3200 < watts ∨ 105 < temp) ∧ f.freq ≤ 300 ∨ ¬(3200 < watts ∨ 105 < temp) ∧ ¬(watts < 3100 ∧ temp < 100 ∧ f.freq < 600) →
        freq = f.freq ∧ steps = f.steps) ∧
      (watts < 3100 → temp < 100 → f.freq < 600 → freq = f.freq + 25 ∧ steps = f.steps))) ∧
  (∀ temp (s : State), (temp ≤ 120 → exec (.thermalTrip temp) s = .next s) ∧
    (120 < temp → ∃ t, exec (.thermalTrip temp) s = .next t ∧ t.isStill ∧ t.firm.phase = .pending ∧ t.firm.ready = false ∧
      t.firm.nextWarm = false ∧ t.firm.reason = 5#4)) ∧
  (∀ (v : DWord) (s : State), exec (.pwrstatWrite v) s = .next { s with front := { s.front with steps := 0#8 } })

/-! ### Integer instructions -/

/-- R47, R48: the lane whose value a source gives lane i, by its perm code and parameter; both halves of a 64-bit source are those of
one lane, and a scalar source is an s-register. -/
def Obligations.SourceLanes : Prop :=
  ∀ (s : State) second (a : Src) (i : Lane),
    let j : Lane := Fin.ofNat 32 (laneRead a.perm (s.parameter second a.perm) i.val)
    let v (n : Nat) : Word := (s.me.reg (s.me.regNo (a.reg.toNat + n))).entry.at j
    (a.perm ≠ .scalar → (s.src second a).at i = v 0 ∧ Lanes.at (s.src64 second a).lanes i = v 1 ++ v 0) ∧
    (a.perm = .scalar → (s.src second a).at i = (s.sreg a.reg.toNat).setWidth 32 ∧
      Lanes.at (s.src64 second a).lanes i = s.sreg a.reg.toNat)

/-- R97, R106: lane i of vd takes the operation on the two sources' values in lane i, raw, and nothing else changes.

R97: the same of one source; vmov also copies the format of its source.

R99, R100, R106: vmad and vbfi count vd as a source; vsel takes A where its selector is 1 and B where it is 0, in every
lane of the bundle, under the format that both carry. -/
def Obligations.LaneArithmetic : Prop :=
  (∀ e ∈ twoSource, ∀ d a b p s, s.runs (e.1 d a b p) →
     ∃ t, exec (e.1 d a b p) s = .next t ∧ regFrame s t [s.me.regNo d.toNat] ∧
       regTakes s t (s.me.regNo d.toNat) (s.on (e.1 d a b p)) (fun i => e.2 ((s.srcA a).at i) ((s.srcB b).at i)) 0#4) ∧
  ((∀ e ∈ oneSource, ∀ d a p s, s.runs (e.1 d a p) →
     ∃ t, exec (e.1 d a p) s = .next t ∧ regFrame s t [s.me.regNo d.toNat] ∧
       regTakes s t (s.me.regNo d.toNat) (s.on (e.1 d a p)) (fun i => e.2 ((s.srcA a).at i)) 0#4) ∧
   (∀ d a p s, s.runs (.vmov d a p) →
     ∃ t, exec (.vmov d a p) s = .next t ∧ regFrame s t [s.me.regNo d.toNat] ∧
       regTakes s t (s.me.regNo d.toNat) (s.on (.vmov d a p)) (fun i => (s.srcA a).at i) (s.srcFormat a))) ∧
  ((∀ e ∈ threeSource, ∀ d a b p s, s.runs (e.1 d a b p) →
     ∃ t, exec (e.1 d a b p) s = .next t ∧ regFrame s t [s.me.regNo d.toNat] ∧
       regTakes s t (s.me.regNo d.toNat) (s.on (e.1 d a b p))
         (fun i => e.2 ((s.srcA a).at i) ((s.srcB b).at i) (s.me.lane d.toNat i)) 0#4) ∧
   (∀ d a b c s, s.runs (.vsel d a b c) →
     ∃ t, exec (.vsel d a b c) s = .next t ∧ regFrame s t [s.me.regNo d.toNat] ∧
       regTakes s t (s.me.regNo d.toNat) s.bundle
         (fun i => if Mask.has (s.predMask { pred := c }) i then (s.srcA a).at i else (s.srcB b).at i)
         (if s.srcFormat a = s.srcFormat b then s.srcFormat a else 0#4)))

/-- R98, R102, R103: the pair takes the 64-bit result, raw; vaddc takes its carry in from the pair's high register. -/
def Obligations.WideResults : Prop :=
  (∀ e ∈ wideSource, ∀ d a b p s, s.runs (e.1 d a b p) →
    ∃ t, exec (e.1 d a b p) s = .next t ∧ regFrame s t (s.pairNo (2 * d.toNat)) ∧
      pairTakes s t (2 * d.toNat) (s.on (e.1 d a b p))
        (fun i => e.2 (Lanes.at (s.src64 false a).lanes i) (Lanes.at (s.src64 true b).lanes i)) 0#4 0#4) ∧
  (∀ e ∈ wideNarrow, ∀ d a b p s, s.runs (e.1 d a b p) →
    ∃ t, exec (e.1 d a b p) s = .next t ∧ regFrame s t (s.pairNo (2 * d.toNat)) ∧
      pairTakes s t (2 * d.toNat) (s.on (e.1 d a b p))
        (fun i => e.2 (Lanes.at (s.src64 false a).lanes i) ((s.srcB b).at i)) 0#4 0#4) ∧
  (∀ d a b p s, s.runs (.vaddc d a b p) →
    ∃ t, exec (.vaddc d a b p) s = .next t ∧ regFrame s t (s.pairNo (2 * d.toNat)) ∧
      pairTakes s t (2 * d.toNat) (s.on (.vaddc d a b p))
        (fun i => ((s.srcA a).at i).setWidth 64 + ((s.srcB b).at i).setWidth 64
          + (s.me.lane (2 * d.toNat + 1) i &&& 1#32).setWidth 64) 0#4 0#4)

/-- R101: where no active lane divides by 0, the active lanes take the quotient or the remainder, at once with no lookahead
and behind the window with some (R51). Where real active lanes divide by 0, they raise IDIV0 and keep vd and their program
counters, and the other lanes go on; a helper lane that divides by 0 takes 0 (R15).

What the rules leave open here is taken as in log 17. -/
def Obligations.Divisions : Prop :=
  ∀ e ∈ divisions, ∀ d a b p s, s.runs (e.1 d a b p) →
    let on := s.on (e.1 d a b p)
    let n := s.me.regNo d.toNat
    let q (i : Lane) : Word := if (s.srcB b).at i = 0#32 then 0#32 else e.2 ((s.srcA a).at i) ((s.srcB b).at i)
    let bad := maskOf (fun i => Mask.has (s.real on) i && (s.srcB b).at i == 0#32)
    (bad = 0#32 → s.schedLa = 0 →
      ∃ t, exec (e.1 d a b p) s = .next t ∧ regFrame s t [n] ∧ regTakes s t n on q 0#4) ∧
    (bad = 0#32 → s.schedLa ≠ 0 → on ≠ 0#32 →
      ∃ t, exec (e.1 d a b p) s = .next t ∧ owes s t [(n, 0#4)] on s.schedLa [q] ∧ t.me.fcsr = s.me.fcsr) ∧
    (bad ≠ 0#32 → s.schedLa = 0 →
      ∃ t, exec (e.1 d a b p) s = .next (t.raise (trapAll bad (Trap.plain .idiv0))) ∧
        frameOn (s.bundle &&& ~~~bad) s t [n] ∧ t.me.fcsr = s.me.fcsr ∧ regTakes s t n (on &&& ~~~bad) q 0#4)

/-- R96, R108, R112, R113: a scalar instruction writes its s-register once for the issue, whatever lanes are active; vreadl
copies the lane that the lowest active real lane names, and writes nothing where no real lane is active. -/
def Obligations.ScalarResults : Prop :=
  (∀ e ∈ scalars, ∀ d a b s, s.runs (e.1 d a b) →
    ∃ t, exec (e.1 d a b) s = .next t ∧ sregTakes s t d.toNat (e.2 (s.sreg a.toNat) (s.sreg b.toNat))) ∧
  (∀ d a s, s.runs (.smov d a) → ∃ t, exec (.smov d a) s = .next t ∧ sregTakes s t d.toNat (s.sreg a.toNat)) ∧
  (∀ d a i s, s.runs (.saddImm d a i) →
    ∃ t, exec (.saddImm d a i) s = .next t ∧ sregTakes s t d.toNat (s.sreg a.toNat + (s.immediate i).signExtend 64)) ∧
  (∀ d i s, s.runs (.smovi d i) →
    ∃ t, exec (.smovi d i) s = .next t ∧ sregTakes s t d.toNat ((s.immediate i).signExtend 64)) ∧
  (∀ d a b p s, s.runs (.vreadl d a b p) →
    ∃ t, exec (.vreadl d a b p) s = .next t ∧
      match s.first (s.on (.vreadl d a b p)) with
      | none => stepsPast s t
      | some i0 => sregTakes s t d.toNat (((s.srcA a).at (Fin.ofNat 32 ((s.srcB b).at i0).toNat)).setWidth 64))

/-- R105, R109, R110: the immediate forms, and the values built from a tag, a format, a base and a stride.

R107 to R109, R111: a computed register, a broadcast and a re-tagged copy, and a register freed, which reads zero, raw,
in every lane. -/
def Obligations.BuiltAndMovedValues : Prop :=
  ((∀ d a i s, s.runs (.vaddImm d a i) →
     ∃ t, exec (.vaddImm d a i) s = .next t ∧ regFrame s t [s.me.regNo d.toNat] ∧
       regTakes s t (s.me.regNo d.toNat) (s.on (.vaddImm d a i)) (fun l => (s.srcA a).at l + s.immediate i) 0#4) ∧
   (∀ d i s, s.runs (.vmovi d i) →
     ∃ t, exec (.vmovi d i) s = .next t ∧ regFrame s t [s.me.regNo d.toNat] ∧
       regTakes s t (s.me.regNo d.toNat) (s.on (.vmovi d i)) (fun _ => s.immediate i) 0#4) ∧
   (∀ d v p s, s.runs (.vshape d v p) →
     ∃ t, exec (.vshape d v p) s = .next t ∧ regFrame s t [s.me.regNo d.toNat] ∧
       regTakes s t (s.me.regNo d.toNat) (s.on (.vshape d v p))
         (fun _ => (s.me.reg (s.me.regNo v.toNat)).tag.setWidth 32) 0#4) ∧
   (∀ d a b p s, s.runs (.vaffine d a b p) →
     ∃ t, exec (.vaffine d a b p) s = .next t ∧ regFrame s t [s.me.regNo d.toNat] ∧
       regTakes s t (s.me.regNo d.toNat) (s.on (.vaffine d a b p))
         (fun i => (s.srcA a).at 0 + BitVec.ofNat 32 i.val * (s.srcB b).at 0) 0#4) ∧
   (∀ d p s, s.runs (.vidx d p) →
     ∃ t, exec (.vidx d p) s = .next t ∧ regFrame s t [s.me.regNo d.toNat] ∧
       regTakes s t (s.me.regNo d.toNat) (s.on (.vidx d p)) (fun i => BitVec.ofNat 32 i.val) 0#4)) ∧
  ((∀ d r b p s, s.runs (.vmovrel d r b p) →
     (∀ i, Mask.has (s.on (.vmovrel d r b p)) i = true →
       r.toNat + ((s.srcB b).at i).toNat < 32 ∧ s.vBeyond (r.toNat + ((s.srcB b).at i).toNat) = false) →
     ∃ t, exec (.vmovrel d r b p) s = .next t ∧ regFrame s t [s.me.regNo d.toNat] ∧
       ∃ fmt, regTakes s t (s.me.regNo d.toNat) (s.on (.vmovrel d r b p))
         (fun i => s.me.lane (r.toNat + ((s.srcB b).at i).toNat) i) fmt) ∧
   (∀ d a p s, s.runs (.vbcs d a p) →
     ∃ t, exec (.vbcs d a p) s = .next t ∧
       match s.first (s.on (.vbcs d a p)) with
       | none => stepsPast s t
       | some i0 => regFrame s t [s.me.regNo d.toNat] ∧
         regTakes s t (s.me.regNo d.toNat) (s.on (.vbcs d a p)) (fun _ => (s.srcA a).at i0) (s.srcFormat a)) ∧
   (∀ d a b p s, s.runs (.vfmt d a b p) →
     (∀ i0, s.first (s.on (.vfmt d a b p)) = some i0 → ((s.srcB b).at i0).toNat % 16 < 13) →
     ∃ t, exec (.vfmt d a b p) s = .next t ∧
       match s.first (s.on (.vfmt d a b p)) with
       | none => stepsPast s t
       | some i0 => regFrame s t [s.me.regNo d.toNat] ∧
         regTakes s t (s.me.regNo d.toNat) (s.on (.vfmt d a b p)) (fun i => (s.srcA a).at i) (((s.srcB b).at i0).setWidth 4)) ∧
   (∀ d s, s.runs (.vfree d) →
     ∃ t, exec (.vfree d) s = .next t ∧ regFrame s t [s.me.regNo d.toNat] ∧
       t.me.reg (s.me.regNo d.toNat) = VReg.zero))
end

