-- ==== Sys2Proof/Laws/Lanes.lean ====
section
/-! SUPPORT. Lemmas about lanes, masks and the vectors of 32 lane values. -/

namespace Sys2Proof

/-- Lane i of a vector made by a rule is the rule's value. -/
@[simp] theorem perLane_at {α : Type} (f : Lane → α) (i : Lane) : Machine.Lanes.at (perLane f) i = f i := by
  simp [Machine.Lanes.at, perLane]

/-- Two vectors that agree in every lane are equal. -/
theorem lanes_ext {α : Type} {a b : Lanes α} (h : ∀ i, Machine.Lanes.at a i = Machine.Lanes.at b i) : a = b := by
  apply Vector.ext
  intro i hi
  exact h ⟨i, hi⟩

/-- A vector is made from its own lanes. -/
@[simp] theorem perLane_self {α : Type} (l : Lanes α) : perLane (fun i => Machine.Lanes.at l i) = l :=
  lanes_ext (fun i => by simp)

/-- Lane i after a masked update. -/
@[simp] theorem where_at {α : Type} (l : Lanes α) (m : Mask) (f : Lane → α) (i : Lane) :
    Machine.Lanes.at (Machine.Lanes.where_ l m f) i = if Mask.has m i then f i else Machine.Lanes.at l i := by
  simp [Machine.Lanes.where_]

/-- Lane i after one lane is replaced. -/
@[simp] theorem put_at {α : Type} (l : Lanes α) (j i : Lane) (a : α) :
    Machine.Lanes.at (Machine.Lanes.put l j a) i = if i = j then a else Machine.Lanes.at l i := by
  simp only [Machine.Lanes.at, Machine.Lanes.put, Vector.getElem_set]
  by_cases h : i = j
  · simp [h]
  · have : j.val ≠ i.val := fun e => h (Fin.ext e.symm)
    simp [h, this]

/-- Every lane of a constant vector. -/
@[simp] theorem replicate_at {α : Type} (a : α) (i : Lane) : Machine.Lanes.at (Vector.replicate 32 a) i = a := by
  simp [Machine.Lanes.at]

/-- The empty set has no lane. -/
@[simp] theorem has_zero (i : Lane) : Mask.has 0#32 i = false := by simp [Mask.has]

/-- The full set has every lane. -/
@[simp] theorem has_allOnes (i : Lane) : Mask.has (~~~0#32) i = true := by
  revert i; decide

@[simp] theorem has_and (a b : Mask) (i : Lane) : Mask.has (a &&& b) i = (Mask.has a i && Mask.has b i) := by
  simp [Mask.has]

@[simp] theorem has_or (a b : Mask) (i : Lane) : Mask.has (a ||| b) i = (Mask.has a i || Mask.has b i) := by
  simp [Mask.has]

@[simp] theorem has_not (a : Mask) (i : Lane) : Mask.has (~~~a) i = !Mask.has a i := by
  simp [Mask.has, i.isLt]

@[simp] theorem has_full (i : Lane) : Mask.has 4294967295#32 i = true := by
  revert i; decide

/-- Two sets with the same lanes are equal. -/
theorem mask_ext {a b : Mask} (h : ∀ i : Lane, Mask.has a i = Mask.has b i) : a = b := by
  apply BitVec.eq_of_getLsbD_eq
  intro i hi
  exact h ⟨i, hi⟩

/-- Meeting the full set changes nothing. -/
theorem and_full (a : Mask) : a &&& 4294967295#32 = a := mask_ext (fun i => by simp)

/-- The set of one lane. -/
@[simp] theorem has_laneBit (j i : Lane) : Mask.has (laneBit j) i = decide (i = j) := by
  simp only [Mask.has, laneBit, BitVec.getLsbD_twoPow]
  have := j.isLt
  by_cases h : i = j
  · subst h; simp [i.isLt]
  · have : j.val ≠ i.val := fun e => h (Fin.ext e.symm)
    simp [h, this]

/-- Every lane is listed. -/
theorem mem_allLanes (i : Lane) : i ∈ allLanes := by
  revert i; decide

theorem nodup_allLanes : allLanes.Nodup := by decide

/-- The lanes of a set are its members. -/
@[simp] theorem mem_lanesOf (m : Mask) (i : Lane) : i ∈ lanesOf m ↔ Mask.has m i = true := by
  simp [lanesOf, mem_allLanes]

@[simp] theorem lanesOf_zero : lanesOf 0#32 = [] := by
  simp [lanesOf]

/-- The list of a one-lane set. -/
@[simp] theorem lanesOf_laneBit (i : Lane) : lanesOf (laneBit i) = [i] := by
  revert i; decide

theorem has_foldr_twoPow (f : Lane → Bool) (l : List Lane) (i : Lane) :
    Mask.has (l.foldr (fun i m => if f i then m ||| BitVec.twoPow 32 i.val else m) 0#32) i =
      (decide (i ∈ l) && f i) := by
  induction l with
  | nil => simp
  | cons j t ih =>
    simp only [List.foldr_cons]
    have hb : Mask.has (BitVec.twoPow 32 j.val) i = decide (i = j) := has_laneBit j i
    by_cases hj : f j = true
    · rw [if_pos hj, has_or, ih, hb]
      by_cases e : i = j
      · subst e; simp [hj]
      · simp [e]
    · rw [if_neg hj, ih]
      by_cases e : i = j
      · subst e; simp [hj]
      · simp [e]

/-- A lane is in the set of a rule when the rule says so. -/
@[simp] theorem has_maskOf (f : Lane → Bool) (i : Lane) : Mask.has (maskOf f) i = f i := by
  simp [maskOf, has_foldr_twoPow, mem_allLanes]

/-- A set is the set of its members. -/
@[simp] theorem maskOf_has (m : Mask) : maskOf (fun i => Mask.has m i) = m := mask_ext (fun i => by simp)

theorem lowestLane_mem {m : Mask} {i : Lane} (h : lowestLane? m = some i) : Mask.has m i = true := by
  have := List.find?_some h
  simpa using this

/-- A set that has a lane is not empty. -/
theorem ne_zero_of_has {m : Mask} {i : Lane} (h : Mask.has m i = true) : m ≠ 0#32 := by
  rintro rfl; simp at h

/-- A set with no lane is empty. -/
theorem eq_zero_of_lanes {m : Mask} (h : ∀ i : Lane, Mask.has m i = false) : m = 0#32 :=
  mask_ext (fun i => by simp [h i])

end Sys2Proof
end

