-- ==== Sys2Proof/Laws/Maps.lean ====
section
/-! SUPPORT. Lemmas about the sparse maps that hold the device's units. -/

namespace Sys2Proof

/-- The value just put. -/
@[simp] theorem mapGet_put_same {α : Type} (d : α) (m : Map α) (k : Nat) (v : α) : mapGet d (mapPut m k v) k = v := by
  induction m with
  | nil => simp [mapPut, mapGet]
  | cons c t ih =>
    obtain ⟨a, b⟩ := c
    simp only [mapPut]
    split
    · simp [mapGet]
    · split
      · simp [mapGet]
      · simp_all [mapGet]

/-- Another key keeps its value. -/
theorem mapGet_put_ne {α : Type} (d : α) (m : Map α) {j k : Nat} (v : α) (h : j ≠ k) :
    mapGet d (mapPut m k v) j = mapGet d m j := by
  induction m with
  | nil => simp [mapPut, mapGet, h]
  | cons c t ih =>
    obtain ⟨a, b⟩ := c
    simp only [mapPut]
    split
    · simp [mapGet, h]
    · split
      · next e => subst e; simp [mapGet, h]
      · simp [mapGet, ih]

theorem mapGet_put {α : Type} (d : α) (m : Map α) (j k : Nat) (v : α) :
    mapGet d (mapPut m k v) j = if j = k then v else mapGet d m j := by
  by_cases h : j = k
  · subst h; simp
  · simp [h, mapGet_put_ne d m v h]

/-- Putting twice is putting the last. -/
@[simp] theorem mapPut_put {α : Type} (m : Map α) (k : Nat) (u v : α) : mapPut (mapPut m k u) k v = mapPut m k v := by
  induction m with
  | nil => simp [mapPut]
  | cons c t ih =>
    obtain ⟨a, b⟩ := c
    simp only [mapPut]
    split
    · simp [mapPut]
    · split
      · simp [mapPut]
      · next h1 h2 => simp [mapPut, h1, h2, ih]

@[simp] theorem mapFind_put_same {α : Type} (m : Map α) (k : Nat) (v : α) : mapFind (mapPut m k v) k = some v := by
  induction m with
  | nil => simp [mapPut, mapFind]
  | cons c t ih =>
    obtain ⟨a, b⟩ := c
    simp only [mapPut]
    split
    · simp [mapFind]
    · split
      · simp [mapFind]
      · simp_all [mapFind]

theorem mapFind_put_ne {α : Type} (m : Map α) {j k : Nat} (v : α) (h : j ≠ k) :
    mapFind (mapPut m k v) j = mapFind m j := by
  induction m with
  | nil => simp [mapPut, mapFind, h]
  | cons c t ih =>
    obtain ⟨a, b⟩ := c
    simp only [mapPut]
    split
    · simp [mapFind, h]
    · split
      · next e => subst e; simp [mapFind, h]
      · simp [mapFind, ih]

/-- A deleted key has the default. -/
@[simp] theorem mapGet_del_same {α : Type} (d : α) (m : Map α) (k : Nat) : mapGet d (mapDel m k) k = d := by
  induction m with
  | nil => rfl
  | cons c t ih =>
    obtain ⟨a, b⟩ := c
    simp only [mapDel]
    split
    · exact ih
    · next h => simp [mapGet, h, ih]

theorem mapGet_del_ne {α : Type} (d : α) (m : Map α) {j k : Nat} (h : j ≠ k) : mapGet d (mapDel m k) j = mapGet d m j := by
  induction m with
  | nil => rfl
  | cons c t ih =>
    obtain ⟨a, b⟩ := c
    simp only [mapDel]
    split
    · next e => subst e; simp [mapGet, h, ih]
    · simp [mapGet, ih]

/-- A value set, whatever the default. -/
theorem mapGet_set {α : Type} [DecidableEq α] (d : α) (m : Map α) (j k : Nat) (v : α) :
    mapGet d (mapSet d m k v) j = if j = k then v else mapGet d m j := by
  unfold mapSet
  by_cases h : j = k
  · subst h
    split
    · next e => simp [e]
    · simp
  · rw [if_neg h]
    split
    · exact mapGet_del_ne d m h
    · exact mapGet_put_ne d m v h

theorem mapHas_put {α : Type} (m : Map α) (j k : Nat) (v : α) :
    mapHas (mapPut m k v) j = (decide (j = k) || mapHas m j) := by
  induction m with
  | nil => by_cases h : j = k <;> simp [mapPut, mapHas, h]
  | cons c t ih =>
    obtain ⟨a, b⟩ := c
    simp only [mapPut]
    split
    · by_cases h : j = k <;> simp [mapHas, h]
    · split
      · next e => subst e; by_cases h : j = k <;> simp [mapHas, h]
      · by_cases h : j = a
        · simp [mapHas, h]
        · simp [mapHas, h, ih]

theorem mapHas_del {α : Type} (m : Map α) (j k : Nat) : mapHas (mapDel m k) j = (!decide (j = k) && mapHas m j) := by
  induction m with
  | nil => simp [mapDel, mapHas]
  | cons c t ih =>
    obtain ⟨a, b⟩ := c
    simp only [mapDel]
    split
    · next e => subst e; rw [ih]; by_cases h : j = k <;> simp [mapHas, h]
    · next e =>
      by_cases h : j = a
      · subst h; simp [mapHas, Ne.symm e]
      · simp [mapHas, h, ih]

/-- An unlisted key has the default. -/
theorem mapGet_of_not_has {α : Type} (d : α) (m : Map α) (k : Nat) (h : mapHas m k = false) : mapGet d m k = d := by
  induction m with
  | nil => rfl
  | cons c t ih =>
    obtain ⟨a, b⟩ := c
    simp only [mapHas] at h
    split at h
    · simp at h
    · next e => simp [mapGet, e, ih h]

/-! ### Rising keys -/

/-- All keys of a map are above k. -/
def mapAbove {α : Type} (k : Nat) : Map α → Bool
  | [] => true
  | (a, _) :: _ => decide (k < a)

theorem mapRising_cons {α : Type} (a : Nat) (b : α) (t : Map α) :
    mapRising ((a, b) :: t) = (mapAbove a t && mapRising t) := by
  cases t with
  | nil => rfl
  | cons c t => obtain ⟨x, y⟩ := c; rfl

theorem mapAbove_put {α : Type} (a k : Nat) (v : α) (m : Map α) (h : mapAbove a m = true) (ha : a < k) :
    mapAbove a (mapPut m k v) = true := by
  cases m with
  | nil => simpa [mapPut, mapAbove] using ha
  | cons c t =>
    obtain ⟨x, y⟩ := c
    simp only [mapPut]
    split
    · simpa [mapAbove] using ha
    · split
      · simpa [mapAbove] using ha
      · simpa [mapAbove] using h

/-- Putting keeps the keys rising. -/
theorem mapRising_put {α : Type} (m : Map α) (k : Nat) (v : α) (h : mapRising m = true) : mapRising (mapPut m k v) = true := by
  induction m with
  | nil => rfl
  | cons c t ih =>
    obtain ⟨a, b⟩ := c
    rw [mapRising_cons] at h
    simp only [Bool.and_eq_true] at h
    simp only [mapPut]
    split
    · next hk => rw [mapRising_cons, mapRising_cons, h.1, h.2]; simp [mapAbove, hk]
    · split
      · next hk => subst hk; rw [mapRising_cons]; simp [h]
      · next h1 h2 => rw [mapRising_cons, ih h.2, mapAbove_put a k v t h.1 (by omega)]; rfl

theorem mapAbove_trans {α : Type} {a b : Nat} (m : Map α) (h : mapAbove b m = true) (hab : a < b) : mapAbove a m = true := by
  cases m with
  | nil => rfl
  | cons c t => obtain ⟨x, y⟩ := c; simp [mapAbove] at h ⊢; omega

theorem mapAbove_del {α : Type} (a k : Nat) (m : Map α) (h : mapAbove a m = true) (hr : mapRising m = true) :
    mapAbove a (mapDel m k) = true := by
  induction m with
  | nil => rfl
  | cons c t ih =>
    obtain ⟨x, y⟩ := c
    rw [mapRising_cons] at hr
    simp only [Bool.and_eq_true] at hr
    simp only [mapDel]
    split
    · exact ih (mapAbove_trans t hr.1 (by simpa [mapAbove] using h)) hr.2
    · simpa [mapAbove] using h

/-- Deleting keeps the keys rising. -/
theorem mapRising_del {α : Type} (m : Map α) (k : Nat) (h : mapRising m = true) : mapRising (mapDel m k) = true := by
  induction m with
  | nil => rfl
  | cons c t ih =>
    obtain ⟨a, b⟩ := c
    have h' := h
    rw [mapRising_cons] at h
    simp only [Bool.and_eq_true] at h
    simp only [mapDel]
    split
    · exact ih h.2
    · rw [mapRising_cons, ih h.2, mapAbove_del a k t h.1 h.2]; rfl

/-- A key below all keys of a rising map is not listed. -/
theorem not_has_of_above {α : Type} (k : Nat) (m : Map α) (h : mapAbove k m = true) (hr : mapRising m = true) :
    mapHas m k = false := by
  induction m with
  | nil => rfl
  | cons c t ih =>
    obtain ⟨a, b⟩ := c
    rw [mapRising_cons] at hr
    simp only [Bool.and_eq_true] at hr
    have ha : k < a := by simpa [mapAbove] using h
    have : k ≠ a := by omega
    simp [mapHas, this, ih (mapAbove_trans t hr.1 ha) hr.2]

/-- What every listed cell of a rising map satisfies after a put. -/
theorem all_put {α : Type} (p : Nat → α → Bool) (m : Map α) (k : Nat) (v : α)
    (h : m.all (fun c => p c.1 c.2) = true) (hv : p k v = true) : (mapPut m k v).all (fun c => p c.1 c.2) = true := by
  induction m with
  | nil => simp [mapPut, hv]
  | cons c t ih =>
    obtain ⟨a, b⟩ := c
    simp only [List.all_cons, Bool.and_eq_true] at h
    simp only [mapPut]
    split
    · simp [hv, h]
    · split
      · simp [hv, h]
      · simp [h, ih h.2]

theorem all_del {α : Type} (p : Nat → α → Bool) (m : Map α) (k : Nat)
    (h : m.all (fun c => p c.1 c.2) = true) : (mapDel m k).all (fun c => p c.1 c.2) = true := by
  induction m with
  | nil => rfl
  | cons c t ih =>
    obtain ⟨a, b⟩ := c
    simp only [List.all_cons, Bool.and_eq_true] at h
    simp only [mapDel]
    split
    · exact ih h.2
    · simp [h, ih h.2]

end Sys2Proof
end

