-- ==== Sys2Proof/Laws/State.lean ====
section
/-! SUPPORT. One lemma for each field of State and each update of one unit, and what each unit reads after it. -/

namespace Sys2Proof.Machine

/-! ### setWarp -/

@[simp] theorem State.setWarp_issuer (s : State) (k : Nat) (w : Warp) : (s.setWarp k w).issuer = s.issuer := rfl
@[simp] theorem State.setWarp_cur (s : State) (k : Nat) (w : Warp) : (s.setWarp k w).cur = s.cur := rfl
@[simp] theorem State.setWarp_bundle (s : State) (k : Nat) (w : Warp) : (s.setWarp k w).bundle = s.bundle := rfl
@[simp] theorem State.setWarp_hints (s : State) (k : Nat) (w : Warp) : (s.setWarp k w).hints = s.hints := rfl
@[simp] theorem State.setWarp_inPacket (s : State) (k : Nat) (w : Warp) : (s.setWarp k w).inPacket = s.inPacket := rfl
@[simp] theorem State.setWarp_taken (s : State) (k : Nat) (w : Warp) : (s.setWarp k w).taken = s.taken := rfl
@[simp] theorem State.setWarp_acted (s : State) (k : Nat) (w : Warp) : (s.setWarp k w).acted = s.acted := rfl
@[simp] theorem State.setWarp_renamed (s : State) (k : Nat) (w : Warp) : (s.setWarp k w).renamed = s.renamed := rfl
@[simp] theorem State.setWarp_reads (s : State) (k : Nat) (w : Warp) : (s.setWarp k w).reads = s.reads := rfl
@[simp] theorem State.setWarp_stalled (s : State) (k : Nat) (w : Warp) : (s.setWarp k w).stalled = s.stalled := rfl
@[simp] theorem State.setWarp_start (s : State) (k : Nat) (w : Warp) : (s.setWarp k w).start = s.start := rfl
@[simp] theorem State.setWarp_startHints (s : State) (k : Nat) (w : Warp) : (s.setWarp k w).startHints = s.startHints := rfl
@[simp] theorem State.setWarp_startIssued (s : State) (k : Nat) (w : Warp) : (s.setWarp k w).startIssued = s.startIssued := rfl
@[simp] theorem State.setWarp_undone (s : State) (k : Nat) (w : Warp) : (s.setWarp k w).undone = s.undone := rfl
@[simp] theorem State.setWarp_counted (s : State) (k : Nat) (w : Warp) : (s.setWarp k w).counted = s.counted := rfl
@[simp] theorem State.setWarp_base (s : State) (k : Nat) (w : Warp) : (s.setWarp k w).base = s.base := rfl
@[simp] theorem State.setWarp_rivals (s : State) (k : Nat) (w : Warp) : (s.setWarp k w).rivals = s.rivals := rfl
@[simp] theorem State.setWarp_groups (s : State) (k : Nat) (w : Warp) : (s.setWarp k w).groups = s.groups := rfl
@[simp] theorem State.setWarp_grids (s : State) (k : Nat) (w : Warp) : (s.setWarp k w).grids = s.grids := rfl
@[simp] theorem State.setWarp_cores (s : State) (k : Nat) (w : Warp) : (s.setWarp k w).cores = s.cores := rfl
@[simp] theorem State.setWarp_dies (s : State) (k : Nat) (w : Warp) : (s.setWarp k w).dies = s.dies := rfl
@[simp] theorem State.setWarp_frames (s : State) (k : Nat) (w : Warp) : (s.setWarp k w).frames = s.frames := rfl
@[simp] theorem State.setWarp_clusters (s : State) (k : Nat) (w : Warp) : (s.setWarp k w).clusters = s.clusters := rfl
@[simp] theorem State.setWarp_rings (s : State) (k : Nat) (w : Warp) : (s.setWarp k w).rings = s.rings := rfl
@[simp] theorem State.setWarp_ports (s : State) (k : Nat) (w : Warp) : (s.setWarp k w).ports = s.ports := rfl
@[simp] theorem State.setWarp_links (s : State) (k : Nat) (w : Warp) : (s.setWarp k w).links = s.links := rfl
@[simp] theorem State.setWarp_routes (s : State) (k : Nat) (w : Warp) : (s.setWarp k w).routes = s.routes := rfl
@[simp] theorem State.setWarp_faults (s : State) (k : Nat) (w : Warp) : (s.setWarp k w).faults = s.faults := rfl
@[simp] theorem State.setWarp_worlds (s : State) (k : Nat) (w : Warp) : (s.setWarp k w).worlds = s.worlds := rfl
@[simp] theorem State.setWarp_versions (s : State) (k : Nat) (w : Warp) : (s.setWarp k w).versions = s.versions := rfl
@[simp] theorem State.setWarp_ranges (s : State) (k : Nat) (w : Warp) : (s.setWarp k w).ranges = s.ranges := rfl
@[simp] theorem State.setWarp_front (s : State) (k : Nat) (w : Warp) : (s.setWarp k w).front = s.front := rfl
@[simp] theorem State.setWarp_firm (s : State) (k : Nat) (w : Warp) : (s.setWarp k w).firm = s.firm := rfl
@[simp] theorem State.setWarp_mem (s : State) (k : Nat) (w : Warp) : (s.setWarp k w).mem = s.mem := rfl
@[simp] theorem State.setWarp_races (s : State) (k : Nat) (w : Warp) : (s.setWarp k w).races = s.races := rfl
@[simp] theorem State.setWarp_full (s : State) (k : Nat) (w : Warp) : (s.setWarp k w).full = s.full := rfl
@[simp] theorem State.setWarp_rels (s : State) (k : Nat) (w : Warp) : (s.setWarp k w).rels = s.rels := rfl
@[simp] theorem State.setWarp_agents (s : State) (k : Nat) (w : Warp) : (s.setWarp k w).agents = s.agents := rfl
@[simp] theorem State.setWarp_returning (s : State) (k : Nat) (w : Warp) : (s.setWarp k w).returning = s.returning := rfl
@[simp] theorem State.setWarp_cc (s : State) (k : Nat) (w : Warp) : (s.setWarp k w).cc = s.cc := rfl
@[simp] theorem State.setWarp_clock (s : State) (k : Nat) (w : Warp) : (s.setWarp k w).clock = s.clock := rfl
@[simp] theorem State.setWarp_part (s : State) (k : Nat) (w : Warp) : (s.setWarp k w).part = s.part := rfl
@[simp] theorem State.setWarp_unit (s : State) (k : Nat) (w : Warp) : (s.setWarp k w).unit = s.unit := rfl
@[simp] theorem State.setWarp_fresh (s : State) (k : Nat) (w : Warp) : (s.setWarp k w).fresh = s.fresh := rfl
@[simp] theorem State.setWarp_agenda (s : State) (k : Nat) (w : Warp) : (s.setWarp k w).agenda = s.agenda := rfl
@[simp] theorem State.setWarp_group (s : State) (k : Nat) (w : Warp) (j : Nat) : (s.setWarp k w).group j = s.group j := rfl
@[simp] theorem State.setWarp_grid (s : State) (k : Nat) (w : Warp) (j : Nat) : (s.setWarp k w).grid j = s.grid j := rfl
@[simp] theorem State.setWarp_core (s : State) (k : Nat) (w : Warp) (j : Nat) : (s.setWarp k w).core j = s.core j := rfl
@[simp] theorem State.setWarp_die (s : State) (k : Nat) (w : Warp) (j : Nat) : (s.setWarp k w).die j = s.die j := rfl
@[simp] theorem State.setWarp_cluster (s : State) (k : Nat) (w : Warp) (j : Nat) : (s.setWarp k w).cluster j = s.cluster j := rfl
@[simp] theorem State.setWarp_ring (s : State) (k : Nat) (w : Warp) (j : Nat) : (s.setWarp k w).ring j = s.ring j := rfl
@[simp] theorem State.setWarp_port (s : State) (k : Nat) (w : Warp) (j : Nat) : (s.setWarp k w).port j = s.port j := rfl
@[simp] theorem State.setWarp_link (s : State) (k : Nat) (w : Warp) (j : Nat) : (s.setWarp k w).link j = s.link j := rfl
@[simp] theorem State.setWarp_frame (s : State) (k : Nat) (w : Warp) (j : Nat) : (s.setWarp k w).frame j = s.frame j := rfl

/-! ### setGroup -/

@[simp] theorem State.setGroup_issuer (s : State) (k : Nat) (g : Group) : (s.setGroup k g).issuer = s.issuer := rfl
@[simp] theorem State.setGroup_cur (s : State) (k : Nat) (g : Group) : (s.setGroup k g).cur = s.cur := rfl
@[simp] theorem State.setGroup_bundle (s : State) (k : Nat) (g : Group) : (s.setGroup k g).bundle = s.bundle := rfl
@[simp] theorem State.setGroup_hints (s : State) (k : Nat) (g : Group) : (s.setGroup k g).hints = s.hints := rfl
@[simp] theorem State.setGroup_inPacket (s : State) (k : Nat) (g : Group) : (s.setGroup k g).inPacket = s.inPacket := rfl
@[simp] theorem State.setGroup_taken (s : State) (k : Nat) (g : Group) : (s.setGroup k g).taken = s.taken := rfl
@[simp] theorem State.setGroup_acted (s : State) (k : Nat) (g : Group) : (s.setGroup k g).acted = s.acted := rfl
@[simp] theorem State.setGroup_renamed (s : State) (k : Nat) (g : Group) : (s.setGroup k g).renamed = s.renamed := rfl
@[simp] theorem State.setGroup_reads (s : State) (k : Nat) (g : Group) : (s.setGroup k g).reads = s.reads := rfl
@[simp] theorem State.setGroup_stalled (s : State) (k : Nat) (g : Group) : (s.setGroup k g).stalled = s.stalled := rfl
@[simp] theorem State.setGroup_start (s : State) (k : Nat) (g : Group) : (s.setGroup k g).start = s.start := rfl
@[simp] theorem State.setGroup_startHints (s : State) (k : Nat) (g : Group) : (s.setGroup k g).startHints = s.startHints := rfl
@[simp] theorem State.setGroup_startIssued (s : State) (k : Nat) (g : Group) : (s.setGroup k g).startIssued = s.startIssued := rfl
@[simp] theorem State.setGroup_undone (s : State) (k : Nat) (g : Group) : (s.setGroup k g).undone = s.undone := rfl
@[simp] theorem State.setGroup_counted (s : State) (k : Nat) (g : Group) : (s.setGroup k g).counted = s.counted := rfl
@[simp] theorem State.setGroup_base (s : State) (k : Nat) (g : Group) : (s.setGroup k g).base = s.base := rfl
@[simp] theorem State.setGroup_rivals (s : State) (k : Nat) (g : Group) : (s.setGroup k g).rivals = s.rivals := rfl
@[simp] theorem State.setGroup_warps (s : State) (k : Nat) (g : Group) : (s.setGroup k g).warps = s.warps := rfl
@[simp] theorem State.setGroup_grids (s : State) (k : Nat) (g : Group) : (s.setGroup k g).grids = s.grids := rfl
@[simp] theorem State.setGroup_cores (s : State) (k : Nat) (g : Group) : (s.setGroup k g).cores = s.cores := rfl
@[simp] theorem State.setGroup_dies (s : State) (k : Nat) (g : Group) : (s.setGroup k g).dies = s.dies := rfl
@[simp] theorem State.setGroup_frames (s : State) (k : Nat) (g : Group) : (s.setGroup k g).frames = s.frames := rfl
@[simp] theorem State.setGroup_clusters (s : State) (k : Nat) (g : Group) : (s.setGroup k g).clusters = s.clusters := rfl
@[simp] theorem State.setGroup_rings (s : State) (k : Nat) (g : Group) : (s.setGroup k g).rings = s.rings := rfl
@[simp] theorem State.setGroup_ports (s : State) (k : Nat) (g : Group) : (s.setGroup k g).ports = s.ports := rfl
@[simp] theorem State.setGroup_links (s : State) (k : Nat) (g : Group) : (s.setGroup k g).links = s.links := rfl
@[simp] theorem State.setGroup_routes (s : State) (k : Nat) (g : Group) : (s.setGroup k g).routes = s.routes := rfl
@[simp] theorem State.setGroup_faults (s : State) (k : Nat) (g : Group) : (s.setGroup k g).faults = s.faults := rfl
@[simp] theorem State.setGroup_worlds (s : State) (k : Nat) (g : Group) : (s.setGroup k g).worlds = s.worlds := rfl
@[simp] theorem State.setGroup_versions (s : State) (k : Nat) (g : Group) : (s.setGroup k g).versions = s.versions := rfl
@[simp] theorem State.setGroup_ranges (s : State) (k : Nat) (g : Group) : (s.setGroup k g).ranges = s.ranges := rfl
@[simp] theorem State.setGroup_front (s : State) (k : Nat) (g : Group) : (s.setGroup k g).front = s.front := rfl
@[simp] theorem State.setGroup_firm (s : State) (k : Nat) (g : Group) : (s.setGroup k g).firm = s.firm := rfl
@[simp] theorem State.setGroup_mem (s : State) (k : Nat) (g : Group) : (s.setGroup k g).mem = s.mem := rfl
@[simp] theorem State.setGroup_races (s : State) (k : Nat) (g : Group) : (s.setGroup k g).races = s.races := rfl
@[simp] theorem State.setGroup_full (s : State) (k : Nat) (g : Group) : (s.setGroup k g).full = s.full := rfl
@[simp] theorem State.setGroup_rels (s : State) (k : Nat) (g : Group) : (s.setGroup k g).rels = s.rels := rfl
@[simp] theorem State.setGroup_agents (s : State) (k : Nat) (g : Group) : (s.setGroup k g).agents = s.agents := rfl
@[simp] theorem State.setGroup_returning (s : State) (k : Nat) (g : Group) : (s.setGroup k g).returning = s.returning := rfl
@[simp] theorem State.setGroup_cc (s : State) (k : Nat) (g : Group) : (s.setGroup k g).cc = s.cc := rfl
@[simp] theorem State.setGroup_clock (s : State) (k : Nat) (g : Group) : (s.setGroup k g).clock = s.clock := rfl
@[simp] theorem State.setGroup_part (s : State) (k : Nat) (g : Group) : (s.setGroup k g).part = s.part := rfl
@[simp] theorem State.setGroup_unit (s : State) (k : Nat) (g : Group) : (s.setGroup k g).unit = s.unit := rfl
@[simp] theorem State.setGroup_fresh (s : State) (k : Nat) (g : Group) : (s.setGroup k g).fresh = s.fresh := rfl
@[simp] theorem State.setGroup_agenda (s : State) (k : Nat) (g : Group) : (s.setGroup k g).agenda = s.agenda := rfl
@[simp] theorem State.setGroup_warp (s : State) (k : Nat) (g : Group) (j : Nat) : (s.setGroup k g).warp j = s.warp j := rfl
@[simp] theorem State.setGroup_grid (s : State) (k : Nat) (g : Group) (j : Nat) : (s.setGroup k g).grid j = s.grid j := rfl
@[simp] theorem State.setGroup_core (s : State) (k : Nat) (g : Group) (j : Nat) : (s.setGroup k g).core j = s.core j := rfl
@[simp] theorem State.setGroup_die (s : State) (k : Nat) (g : Group) (j : Nat) : (s.setGroup k g).die j = s.die j := rfl
@[simp] theorem State.setGroup_cluster (s : State) (k : Nat) (g : Group) (j : Nat) : (s.setGroup k g).cluster j = s.cluster j := rfl
@[simp] theorem State.setGroup_ring (s : State) (k : Nat) (g : Group) (j : Nat) : (s.setGroup k g).ring j = s.ring j := rfl
@[simp] theorem State.setGroup_port (s : State) (k : Nat) (g : Group) (j : Nat) : (s.setGroup k g).port j = s.port j := rfl
@[simp] theorem State.setGroup_link (s : State) (k : Nat) (g : Group) (j : Nat) : (s.setGroup k g).link j = s.link j := rfl
@[simp] theorem State.setGroup_frame (s : State) (k : Nat) (g : Group) (j : Nat) : (s.setGroup k g).frame j = s.frame j := rfl

/-! ### setGrid -/

@[simp] theorem State.setGrid_issuer (s : State) (k : Nat) (g : Grid) : (s.setGrid k g).issuer = s.issuer := rfl
@[simp] theorem State.setGrid_cur (s : State) (k : Nat) (g : Grid) : (s.setGrid k g).cur = s.cur := rfl
@[simp] theorem State.setGrid_bundle (s : State) (k : Nat) (g : Grid) : (s.setGrid k g).bundle = s.bundle := rfl
@[simp] theorem State.setGrid_hints (s : State) (k : Nat) (g : Grid) : (s.setGrid k g).hints = s.hints := rfl
@[simp] theorem State.setGrid_inPacket (s : State) (k : Nat) (g : Grid) : (s.setGrid k g).inPacket = s.inPacket := rfl
@[simp] theorem State.setGrid_taken (s : State) (k : Nat) (g : Grid) : (s.setGrid k g).taken = s.taken := rfl
@[simp] theorem State.setGrid_acted (s : State) (k : Nat) (g : Grid) : (s.setGrid k g).acted = s.acted := rfl
@[simp] theorem State.setGrid_renamed (s : State) (k : Nat) (g : Grid) : (s.setGrid k g).renamed = s.renamed := rfl
@[simp] theorem State.setGrid_reads (s : State) (k : Nat) (g : Grid) : (s.setGrid k g).reads = s.reads := rfl
@[simp] theorem State.setGrid_stalled (s : State) (k : Nat) (g : Grid) : (s.setGrid k g).stalled = s.stalled := rfl
@[simp] theorem State.setGrid_start (s : State) (k : Nat) (g : Grid) : (s.setGrid k g).start = s.start := rfl
@[simp] theorem State.setGrid_startHints (s : State) (k : Nat) (g : Grid) : (s.setGrid k g).startHints = s.startHints := rfl
@[simp] theorem State.setGrid_startIssued (s : State) (k : Nat) (g : Grid) : (s.setGrid k g).startIssued = s.startIssued := rfl
@[simp] theorem State.setGrid_undone (s : State) (k : Nat) (g : Grid) : (s.setGrid k g).undone = s.undone := rfl
@[simp] theorem State.setGrid_counted (s : State) (k : Nat) (g : Grid) : (s.setGrid k g).counted = s.counted := rfl
@[simp] theorem State.setGrid_base (s : State) (k : Nat) (g : Grid) : (s.setGrid k g).base = s.base := rfl
@[simp] theorem State.setGrid_rivals (s : State) (k : Nat) (g : Grid) : (s.setGrid k g).rivals = s.rivals := rfl
@[simp] theorem State.setGrid_warps (s : State) (k : Nat) (g : Grid) : (s.setGrid k g).warps = s.warps := rfl
@[simp] theorem State.setGrid_groups (s : State) (k : Nat) (g : Grid) : (s.setGrid k g).groups = s.groups := rfl
@[simp] theorem State.setGrid_cores (s : State) (k : Nat) (g : Grid) : (s.setGrid k g).cores = s.cores := rfl
@[simp] theorem State.setGrid_dies (s : State) (k : Nat) (g : Grid) : (s.setGrid k g).dies = s.dies := rfl
@[simp] theorem State.setGrid_frames (s : State) (k : Nat) (g : Grid) : (s.setGrid k g).frames = s.frames := rfl
@[simp] theorem State.setGrid_clusters (s : State) (k : Nat) (g : Grid) : (s.setGrid k g).clusters = s.clusters := rfl
@[simp] theorem State.setGrid_rings (s : State) (k : Nat) (g : Grid) : (s.setGrid k g).rings = s.rings := rfl
@[simp] theorem State.setGrid_ports (s : State) (k : Nat) (g : Grid) : (s.setGrid k g).ports = s.ports := rfl
@[simp] theorem State.setGrid_links (s : State) (k : Nat) (g : Grid) : (s.setGrid k g).links = s.links := rfl
@[simp] theorem State.setGrid_routes (s : State) (k : Nat) (g : Grid) : (s.setGrid k g).routes = s.routes := rfl
@[simp] theorem State.setGrid_faults (s : State) (k : Nat) (g : Grid) : (s.setGrid k g).faults = s.faults := rfl
@[simp] theorem State.setGrid_worlds (s : State) (k : Nat) (g : Grid) : (s.setGrid k g).worlds = s.worlds := rfl
@[simp] theorem State.setGrid_versions (s : State) (k : Nat) (g : Grid) : (s.setGrid k g).versions = s.versions := rfl
@[simp] theorem State.setGrid_ranges (s : State) (k : Nat) (g : Grid) : (s.setGrid k g).ranges = s.ranges := rfl
@[simp] theorem State.setGrid_front (s : State) (k : Nat) (g : Grid) : (s.setGrid k g).front = s.front := rfl
@[simp] theorem State.setGrid_firm (s : State) (k : Nat) (g : Grid) : (s.setGrid k g).firm = s.firm := rfl
@[simp] theorem State.setGrid_mem (s : State) (k : Nat) (g : Grid) : (s.setGrid k g).mem = s.mem := rfl
@[simp] theorem State.setGrid_races (s : State) (k : Nat) (g : Grid) : (s.setGrid k g).races = s.races := rfl
@[simp] theorem State.setGrid_full (s : State) (k : Nat) (g : Grid) : (s.setGrid k g).full = s.full := rfl
@[simp] theorem State.setGrid_rels (s : State) (k : Nat) (g : Grid) : (s.setGrid k g).rels = s.rels := rfl
@[simp] theorem State.setGrid_agents (s : State) (k : Nat) (g : Grid) : (s.setGrid k g).agents = s.agents := rfl
@[simp] theorem State.setGrid_returning (s : State) (k : Nat) (g : Grid) : (s.setGrid k g).returning = s.returning := rfl
@[simp] theorem State.setGrid_cc (s : State) (k : Nat) (g : Grid) : (s.setGrid k g).cc = s.cc := rfl
@[simp] theorem State.setGrid_clock (s : State) (k : Nat) (g : Grid) : (s.setGrid k g).clock = s.clock := rfl
@[simp] theorem State.setGrid_part (s : State) (k : Nat) (g : Grid) : (s.setGrid k g).part = s.part := rfl
@[simp] theorem State.setGrid_unit (s : State) (k : Nat) (g : Grid) : (s.setGrid k g).unit = s.unit := rfl
@[simp] theorem State.setGrid_fresh (s : State) (k : Nat) (g : Grid) : (s.setGrid k g).fresh = s.fresh := rfl
@[simp] theorem State.setGrid_agenda (s : State) (k : Nat) (g : Grid) : (s.setGrid k g).agenda = s.agenda := rfl
@[simp] theorem State.setGrid_warp (s : State) (k : Nat) (g : Grid) (j : Nat) : (s.setGrid k g).warp j = s.warp j := rfl
@[simp] theorem State.setGrid_group (s : State) (k : Nat) (g : Grid) (j : Nat) : (s.setGrid k g).group j = s.group j := rfl
@[simp] theorem State.setGrid_core (s : State) (k : Nat) (g : Grid) (j : Nat) : (s.setGrid k g).core j = s.core j := rfl
@[simp] theorem State.setGrid_die (s : State) (k : Nat) (g : Grid) (j : Nat) : (s.setGrid k g).die j = s.die j := rfl
@[simp] theorem State.setGrid_cluster (s : State) (k : Nat) (g : Grid) (j : Nat) : (s.setGrid k g).cluster j = s.cluster j := rfl
@[simp] theorem State.setGrid_ring (s : State) (k : Nat) (g : Grid) (j : Nat) : (s.setGrid k g).ring j = s.ring j := rfl
@[simp] theorem State.setGrid_port (s : State) (k : Nat) (g : Grid) (j : Nat) : (s.setGrid k g).port j = s.port j := rfl
@[simp] theorem State.setGrid_link (s : State) (k : Nat) (g : Grid) (j : Nat) : (s.setGrid k g).link j = s.link j := rfl
@[simp] theorem State.setGrid_frame (s : State) (k : Nat) (g : Grid) (j : Nat) : (s.setGrid k g).frame j = s.frame j := rfl

/-! ### modCore -/

@[simp] theorem State.modCore_issuer (s : State) (k : Nat) (f : Core → Core) : (s.modCore k f).issuer = s.issuer := rfl
@[simp] theorem State.modCore_cur (s : State) (k : Nat) (f : Core → Core) : (s.modCore k f).cur = s.cur := rfl
@[simp] theorem State.modCore_bundle (s : State) (k : Nat) (f : Core → Core) : (s.modCore k f).bundle = s.bundle := rfl
@[simp] theorem State.modCore_hints (s : State) (k : Nat) (f : Core → Core) : (s.modCore k f).hints = s.hints := rfl
@[simp] theorem State.modCore_inPacket (s : State) (k : Nat) (f : Core → Core) : (s.modCore k f).inPacket = s.inPacket := rfl
@[simp] theorem State.modCore_taken (s : State) (k : Nat) (f : Core → Core) : (s.modCore k f).taken = s.taken := rfl
@[simp] theorem State.modCore_acted (s : State) (k : Nat) (f : Core → Core) : (s.modCore k f).acted = s.acted := rfl
@[simp] theorem State.modCore_renamed (s : State) (k : Nat) (f : Core → Core) : (s.modCore k f).renamed = s.renamed := rfl
@[simp] theorem State.modCore_reads (s : State) (k : Nat) (f : Core → Core) : (s.modCore k f).reads = s.reads := rfl
@[simp] theorem State.modCore_stalled (s : State) (k : Nat) (f : Core → Core) : (s.modCore k f).stalled = s.stalled := rfl
@[simp] theorem State.modCore_start (s : State) (k : Nat) (f : Core → Core) : (s.modCore k f).start = s.start := rfl
@[simp] theorem State.modCore_startHints (s : State) (k : Nat) (f : Core → Core) : (s.modCore k f).startHints = s.startHints := rfl
@[simp] theorem State.modCore_startIssued (s : State) (k : Nat) (f : Core → Core) : (s.modCore k f).startIssued = s.startIssued := rfl
@[simp] theorem State.modCore_undone (s : State) (k : Nat) (f : Core → Core) : (s.modCore k f).undone = s.undone := rfl
@[simp] theorem State.modCore_counted (s : State) (k : Nat) (f : Core → Core) : (s.modCore k f).counted = s.counted := rfl
@[simp] theorem State.modCore_base (s : State) (k : Nat) (f : Core → Core) : (s.modCore k f).base = s.base := rfl
@[simp] theorem State.modCore_rivals (s : State) (k : Nat) (f : Core → Core) : (s.modCore k f).rivals = s.rivals := rfl
@[simp] theorem State.modCore_warps (s : State) (k : Nat) (f : Core → Core) : (s.modCore k f).warps = s.warps := rfl
@[simp] theorem State.modCore_groups (s : State) (k : Nat) (f : Core → Core) : (s.modCore k f).groups = s.groups := rfl
@[simp] theorem State.modCore_grids (s : State) (k : Nat) (f : Core → Core) : (s.modCore k f).grids = s.grids := rfl
@[simp] theorem State.modCore_dies (s : State) (k : Nat) (f : Core → Core) : (s.modCore k f).dies = s.dies := rfl
@[simp] theorem State.modCore_frames (s : State) (k : Nat) (f : Core → Core) : (s.modCore k f).frames = s.frames := rfl
@[simp] theorem State.modCore_clusters (s : State) (k : Nat) (f : Core → Core) : (s.modCore k f).clusters = s.clusters := rfl
@[simp] theorem State.modCore_rings (s : State) (k : Nat) (f : Core → Core) : (s.modCore k f).rings = s.rings := rfl
@[simp] theorem State.modCore_ports (s : State) (k : Nat) (f : Core → Core) : (s.modCore k f).ports = s.ports := rfl
@[simp] theorem State.modCore_links (s : State) (k : Nat) (f : Core → Core) : (s.modCore k f).links = s.links := rfl
@[simp] theorem State.modCore_routes (s : State) (k : Nat) (f : Core → Core) : (s.modCore k f).routes = s.routes := rfl
@[simp] theorem State.modCore_faults (s : State) (k : Nat) (f : Core → Core) : (s.modCore k f).faults = s.faults := rfl
@[simp] theorem State.modCore_worlds (s : State) (k : Nat) (f : Core → Core) : (s.modCore k f).worlds = s.worlds := rfl
@[simp] theorem State.modCore_versions (s : State) (k : Nat) (f : Core → Core) : (s.modCore k f).versions = s.versions := rfl
@[simp] theorem State.modCore_ranges (s : State) (k : Nat) (f : Core → Core) : (s.modCore k f).ranges = s.ranges := rfl
@[simp] theorem State.modCore_front (s : State) (k : Nat) (f : Core → Core) : (s.modCore k f).front = s.front := rfl
@[simp] theorem State.modCore_firm (s : State) (k : Nat) (f : Core → Core) : (s.modCore k f).firm = s.firm := rfl
@[simp] theorem State.modCore_mem (s : State) (k : Nat) (f : Core → Core) : (s.modCore k f).mem = s.mem := rfl
@[simp] theorem State.modCore_races (s : State) (k : Nat) (f : Core → Core) : (s.modCore k f).races = s.races := rfl
@[simp] theorem State.modCore_full (s : State) (k : Nat) (f : Core → Core) : (s.modCore k f).full = s.full := rfl
@[simp] theorem State.modCore_rels (s : State) (k : Nat) (f : Core → Core) : (s.modCore k f).rels = s.rels := rfl
@[simp] theorem State.modCore_agents (s : State) (k : Nat) (f : Core → Core) : (s.modCore k f).agents = s.agents := rfl
@[simp] theorem State.modCore_returning (s : State) (k : Nat) (f : Core → Core) : (s.modCore k f).returning = s.returning := rfl
@[simp] theorem State.modCore_cc (s : State) (k : Nat) (f : Core → Core) : (s.modCore k f).cc = s.cc := rfl
@[simp] theorem State.modCore_clock (s : State) (k : Nat) (f : Core → Core) : (s.modCore k f).clock = s.clock := rfl
@[simp] theorem State.modCore_part (s : State) (k : Nat) (f : Core → Core) : (s.modCore k f).part = s.part := rfl
@[simp] theorem State.modCore_unit (s : State) (k : Nat) (f : Core → Core) : (s.modCore k f).unit = s.unit := rfl
@[simp] theorem State.modCore_fresh (s : State) (k : Nat) (f : Core → Core) : (s.modCore k f).fresh = s.fresh := rfl
@[simp] theorem State.modCore_agenda (s : State) (k : Nat) (f : Core → Core) : (s.modCore k f).agenda = s.agenda := rfl
@[simp] theorem State.modCore_warp (s : State) (k : Nat) (f : Core → Core) (j : Nat) : (s.modCore k f).warp j = s.warp j := rfl
@[simp] theorem State.modCore_group (s : State) (k : Nat) (f : Core → Core) (j : Nat) : (s.modCore k f).group j = s.group j := rfl
@[simp] theorem State.modCore_grid (s : State) (k : Nat) (f : Core → Core) (j : Nat) : (s.modCore k f).grid j = s.grid j := rfl
@[simp] theorem State.modCore_die (s : State) (k : Nat) (f : Core → Core) (j : Nat) : (s.modCore k f).die j = s.die j := rfl
@[simp] theorem State.modCore_cluster (s : State) (k : Nat) (f : Core → Core) (j : Nat) : (s.modCore k f).cluster j = s.cluster j := rfl
@[simp] theorem State.modCore_ring (s : State) (k : Nat) (f : Core → Core) (j : Nat) : (s.modCore k f).ring j = s.ring j := rfl
@[simp] theorem State.modCore_port (s : State) (k : Nat) (f : Core → Core) (j : Nat) : (s.modCore k f).port j = s.port j := rfl
@[simp] theorem State.modCore_link (s : State) (k : Nat) (f : Core → Core) (j : Nat) : (s.modCore k f).link j = s.link j := rfl
@[simp] theorem State.modCore_frame (s : State) (k : Nat) (f : Core → Core) (j : Nat) : (s.modCore k f).frame j = s.frame j := rfl

/-! ### modDie -/

@[simp] theorem State.modDie_issuer (s : State) (k : Nat) (f : Die → Die) : (s.modDie k f).issuer = s.issuer := rfl
@[simp] theorem State.modDie_cur (s : State) (k : Nat) (f : Die → Die) : (s.modDie k f).cur = s.cur := rfl
@[simp] theorem State.modDie_bundle (s : State) (k : Nat) (f : Die → Die) : (s.modDie k f).bundle = s.bundle := rfl
@[simp] theorem State.modDie_hints (s : State) (k : Nat) (f : Die → Die) : (s.modDie k f).hints = s.hints := rfl
@[simp] theorem State.modDie_inPacket (s : State) (k : Nat) (f : Die → Die) : (s.modDie k f).inPacket = s.inPacket := rfl
@[simp] theorem State.modDie_taken (s : State) (k : Nat) (f : Die → Die) : (s.modDie k f).taken = s.taken := rfl
@[simp] theorem State.modDie_acted (s : State) (k : Nat) (f : Die → Die) : (s.modDie k f).acted = s.acted := rfl
@[simp] theorem State.modDie_renamed (s : State) (k : Nat) (f : Die → Die) : (s.modDie k f).renamed = s.renamed := rfl
@[simp] theorem State.modDie_reads (s : State) (k : Nat) (f : Die → Die) : (s.modDie k f).reads = s.reads := rfl
@[simp] theorem State.modDie_stalled (s : State) (k : Nat) (f : Die → Die) : (s.modDie k f).stalled = s.stalled := rfl
@[simp] theorem State.modDie_start (s : State) (k : Nat) (f : Die → Die) : (s.modDie k f).start = s.start := rfl
@[simp] theorem State.modDie_startHints (s : State) (k : Nat) (f : Die → Die) : (s.modDie k f).startHints = s.startHints := rfl
@[simp] theorem State.modDie_startIssued (s : State) (k : Nat) (f : Die → Die) : (s.modDie k f).startIssued = s.startIssued := rfl
@[simp] theorem State.modDie_undone (s : State) (k : Nat) (f : Die → Die) : (s.modDie k f).undone = s.undone := rfl
@[simp] theorem State.modDie_counted (s : State) (k : Nat) (f : Die → Die) : (s.modDie k f).counted = s.counted := rfl
@[simp] theorem State.modDie_base (s : State) (k : Nat) (f : Die → Die) : (s.modDie k f).base = s.base := rfl
@[simp] theorem State.modDie_rivals (s : State) (k : Nat) (f : Die → Die) : (s.modDie k f).rivals = s.rivals := rfl
@[simp] theorem State.modDie_warps (s : State) (k : Nat) (f : Die → Die) : (s.modDie k f).warps = s.warps := rfl
@[simp] theorem State.modDie_groups (s : State) (k : Nat) (f : Die → Die) : (s.modDie k f).groups = s.groups := rfl
@[simp] theorem State.modDie_grids (s : State) (k : Nat) (f : Die → Die) : (s.modDie k f).grids = s.grids := rfl
@[simp] theorem State.modDie_cores (s : State) (k : Nat) (f : Die → Die) : (s.modDie k f).cores = s.cores := rfl
@[simp] theorem State.modDie_frames (s : State) (k : Nat) (f : Die → Die) : (s.modDie k f).frames = s.frames := rfl
@[simp] theorem State.modDie_clusters (s : State) (k : Nat) (f : Die → Die) : (s.modDie k f).clusters = s.clusters := rfl
@[simp] theorem State.modDie_rings (s : State) (k : Nat) (f : Die → Die) : (s.modDie k f).rings = s.rings := rfl
@[simp] theorem State.modDie_ports (s : State) (k : Nat) (f : Die → Die) : (s.modDie k f).ports = s.ports := rfl
@[simp] theorem State.modDie_links (s : State) (k : Nat) (f : Die → Die) : (s.modDie k f).links = s.links := rfl
@[simp] theorem State.modDie_routes (s : State) (k : Nat) (f : Die → Die) : (s.modDie k f).routes = s.routes := rfl
@[simp] theorem State.modDie_faults (s : State) (k : Nat) (f : Die → Die) : (s.modDie k f).faults = s.faults := rfl
@[simp] theorem State.modDie_worlds (s : State) (k : Nat) (f : Die → Die) : (s.modDie k f).worlds = s.worlds := rfl
@[simp] theorem State.modDie_versions (s : State) (k : Nat) (f : Die → Die) : (s.modDie k f).versions = s.versions := rfl
@[simp] theorem State.modDie_ranges (s : State) (k : Nat) (f : Die → Die) : (s.modDie k f).ranges = s.ranges := rfl
@[simp] theorem State.modDie_front (s : State) (k : Nat) (f : Die → Die) : (s.modDie k f).front = s.front := rfl
@[simp] theorem State.modDie_firm (s : State) (k : Nat) (f : Die → Die) : (s.modDie k f).firm = s.firm := rfl
@[simp] theorem State.modDie_mem (s : State) (k : Nat) (f : Die → Die) : (s.modDie k f).mem = s.mem := rfl
@[simp] theorem State.modDie_races (s : State) (k : Nat) (f : Die → Die) : (s.modDie k f).races = s.races := rfl
@[simp] theorem State.modDie_full (s : State) (k : Nat) (f : Die → Die) : (s.modDie k f).full = s.full := rfl
@[simp] theorem State.modDie_rels (s : State) (k : Nat) (f : Die → Die) : (s.modDie k f).rels = s.rels := rfl
@[simp] theorem State.modDie_agents (s : State) (k : Nat) (f : Die → Die) : (s.modDie k f).agents = s.agents := rfl
@[simp] theorem State.modDie_returning (s : State) (k : Nat) (f : Die → Die) : (s.modDie k f).returning = s.returning := rfl
@[simp] theorem State.modDie_cc (s : State) (k : Nat) (f : Die → Die) : (s.modDie k f).cc = s.cc := rfl
@[simp] theorem State.modDie_clock (s : State) (k : Nat) (f : Die → Die) : (s.modDie k f).clock = s.clock := rfl
@[simp] theorem State.modDie_part (s : State) (k : Nat) (f : Die → Die) : (s.modDie k f).part = s.part := rfl
@[simp] theorem State.modDie_unit (s : State) (k : Nat) (f : Die → Die) : (s.modDie k f).unit = s.unit := rfl
@[simp] theorem State.modDie_fresh (s : State) (k : Nat) (f : Die → Die) : (s.modDie k f).fresh = s.fresh := rfl
@[simp] theorem State.modDie_agenda (s : State) (k : Nat) (f : Die → Die) : (s.modDie k f).agenda = s.agenda := rfl
@[simp] theorem State.modDie_warp (s : State) (k : Nat) (f : Die → Die) (j : Nat) : (s.modDie k f).warp j = s.warp j := rfl
@[simp] theorem State.modDie_group (s : State) (k : Nat) (f : Die → Die) (j : Nat) : (s.modDie k f).group j = s.group j := rfl
@[simp] theorem State.modDie_grid (s : State) (k : Nat) (f : Die → Die) (j : Nat) : (s.modDie k f).grid j = s.grid j := rfl
@[simp] theorem State.modDie_core (s : State) (k : Nat) (f : Die → Die) (j : Nat) : (s.modDie k f).core j = s.core j := rfl
@[simp] theorem State.modDie_cluster (s : State) (k : Nat) (f : Die → Die) (j : Nat) : (s.modDie k f).cluster j = s.cluster j := rfl
@[simp] theorem State.modDie_ring (s : State) (k : Nat) (f : Die → Die) (j : Nat) : (s.modDie k f).ring j = s.ring j := rfl
@[simp] theorem State.modDie_port (s : State) (k : Nat) (f : Die → Die) (j : Nat) : (s.modDie k f).port j = s.port j := rfl
@[simp] theorem State.modDie_link (s : State) (k : Nat) (f : Die → Die) (j : Nat) : (s.modDie k f).link j = s.link j := rfl
@[simp] theorem State.modDie_frame (s : State) (k : Nat) (f : Die → Die) (j : Nat) : (s.modDie k f).frame j = s.frame j := rfl

/-! ### modCluster -/

@[simp] theorem State.modCluster_issuer (s : State) (k : Nat) (f : Cluster → Cluster) : (s.modCluster k f).issuer = s.issuer := rfl
@[simp] theorem State.modCluster_cur (s : State) (k : Nat) (f : Cluster → Cluster) : (s.modCluster k f).cur = s.cur := rfl
@[simp] theorem State.modCluster_bundle (s : State) (k : Nat) (f : Cluster → Cluster) : (s.modCluster k f).bundle = s.bundle := rfl
@[simp] theorem State.modCluster_hints (s : State) (k : Nat) (f : Cluster → Cluster) : (s.modCluster k f).hints = s.hints := rfl
@[simp] theorem State.modCluster_inPacket (s : State) (k : Nat) (f : Cluster → Cluster) : (s.modCluster k f).inPacket = s.inPacket := rfl
@[simp] theorem State.modCluster_taken (s : State) (k : Nat) (f : Cluster → Cluster) : (s.modCluster k f).taken = s.taken := rfl
@[simp] theorem State.modCluster_acted (s : State) (k : Nat) (f : Cluster → Cluster) : (s.modCluster k f).acted = s.acted := rfl
@[simp] theorem State.modCluster_renamed (s : State) (k : Nat) (f : Cluster → Cluster) : (s.modCluster k f).renamed = s.renamed := rfl
@[simp] theorem State.modCluster_reads (s : State) (k : Nat) (f : Cluster → Cluster) : (s.modCluster k f).reads = s.reads := rfl
@[simp] theorem State.modCluster_stalled (s : State) (k : Nat) (f : Cluster → Cluster) : (s.modCluster k f).stalled = s.stalled := rfl
@[simp] theorem State.modCluster_start (s : State) (k : Nat) (f : Cluster → Cluster) : (s.modCluster k f).start = s.start := rfl
@[simp] theorem State.modCluster_startHints (s : State) (k : Nat) (f : Cluster → Cluster) : (s.modCluster k f).startHints = s.startHints := rfl
@[simp] theorem State.modCluster_startIssued (s : State) (k : Nat) (f : Cluster → Cluster) : (s.modCluster k f).startIssued = s.startIssued := rfl
@[simp] theorem State.modCluster_undone (s : State) (k : Nat) (f : Cluster → Cluster) : (s.modCluster k f).undone = s.undone := rfl
@[simp] theorem State.modCluster_counted (s : State) (k : Nat) (f : Cluster → Cluster) : (s.modCluster k f).counted = s.counted := rfl
@[simp] theorem State.modCluster_base (s : State) (k : Nat) (f : Cluster → Cluster) : (s.modCluster k f).base = s.base := rfl
@[simp] theorem State.modCluster_rivals (s : State) (k : Nat) (f : Cluster → Cluster) : (s.modCluster k f).rivals = s.rivals := rfl
@[simp] theorem State.modCluster_warps (s : State) (k : Nat) (f : Cluster → Cluster) : (s.modCluster k f).warps = s.warps := rfl
@[simp] theorem State.modCluster_groups (s : State) (k : Nat) (f : Cluster → Cluster) : (s.modCluster k f).groups = s.groups := rfl
@[simp] theorem State.modCluster_grids (s : State) (k : Nat) (f : Cluster → Cluster) : (s.modCluster k f).grids = s.grids := rfl
@[simp] theorem State.modCluster_cores (s : State) (k : Nat) (f : Cluster → Cluster) : (s.modCluster k f).cores = s.cores := rfl
@[simp] theorem State.modCluster_dies (s : State) (k : Nat) (f : Cluster → Cluster) : (s.modCluster k f).dies = s.dies := rfl
@[simp] theorem State.modCluster_frames (s : State) (k : Nat) (f : Cluster → Cluster) : (s.modCluster k f).frames = s.frames := rfl
@[simp] theorem State.modCluster_rings (s : State) (k : Nat) (f : Cluster → Cluster) : (s.modCluster k f).rings = s.rings := rfl
@[simp] theorem State.modCluster_ports (s : State) (k : Nat) (f : Cluster → Cluster) : (s.modCluster k f).ports = s.ports := rfl
@[simp] theorem State.modCluster_links (s : State) (k : Nat) (f : Cluster → Cluster) : (s.modCluster k f).links = s.links := rfl
@[simp] theorem State.modCluster_routes (s : State) (k : Nat) (f : Cluster → Cluster) : (s.modCluster k f).routes = s.routes := rfl
@[simp] theorem State.modCluster_faults (s : State) (k : Nat) (f : Cluster → Cluster) : (s.modCluster k f).faults = s.faults := rfl
@[simp] theorem State.modCluster_worlds (s : State) (k : Nat) (f : Cluster → Cluster) : (s.modCluster k f).worlds = s.worlds := rfl
@[simp] theorem State.modCluster_versions (s : State) (k : Nat) (f : Cluster → Cluster) : (s.modCluster k f).versions = s.versions := rfl
@[simp] theorem State.modCluster_ranges (s : State) (k : Nat) (f : Cluster → Cluster) : (s.modCluster k f).ranges = s.ranges := rfl
@[simp] theorem State.modCluster_front (s : State) (k : Nat) (f : Cluster → Cluster) : (s.modCluster k f).front = s.front := rfl
@[simp] theorem State.modCluster_firm (s : State) (k : Nat) (f : Cluster → Cluster) : (s.modCluster k f).firm = s.firm := rfl
@[simp] theorem State.modCluster_mem (s : State) (k : Nat) (f : Cluster → Cluster) : (s.modCluster k f).mem = s.mem := rfl
@[simp] theorem State.modCluster_races (s : State) (k : Nat) (f : Cluster → Cluster) : (s.modCluster k f).races = s.races := rfl
@[simp] theorem State.modCluster_full (s : State) (k : Nat) (f : Cluster → Cluster) : (s.modCluster k f).full = s.full := rfl
@[simp] theorem State.modCluster_rels (s : State) (k : Nat) (f : Cluster → Cluster) : (s.modCluster k f).rels = s.rels := rfl
@[simp] theorem State.modCluster_agents (s : State) (k : Nat) (f : Cluster → Cluster) : (s.modCluster k f).agents = s.agents := rfl
@[simp] theorem State.modCluster_returning (s : State) (k : Nat) (f : Cluster → Cluster) : (s.modCluster k f).returning = s.returning := rfl
@[simp] theorem State.modCluster_cc (s : State) (k : Nat) (f : Cluster → Cluster) : (s.modCluster k f).cc = s.cc := rfl
@[simp] theorem State.modCluster_clock (s : State) (k : Nat) (f : Cluster → Cluster) : (s.modCluster k f).clock = s.clock := rfl
@[simp] theorem State.modCluster_part (s : State) (k : Nat) (f : Cluster → Cluster) : (s.modCluster k f).part = s.part := rfl
@[simp] theorem State.modCluster_unit (s : State) (k : Nat) (f : Cluster → Cluster) : (s.modCluster k f).unit = s.unit := rfl
@[simp] theorem State.modCluster_fresh (s : State) (k : Nat) (f : Cluster → Cluster) : (s.modCluster k f).fresh = s.fresh := rfl
@[simp] theorem State.modCluster_agenda (s : State) (k : Nat) (f : Cluster → Cluster) : (s.modCluster k f).agenda = s.agenda := rfl
@[simp] theorem State.modCluster_warp (s : State) (k : Nat) (f : Cluster → Cluster) (j : Nat) : (s.modCluster k f).warp j = s.warp j := rfl
@[simp] theorem State.modCluster_group (s : State) (k : Nat) (f : Cluster → Cluster) (j : Nat) : (s.modCluster k f).group j = s.group j := rfl
@[simp] theorem State.modCluster_grid (s : State) (k : Nat) (f : Cluster → Cluster) (j : Nat) : (s.modCluster k f).grid j = s.grid j := rfl
@[simp] theorem State.modCluster_core (s : State) (k : Nat) (f : Cluster → Cluster) (j : Nat) : (s.modCluster k f).core j = s.core j := rfl
@[simp] theorem State.modCluster_die (s : State) (k : Nat) (f : Cluster → Cluster) (j : Nat) : (s.modCluster k f).die j = s.die j := rfl
@[simp] theorem State.modCluster_ring (s : State) (k : Nat) (f : Cluster → Cluster) (j : Nat) : (s.modCluster k f).ring j = s.ring j := rfl
@[simp] theorem State.modCluster_port (s : State) (k : Nat) (f : Cluster → Cluster) (j : Nat) : (s.modCluster k f).port j = s.port j := rfl
@[simp] theorem State.modCluster_link (s : State) (k : Nat) (f : Cluster → Cluster) (j : Nat) : (s.modCluster k f).link j = s.link j := rfl
@[simp] theorem State.modCluster_frame (s : State) (k : Nat) (f : Cluster → Cluster) (j : Nat) : (s.modCluster k f).frame j = s.frame j := rfl

/-! ### modRing -/

@[simp] theorem State.modRing_issuer (s : State) (k : Nat) (f : Ring → Ring) : (s.modRing k f).issuer = s.issuer := rfl
@[simp] theorem State.modRing_cur (s : State) (k : Nat) (f : Ring → Ring) : (s.modRing k f).cur = s.cur := rfl
@[simp] theorem State.modRing_bundle (s : State) (k : Nat) (f : Ring → Ring) : (s.modRing k f).bundle = s.bundle := rfl
@[simp] theorem State.modRing_hints (s : State) (k : Nat) (f : Ring → Ring) : (s.modRing k f).hints = s.hints := rfl
@[simp] theorem State.modRing_inPacket (s : State) (k : Nat) (f : Ring → Ring) : (s.modRing k f).inPacket = s.inPacket := rfl
@[simp] theorem State.modRing_taken (s : State) (k : Nat) (f : Ring → Ring) : (s.modRing k f).taken = s.taken := rfl
@[simp] theorem State.modRing_acted (s : State) (k : Nat) (f : Ring → Ring) : (s.modRing k f).acted = s.acted := rfl
@[simp] theorem State.modRing_renamed (s : State) (k : Nat) (f : Ring → Ring) : (s.modRing k f).renamed = s.renamed := rfl
@[simp] theorem State.modRing_reads (s : State) (k : Nat) (f : Ring → Ring) : (s.modRing k f).reads = s.reads := rfl
@[simp] theorem State.modRing_stalled (s : State) (k : Nat) (f : Ring → Ring) : (s.modRing k f).stalled = s.stalled := rfl
@[simp] theorem State.modRing_start (s : State) (k : Nat) (f : Ring → Ring) : (s.modRing k f).start = s.start := rfl
@[simp] theorem State.modRing_startHints (s : State) (k : Nat) (f : Ring → Ring) : (s.modRing k f).startHints = s.startHints := rfl
@[simp] theorem State.modRing_startIssued (s : State) (k : Nat) (f : Ring → Ring) : (s.modRing k f).startIssued = s.startIssued := rfl
@[simp] theorem State.modRing_undone (s : State) (k : Nat) (f : Ring → Ring) : (s.modRing k f).undone = s.undone := rfl
@[simp] theorem State.modRing_counted (s : State) (k : Nat) (f : Ring → Ring) : (s.modRing k f).counted = s.counted := rfl
@[simp] theorem State.modRing_base (s : State) (k : Nat) (f : Ring → Ring) : (s.modRing k f).base = s.base := rfl
@[simp] theorem State.modRing_rivals (s : State) (k : Nat) (f : Ring → Ring) : (s.modRing k f).rivals = s.rivals := rfl
@[simp] theorem State.modRing_warps (s : State) (k : Nat) (f : Ring → Ring) : (s.modRing k f).warps = s.warps := rfl
@[simp] theorem State.modRing_groups (s : State) (k : Nat) (f : Ring → Ring) : (s.modRing k f).groups = s.groups := rfl
@[simp] theorem State.modRing_grids (s : State) (k : Nat) (f : Ring → Ring) : (s.modRing k f).grids = s.grids := rfl
@[simp] theorem State.modRing_cores (s : State) (k : Nat) (f : Ring → Ring) : (s.modRing k f).cores = s.cores := rfl
@[simp] theorem State.modRing_dies (s : State) (k : Nat) (f : Ring → Ring) : (s.modRing k f).dies = s.dies := rfl
@[simp] theorem State.modRing_frames (s : State) (k : Nat) (f : Ring → Ring) : (s.modRing k f).frames = s.frames := rfl
@[simp] theorem State.modRing_clusters (s : State) (k : Nat) (f : Ring → Ring) : (s.modRing k f).clusters = s.clusters := rfl
@[simp] theorem State.modRing_ports (s : State) (k : Nat) (f : Ring → Ring) : (s.modRing k f).ports = s.ports := rfl
@[simp] theorem State.modRing_links (s : State) (k : Nat) (f : Ring → Ring) : (s.modRing k f).links = s.links := rfl
@[simp] theorem State.modRing_routes (s : State) (k : Nat) (f : Ring → Ring) : (s.modRing k f).routes = s.routes := rfl
@[simp] theorem State.modRing_faults (s : State) (k : Nat) (f : Ring → Ring) : (s.modRing k f).faults = s.faults := rfl
@[simp] theorem State.modRing_worlds (s : State) (k : Nat) (f : Ring → Ring) : (s.modRing k f).worlds = s.worlds := rfl
@[simp] theorem State.modRing_versions (s : State) (k : Nat) (f : Ring → Ring) : (s.modRing k f).versions = s.versions := rfl
@[simp] theorem State.modRing_ranges (s : State) (k : Nat) (f : Ring → Ring) : (s.modRing k f).ranges = s.ranges := rfl
@[simp] theorem State.modRing_front (s : State) (k : Nat) (f : Ring → Ring) : (s.modRing k f).front = s.front := rfl
@[simp] theorem State.modRing_firm (s : State) (k : Nat) (f : Ring → Ring) : (s.modRing k f).firm = s.firm := rfl
@[simp] theorem State.modRing_mem (s : State) (k : Nat) (f : Ring → Ring) : (s.modRing k f).mem = s.mem := rfl
@[simp] theorem State.modRing_races (s : State) (k : Nat) (f : Ring → Ring) : (s.modRing k f).races = s.races := rfl
@[simp] theorem State.modRing_full (s : State) (k : Nat) (f : Ring → Ring) : (s.modRing k f).full = s.full := rfl
@[simp] theorem State.modRing_rels (s : State) (k : Nat) (f : Ring → Ring) : (s.modRing k f).rels = s.rels := rfl
@[simp] theorem State.modRing_agents (s : State) (k : Nat) (f : Ring → Ring) : (s.modRing k f).agents = s.agents := rfl
@[simp] theorem State.modRing_returning (s : State) (k : Nat) (f : Ring → Ring) : (s.modRing k f).returning = s.returning := rfl
@[simp] theorem State.modRing_cc (s : State) (k : Nat) (f : Ring → Ring) : (s.modRing k f).cc = s.cc := rfl
@[simp] theorem State.modRing_clock (s : State) (k : Nat) (f : Ring → Ring) : (s.modRing k f).clock = s.clock := rfl
@[simp] theorem State.modRing_part (s : State) (k : Nat) (f : Ring → Ring) : (s.modRing k f).part = s.part := rfl
@[simp] theorem State.modRing_unit (s : State) (k : Nat) (f : Ring → Ring) : (s.modRing k f).unit = s.unit := rfl
@[simp] theorem State.modRing_fresh (s : State) (k : Nat) (f : Ring → Ring) : (s.modRing k f).fresh = s.fresh := rfl
@[simp] theorem State.modRing_agenda (s : State) (k : Nat) (f : Ring → Ring) : (s.modRing k f).agenda = s.agenda := rfl
@[simp] theorem State.modRing_warp (s : State) (k : Nat) (f : Ring → Ring) (j : Nat) : (s.modRing k f).warp j = s.warp j := rfl
@[simp] theorem State.modRing_group (s : State) (k : Nat) (f : Ring → Ring) (j : Nat) : (s.modRing k f).group j = s.group j := rfl
@[simp] theorem State.modRing_grid (s : State) (k : Nat) (f : Ring → Ring) (j : Nat) : (s.modRing k f).grid j = s.grid j := rfl
@[simp] theorem State.modRing_core (s : State) (k : Nat) (f : Ring → Ring) (j : Nat) : (s.modRing k f).core j = s.core j := rfl
@[simp] theorem State.modRing_die (s : State) (k : Nat) (f : Ring → Ring) (j : Nat) : (s.modRing k f).die j = s.die j := rfl
@[simp] theorem State.modRing_cluster (s : State) (k : Nat) (f : Ring → Ring) (j : Nat) : (s.modRing k f).cluster j = s.cluster j := rfl
@[simp] theorem State.modRing_port (s : State) (k : Nat) (f : Ring → Ring) (j : Nat) : (s.modRing k f).port j = s.port j := rfl
@[simp] theorem State.modRing_link (s : State) (k : Nat) (f : Ring → Ring) (j : Nat) : (s.modRing k f).link j = s.link j := rfl
@[simp] theorem State.modRing_frame (s : State) (k : Nat) (f : Ring → Ring) (j : Nat) : (s.modRing k f).frame j = s.frame j := rfl

/-! ### modPort -/

@[simp] theorem State.modPort_issuer (s : State) (k : Nat) (f : Port → Port) : (s.modPort k f).issuer = s.issuer := rfl
@[simp] theorem State.modPort_cur (s : State) (k : Nat) (f : Port → Port) : (s.modPort k f).cur = s.cur := rfl
@[simp] theorem State.modPort_bundle (s : State) (k : Nat) (f : Port → Port) : (s.modPort k f).bundle = s.bundle := rfl
@[simp] theorem State.modPort_hints (s : State) (k : Nat) (f : Port → Port) : (s.modPort k f).hints = s.hints := rfl
@[simp] theorem State.modPort_inPacket (s : State) (k : Nat) (f : Port → Port) : (s.modPort k f).inPacket = s.inPacket := rfl
@[simp] theorem State.modPort_taken (s : State) (k : Nat) (f : Port → Port) : (s.modPort k f).taken = s.taken := rfl
@[simp] theorem State.modPort_acted (s : State) (k : Nat) (f : Port → Port) : (s.modPort k f).acted = s.acted := rfl
@[simp] theorem State.modPort_renamed (s : State) (k : Nat) (f : Port → Port) : (s.modPort k f).renamed = s.renamed := rfl
@[simp] theorem State.modPort_reads (s : State) (k : Nat) (f : Port → Port) : (s.modPort k f).reads = s.reads := rfl
@[simp] theorem State.modPort_stalled (s : State) (k : Nat) (f : Port → Port) : (s.modPort k f).stalled = s.stalled := rfl
@[simp] theorem State.modPort_start (s : State) (k : Nat) (f : Port → Port) : (s.modPort k f).start = s.start := rfl
@[simp] theorem State.modPort_startHints (s : State) (k : Nat) (f : Port → Port) : (s.modPort k f).startHints = s.startHints := rfl
@[simp] theorem State.modPort_startIssued (s : State) (k : Nat) (f : Port → Port) : (s.modPort k f).startIssued = s.startIssued := rfl
@[simp] theorem State.modPort_undone (s : State) (k : Nat) (f : Port → Port) : (s.modPort k f).undone = s.undone := rfl
@[simp] theorem State.modPort_counted (s : State) (k : Nat) (f : Port → Port) : (s.modPort k f).counted = s.counted := rfl
@[simp] theorem State.modPort_base (s : State) (k : Nat) (f : Port → Port) : (s.modPort k f).base = s.base := rfl
@[simp] theorem State.modPort_rivals (s : State) (k : Nat) (f : Port → Port) : (s.modPort k f).rivals = s.rivals := rfl
@[simp] theorem State.modPort_warps (s : State) (k : Nat) (f : Port → Port) : (s.modPort k f).warps = s.warps := rfl
@[simp] theorem State.modPort_groups (s : State) (k : Nat) (f : Port → Port) : (s.modPort k f).groups = s.groups := rfl
@[simp] theorem State.modPort_grids (s : State) (k : Nat) (f : Port → Port) : (s.modPort k f).grids = s.grids := rfl
@[simp] theorem State.modPort_cores (s : State) (k : Nat) (f : Port → Port) : (s.modPort k f).cores = s.cores := rfl
@[simp] theorem State.modPort_dies (s : State) (k : Nat) (f : Port → Port) : (s.modPort k f).dies = s.dies := rfl
@[simp] theorem State.modPort_frames (s : State) (k : Nat) (f : Port → Port) : (s.modPort k f).frames = s.frames := rfl
@[simp] theorem State.modPort_clusters (s : State) (k : Nat) (f : Port → Port) : (s.modPort k f).clusters = s.clusters := rfl
@[simp] theorem State.modPort_rings (s : State) (k : Nat) (f : Port → Port) : (s.modPort k f).rings = s.rings := rfl
@[simp] theorem State.modPort_links (s : State) (k : Nat) (f : Port → Port) : (s.modPort k f).links = s.links := rfl
@[simp] theorem State.modPort_routes (s : State) (k : Nat) (f : Port → Port) : (s.modPort k f).routes = s.routes := rfl
@[simp] theorem State.modPort_faults (s : State) (k : Nat) (f : Port → Port) : (s.modPort k f).faults = s.faults := rfl
@[simp] theorem State.modPort_worlds (s : State) (k : Nat) (f : Port → Port) : (s.modPort k f).worlds = s.worlds := rfl
@[simp] theorem State.modPort_versions (s : State) (k : Nat) (f : Port → Port) : (s.modPort k f).versions = s.versions := rfl
@[simp] theorem State.modPort_ranges (s : State) (k : Nat) (f : Port → Port) : (s.modPort k f).ranges = s.ranges := rfl
@[simp] theorem State.modPort_front (s : State) (k : Nat) (f : Port → Port) : (s.modPort k f).front = s.front := rfl
@[simp] theorem State.modPort_firm (s : State) (k : Nat) (f : Port → Port) : (s.modPort k f).firm = s.firm := rfl
@[simp] theorem State.modPort_mem (s : State) (k : Nat) (f : Port → Port) : (s.modPort k f).mem = s.mem := rfl
@[simp] theorem State.modPort_races (s : State) (k : Nat) (f : Port → Port) : (s.modPort k f).races = s.races := rfl
@[simp] theorem State.modPort_full (s : State) (k : Nat) (f : Port → Port) : (s.modPort k f).full = s.full := rfl
@[simp] theorem State.modPort_rels (s : State) (k : Nat) (f : Port → Port) : (s.modPort k f).rels = s.rels := rfl
@[simp] theorem State.modPort_agents (s : State) (k : Nat) (f : Port → Port) : (s.modPort k f).agents = s.agents := rfl
@[simp] theorem State.modPort_returning (s : State) (k : Nat) (f : Port → Port) : (s.modPort k f).returning = s.returning := rfl
@[simp] theorem State.modPort_cc (s : State) (k : Nat) (f : Port → Port) : (s.modPort k f).cc = s.cc := rfl
@[simp] theorem State.modPort_clock (s : State) (k : Nat) (f : Port → Port) : (s.modPort k f).clock = s.clock := rfl
@[simp] theorem State.modPort_part (s : State) (k : Nat) (f : Port → Port) : (s.modPort k f).part = s.part := rfl
@[simp] theorem State.modPort_unit (s : State) (k : Nat) (f : Port → Port) : (s.modPort k f).unit = s.unit := rfl
@[simp] theorem State.modPort_fresh (s : State) (k : Nat) (f : Port → Port) : (s.modPort k f).fresh = s.fresh := rfl
@[simp] theorem State.modPort_agenda (s : State) (k : Nat) (f : Port → Port) : (s.modPort k f).agenda = s.agenda := rfl
@[simp] theorem State.modPort_warp (s : State) (k : Nat) (f : Port → Port) (j : Nat) : (s.modPort k f).warp j = s.warp j := rfl
@[simp] theorem State.modPort_group (s : State) (k : Nat) (f : Port → Port) (j : Nat) : (s.modPort k f).group j = s.group j := rfl
@[simp] theorem State.modPort_grid (s : State) (k : Nat) (f : Port → Port) (j : Nat) : (s.modPort k f).grid j = s.grid j := rfl
@[simp] theorem State.modPort_core (s : State) (k : Nat) (f : Port → Port) (j : Nat) : (s.modPort k f).core j = s.core j := rfl
@[simp] theorem State.modPort_die (s : State) (k : Nat) (f : Port → Port) (j : Nat) : (s.modPort k f).die j = s.die j := rfl
@[simp] theorem State.modPort_cluster (s : State) (k : Nat) (f : Port → Port) (j : Nat) : (s.modPort k f).cluster j = s.cluster j := rfl
@[simp] theorem State.modPort_ring (s : State) (k : Nat) (f : Port → Port) (j : Nat) : (s.modPort k f).ring j = s.ring j := rfl
@[simp] theorem State.modPort_link (s : State) (k : Nat) (f : Port → Port) (j : Nat) : (s.modPort k f).link j = s.link j := rfl
@[simp] theorem State.modPort_frame (s : State) (k : Nat) (f : Port → Port) (j : Nat) : (s.modPort k f).frame j = s.frame j := rfl

/-! ### modLink -/

@[simp] theorem State.modLink_issuer (s : State) (k : Nat) (f : Link → Link) : (s.modLink k f).issuer = s.issuer := rfl
@[simp] theorem State.modLink_cur (s : State) (k : Nat) (f : Link → Link) : (s.modLink k f).cur = s.cur := rfl
@[simp] theorem State.modLink_bundle (s : State) (k : Nat) (f : Link → Link) : (s.modLink k f).bundle = s.bundle := rfl
@[simp] theorem State.modLink_hints (s : State) (k : Nat) (f : Link → Link) : (s.modLink k f).hints = s.hints := rfl
@[simp] theorem State.modLink_inPacket (s : State) (k : Nat) (f : Link → Link) : (s.modLink k f).inPacket = s.inPacket := rfl
@[simp] theorem State.modLink_taken (s : State) (k : Nat) (f : Link → Link) : (s.modLink k f).taken = s.taken := rfl
@[simp] theorem State.modLink_acted (s : State) (k : Nat) (f : Link → Link) : (s.modLink k f).acted = s.acted := rfl
@[simp] theorem State.modLink_renamed (s : State) (k : Nat) (f : Link → Link) : (s.modLink k f).renamed = s.renamed := rfl
@[simp] theorem State.modLink_reads (s : State) (k : Nat) (f : Link → Link) : (s.modLink k f).reads = s.reads := rfl
@[simp] theorem State.modLink_stalled (s : State) (k : Nat) (f : Link → Link) : (s.modLink k f).stalled = s.stalled := rfl
@[simp] theorem State.modLink_start (s : State) (k : Nat) (f : Link → Link) : (s.modLink k f).start = s.start := rfl
@[simp] theorem State.modLink_startHints (s : State) (k : Nat) (f : Link → Link) : (s.modLink k f).startHints = s.startHints := rfl
@[simp] theorem State.modLink_startIssued (s : State) (k : Nat) (f : Link → Link) : (s.modLink k f).startIssued = s.startIssued := rfl
@[simp] theorem State.modLink_undone (s : State) (k : Nat) (f : Link → Link) : (s.modLink k f).undone = s.undone := rfl
@[simp] theorem State.modLink_counted (s : State) (k : Nat) (f : Link → Link) : (s.modLink k f).counted = s.counted := rfl
@[simp] theorem State.modLink_base (s : State) (k : Nat) (f : Link → Link) : (s.modLink k f).base = s.base := rfl
@[simp] theorem State.modLink_rivals (s : State) (k : Nat) (f : Link → Link) : (s.modLink k f).rivals = s.rivals := rfl
@[simp] theorem State.modLink_warps (s : State) (k : Nat) (f : Link → Link) : (s.modLink k f).warps = s.warps := rfl
@[simp] theorem State.modLink_groups (s : State) (k : Nat) (f : Link → Link) : (s.modLink k f).groups = s.groups := rfl
@[simp] theorem State.modLink_grids (s : State) (k : Nat) (f : Link → Link) : (s.modLink k f).grids = s.grids := rfl
@[simp] theorem State.modLink_cores (s : State) (k : Nat) (f : Link → Link) : (s.modLink k f).cores = s.cores := rfl
@[simp] theorem State.modLink_dies (s : State) (k : Nat) (f : Link → Link) : (s.modLink k f).dies = s.dies := rfl
@[simp] theorem State.modLink_frames (s : State) (k : Nat) (f : Link → Link) : (s.modLink k f).frames = s.frames := rfl
@[simp] theorem State.modLink_clusters (s : State) (k : Nat) (f : Link → Link) : (s.modLink k f).clusters = s.clusters := rfl
@[simp] theorem State.modLink_rings (s : State) (k : Nat) (f : Link → Link) : (s.modLink k f).rings = s.rings := rfl
@[simp] theorem State.modLink_ports (s : State) (k : Nat) (f : Link → Link) : (s.modLink k f).ports = s.ports := rfl
@[simp] theorem State.modLink_routes (s : State) (k : Nat) (f : Link → Link) : (s.modLink k f).routes = s.routes := rfl
@[simp] theorem State.modLink_faults (s : State) (k : Nat) (f : Link → Link) : (s.modLink k f).faults = s.faults := rfl
@[simp] theorem State.modLink_worlds (s : State) (k : Nat) (f : Link → Link) : (s.modLink k f).worlds = s.worlds := rfl
@[simp] theorem State.modLink_versions (s : State) (k : Nat) (f : Link → Link) : (s.modLink k f).versions = s.versions := rfl
@[simp] theorem State.modLink_ranges (s : State) (k : Nat) (f : Link → Link) : (s.modLink k f).ranges = s.ranges := rfl
@[simp] theorem State.modLink_front (s : State) (k : Nat) (f : Link → Link) : (s.modLink k f).front = s.front := rfl
@[simp] theorem State.modLink_firm (s : State) (k : Nat) (f : Link → Link) : (s.modLink k f).firm = s.firm := rfl
@[simp] theorem State.modLink_mem (s : State) (k : Nat) (f : Link → Link) : (s.modLink k f).mem = s.mem := rfl
@[simp] theorem State.modLink_races (s : State) (k : Nat) (f : Link → Link) : (s.modLink k f).races = s.races := rfl
@[simp] theorem State.modLink_full (s : State) (k : Nat) (f : Link → Link) : (s.modLink k f).full = s.full := rfl
@[simp] theorem State.modLink_rels (s : State) (k : Nat) (f : Link → Link) : (s.modLink k f).rels = s.rels := rfl
@[simp] theorem State.modLink_agents (s : State) (k : Nat) (f : Link → Link) : (s.modLink k f).agents = s.agents := rfl
@[simp] theorem State.modLink_returning (s : State) (k : Nat) (f : Link → Link) : (s.modLink k f).returning = s.returning := rfl
@[simp] theorem State.modLink_cc (s : State) (k : Nat) (f : Link → Link) : (s.modLink k f).cc = s.cc := rfl
@[simp] theorem State.modLink_clock (s : State) (k : Nat) (f : Link → Link) : (s.modLink k f).clock = s.clock := rfl
@[simp] theorem State.modLink_part (s : State) (k : Nat) (f : Link → Link) : (s.modLink k f).part = s.part := rfl
@[simp] theorem State.modLink_unit (s : State) (k : Nat) (f : Link → Link) : (s.modLink k f).unit = s.unit := rfl
@[simp] theorem State.modLink_fresh (s : State) (k : Nat) (f : Link → Link) : (s.modLink k f).fresh = s.fresh := rfl
@[simp] theorem State.modLink_agenda (s : State) (k : Nat) (f : Link → Link) : (s.modLink k f).agenda = s.agenda := rfl
@[simp] theorem State.modLink_warp (s : State) (k : Nat) (f : Link → Link) (j : Nat) : (s.modLink k f).warp j = s.warp j := rfl
@[simp] theorem State.modLink_group (s : State) (k : Nat) (f : Link → Link) (j : Nat) : (s.modLink k f).group j = s.group j := rfl
@[simp] theorem State.modLink_grid (s : State) (k : Nat) (f : Link → Link) (j : Nat) : (s.modLink k f).grid j = s.grid j := rfl
@[simp] theorem State.modLink_core (s : State) (k : Nat) (f : Link → Link) (j : Nat) : (s.modLink k f).core j = s.core j := rfl
@[simp] theorem State.modLink_die (s : State) (k : Nat) (f : Link → Link) (j : Nat) : (s.modLink k f).die j = s.die j := rfl
@[simp] theorem State.modLink_cluster (s : State) (k : Nat) (f : Link → Link) (j : Nat) : (s.modLink k f).cluster j = s.cluster j := rfl
@[simp] theorem State.modLink_ring (s : State) (k : Nat) (f : Link → Link) (j : Nat) : (s.modLink k f).ring j = s.ring j := rfl
@[simp] theorem State.modLink_port (s : State) (k : Nat) (f : Link → Link) (j : Nat) : (s.modLink k f).port j = s.port j := rfl
@[simp] theorem State.modLink_frame (s : State) (k : Nat) (f : Link → Link) (j : Nat) : (s.modLink k f).frame j = s.frame j := rfl

/-! ### modFrame -/

@[simp] theorem State.modFrame_issuer (s : State) (k : Nat) (f : Frames → Frames) : (s.modFrame k f).issuer = s.issuer := rfl
@[simp] theorem State.modFrame_cur (s : State) (k : Nat) (f : Frames → Frames) : (s.modFrame k f).cur = s.cur := rfl
@[simp] theorem State.modFrame_bundle (s : State) (k : Nat) (f : Frames → Frames) : (s.modFrame k f).bundle = s.bundle := rfl
@[simp] theorem State.modFrame_hints (s : State) (k : Nat) (f : Frames → Frames) : (s.modFrame k f).hints = s.hints := rfl
@[simp] theorem State.modFrame_inPacket (s : State) (k : Nat) (f : Frames → Frames) : (s.modFrame k f).inPacket = s.inPacket := rfl
@[simp] theorem State.modFrame_taken (s : State) (k : Nat) (f : Frames → Frames) : (s.modFrame k f).taken = s.taken := rfl
@[simp] theorem State.modFrame_acted (s : State) (k : Nat) (f : Frames → Frames) : (s.modFrame k f).acted = s.acted := rfl
@[simp] theorem State.modFrame_renamed (s : State) (k : Nat) (f : Frames → Frames) : (s.modFrame k f).renamed = s.renamed := rfl
@[simp] theorem State.modFrame_reads (s : State) (k : Nat) (f : Frames → Frames) : (s.modFrame k f).reads = s.reads := rfl
@[simp] theorem State.modFrame_stalled (s : State) (k : Nat) (f : Frames → Frames) : (s.modFrame k f).stalled = s.stalled := rfl
@[simp] theorem State.modFrame_start (s : State) (k : Nat) (f : Frames → Frames) : (s.modFrame k f).start = s.start := rfl
@[simp] theorem State.modFrame_startHints (s : State) (k : Nat) (f : Frames → Frames) : (s.modFrame k f).startHints = s.startHints := rfl
@[simp] theorem State.modFrame_startIssued (s : State) (k : Nat) (f : Frames → Frames) : (s.modFrame k f).startIssued = s.startIssued := rfl
@[simp] theorem State.modFrame_undone (s : State) (k : Nat) (f : Frames → Frames) : (s.modFrame k f).undone = s.undone := rfl
@[simp] theorem State.modFrame_counted (s : State) (k : Nat) (f : Frames → Frames) : (s.modFrame k f).counted = s.counted := rfl
@[simp] theorem State.modFrame_base (s : State) (k : Nat) (f : Frames → Frames) : (s.modFrame k f).base = s.base := rfl
@[simp] theorem State.modFrame_rivals (s : State) (k : Nat) (f : Frames → Frames) : (s.modFrame k f).rivals = s.rivals := rfl
@[simp] theorem State.modFrame_warps (s : State) (k : Nat) (f : Frames → Frames) : (s.modFrame k f).warps = s.warps := rfl
@[simp] theorem State.modFrame_groups (s : State) (k : Nat) (f : Frames → Frames) : (s.modFrame k f).groups = s.groups := rfl
@[simp] theorem State.modFrame_grids (s : State) (k : Nat) (f : Frames → Frames) : (s.modFrame k f).grids = s.grids := rfl
@[simp] theorem State.modFrame_cores (s : State) (k : Nat) (f : Frames → Frames) : (s.modFrame k f).cores = s.cores := rfl
@[simp] theorem State.modFrame_dies (s : State) (k : Nat) (f : Frames → Frames) : (s.modFrame k f).dies = s.dies := rfl
@[simp] theorem State.modFrame_clusters (s : State) (k : Nat) (f : Frames → Frames) : (s.modFrame k f).clusters = s.clusters := rfl
@[simp] theorem State.modFrame_rings (s : State) (k : Nat) (f : Frames → Frames) : (s.modFrame k f).rings = s.rings := rfl
@[simp] theorem State.modFrame_ports (s : State) (k : Nat) (f : Frames → Frames) : (s.modFrame k f).ports = s.ports := rfl
@[simp] theorem State.modFrame_links (s : State) (k : Nat) (f : Frames → Frames) : (s.modFrame k f).links = s.links := rfl
@[simp] theorem State.modFrame_routes (s : State) (k : Nat) (f : Frames → Frames) : (s.modFrame k f).routes = s.routes := rfl
@[simp] theorem State.modFrame_faults (s : State) (k : Nat) (f : Frames → Frames) : (s.modFrame k f).faults = s.faults := rfl
@[simp] theorem State.modFrame_worlds (s : State) (k : Nat) (f : Frames → Frames) : (s.modFrame k f).worlds = s.worlds := rfl
@[simp] theorem State.modFrame_versions (s : State) (k : Nat) (f : Frames → Frames) : (s.modFrame k f).versions = s.versions := rfl
@[simp] theorem State.modFrame_ranges (s : State) (k : Nat) (f : Frames → Frames) : (s.modFrame k f).ranges = s.ranges := rfl
@[simp] theorem State.modFrame_front (s : State) (k : Nat) (f : Frames → Frames) : (s.modFrame k f).front = s.front := rfl
@[simp] theorem State.modFrame_firm (s : State) (k : Nat) (f : Frames → Frames) : (s.modFrame k f).firm = s.firm := rfl
@[simp] theorem State.modFrame_mem (s : State) (k : Nat) (f : Frames → Frames) : (s.modFrame k f).mem = s.mem := rfl
@[simp] theorem State.modFrame_races (s : State) (k : Nat) (f : Frames → Frames) : (s.modFrame k f).races = s.races := rfl
@[simp] theorem State.modFrame_full (s : State) (k : Nat) (f : Frames → Frames) : (s.modFrame k f).full = s.full := rfl
@[simp] theorem State.modFrame_rels (s : State) (k : Nat) (f : Frames → Frames) : (s.modFrame k f).rels = s.rels := rfl
@[simp] theorem State.modFrame_agents (s : State) (k : Nat) (f : Frames → Frames) : (s.modFrame k f).agents = s.agents := rfl
@[simp] theorem State.modFrame_returning (s : State) (k : Nat) (f : Frames → Frames) : (s.modFrame k f).returning = s.returning := rfl
@[simp] theorem State.modFrame_cc (s : State) (k : Nat) (f : Frames → Frames) : (s.modFrame k f).cc = s.cc := rfl
@[simp] theorem State.modFrame_clock (s : State) (k : Nat) (f : Frames → Frames) : (s.modFrame k f).clock = s.clock := rfl
@[simp] theorem State.modFrame_part (s : State) (k : Nat) (f : Frames → Frames) : (s.modFrame k f).part = s.part := rfl
@[simp] theorem State.modFrame_unit (s : State) (k : Nat) (f : Frames → Frames) : (s.modFrame k f).unit = s.unit := rfl
@[simp] theorem State.modFrame_fresh (s : State) (k : Nat) (f : Frames → Frames) : (s.modFrame k f).fresh = s.fresh := rfl
@[simp] theorem State.modFrame_agenda (s : State) (k : Nat) (f : Frames → Frames) : (s.modFrame k f).agenda = s.agenda := rfl
@[simp] theorem State.modFrame_warp (s : State) (k : Nat) (f : Frames → Frames) (j : Nat) : (s.modFrame k f).warp j = s.warp j := rfl
@[simp] theorem State.modFrame_group (s : State) (k : Nat) (f : Frames → Frames) (j : Nat) : (s.modFrame k f).group j = s.group j := rfl
@[simp] theorem State.modFrame_grid (s : State) (k : Nat) (f : Frames → Frames) (j : Nat) : (s.modFrame k f).grid j = s.grid j := rfl
@[simp] theorem State.modFrame_core (s : State) (k : Nat) (f : Frames → Frames) (j : Nat) : (s.modFrame k f).core j = s.core j := rfl
@[simp] theorem State.modFrame_die (s : State) (k : Nat) (f : Frames → Frames) (j : Nat) : (s.modFrame k f).die j = s.die j := rfl
@[simp] theorem State.modFrame_cluster (s : State) (k : Nat) (f : Frames → Frames) (j : Nat) : (s.modFrame k f).cluster j = s.cluster j := rfl
@[simp] theorem State.modFrame_ring (s : State) (k : Nat) (f : Frames → Frames) (j : Nat) : (s.modFrame k f).ring j = s.ring j := rfl
@[simp] theorem State.modFrame_port (s : State) (k : Nat) (f : Frames → Frames) (j : Nat) : (s.modFrame k f).port j = s.port j := rfl
@[simp] theorem State.modFrame_link (s : State) (k : Nat) (f : Frames → Frames) (j : Nat) : (s.modFrame k f).link j = s.link j := rfl

/-! ### The unit that was set -/

@[simp] theorem State.setWarp_warp_same (s : State) (k : Nat) (w : Warp) : (s.setWarp k w).warp k = w := by
  simp [State.warp, State.setWarp]
theorem State.setWarp_warp_ne (s : State) {j k : Nat} (w : Warp) (h : j ≠ k) : (s.setWarp k w).warp j = s.warp j := by
  simp [State.warp, State.setWarp, mapGet_put_ne _ _ _ h]
@[simp] theorem State.setWarp_setWarp_twice (s : State) (k : Nat) (w : Warp) (w' : Warp) : (s.setWarp k w).setWarp k w' = s.setWarp k w' := by
  simp [State.setWarp]
@[simp] theorem State.setGroup_group_same (s : State) (k : Nat) (g : Group) : (s.setGroup k g).group k = g := by
  simp [State.group, State.setGroup]
theorem State.setGroup_group_ne (s : State) {j k : Nat} (g : Group) (h : j ≠ k) : (s.setGroup k g).group j = s.group j := by
  simp [State.group, State.setGroup, mapGet_put_ne _ _ _ h]
@[simp] theorem State.setGroup_setGroup_twice (s : State) (k : Nat) (g : Group) (g' : Group) : (s.setGroup k g).setGroup k g' = s.setGroup k g' := by
  simp [State.setGroup]
@[simp] theorem State.setGrid_grid_same (s : State) (k : Nat) (g : Grid) : (s.setGrid k g).grid k = g := by
  simp [State.grid, State.setGrid]
theorem State.setGrid_grid_ne (s : State) {j k : Nat} (g : Grid) (h : j ≠ k) : (s.setGrid k g).grid j = s.grid j := by
  simp [State.grid, State.setGrid, mapGet_put_ne _ _ _ h]
@[simp] theorem State.setGrid_setGrid_twice (s : State) (k : Nat) (g : Grid) (g' : Grid) : (s.setGrid k g).setGrid k g' = s.setGrid k g' := by
  simp [State.setGrid]
@[simp] theorem State.modCore_core_same (s : State) (k : Nat) (f : Core → Core) : (s.modCore k f).core k = f (s.core k) := by
  simp [State.core, State.modCore]
theorem State.modCore_core_ne (s : State) {j k : Nat} (f : Core → Core) (h : j ≠ k) : (s.modCore k f).core j = s.core j := by
  simp [State.core, State.modCore, mapGet_put_ne _ _ _ h]
@[simp] theorem State.modDie_die_same (s : State) (k : Nat) (f : Die → Die) : (s.modDie k f).die k = f (s.die k) := by
  simp [State.die, State.modDie]
theorem State.modDie_die_ne (s : State) {j k : Nat} (f : Die → Die) (h : j ≠ k) : (s.modDie k f).die j = s.die j := by
  simp [State.die, State.modDie, mapGet_put_ne _ _ _ h]
@[simp] theorem State.modCluster_cluster_same (s : State) (k : Nat) (f : Cluster → Cluster) : (s.modCluster k f).cluster k = f (s.cluster k) := by
  simp [State.cluster, State.modCluster]
theorem State.modCluster_cluster_ne (s : State) {j k : Nat} (f : Cluster → Cluster) (h : j ≠ k) : (s.modCluster k f).cluster j = s.cluster j := by
  simp [State.cluster, State.modCluster, mapGet_put_ne _ _ _ h]
@[simp] theorem State.modRing_ring_same (s : State) (k : Nat) (f : Ring → Ring) : (s.modRing k f).ring k = f (s.ring k) := by
  simp [State.ring, State.modRing]
theorem State.modRing_ring_ne (s : State) {j k : Nat} (f : Ring → Ring) (h : j ≠ k) : (s.modRing k f).ring j = s.ring j := by
  simp [State.ring, State.modRing, mapGet_put_ne _ _ _ h]
@[simp] theorem State.modPort_port_same (s : State) (k : Nat) (f : Port → Port) : (s.modPort k f).port k = f (s.port k) := by
  simp [State.port, State.modPort]
theorem State.modPort_port_ne (s : State) {j k : Nat} (f : Port → Port) (h : j ≠ k) : (s.modPort k f).port j = s.port j := by
  simp [State.port, State.modPort, mapGet_put_ne _ _ _ h]
@[simp] theorem State.modLink_link_same (s : State) (k : Nat) (f : Link → Link) : (s.modLink k f).link k = f (s.link k) := by
  simp [State.link, State.modLink]
theorem State.modLink_link_ne (s : State) {j k : Nat} (f : Link → Link) (h : j ≠ k) : (s.modLink k f).link j = s.link j := by
  simp [State.link, State.modLink, mapGet_put_ne _ _ _ h]
@[simp] theorem State.modFrame_frame_same (s : State) (k : Nat) (f : Frames → Frames) : (s.modFrame k f).frame k = f (s.frame k) := by
  simp [State.frame, State.modFrame]
theorem State.modFrame_frame_ne (s : State) {j k : Nat} (f : Frames → Frames) (h : j ≠ k) : (s.modFrame k f).frame j = s.frame j := by
  simp [State.frame, State.modFrame, mapGet_put_ne _ _ _ h]

/-! ### The issuing warp -/

@[simp] theorem State.setMe_me (s : State) (w : Warp) : (s.setMe w).me = w := by
  simp [State.me, State.setMe]
@[simp] theorem State.setMe_twice (s : State) (w w' : Warp) : (s.setMe w).setMe w' = s.setMe w' := by
  simp [State.setMe]
@[simp] theorem State.setMe_warp (s : State) (w : Warp) : (s.setMe w).warp s.cur = w := by simp [State.setMe]
/-- The issuing warp's change leaves the other warps. -/
theorem State.setMe_warp_ne (s : State) (w : Warp) {j : Nat} (h : j ≠ s.cur) : (s.setMe w).warp j = s.warp j :=
  State.setWarp_warp_ne s w h

@[simp] theorem State.setMe_issuer (s : State) (w : Warp) : (s.setMe w).issuer = s.issuer := rfl
@[simp] theorem State.setMe_cur (s : State) (w : Warp) : (s.setMe w).cur = s.cur := rfl
@[simp] theorem State.setMe_bundle (s : State) (w : Warp) : (s.setMe w).bundle = s.bundle := rfl
@[simp] theorem State.setMe_hints (s : State) (w : Warp) : (s.setMe w).hints = s.hints := rfl
@[simp] theorem State.setMe_inPacket (s : State) (w : Warp) : (s.setMe w).inPacket = s.inPacket := rfl
@[simp] theorem State.setMe_taken (s : State) (w : Warp) : (s.setMe w).taken = s.taken := rfl
@[simp] theorem State.setMe_acted (s : State) (w : Warp) : (s.setMe w).acted = s.acted := rfl
@[simp] theorem State.setMe_renamed (s : State) (w : Warp) : (s.setMe w).renamed = s.renamed := rfl
@[simp] theorem State.setMe_reads (s : State) (w : Warp) : (s.setMe w).reads = s.reads := rfl
@[simp] theorem State.setMe_stalled (s : State) (w : Warp) : (s.setMe w).stalled = s.stalled := rfl
@[simp] theorem State.setMe_start (s : State) (w : Warp) : (s.setMe w).start = s.start := rfl
@[simp] theorem State.setMe_startHints (s : State) (w : Warp) : (s.setMe w).startHints = s.startHints := rfl
@[simp] theorem State.setMe_startIssued (s : State) (w : Warp) : (s.setMe w).startIssued = s.startIssued := rfl
@[simp] theorem State.setMe_undone (s : State) (w : Warp) : (s.setMe w).undone = s.undone := rfl
@[simp] theorem State.setMe_counted (s : State) (w : Warp) : (s.setMe w).counted = s.counted := rfl
@[simp] theorem State.setMe_base (s : State) (w : Warp) : (s.setMe w).base = s.base := rfl
@[simp] theorem State.setMe_rivals (s : State) (w : Warp) : (s.setMe w).rivals = s.rivals := rfl
@[simp] theorem State.setMe_groups (s : State) (w : Warp) : (s.setMe w).groups = s.groups := rfl
@[simp] theorem State.setMe_grids (s : State) (w : Warp) : (s.setMe w).grids = s.grids := rfl
@[simp] theorem State.setMe_cores (s : State) (w : Warp) : (s.setMe w).cores = s.cores := rfl
@[simp] theorem State.setMe_dies (s : State) (w : Warp) : (s.setMe w).dies = s.dies := rfl
@[simp] theorem State.setMe_frames (s : State) (w : Warp) : (s.setMe w).frames = s.frames := rfl
@[simp] theorem State.setMe_clusters (s : State) (w : Warp) : (s.setMe w).clusters = s.clusters := rfl
@[simp] theorem State.setMe_rings (s : State) (w : Warp) : (s.setMe w).rings = s.rings := rfl
@[simp] theorem State.setMe_ports (s : State) (w : Warp) : (s.setMe w).ports = s.ports := rfl
@[simp] theorem State.setMe_links (s : State) (w : Warp) : (s.setMe w).links = s.links := rfl
@[simp] theorem State.setMe_routes (s : State) (w : Warp) : (s.setMe w).routes = s.routes := rfl
@[simp] theorem State.setMe_faults (s : State) (w : Warp) : (s.setMe w).faults = s.faults := rfl
@[simp] theorem State.setMe_worlds (s : State) (w : Warp) : (s.setMe w).worlds = s.worlds := rfl
@[simp] theorem State.setMe_versions (s : State) (w : Warp) : (s.setMe w).versions = s.versions := rfl
@[simp] theorem State.setMe_ranges (s : State) (w : Warp) : (s.setMe w).ranges = s.ranges := rfl
@[simp] theorem State.setMe_front (s : State) (w : Warp) : (s.setMe w).front = s.front := rfl
@[simp] theorem State.setMe_firm (s : State) (w : Warp) : (s.setMe w).firm = s.firm := rfl
@[simp] theorem State.setMe_mem (s : State) (w : Warp) : (s.setMe w).mem = s.mem := rfl
@[simp] theorem State.setMe_races (s : State) (w : Warp) : (s.setMe w).races = s.races := rfl
@[simp] theorem State.setMe_full (s : State) (w : Warp) : (s.setMe w).full = s.full := rfl
@[simp] theorem State.setMe_rels (s : State) (w : Warp) : (s.setMe w).rels = s.rels := rfl
@[simp] theorem State.setMe_agents (s : State) (w : Warp) : (s.setMe w).agents = s.agents := rfl
@[simp] theorem State.setMe_returning (s : State) (w : Warp) : (s.setMe w).returning = s.returning := rfl
@[simp] theorem State.setMe_cc (s : State) (w : Warp) : (s.setMe w).cc = s.cc := rfl
@[simp] theorem State.setMe_clock (s : State) (w : Warp) : (s.setMe w).clock = s.clock := rfl
@[simp] theorem State.setMe_part (s : State) (w : Warp) : (s.setMe w).part = s.part := rfl
@[simp] theorem State.setMe_unit (s : State) (w : Warp) : (s.setMe w).unit = s.unit := rfl
@[simp] theorem State.setMe_fresh (s : State) (w : Warp) : (s.setMe w).fresh = s.fresh := rfl
@[simp] theorem State.setMe_agenda (s : State) (w : Warp) : (s.setMe w).agenda = s.agenda := rfl
@[simp] theorem State.setMe_group (s : State) (w : Warp) (j : Nat) : (s.setMe w).group j = s.group j := rfl
@[simp] theorem State.setMe_grid (s : State) (w : Warp) (j : Nat) : (s.setMe w).grid j = s.grid j := rfl
@[simp] theorem State.setMe_core (s : State) (w : Warp) (j : Nat) : (s.setMe w).core j = s.core j := rfl
@[simp] theorem State.setMe_die (s : State) (w : Warp) (j : Nat) : (s.setMe w).die j = s.die j := rfl
@[simp] theorem State.setMe_cluster (s : State) (w : Warp) (j : Nat) : (s.setMe w).cluster j = s.cluster j := rfl
@[simp] theorem State.setMe_ring (s : State) (w : Warp) (j : Nat) : (s.setMe w).ring j = s.ring j := rfl
@[simp] theorem State.setMe_port (s : State) (w : Warp) (j : Nat) : (s.setMe w).port j = s.port j := rfl
@[simp] theorem State.setMe_link (s : State) (w : Warp) (j : Nat) : (s.setMe w).link j = s.link j := rfl
@[simp] theorem State.setMe_frame (s : State) (w : Warp) (j : Nat) : (s.setMe w).frame j = s.frame j := rfl

/-! ### Registers, masks and s-registers -/

/-- A register just set. -/
@[simp] theorem Warp.setReg_same (w : Warp) (n : Nat) (r : VReg) (h : n < 40) : (w.setReg n r).reg n = r := by
  unfold Warp.setReg Warp.reg
  by_cases h1 : n < 32
  · simp [h1]
  · have h2 : n - 32 < 8 := by omega
    simp [h1, h2]

/-- The other registers keep their values. -/
theorem Warp.setReg_ne (w : Warp) {n j : Nat} (r : VReg) (h : j ≠ n) : (w.setReg n r).reg j = w.reg j := by
  unfold Warp.setReg Warp.reg
  by_cases h1 : n < 32
  · have h3 : n ≠ j := Ne.symm h
    simp [h1, h3]
  · by_cases h2 : n - 32 < 8
    · simp only [h1, h2, dite_false, dite_true]
      by_cases h4 : j < 32
      · simp [h4]
      · by_cases h5 : j - 32 < 8
        · have h3 : n - 32 ≠ j - 32 := by omega
          simp [h4, h5, h3]
        · simp [h4, h5]
    · simp [h1, h2]

/-- m0 reads all ones, whatever is written (R18). -/
theorem Warp.mask_zero (w : Warp) : w.mask 0 = ~~~0#32 := by simp [Warp.mask]

/-- A mask register just set. -/
theorem Warp.setMask_same (w : Warp) (n : Nat) (x : Mask) (h : 0 < n) (h' : n < 16) : (w.setMask n x).mask n = x := by
  simp [Warp.setMask, Warp.mask, h, h']

theorem Warp.setMask_ne (w : Warp) {n j : Nat} (x : Mask) (h : j ≠ n) : (w.setMask n x).mask j = w.mask j := by
  unfold Warp.setMask Warp.mask
  have h2 : n ≠ j := Ne.symm h
  by_cases h0 : 0 < n ∧ n < 16
  · by_cases h1 : 0 < j ∧ j < 16
    · simp [h0, h1, h2]
    · simp [h1]
  · simp [h0]

/-- A write to m0 is ignored (R18). -/
theorem Warp.setMask_zero (w : Warp) (x : Mask) : w.setMask 0 x = w := by simp [Warp.setMask]

/-- s0 reads zero (R18). -/
theorem Group.sreg_zero (g : Group) : g.sreg 0 = 0#64 := by simp [Group.sreg]

theorem Group.setSreg_same (g : Group) (n : Nat) (x : DWord) (h : 0 < n) (h' : n < 128) : (g.setSreg n x).sreg n = x := by
  simp [Group.setSreg, Group.sreg, h, h']

theorem Group.setSreg_ne (g : Group) {n j : Nat} (x : DWord) (h : j ≠ n) : (g.setSreg n x).sreg j = g.sreg j := by
  unfold Group.setSreg Group.sreg
  have h2 : n ≠ j := Ne.symm h
  by_cases h0 : 0 < n ∧ n < 128
  · by_cases h1 : 0 < j ∧ j < 128
    · simp [h0, h1, h2]
    · simp [h1]
  · simp [h0]

/-- A write to s0 is ignored (R18). -/
theorem Group.setSreg_zero (g : Group) (x : DWord) : g.setSreg 0 x = g := by simp [Group.setSreg]

end Sys2Proof.Machine
end

