-- ==== Sys2Proof/Laws/Regs.lean ====
section
/-! SUPPORT. What a register write does (R21, R25), what an issued instruction does once its checks pass (R43), and what a
step past the word changes. -/

namespace Sys2Proof.Machine

/-! ### Entries -/

/-- An entry stored as general for want of room reads the same (R29). -/
@[simp] theorem Entry.fit_at (n : Nat) (e : Entry) (i : Lane) : (e.fit n).at i = e.at i := by
  unfold Entry.fit
  split
  · rfl
  · exact perLane_at _ i

/-- A lane of an entry built from lane values, when a uniform one has the same value in lane 0. -/
theorem entryOf_at (u : Bool) (f : Lane → Word) (i : Lane) (h : u = true → f 0 = f i) : (entryOf u f).at i = f i := by
  unfold entryOf
  split
  · next e => exact h e
  · exact perLane_at f i

/-- A uniform entry has one value. -/
theorem Entry.at_uniform {e : Entry} (h : (e.shape == 0#2) = true) (i j : Lane) : e.at i = e.at j := by
  cases e with
  | uniform b => rfl
  | affine b d => simp [Entry.shape] at h
  | general l => simp [Entry.shape] at h

@[simp] theorem Entry.map1_at (f : Word → Word) (a : Entry) (i : Lane) : (a.map1 f).at i = f (a.at i) :=
  entryOf_at _ _ _ (fun h => by rw [Entry.at_uniform h 0 i])

@[simp] theorem Entry.map2_at (f : Word → Word → Word) (a b : Entry) (i : Lane) :
    (Entry.map2 f a b).at i = f (a.at i) (b.at i) :=
  entryOf_at _ _ _ (fun h => by
    simp only [Bool.and_eq_true] at h
    rw [Entry.at_uniform h.1 0 i, Entry.at_uniform h.2 0 i])

@[simp] theorem Entry.map3_at (f : Word → Word → Word → Word) (a b c : Entry) (i : Lane) :
    (Entry.map3 f a b c).at i = f (a.at i) (b.at i) (c.at i) :=
  entryOf_at _ _ _ (fun h => by
    simp only [Bool.and_eq_true] at h
    rw [Entry.at_uniform h.1.1 0 i, Entry.at_uniform h.1.2 0 i, Entry.at_uniform h.2 0 i])

@[simp] theorem Entry.uniform_at (b : Word) (i : Lane) : (Entry.uniform b).at i = b := rfl
@[simp] theorem Entry.affine_at (b d : Word) (i : Lane) : (Entry.affine b d).at i = b + BitVec.ofNat 32 i.val * d := rfl
@[simp] theorem Entry.general_at (l : Lanes Word) (i : Lane) : (Entry.general l).at i = Lanes.at l i := rfl

/-- The sum of affine entries is the sum in every lane (R21). -/
theorem Entry.add_at (a b : Entry) (i : Lane) : (Entry.add a b).at i = a.at i + b.at i := by
  have g : (Entry.map2 (· + ·) a b).at i = a.at i + b.at i := Entry.map2_at _ a b i
  cases a with
  | uniform u =>
    cases b with
    | affine c d => simp only [Entry.add, Entry.uniform_at, Entry.affine_at, BitVec.add_assoc]
    | uniform v => exact g
    | general l => exact g
  | affine c d =>
    cases b with
    | uniform u =>
      simp only [Entry.add, Entry.uniform_at, Entry.affine_at, BitVec.add_assoc]
      rw [BitVec.add_comm u]
    | affine _ _ => exact g
    | general l => exact g
  | general l => cases b <;> exact g

theorem Entry.sub_at (a b : Entry) (i : Lane) : (Entry.sub a b).at i = a.at i - b.at i := by
  have g : (Entry.map2 (· - ·) a b).at i = a.at i - b.at i := Entry.map2_at _ a b i
  cases a with
  | uniform u =>
    cases b with
    | affine c d =>
      simp only [Entry.sub, Entry.uniform_at, Entry.affine_at, BitVec.zero_sub, BitVec.mul_neg]
      simp only [BitVec.sub_eq_add_neg, BitVec.neg_add, BitVec.add_assoc]
    | uniform v => exact g
    | general l => exact g
  | affine c d =>
    cases b with
    | uniform u =>
      simp only [Entry.sub, Entry.uniform_at, Entry.affine_at, BitVec.sub_eq_add_neg, BitVec.add_assoc]
      rw [BitVec.add_comm (-u)]
    | affine _ _ => exact g
    | general l => exact g
  | general l => cases b <;> exact g

theorem Entry.mul_at (a b : Entry) (i : Lane) : (Entry.mul a b).at i = a.at i * b.at i := by
  have g : (Entry.map2 (· * ·) a b).at i = a.at i * b.at i := Entry.map2_at _ a b i
  cases a with
  | uniform u =>
    cases b with
    | affine c d =>
      simp only [Entry.mul, Entry.uniform_at, Entry.affine_at, BitVec.mul_add]
      rw [← BitVec.mul_assoc, ← BitVec.mul_assoc, BitVec.mul_comm u (BitVec.ofNat 32 i.val)]
    | uniform v => exact g
    | general l => exact g
  | affine c d =>
    cases b with
    | uniform u => simp only [Entry.mul, Entry.uniform_at, Entry.affine_at, BitVec.add_mul, BitVec.mul_assoc]
    | affine _ _ => exact g
    | general l => exact g
  | general l => cases b <;> exact g

/-- A product and a sum are those of every lane (R99). -/
theorem Entry.mad_at (a b c : Entry) (i : Lane) : (Entry.mad a b c).at i = a.at i * b.at i + c.at i := by
  rw [Entry.mad, Entry.add_at, Entry.mul_at]

/-- Merging keeps the lanes written (R21 rule 5). -/
theorem mergeEntry_in (live m : Mask) (old e : Entry) (i : Lane) (h : Mask.has m i = true) :
    (mergeEntry live m old e).at i = e.at i := by
  unfold mergeEntry
  cases e with
  | uniform b =>
    dsimp only
    split
    · rfl
    · split
      · next _ e => rw [e]
      · simp [Entry.at, h]
  | affine b d =>
    dsimp only
    split
    · rfl
    · simp [Entry.at, h]
  | general l => simp [Entry.at, h]

theorem live_sub {live m : Mask} (h : ((live &&& ~~~m) == 0#32) = true) {i : Lane} (hl : Mask.has live i = true) :
    Mask.has m i = true := by
  have e : live &&& ~~~m = 0#32 := by simpa using h
  have : Mask.has (live &&& ~~~m) i = false := by rw [e]; simp
  simpa [hl] using this

/-- A live lane that is not written keeps its value. -/
theorem mergeEntry_out (live m : Mask) (old e : Entry) (i : Lane) (hl : Mask.has live i = true)
    (h : Mask.has m i = false) : (mergeEntry live m old e).at i = old.at i := by
  unfold mergeEntry
  cases e with
  | uniform b =>
    dsimp only
    split
    · next f => rw [live_sub f hl] at h; cases h
    · split
      · rfl
      · simp [Entry.at, h]
  | affine b d =>
    dsimp only
    split
    · next f => rw [live_sub f hl] at h; cases h
    · simp [Entry.at, h]
  | general l => simp [Entry.at, h]

/-! ### Writing a register -/

/-- What the warp w becomes when its register n takes e in the lanes m with format fmt: other registers and fields stay. -/
structure RegWritten (w w' : Warp) (n : Nat) (m : Mask) (e : Entry) (fmt : BitVec 4) : Prop where
  rest : w' = { w with
    v := w'.v, h := w'.h, pend := w'.pend, spoiled := w'.spoiled, ckpt := { w.ckpt with moved := w'.ckpt.moved } }
  others : ∀ j, j ≠ n → w'.reg j = w.reg j
  inside : ∀ i, Mask.has m i = true → (w'.reg n).entry.at i = e.at i
  outside : ∀ i, Mask.has w.live i = true → Mask.has m i = false → (w'.reg n).entry.at i = (w.reg n).entry.at i
  format : m ≠ 0#32 → (w'.reg n).fmt = fmt
  pending : w'.pend.map (fun p => { p with dests := [] }) = w.pend.map (fun p => { p with dests := [] })

theorem setReg_rest (w : Warp) (n : Nat) (r : VReg) :
    w.setReg n r = { w with v := (w.setReg n r).v, h := (w.setReg n r).h } := by
  unfold Warp.setReg
  split
  · rfl
  · split <;> rfl

theorem overwritten_dests (p : Pend) (n : Nat) (m : Mask) :
    { p.overwritten n m with dests := [] } = { p with dests := ([] : List (Nat × BitVec 4 × Mask)) } := rfl

theorem pend_map_dests (l : List Pend) (f : Pend → Mask) (n : Nat) :
    (l.map (fun p => p.overwritten n (f p))).map (fun p => { p with dests := [] }) =
      l.map (fun p => { p with dests := [] }) := by
  induction l with
  | nil => rfl
  | cons p t ih => simp only [List.map_cons, ih, overwritten_dests]

/-- A rename changes the registers that the checkpoint lists alone (R27). -/
theorem renames_rest (w : Warp) (n : Nat) : w.renames n = { w with ckpt := { w.ckpt with moved := (w.renames n).ckpt.moved } } := by
  unfold Warp.renames
  repeat (first | rfl | split)

@[simp] theorem renames_reg (w : Warp) (n j : Nat) : (w.renames n).reg j = w.reg j := by
  rw [renames_rest]; rfl

/-- The lanes of a write that a pending result gives way to: those of its own level (R111, R262). -/
def Warp.givesWay (w : Warp) (m : Mask) (p : Pend) : Mask := if w.frozen p then m &&& ~~~p.lanes else m

/-- A state whose issuing warp and renamed registers alone differ. -/
theorem setMe_form {s t : State} {w : Warp} {l : List Nat} (h : t = { s.setMe w with renamed := l }) :
    t = { s.setMe t.me with renamed := t.renamed } := by
  subst h
  simp [State.me, State.setMe, State.warp, State.setWarp]

/-- The warp w whose register n has taken e in the lanes m, with free words of narrow store left. -/
def Warp.written (w : Warp) (free n : Nat) (m : Mask) (e : Entry) (fmt : BitVec 4) : Warp :=
  let w1 := (w.setReg n ⟨(mergeEntry w.live m (w.reg n).entry e).fit free, fmt, true⟩).renames n
  let w2 := if (w.live &&& ~~~m) == 0#32 then { w1 with spoiled := w1.spoiled.filter (· != n) } else w1
  { w2 with pend := w2.pend.map (fun p => p.overwritten n (w2.givesWay m p)) }

theorem writeReg_form (s : State) (n : Nat) (m : Mask) (e : Entry) (fmt : BitVec 4) (hm : m ≠ 0#32) :
    s.writeReg s.cur n m e fmt =
      { s.setMe (s.me.written (s.narrowFree s.me.die s.me.core) n m e fmt) with renamed := n :: s.renamed } := by
  have h0 : (m == 0#32) = false := by simpa using hm
  have hl : ∀ r, (((s.warp s.cur).setReg n r).renames n).live = (s.warp s.cur).live := by
    intro r; rw [renames_rest, setReg_rest]; rfl
  simp only [State.writeReg, State.storeReg, h0, State.modWarp, State.me, State.setMe, State.setWarp_cur, hl,
    Warp.written, Warp.givesWay]
  simp

/-- A register write changes the issuing warp alone, as RegWritten says (R21, R25). -/
theorem writeV_spec (s : State) (f : Nat) (m : Mask) (e : Entry) (fmt : BitVec 4) (hf : f < 32) :
    s.writeV f m e fmt = { s.setMe (s.writeV f m e fmt).me with renamed := (s.writeV f m e fmt).renamed } ∧
      RegWritten s.me (s.writeV f m e fmt).me (s.me.regNo f) m e fmt := by
  have hn : s.me.regNo f < 40 := by unfold Warp.regNo; split <;> omega
  generalize hne : s.me.regNo f = n at hn ⊢
  have hw : s.writeV f m e fmt = s.writeReg s.cur n m e fmt := by rw [← hne]; rfl
  rw [hw]
  by_cases h0 : m = 0#32
  · subst h0
    have hf : s.writeReg s.cur n 0#32 e fmt =
        { s.setMe { s.me with pend := s.me.pend.map (fun p => p.overwritten n (s.me.givesWay 0#32 p)) }
          with renamed := s.renamed } := rfl
    refine ⟨setMe_form hf, ?_⟩
    have hme : (s.writeReg s.cur n 0#32 e fmt).me =
        { s.me with pend := s.me.pend.map (fun p => p.overwritten n (s.me.givesWay 0#32 p)) } := by
      rw [hf]; exact State.setMe_me s _
    rw [hme]
    exact ⟨rfl, fun _ _ => rfl, fun i h => by simp at h, fun _ _ _ => rfl, fun h => absurd rfl h, pend_map_dests _ _ _⟩
  · have hf := writeReg_form s n m e fmt h0
    refine ⟨setMe_form hf, ?_⟩
    have hme : (s.writeReg s.cur n m e fmt).me = s.me.written (s.narrowFree s.me.die s.me.core) n m e fmt := by
      rw [hf]; exact State.setMe_me s _
    rw [hme]
    unfold Warp.written
    generalize hr : (⟨(mergeEntry s.me.live m (s.me.reg n).entry e).fit (s.narrowFree s.me.die s.me.core), fmt, true⟩ : VReg) = r
    have hre : r.entry = (mergeEntry s.me.live m (s.me.reg n).entry e).fit (s.narrowFree s.me.die s.me.core) := by rw [← hr]
    have hrf : r.fmt = fmt := by rw [← hr]
    dsimp only
    have hsame : ((s.me.setReg n r).renames n).reg n = r := by rw [renames_reg]; exact Warp.setReg_same _ _ _ hn
    have hoth : ∀ j, j ≠ n → ((s.me.setReg n r).renames n).reg j = s.me.reg j := by
      intro j hj; rw [renames_reg]; exact Warp.setReg_ne _ _ hj
    have h1 := renames_rest (s.me.setReg n r) n
    generalize (s.me.setReg n r).renames n = w1 at hsame hoth h1
    rw [setReg_rest] at h1
    have hpend : w1.pend = s.me.pend := by rw [h1]
    generalize hw2 : (if (s.me.live &&& ~~~m) == 0#32 then { w1 with spoiled := w1.spoiled.filter (· != n) } else w1) = w2
    have h2 : w2 = { w1 with spoiled := w2.spoiled } := by
      rw [← hw2]; split <;> rfl
    have hreg2 : ∀ j, w2.reg j = w1.reg j := by intro j; rw [h2]; rfl
    have hp2 : w2.pend = s.me.pend := by rw [h2]; exact hpend
    refine ⟨?_, ?_, ?_, ?_, ?_, ?_⟩
    · rw [h2, h1]
    · intro j hj; exact (hreg2 j).trans (hoth j hj)
    · intro i hi
      show (w2.reg n).entry.at i = _
      rw [hreg2, hsame, hre, Entry.fit_at]; exact mergeEntry_in _ _ _ _ _ hi
    · intro i hl hi
      show (w2.reg n).entry.at i = _
      rw [hreg2, hsame, hre, Entry.fit_at]; exact mergeEntry_out _ _ _ _ _ hl hi
    · intro _
      show (w2.reg n).fmt = _
      rw [hreg2, hsame, hrf]
    · rw [pend_map_dests, hp2]

/-! ### Issuing (R43) -/

/-- Taking no trap changes nothing. -/
@[simp] theorem raise_nil (s : State) : s.raise [] = s := by
  simp [State.raise]

/-- What an instruction does whose checks pass, that neither waits nor traps. -/
theorem issue_runs (u : Use) (s : State) (body : State → Mask → Eff) (hv : s.issuer = .vector)
    (hc : s.decodeCheck u = .none) (hs : (body (s.acting u) (s.active u)).stall = false)
    (ht : (body (s.acting u) (s.active u)).traps = []) :
    issue u s body = (body (s.acting u) (s.active u)).st.advance
      (s.bundle &&& ~~~(body (s.acting u) (s.active u)).jumped) := by
  have hc' : (s.acting u).decodeCheck u = .none := hc
  have ha : (s.acting u).active u = s.active u := rfl
  have hb : (s.acting u).bundle = s.bundle := rfl
  unfold issue
  split
  · next c e => rw [hv] at e; cases e
  · simp only [hc', ha, hb, hs, ht]
    simp [trapLanes, and_full]

end Sys2Proof.Machine
end

