-- ==== Sys2Proof/Laws/Alu.lean ====
section
/-! SUPPORT. Once for each mould of the vector instructions: what it leaves alone and what it writes. -/

namespace Sys2Proof.Machine

/-! ### Checks -/

/-- An instruction that runs passes the checks of its use. -/
theorem State.runs.check {s : State} {i : Instr} {u : Use} (h : s.runs i) (e : s.useOf i = some u) :
    s.decodeCheck u = none := by
  obtain ⟨_, u', h1, h2⟩ := h
  rw [e] at h1
  cases h1
  exact h2

/-- Its active lanes are those of its use. -/
theorem State.on_eq {s : State} {i : Instr} {u : Use} (e : s.useOf i = some u) : s.on i = s.active u := by
  simp [State.on, e]

theorem bundle_all (m : Mask) : m &&& ~~~(0#32) = m := mask_ext (fun i => by simp)

/-- An instruction that runs, that neither waits nor traps nor jumps: its body acts and the bundle steps on. -/
theorem issue_plain (u : Use) (s : State) (body : State → Mask → Eff) (hv : s.issuer = .vector)
    (hc : s.decodeCheck u = none) (hs : (body (s.acting u) (s.active u)).stall = false)
    (ht : (body (s.acting u) (s.active u)).traps = []) (hj : (body (s.acting u) (s.active u)).jumped = 0#32) :
    issue u s body = (body (s.acting u) (s.active u)).st.advance s.bundle := by
  rw [issue_runs u s body hv hc hs ht, hj, bundle_all]

/-- An instruction that runs, whose body may trap: its body acts, the other lanes step on, and the traps are raised. -/
theorem issue_traps (u : Use) (s : State) (body : State → Mask → Eff) (hv : s.issuer = .vector)
    (hc : s.decodeCheck u = none) (hs : (body (s.acting u) (s.active u)).stall = false) :
    issue u s body = ((body (s.acting u) (s.active u)).st.advance
      (s.bundle &&& ~~~(body (s.acting u) (s.active u)).jumped
        &&& ~~~trapLanes (body (s.acting u) (s.active u)).traps)).raise (body (s.acting u) (s.active u)).traps := by
  have hc' : (s.acting u).decodeCheck u = .none := hc
  have ha : (s.acting u).active u = s.active u := rfl
  have hb : (s.acting u).bundle = s.bundle := rfl
  unfold issue
  split
  · next c e => rw [hv] at e; cases e
  · simp only [hc', ha, hb, hs]
    simp

/-! ### States that differ in the issuing warp alone -/

/-- The warp with other program counters. -/
def Warp.atPc (w : Warp) (x : Lanes Word) : Warp := { w with pc := x }

theorem Warp.atPc_reg (w : Warp) (x : Lanes Word) (j : Nat) : (w.atPc x).reg j = w.reg j := rfl
theorem Warp.atPc_mask (w : Warp) (x : Lanes Word) (j : Nat) : (w.atPc x).mask j = w.mask j := rfl
theorem Warp.atPc_besides (w : Warp) (x : Lanes Word) : (w.atPc x).besides = w.besides := rfl
theorem Warp.atPc_pc (w : Warp) (x : Lanes Word) : (w.atPc x).pc = x := rfl
theorem Warp.atPc_group (w : Warp) (x : Lanes Word) : (w.atPc x).group = w.group := rfl
theorem Warp.atPc_m (w : Warp) (x : Lanes Word) : (w.atPc x).m = w.m := rfl
theorem Warp.atPc_v (w : Warp) (x : Lanes Word) : (w.atPc x).v = w.v := rfl
theorem Warp.atPc_h (w : Warp) (x : Lanes Word) : (w.atPc x).h = w.h := rfl
theorem Warp.atPc_spoiled (w : Warp) (x : Lanes Word) : (w.atPc x).spoiled = w.spoiled := rfl
theorem Warp.atPc_pend (w : Warp) (x : Lanes Word) : (w.atPc x).pend = w.pend := rfl
theorem Warp.atPc_fcsr (w : Warp) (x : Lanes Word) : (w.atPc x).fcsr = w.fcsr := rfl
theorem Warp.atPc_pendings (w : Warp) (x : Lanes Word) : (w.atPc x).pendings = w.pendings := rfl
theorem Warp.atPc_scalar (w : Warp) (x : Lanes Word) : (w.atPc x).scalarPendings = w.scalarPendings := rfl

/-- The program counters of w once the lanes m have stepped past one word. -/
def Warp.pcPast (w : Warp) (m : Mask) : Lanes Word := Lanes.where_ w.pc m (fun i => Lanes.at w.pc i + 4#32)

theorem State.advance_eq (s : State) (m : Mask) : s.advance m = s.setMe (s.me.atPc (s.me.pcPast m)) := rfl

theorem State.advance_me (s : State) (m : Mask) : (s.advance m).me = s.me.atPc (s.me.pcPast m) := State.setMe_me s _

theorem State.besides_cur {s t : State} (h : t.besides = s.besides) : t.cur = s.cur := by
  have : t.besides.cur = s.besides.cur := by rw [h]
  exact this

/-- The step of the lanes m from t, a state that differs from s in the issuing warp alone and whose program counters are
those of s. -/
theorem quiet.advance {s t : State} {g : Map Group} (h : quiet s t g) (m : Mask) (hpc : t.me.pc = s.me.pc) :
    quiet s (t.advance m) g ∧ (t.advance m).me.pc = s.stepped m := by
  refine ⟨⟨?_, ?_, ?_, ?_⟩, ?_⟩
  · exact h.device
  · exact h.groups
  · rw [State.advance_me, State.advance_eq]
    show mapPut t.warps t.cur _ = _
    rw [h.warps, State.besides_cur h.device, mapPut_put]
  · rw [State.advance_me, Warp.atPc_besides, h.warp]
  · rw [State.advance_me, Warp.atPc_pc, Warp.pcPast, hpc]; rfl

/-- The state in which an instruction with active lanes a acts: only what the step notes of its own instruction differs. -/
def State.actingOn (s : State) (a : Mask) : State := { s with acted := a, undone := 0#32, counted := false, base := s.unit }

theorem State.acting_eq (s : State) (u : Use) : s.acting u = s.actingOn (s.active u) := rfl

theorem State.note_me (s : State) (a : Mask) (r : List Nat) (w : Warp) :
    State.me { (s.actingOn a).setMe w with renamed := r } = w := State.setMe_me (s.actingOn a) w

/-- The issuing warp set to w. -/
theorem quiet.setMe (s : State) (a : Mask) (r : List Nat) (w : Warp) (h : w.besides = s.me.besides) :
    quiet s { (s.actingOn a).setMe w with renamed := r } s.groups :=
  ⟨rfl, rfl, by rw [State.note_me]; rfl, by rw [State.note_me]; exact h⟩

/-- One change of the issuing warp after another. -/
theorem quiet.trans {s t u : State} {g k : Map Group} (h : quiet s t g) (j : quiet t u k) : quiet s u k :=
  ⟨j.device.trans h.device, j.groups, by rw [j.warps, h.warps, State.besides_cur h.device, mapPut_put],
    j.warp.trans h.warp⟩

/-! ### Register writes -/

/-- A state whose issuing warp's registers alone differ, those of l. -/
structure OnlyRegs (s t : State) (l : List Nat) : Prop where
  quiet : quiet s t s.groups
  straight : noBranch s t
  masks : t.me.m = s.me.m ∧ t.me.fcsr = s.me.fcsr
  pc : t.me.pc = s.me.pc
  pending : t.me.pendings = s.me.pendings
  others : ∀ j, j ∉ l → t.me.reg j = s.me.reg j

theorem OnlyRegs.hNamed {s t : State} {l : List Nat} (h : OnlyRegs s t l) : t.me.hNamed = s.me.hNamed := by
  have : t.me.besides.hNamed = s.me.besides.hNamed := by rw [h.quiet.warp]
  exact this

theorem OnlyRegs.regNo {s t : State} {l : List Nat} (h : OnlyRegs s t l) (f : Nat) : t.me.regNo f = s.me.regNo f := by
  simp only [Warp.regNo, h.hNamed]

theorem OnlyRegs.live {s t : State} {l : List Nat} (h : OnlyRegs s t l) : t.me.live = s.me.live := by
  have : t.me.besides.live = s.me.besides.live := by rw [h.quiet.warp]
  exact this

/-- What the step notes of its own instruction does not count. -/
theorem OnlyRegs.acting {s t : State} {a : Mask} {l : List Nat} (h : OnlyRegs (s.actingOn a) t l) : OnlyRegs s t l :=
  ⟨⟨h.quiet.device, h.quiet.groups, h.quiet.warps, h.quiet.warp⟩, h.straight, h.masks, h.pc, h.pending, h.others⟩

theorem writeV_only' (s : State) (f : Nat) (m : Mask) (e : Entry) (fmt : BitVec 4) (hf : f < 32) :
    OnlyRegs s (s.writeV f m e fmt) [s.me.regNo f] := by
  obtain ⟨h1, h2⟩ := writeV_spec s f m e fmt hf
  generalize hx : (s.writeV f m e fmt).me = x at h1 h2
  generalize (s.writeV f m e fmt).renamed = r at h1
  obtain ⟨hr, ho, _, _, _, hp⟩ := h2
  have hb : x.besides = s.me.besides := by rw [hr]; rfl
  have hm : ({ s.setMe x with renamed := r } : State).me = x := State.setMe_me s x
  refine ⟨?_, ?_, ?_, ?_, ?_, ?_⟩
  · rw [h1]; exact ⟨rfl, rfl, by rw [hm]; rfl, by rw [hm]; exact hb⟩
  · rw [h1]; exact ⟨rfl, rfl⟩
  · rw [hx, hr]; exact ⟨rfl, rfl⟩
  · rw [hx, hr]
  · rw [hx]; exact hp
  · intro j hj; rw [hx]; exact ho j (by simpa using hj)

theorem writeV_only (s : State) (a : Mask) (f : Nat) (m : Mask) (e : Entry) (fmt : BitVec 4) (hf : f < 32) :
    OnlyRegs s ((s.actingOn a).writeV f m e fmt) [s.me.regNo f] := (writeV_only' (s.actingOn a) f m e fmt hf).acting

theorem OnlyRegs.trans {s t u : State} {l k : List Nat} (h : OnlyRegs s t l) (g : OnlyRegs t u k) :
    OnlyRegs s u (l ++ k) := by
  refine ⟨?_, ⟨?_, ?_⟩, ⟨?_, ?_⟩, ?_, ?_, ?_⟩
  · have := h.quiet.trans g.quiet
    rw [h.quiet.groups] at this
    exact this
  · rw [g.straight.1, h.straight.1]
  · rw [g.straight.2, h.straight.2]
  · rw [g.masks.1, h.masks.1]
  · rw [g.masks.2, h.masks.2]
  · rw [g.pc, h.pc]
  · rw [g.pending, h.pending]
  · intro j hj
    rw [List.mem_append, not_or] at hj
    rw [g.others j hj.2, h.others j hj.1]

/-- A step of the lanes m past the word, from a state whose registers alone differ. -/
theorem OnlyRegs.frame {s t : State} {l : List Nat} (m : Mask) (h : OnlyRegs s t l) :
    frameOn m s (t.advance m) l ∧ (t.advance m).me.fcsr = s.me.fcsr ∧ ∀ j, (t.advance m).me.reg j = t.me.reg j := by
  have hr : ∀ j, (t.advance m).me.reg j = t.me.reg j := by intro j; rw [State.advance_me, Warp.atPc_reg]
  have hq := h.quiet.advance m h.pc
  refine ⟨⟨hq.1, ⟨h.straight.1, h.straight.2⟩, ?_, hq.2, ?_, ?_⟩, ?_, hr⟩
  · rw [State.advance_me, Warp.atPc_m]; exact h.masks.1
  · rw [State.advance_me, Warp.atPc_pendings]; exact h.pending
  · intro j hj; rw [hr]; exact h.others j hj
  · rw [State.advance_me, Warp.atPc_fcsr]; exact h.masks.2

/-- One register written and a step of the lanes k. -/
theorem writeV_frame (s : State) (a : Mask) (k : Mask) (f : Nat) (m : Mask) (e : Entry) (fmt : BitVec 4) (hf : f < 32) :
    frameOn k s ((State.writeV (s.actingOn a) f m e fmt).advance k) [s.me.regNo f] ∧
      ((State.writeV (s.actingOn a) f m e fmt).advance k).me.fcsr = s.me.fcsr ∧
      regTakes s ((State.writeV (s.actingOn a) f m e fmt).advance k) (s.me.regNo f) m (fun i => e.at i) fmt := by
  have h := OnlyRegs.frame k (writeV_only s a f m e fmt hf)
  obtain ⟨_, h2⟩ := writeV_spec (s.actingOn a) f m e fmt hf
  refine ⟨h.1, h.2.1, ⟨?_, ?_, ?_⟩⟩
  · intro i hi; rw [h.2.2]; exact h2.inside i hi
  · intro i hl hi; rw [h.2.2]; exact h2.outside i hl hi
  · intro hm; rw [h.2.2]; exact h2.format hm

/-- What regTakes says of a rule that agrees on the lanes written. -/
theorem regTakes.congr {s t : State} {n : Nat} {m : Mask} {f g : Lane → Word} {fmt : BitVec 4}
    (h : regTakes s t n m f fmt) (e : ∀ i, Mask.has m i = true → f i = g i) : regTakes s t n m g fmt :=
  ⟨fun i hi => (h.inside i hi).trans (e i hi), h.outside, h.format⟩

/-- The mould of an instruction that writes one register and neither waits, traps nor jumps. -/
theorem issue_writes {u : Use} {s : State} {body : State → Mask → Eff} {d : BitVec 5} {m : Mask} {e : Entry} {fmt : BitVec 4}
    (hv : s.issuer = .vector) (hc : s.decodeCheck u = none)
    (hb : body (s.acting u) (s.active u) = { st := (s.acting u).writeV d.toNat m e fmt }) :
    regFrame s (issue u s body) [s.me.regNo d.toNat] ∧
      regTakes s (issue u s body) (s.me.regNo d.toNat) m (fun i => e.at i) fmt := by
  rw [issue_plain u s body hv hc (by rw [hb]) (by rw [hb]) (by rw [hb]), hb]
  have h := writeV_frame s (s.active u) s.bundle d.toNat m e fmt d.isLt
  exact ⟨⟨h.1, h.2.1⟩, h.2.2⟩

/-- The mould of R97 for two sources. -/
theorem alu2_spec (F : Entry → Entry → Entry) (f : Word → Word → Word)
    (hF : ∀ x y i, (F x y).at i = f (x.at i) (y.at i)) (d : BitVec 5) (a b : Src) (p : BitVec 2) (s : State)
    (hv : s.issuer = .vector) (hc : s.decodeCheck (use2 d a b p) = none) :
    regFrame s (alu2 F d a b p s) [s.me.regNo d.toNat] ∧
      regTakes s (alu2 F d a b p s) (s.me.regNo d.toNat) (s.active (use2 d a b p))
        (fun i => f ((s.srcA a).at i) ((s.srcB b).at i)) 0#4 := by
  have h := issue_writes (d := d) (m := s.active (use2 d a b p)) (e := F (s.srcA a) (s.srcB b)) (fmt := 0#4)
    (body := fun s m => { st := s.writeV d.toNat m (F (s.srcA a) (s.srcB b)) 0#4 }) hv hc rfl
  unfold alu2
  simpa only [hF] using h

/-- The mould of R97 for one source. -/
theorem alu1_spec (F : Entry → Entry) (f : Word → Word) (hF : ∀ x i, (F x).at i = f (x.at i)) (d : BitVec 5) (a : Src)
    (p : BitVec 2) (s : State) (hv : s.issuer = .vector) (hc : s.decodeCheck (use1 d a p) = none) :
    regFrame s (alu1 F d a p s) [s.me.regNo d.toNat] ∧
      regTakes s (alu1 F d a p s) (s.me.regNo d.toNat) (s.active (use1 d a p)) (fun i => f ((s.srcA a).at i)) 0#4 := by
  have h := issue_writes (d := d) (m := s.active (use1 d a p)) (e := F (s.srcA a)) (fmt := 0#4)
    (body := fun s m => { st := s.writeV d.toNat m (F (s.srcA a)) 0#4 }) hv hc rfl
  unfold alu1
  simpa only [hF] using h

/-- The mould of the forms that count vd as a source (R99, R106). -/
theorem alu3_spec (F : Entry → Entry → Entry → Entry) (f : Word → Word → Word → Word)
    (hF : ∀ x y z i, (F x y z).at i = f (x.at i) (y.at i) (z.at i)) (d : BitVec 5) (a b : Src) (p : BitVec 2) (s : State)
    (hv : s.issuer = .vector) (hc : s.decodeCheck (use2 d a b p) = none) :
    regFrame s (alu3 F d a b p s) [s.me.regNo d.toNat] ∧
      regTakes s (alu3 F d a b p s) (s.me.regNo d.toNat) (s.active (use2 d a b p))
        (fun i => f ((s.srcA a).at i) ((s.srcB b).at i) (s.me.lane d.toNat i)) 0#4 := by
  have h := issue_writes (d := d) (m := s.active (use2 d a b p))
    (e := F (s.srcA a) (s.srcB b) (s.me.reg (s.me.regNo d.toNat)).entry) (fmt := 0#4)
    (body := fun s m =>
      { st := s.writeV d.toNat m (F (s.srcA a) (s.srcB b) (s.me.reg (s.me.regNo d.toNat)).entry) 0#4 }) hv hc rfl
  unfold alu3
  simp only [hF] at h
  exact h

/-! ### Pairs -/

theorem entryOf_wide_at {x : Wide} {q : Bool} {g : DWord → Word} {i : Lane}
    (h : (x.uniform && q) = true → Lanes.at x.lanes 0 = Lanes.at x.lanes i) :
    (entryOf (x.uniform && q) (fun i => g (Lanes.at x.lanes i))).at i = g (Lanes.at x.lanes i) :=
  entryOf_at _ _ _ (fun e => by rw [h e])

/-- A pair written and a step of the lanes k. -/
theorem writePair_frame (s : State) (a k : Mask) (f : Nat) (m : Mask) (x : Wide) (lo hi : BitVec 4) (hf : f + 1 < 32)
    (hx : x.uniform = true → ∀ i, Lanes.at x.lanes 0 = Lanes.at x.lanes i) :
    let t := (State.writePair (s.actingOn a) f m x lo hi).advance k
    frameOn k s t (s.pairNo f) ∧ t.me.fcsr = s.me.fcsr ∧ pairTakes s t f m (fun i => Lanes.at x.lanes i) lo hi := by
  intro t
  have hq : ∀ q i, (x.uniform && q) = true → Lanes.at x.lanes 0 = Lanes.at x.lanes i := by
    intro q i h; exact hx (by simpa using (Bool.and_eq_true _ _ ▸ h).1) i
  have h0 : f < 32 := by omega
  have ht : t = ((State.writeV (State.writeV (s.actingOn a) f m
      (entryOf (x.uniform && (s.me.live &&& ~~~m) == 0#32) (fun i => (Lanes.at x.lanes i).setWidth 32)) lo) (f + 1) m
      (entryOf (x.uniform && (s.me.live &&& ~~~m) == 0#32) (fun i => (Lanes.at x.lanes i >>> 32).setWidth 32)) hi)).advance k := rfl
  generalize hlo : entryOf (x.uniform && (s.me.live &&& ~~~m) == 0#32) (fun i => (Lanes.at x.lanes i).setWidth 32) = el at ht
  generalize hhi : entryOf (x.uniform && (s.me.live &&& ~~~m) == 0#32) (fun i => (Lanes.at x.lanes i >>> 32).setWidth 32) = eh at ht
  have hel : ∀ i, el.at i = (Lanes.at x.lanes i).setWidth 32 := by
    intro i; rw [← hlo]; exact entryOf_at _ _ _ (fun e => by rw [hq _ i e])
  have heh : ∀ i, eh.at i = (Lanes.at x.lanes i >>> 32).setWidth 32 := by
    intro i; rw [← hhi]; exact entryOf_at _ _ _ (fun e => by rw [hq _ i e])
  generalize hs1 : (State.writeV (s.actingOn a) f m el lo) = s1 at ht
  have o1 : OnlyRegs s s1 [s.me.regNo f] := by rw [← hs1]; exact writeV_only s a f m el lo h0
  have o2 := writeV_only' s1 (f + 1) m eh hi hf
  have hn : s1.me.regNo (f + 1) = s.me.regNo (f + 1) := o1.regNo _
  have hl : s1.me.live = s.me.live := o1.live
  have hne : s.me.regNo f ≠ s.me.regNo (f + 1) := by
    unfold Warp.regNo; split <;> split <;> simp_all <;> omega
  obtain ⟨_, w1⟩ := writeV_spec (s.actingOn a) f m el lo h0
  obtain ⟨_, w2⟩ := writeV_spec s1 (f + 1) m eh hi hf
  rw [hs1] at w1
  rw [hn] at w2
  have fr := (o1.trans o2).frame k
  rw [hn, ← ht] at fr
  refine ⟨fr.1, fr.2.1, ⟨?_, ?_, ?_⟩, ⟨?_, ?_, ?_⟩⟩
  · intro i h; rw [fr.2.2, w2.others _ hne]; exact (w1.inside i h).trans (hel i)
  · intro i hlv h; rw [fr.2.2, w2.others _ hne]; exact w1.outside i hlv h
  · intro h; rw [fr.2.2, w2.others _ hne]; exact w1.format h
  · intro i h; rw [fr.2.2]; exact (w2.inside i h).trans (heh i)
  · intro i hlv h
    rw [fr.2.2, w2.outside i (by rw [hl]; exact hlv) h, o1.others _ (by simpa using hne.symm)]
  · intro h; rw [fr.2.2]; exact w2.format h

/-- The mould of an instruction that writes one pair. -/
theorem issue_pair {u : Use} {s : State} {body : State → Mask → Eff} {f : Nat} {m : Mask} {x : Wide} {lo hi : BitVec 4}
    (hv : s.issuer = .vector) (hc : s.decodeCheck u = none) (hf : f + 1 < 32)
    (hx : x.uniform = true → ∀ i, Lanes.at x.lanes 0 = Lanes.at x.lanes i)
    (hb : body (s.acting u) (s.active u) = { st := (s.acting u).writePair f m x lo hi }) :
    regFrame s (issue u s body) (s.pairNo f) ∧
      pairTakes s (issue u s body) f m (fun i => Lanes.at x.lanes i) lo hi := by
  rw [issue_plain u s body hv hc (by rw [hb]) (by rw [hb]) (by rw [hb]), hb]
  have h := writePair_frame s (s.active u) s.bundle f m x lo hi hf hx
  exact ⟨⟨h.1, h.2.1⟩, h.2.2⟩

/-- A 64-bit source that is uniform has one value. -/
theorem src64_uniform (s : State) (b : Bool) (a : Src) (h : (s.src64 b a).uniform = true) (i j : Lane) :
    Lanes.at (s.src64 b a).lanes i = Lanes.at (s.src64 b a).lanes j := by
  unfold State.src64 at h ⊢
  split at h
  · simp [allLanesOf, Lanes.at]
  · next p =>
    simp only [Bool.and_eq_true] at h
    simp only [perLane_at]
    rw [Entry.at_uniform h.1 i j, Entry.at_uniform h.2 i j]

theorem widen_uniform (e : Entry) (h : e.widen.uniform = true) (i j : Lane) :
    Lanes.at e.widen.lanes i = Lanes.at e.widen.lanes j := by
  simp only [Entry.widen, perLane_at] at h ⊢
  rw [Entry.at_uniform h i j]

theorem map2_uniform (f : DWord → DWord → DWord) (x y : Wide)
    (hx : x.uniform = true → ∀ i j, Lanes.at x.lanes i = Lanes.at x.lanes j)
    (hy : y.uniform = true → ∀ i j, Lanes.at y.lanes i = Lanes.at y.lanes j) (h : (Wide.map2 f x y).uniform = true)
    (i j : Lane) : Lanes.at (Wide.map2 f x y).lanes i = Lanes.at (Wide.map2 f x y).lanes j := by
  simp only [Wide.map2, perLane_at, Bool.and_eq_true] at h ⊢
  rw [hx h.1 i j, hy h.2 i j]

@[simp] theorem map2_lanes (f : DWord → DWord → DWord) (x y : Wide) (i : Lane) :
    Lanes.at (Wide.map2 f x y).lanes i = f (Lanes.at x.lanes i) (Lanes.at y.lanes i) := by simp [Wide.map2]

@[simp] theorem widen_lanes (e : Entry) (i : Lane) : Lanes.at e.widen.lanes i = (e.at i).setWidth 64 := by
  simp [Entry.widen]

theorem pair_lt (d : BitVec 4) : 2 * d.toNat + 1 < 32 := by have := d.isLt; omega

/-- The mould of R102 for two 64-bit sources. -/
theorem wide2_spec (f : DWord → DWord → DWord) (d : BitVec 4) (a b : Src) (p : BitVec 2) (s : State)
    (hv : s.issuer = .vector) (hc : s.decodeCheck (useWide2 (pairV d) a b p) = none) :
    regFrame s (wide2 f d a b p s) (s.pairNo (2 * d.toNat)) ∧
      pairTakes s (wide2 f d a b p s) (2 * d.toNat) (s.active (useWide2 (pairV d) a b p))
        (fun i => f (Lanes.at (s.src64 false a).lanes i) (Lanes.at (s.src64 true b).lanes i)) 0#4 0#4 := by
  have h := issue_pair (f := 2 * d.toNat) (m := s.active (useWide2 (pairV d) a b p))
    (x := Wide.map2 f (s.src64 false a) (s.src64 true b)) (lo := 0#4) (hi := 0#4)
    (body := fun s m => { st := s.writePair (2 * d.toNat) m (Wide.map2 f (s.src64 false a) (s.src64 true b)) 0#4 0#4 })
    hv hc (pair_lt d)
    (fun h i => map2_uniform f _ _ (fun h => src64_uniform s false a h) (fun h => src64_uniform s true b h) h 0 i) rfl
  unfold wide2
  simpa only [map2_lanes] using h

/-- The shifts of R102. -/
theorem wideShift_spec (f : DWord → Nat → DWord) (d : BitVec 4) (a b : Src) (p : BitVec 2) (s : State)
    (hv : s.issuer = .vector) (hc : s.decodeCheck (useWide1 (pairV d) a b p) = none) :
    regFrame s (wideShift f d a b p s) (s.pairNo (2 * d.toNat)) ∧
      pairTakes s (wideShift f d a b p s) (2 * d.toNat) (s.active (useWide1 (pairV d) a b p))
        (fun i => f (Lanes.at (s.src64 false a).lanes i) (((s.srcB b).at i).toNat % 64)) 0#4 0#4 := by
  have h := issue_pair (f := 2 * d.toNat) (m := s.active (useWide1 (pairV d) a b p))
    (x := Wide.map2 (fun x c => f x (c.toNat % 64)) (s.src64 false a) (s.srcB b).widen) (lo := 0#4) (hi := 0#4)
    (body := fun s m =>
      { st := s.writePair (2 * d.toNat) m
          (Wide.map2 (fun x c => f x (c.toNat % 64)) (s.src64 false a) (s.srcB b).widen) 0#4 0#4 })
    hv hc (pair_lt d)
    (fun h i => map2_uniform _ _ _ (fun h => src64_uniform s false a h) (fun h => widen_uniform _ h) h 0 i) rfl
  unfold wideShift
  have e : ∀ x : Word, (x.setWidth 64).toNat = x.toNat := by
    intro x; rw [BitVec.toNat_setWidth]; have := x.isLt; omega
  simpa only [map2_lanes, widen_lanes, e] using h

/-! ### Masks (R18, R104) -/

theorem setMaskLanes_rest (w : Warp) (d : Nat) (m x : Mask) : ∃ l, w.setMaskLanes d m x = { w with m := l } := by
  unfold Warp.setMaskLanes Warp.setMask
  split
  · exact ⟨_, rfl⟩
  · exact ⟨w.m, rfl⟩

/-- A state whose issuing warp's masks and $fcsr alone differ. -/
theorem setMask_takes {s : State} {a : Mask} {w : Warp} (l : Vector Mask 16) (c : Word) (hw : w = { s.me with m := l, fcsr := c })
    {d : Nat} {m : Mask} {f : Lane → Bool} (h : ∀ j, w.mask j = (s.me.setMaskLanes d m (maskOf f)).mask j) :
    maskTakes s (((s.actingOn a).setMe w).advance s.bundle) d m f ∧
      (((s.actingOn a).setMe w).advance s.bundle).me.fcsr = c := by
  have hb : w.besides = s.me.besides := by rw [hw]; rfl
  have hm1 : ((s.actingOn a).setMe w).me = w := State.setMe_me _ w
  have hpc : w.pc = s.me.pc := by rw [hw]
  have hq := (quiet.setMe s a s.renamed w hb).advance s.bundle (by rw [State.note_me, hpc])
  generalize hx : (s.actingOn a).setMe w = x at hm1 ⊢
  have hq' : quiet s (x.advance s.bundle) s.groups ∧ (x.advance s.bundle).me.pc = s.stepped s.bundle := by
    rw [← hx]; exact hq
  have hme : (x.advance s.bundle).me = w.atPc (w.pcPast s.bundle) := by rw [State.advance_me, hm1]
  have hmask : ∀ j, (x.advance s.bundle).me.mask j = (s.me.setMaskLanes d m (maskOf f)).mask j := by
    intro j; rw [← h j, hme, Warp.atPc_mask]
  refine ⟨⟨hq'.1, ?_, ?_, hq'.2, ?_, ?_, ?_⟩, ?_⟩
  · rw [← hx]; exact ⟨rfl, rfl⟩
  · unfold sameRegs
    rw [hme, Warp.atPc_v, Warp.atPc_h, Warp.atPc_spoiled, Warp.atPc_pend, hw]
    exact ⟨rfl, rfl, rfl, rfl⟩
  · intro j hj; rw [hmask]; exact Warp.setMask_ne _ _ hj
  · simp [Warp.mask]
  · intro h1 h2 i
    rw [hmask]
    unfold Warp.setMaskLanes
    rw [Warp.setMask_same _ _ _ h1 h2]
    simp only [has_or, has_and, has_not, has_maskOf]
    cases Mask.has m i <;> simp
  · rw [hme, Warp.atPc_fcsr, hw]

/-- The mould of an instruction that writes one mask. -/
theorem issue_mask {u : Use} {s : State} {body : State → Mask → Eff} {d : Nat} {m : Mask} {f : Lane → Bool}
    (hv : s.issuer = .vector) (hc : s.decodeCheck u = none)
    (hb : body (s.acting u) (s.active u) = { st := (s.acting u).writeMask d m f }) :
    maskTakes s (issue u s body) d m f ∧ (issue u s body).me.fcsr = s.me.fcsr := by
  rw [issue_plain u s body hv hc (by rw [hb]) (by rw [hb]) (by rw [hb]), hb]
  obtain ⟨l, hl⟩ := setMaskLanes_rest s.me d m (maskOf f)
  exact setMask_takes (w := s.me.setMaskLanes d m (maskOf f)) l s.me.fcsr hl (fun _ => rfl)

/-- What maskTakes says of a rule that agrees on every lane. -/
theorem maskTakes.congr {s t : State} {d : Nat} {m : Mask} {f g : Lane → Bool} (h : maskTakes s t d m f)
    (e : ∀ i, f i = g i) : maskTakes s t d m g := by
  have : f = g := funext e
  rw [← this]; exact h

/-! ### s-registers (R18, R112) -/

/-- The warp with other pending results. -/
def Warp.withPend (w : Warp) (l : List Pend) : Warp := { w with pend := l }

theorem Warp.withPend_besides (w : Warp) (l : List Pend) : (w.withPend l).besides = w.besides := rfl
theorem Warp.withPend_pc (w : Warp) (l : List Pend) : (w.withPend l).pc = w.pc := rfl
theorem Warp.withPend_group (w : Warp) (l : List Pend) : (w.withPend l).group = w.group := rfl
theorem Warp.withPend_m (w : Warp) (l : List Pend) : (w.withPend l).m = w.m := rfl
theorem Warp.withPend_v (w : Warp) (l : List Pend) : (w.withPend l).v = w.v := rfl
theorem Warp.withPend_h (w : Warp) (l : List Pend) : (w.withPend l).h = w.h := rfl
theorem Warp.withPend_spoiled (w : Warp) (l : List Pend) : (w.withPend l).spoiled = w.spoiled := rfl
theorem Warp.withPend_fcsr (w : Warp) (l : List Pend) : (w.withPend l).fcsr = w.fcsr := rfl
theorem Warp.withPend_pend (w : Warp) (l : List Pend) : (w.withPend l).pend = l := rfl
theorem Warp.withPend_self (w : Warp) : w.withPend w.pend = w := rfl

/-- The results pending once s-register n is written. -/
def Warp.unowed (w : Warp) (n : Nat) : List Pend :=
  w.pend.map (fun p => if p.sdest == some n then { p with sdest := none } else p)

theorem Warp.unowed_scalar (w : Warp) (n : Nat) : (w.withPend (w.unowed n)).scalarPendings = w.scalarPendings := by
  show (w.unowed n).map (fun p => { p with sdest := none }) = w.pend.map (fun p => { p with sdest := none })
  unfold Warp.unowed
  rw [List.map_map]
  apply List.map_congr_left
  intro p _
  show ({ (if p.sdest == some n then { p with sdest := none } else p) with sdest := none } : Pend) = _
  split <;> rfl

theorem setSreg_form (s : State) (a : Mask) (n : Nat) (x : DWord) :
    State.setSreg (s.actingOn a) n x =
      State.modGroup (if s.me.pend.any (fun p => p.sdest == some n) then
        State.setMe (s.actingOn a) (s.me.withPend (s.me.unowed n)) else (s.actingOn a)) s.me.group
        (fun g => g.setSreg n x) := rfl

theorem State.modGroup_form (s : State) (k : Nat) (f : Group → Group) :
    s.modGroup k f = { s with groups := mapPut s.groups k (f (s.group k)) } := rfl

theorem Group.setSreg_rest (g : Group) (n : Nat) (x : DWord) : ∃ v, g.setSreg n x = { g with s := v } := by
  unfold Group.setSreg
  split
  · exact ⟨_, rfl⟩
  · exact ⟨g.s, rfl⟩

/-- An s-register written, and a step of the bundle. -/
theorem setSreg_takes (s : State) (a : Mask) (n : Nat) (x : DWord) :
    sregTakes s ((State.setSreg (s.actingOn a) n x).advance s.bundle) n x := by
  -- the warp, with what it is owed
  obtain ⟨l, hl, hform⟩ : ∃ l, (s.me.withPend l).scalarPendings = s.me.scalarPendings ∧
      (State.setSreg (s.actingOn a) n x).advance s.bundle =
        { (s.actingOn a).setMe ((s.me.withPend l).atPc (s.me.pcPast s.bundle)) with
          groups := mapPut s.groups s.me.group (s.myGroup.setSreg n x) } := by
    rw [setSreg_form, State.modGroup_form]
    by_cases h : s.me.pend.any (fun p => p.sdest == some n) = true
    · refine ⟨s.me.unowed n, s.me.unowed_scalar n, ?_⟩
      rw [if_pos h, State.advance_eq]
      have hme : State.me { State.setMe (s.actingOn a) (s.me.withPend (s.me.unowed n)) with
          groups := mapPut (State.setMe (s.actingOn a) (s.me.withPend (s.me.unowed n))).groups s.me.group
            (Group.setSreg ((State.setMe (s.actingOn a) (s.me.withPend (s.me.unowed n))).group s.me.group) n x) } =
          s.me.withPend (s.me.unowed n) := State.setMe_me s _
      rw [hme]
      generalize hz : Warp.atPc (s.me.withPend (s.me.unowed n)) (Warp.pcPast (s.me.withPend (s.me.unowed n)) s.bundle) = z
      have hz' : (s.me.withPend (s.me.unowed n)).atPc (s.me.pcPast s.bundle) = z := hz
      rw [hz']
      simp only [State.setMe, State.setWarp, mapPut_put]
      rfl
    · refine ⟨s.me.pend, by rw [Warp.withPend_self], ?_⟩
      rw [if_neg h]
      rfl
  rw [hform]
  generalize hw : (s.me.withPend l).atPc (s.me.pcPast s.bundle) = w
  generalize hg : s.myGroup.setSreg n x = g
  have hme : State.me { (s.actingOn a).setMe w with groups := mapPut s.groups s.me.group g } = w := State.setMe_me s w
  have hgrp : w.group = s.me.group := by rw [← hw, Warp.atPc_group, Warp.withPend_group]
  have hs : ∀ j, State.sreg { (s.actingOn a).setMe w with groups := mapPut s.groups s.me.group g } j = g.sreg j := by
    intro j
    unfold State.sreg State.myGroup State.group
    rw [hme, hgrp, mapGet_put_same]
  refine ⟨?_, ⟨rfl, rfl⟩, ?_, ?_, ?_, ?_, ?_, ?_, ?_⟩
  · obtain ⟨v, hv⟩ := Group.setSreg_rest s.myGroup n x
    refine ⟨v, rfl, ?_, (congrArg (mapPut s.warps s.cur) hme).symm, ?_⟩
    · rw [← hv, hg]
    · rw [hme, ← hw, Warp.atPc_besides, Warp.withPend_besides]
  · rw [hme, ← hw, Warp.atPc_m, Warp.atPc_fcsr, Warp.withPend_m, Warp.withPend_fcsr]; exact ⟨rfl, rfl⟩
  · rw [hme, ← hw, Warp.atPc_v, Warp.atPc_h, Warp.atPc_spoiled, Warp.withPend_v, Warp.withPend_h, Warp.withPend_spoiled]
    exact ⟨rfl, rfl, rfl⟩
  · rw [hme, ← hw, Warp.atPc_pc]; rfl
  · rw [hme, ← hw, Warp.atPc_scalar]; exact hl
  · rw [hs]; simp [Group.sreg]
  · intro j hj; rw [hs, ← hg, Group.setSreg_ne _ _ hj]; rfl
  · intro h1 h2; rw [hs, ← hg, Group.setSreg_same _ _ _ h1 h2]

/-- The mould of an instruction that writes one s-register. -/
theorem issue_sreg {u : Use} {s : State} {body : State → Mask → Eff} {n : Nat} {x : DWord}
    (hv : s.issuer = .vector) (hc : s.decodeCheck u = none)
    (hb : body (s.acting u) (s.active u) = { st := (s.acting u).setSreg n x }) :
    sregTakes s (issue u s body) n x := by
  rw [issue_plain u s body hv hc (by rw [hb]) (by rw [hb]) (by rw [hb]), hb]
  exact setSreg_takes s (s.active u) n x

/-- The mould of an instruction that has no effect but its step. -/
theorem issue_steps {u : Use} {s : State} {body : State → Mask → Eff} (hv : s.issuer = .vector)
    (hc : s.decodeCheck u = none) (hb : body (s.acting u) (s.active u) = { st := s.acting u }) :
    stepsPast s (issue u s body) := by
  rw [issue_plain u s body hv hc (by rw [hb]) (by rw [hb]) (by rw [hb]), hb]
  have hme : ((s.acting u).advance s.bundle).me = s.me.atPc (s.me.pcPast s.bundle) := State.advance_me _ _
  refine ⟨⟨rfl, rfl, ?_, ?_⟩, ⟨rfl, rfl⟩, ?_, ?_, ?_⟩
  · rw [hme]; rfl
  · rw [hme, Warp.atPc_besides]
  · rw [hme, Warp.atPc_m, Warp.atPc_fcsr]; exact ⟨rfl, rfl⟩
  · unfold sameRegs
    rw [hme, Warp.atPc_v, Warp.atPc_h, Warp.atPc_spoiled, Warp.atPc_pend]
    exact ⟨rfl, rfl, rfl, rfl⟩
  · rw [hme, Warp.atPc_pc]; rfl

/-! ### Results behind a window (R51) -/

/-- A result that lands later, and a step of the bundle. -/
theorem later_owes (s : State) (a : Mask) (la : Nat) (m : Mask) (d : List (Nat × BitVec 4 × Entry)) (hla : la ≠ 0)
    (hm : m ≠ 0#32) :
    owes s ((State.later (s.actingOn a) la m d).advance s.bundle) (d.map (fun x => (s.me.regNo x.1, x.2.1))) m la
        (d.map (fun x i => x.2.2.at i)) ∧
      ((State.later (s.actingOn a) la m d).advance s.bundle).me.fcsr = s.me.fcsr := by
  have h0 : (la == 0) = false := by simpa using hla
  have h1 : (m == 0#32) = false := by simpa using hm
  obtain ⟨p, hp, hf⟩ : ∃ p : Pend, (p.dests = (d.map (fun x => (s.me.regNo x.1, x.2.1))).map (fun d => (d.1, d.2, m)) ∧
      p.vals = (d.map (fun x i => x.2.2.at i)).map perLane ∧ p.la = la ∧ p.lanes = m ∧ p.got = m ∧
      ∀ i, Lanes.at p.left i = la) ∧ State.later (s.actingOn a) la m d =
        State.setMe { s.actingOn a with unit := s.unit + 1 } (s.me.withPend (s.me.pend ++ [p])) := by
    unfold State.later
    rw [if_neg (by rw [h0]; simp), if_neg (by rw [h1]; simp)]
    refine ⟨_, ?_, rfl⟩
    refine ⟨?_, ?_, rfl, rfl, rfl, fun i => ?_⟩
    · rw [List.map_map]; rfl
    · rw [List.map_map]; rfl
    · simp [allLanesOf]
  rw [hf]
  generalize hw : s.me.withPend (s.me.pend ++ [p]) = w
  have hm1 : (State.setMe { s.actingOn a with unit := s.unit + 1 } w).me = w := State.setMe_me _ w
  have hme : ((State.setMe { s.actingOn a with unit := s.unit + 1 } w).advance s.bundle).me = w.atPc (w.pcPast s.bundle) := by
    rw [State.advance_me, hm1]
  refine ⟨⟨⟨rfl, rfl, ?_, ?_⟩, rfl, ?_, ?_, ?_, ⟨p, ?_, hp.1, hp.2.1, hp.2.2.1, hp.2.2.2.1, hp.2.2.2.2.1, hp.2.2.2.2.2⟩⟩, ?_⟩
  · rw [hme, State.advance_eq, hm1]
    show mapPut (mapPut s.warps s.cur w) s.cur _ = _
    rw [mapPut_put]
  · rw [hme, Warp.atPc_besides, ← hw, Warp.withPend_besides]
  · rw [hme, ← hw, Warp.atPc_m, Warp.withPend_m]
  · rw [hme, ← hw, Warp.atPc_v, Warp.atPc_h, Warp.atPc_spoiled, Warp.withPend_v, Warp.withPend_h, Warp.withPend_spoiled]
    exact ⟨rfl, rfl, rfl⟩
  · rw [hme, ← hw, Warp.atPc_pc]; rfl
  · rw [hme, ← hw, Warp.atPc_pend, Warp.withPend_pend]
  · rw [hme, ← hw, Warp.atPc_fcsr, Warp.withPend_fcsr]

end Sys2Proof.Machine
end

