-- ==== Sys2Proof/Laws/Flow.lean ====
section
/-! SUPPORT. Once for each mould of the control instructions: where the lanes go and what else changes. -/

namespace Sys2Proof.Machine

/-- The warp with other program counters, and one lane's. -/
theorem Warp.atPc_twice (w : Warp) (x y : Lanes Word) : (w.atPc x).atPc y = w.atPc y := rfl

theorem State.jump_eq (s : State) (go : Mask) (f : Lane → Word) :
    s.jump go f = { s.setMe (s.me.atPc (Lanes.where_ s.me.pc go f)) with taken := s.taken ||| go } := rfl

theorem State.taken_me (s : State) (m : Mask) (w : Warp) : State.me { s.setMe w with taken := m } = w := State.setMe_me s w

theorem State.jump_me (s : State) (go : Mask) (f : Lane → Word) :
    (s.jump go f).me = s.me.atPc (Lanes.where_ s.me.pc go f) := by
  rw [State.jump_eq, State.taken_me]

/-- The lanes go jump and the lanes m besides step past the word. -/
theorem jump_pc (s : State) (m go : Mask) (f : Lane → Word) (l : Lanes Word) (hl : l = Lanes.where_ s.me.pc go f) :
    Lanes.where_ l (m &&& ~~~go) (fun i => Lanes.at l i + 4#32) = s.gone m go f := by
  subst hl
  unfold State.gone State.stepped Lanes.where_ perLane
  apply Vector.ext
  intro i hi
  simp only [Vector.getElem_ofFn, Lanes.at, has_and, has_not]
  cases Mask.has go ⟨i, hi⟩ <;> simp

/-- A state that differs from s in registers of the issuing warp at most: the warp is put back, or nothing is. -/
structure NearRegs (s t : State) : Prop where
  device : t.besides = s.besides
  groups : t.groups = s.groups
  warps : t.warps = s.warps ∨ t.warps = mapPut s.warps s.cur t.me
  warp : t.me.besides = s.me.besides
  straight : noBranch s t
  masks : t.me.m = s.me.m ∧ t.me.fcsr = s.me.fcsr
  pc : t.me.pc = s.me.pc
  pending : t.me.pendings = s.me.pendings

theorem NearRegs.acting (s : State) (a : Mask) : NearRegs s (s.actingOn a) :=
  ⟨rfl, rfl, .inl rfl, rfl, ⟨rfl, rfl⟩, ⟨rfl, rfl⟩, rfl, rfl⟩

theorem OnlyRegs.near {s t : State} {l : List Nat} (h : OnlyRegs s t l) : NearRegs s t :=
  ⟨h.quiet.device, h.quiet.groups, .inr h.quiet.warps, h.quiet.warp, h.straight, h.masks, h.pc, h.pending⟩

/-- A jump of the lanes go and a step of the lanes m besides, from a state whose registers alone differ. -/
theorem NearRegs.jumps {s t : State} (m go : Mask) (f : Lane → Word) (h : NearRegs s t) :
    let u := (t.jump go f).advance (m &&& ~~~go)
    quiet s u s.groups ∧ (u.taken = s.taken ||| go ∧ u.unit = s.unit) ∧ (u.me.m = s.me.m ∧ u.me.fcsr = s.me.fcsr) ∧
      u.me.pc = s.gone m go f ∧ u.me.pendings = s.me.pendings ∧ (∀ j, u.me.reg j = t.me.reg j) ∧
      (u.me.v = t.me.v ∧ u.me.h = t.me.h ∧ u.me.spoiled = t.me.spoiled ∧ u.me.pend = t.me.pend) := by
  intro u
  have hm : (t.jump go f).me = t.me.atPc (Lanes.where_ t.me.pc go f) := State.jump_me t go f
  have hu : u.me = t.me.atPc ((t.jump go f).me.pcPast (m &&& ~~~go)) := by
    rw [show u.me = _ from State.advance_me _ _, hm, Warp.atPc_twice]
  have hw : u.warps = mapPut t.warps t.cur u.me := by
    rw [show u.me = _ from State.advance_me _ _]
    rw [show u = _ from State.advance_eq _ _]
    generalize (t.jump go f).me.atPc ((t.jump go f).me.pcPast (m &&& ~~~go)) = x
    show mapPut (mapPut t.warps t.cur _) t.cur _ = _
    rw [mapPut_put]
  refine ⟨⟨h.device, h.groups, ?_, ?_⟩, ⟨?_, h.straight.2⟩, ?_, ?_, ?_, ?_, ?_⟩
  · rw [hw, State.besides_cur h.device]
    rcases h.warps with e | e
    · rw [e]
    · rw [e, mapPut_put]
  · rw [hu, Warp.atPc_besides, h.warp]
  · show t.taken ||| go = _
    rw [h.straight.1]
  · rw [hu, Warp.atPc_m, Warp.atPc_fcsr]; exact h.masks
  · rw [hu, Warp.atPc_pc, Warp.pcPast]
    refine jump_pc s m go f _ ?_
    rw [hm, Warp.atPc_pc, h.pc]
  · rw [hu, Warp.atPc_pendings]; exact h.pending
  · intro j; rw [hu, Warp.atPc_reg]
  · rw [hu, Warp.atPc_v, Warp.atPc_h, Warp.atPc_spoiled, Warp.atPc_pend]; exact ⟨rfl, rfl, rfl, rfl⟩

/-- The mould of an instruction whose lanes go jump, and that does nothing else. -/
theorem issue_branches {u : Use} {s : State} {body : State → Mask → Eff} {go : Mask} {f : Lane → Word} {ts : List (Lane × Trap)}
    (hv : s.issuer = .vector) (hc : s.decodeCheck u = none)
    (hb : body (s.acting u) (s.active u) = { st := (s.acting u).jump go f, traps := ts, jumped := go }) :
    ∃ t, issue u s body = t.raise ts ∧ branches (s.bundle &&& ~~~trapLanes ts) s t go f := by
  rw [issue_traps u s body hv hc (by rw [hb]), hb]
  refine ⟨_, rfl, ?_⟩
  have e : s.bundle &&& ~~~go &&& ~~~trapLanes ts = (s.bundle &&& ~~~trapLanes ts) &&& ~~~go := by
    rw [BitVec.and_assoc, BitVec.and_comm (~~~go), ← BitVec.and_assoc]
  have h := (NearRegs.acting s (s.active u)).jumps (s.bundle &&& ~~~trapLanes ts) go f
  rw [e]
  exact ⟨h.1, h.2.1, h.2.2.1, h.2.2.2.2.2.2, h.2.2.2.1⟩

/-- The same with no trap. -/
theorem issue_jumps {u : Use} {s : State} {body : State → Mask → Eff} {go : Mask} {f : Lane → Word}
    (hv : s.issuer = .vector) (hc : s.decodeCheck u = none)
    (hb : body (s.acting u) (s.active u) = { st := (s.acting u).jump go f, jumped := go }) :
    branches s.bundle s (issue u s body) go f := by
  obtain ⟨t, ht, h⟩ := issue_branches hv hc hb
  rw [raise_nil] at ht
  rw [ht]
  rw [show trapLanes [] = 0#32 from rfl, bundle_all] at h
  exact h

/-- The mould of a call: one register written, and a jump. -/
theorem issue_calls {u : Use} {s : State} {body : State → Mask → Eff} {d : BitVec 5} {k go : Mask} {e : Entry}
    {f : Lane → Word} {ts : List (Lane × Trap)} (hv : s.issuer = .vector) (hc : s.decodeCheck u = none)
    (hb : body (s.acting u) (s.active u) =
      { st := ((s.acting u).writeV d.toNat k e 0#4).jump go f, traps := ts, jumped := go }) :
    ∃ t, issue u s body = t.raise ts ∧
      calls (s.bundle &&& ~~~trapLanes ts) s t go f (s.me.regNo d.toNat) k (fun i => e.at i) := by
  rw [issue_traps u s body hv hc (by rw [hb]), hb]
  refine ⟨_, rfl, ?_⟩
  have e' : s.bundle &&& ~~~go &&& ~~~trapLanes ts = (s.bundle &&& ~~~trapLanes ts) &&& ~~~go := by
    rw [BitVec.and_assoc, BitVec.and_comm (~~~go), ← BitVec.and_assoc]
  have o := writeV_only s (s.active u) d.toNat k e 0#4 d.isLt
  have h := o.near.jumps (s.bundle &&& ~~~trapLanes ts) go f
  obtain ⟨_, w⟩ := writeV_spec (s.actingOn (s.active u)) d.toNat k e 0#4 d.isLt
  rw [e']
  refine ⟨h.1, h.2.1, h.2.2.1, ?_, h.2.2.2.2.1, ⟨?_, ?_, ?_⟩, h.2.2.2.1⟩
  · intro j hj; exact (h.2.2.2.2.2.1 j).trans (o.others j (by simpa using hj))
  · intro i hi; exact (congrArg (fun r => r.entry.at i) (h.2.2.2.2.2.1 _)).trans (w.inside i hi)
  · intro i hl hi; exact (congrArg (fun r => r.entry.at i) (h.2.2.2.2.2.1 _)).trans (w.outside i hl hi)
  · intro hm; exact (congrArg VReg.fmt (h.2.2.2.2.2.1 _)).trans (w.format hm)

end Sys2Proof.Machine
end

