-- ==== Sys2Proof/Laws/Float.lean ====
section
/-! SUPPORT. Once for the mould of the floating-point instructions: what delivering results with flags does (R128). -/

namespace Sys2Proof.Machine

/-- The warp with another $fcsr. -/
def Warp.withFcsr (w : Warp) (x : Word) : Warp := { w with fcsr := x }

theorem Warp.withFcsr_besides (w : Warp) (x : Word) : (w.withFcsr x).besides = w.besides := rfl
theorem Warp.withFcsr_reg (w : Warp) (x : Word) (j : Nat) : (w.withFcsr x).reg j = w.reg j := rfl
theorem Warp.withFcsr_pc (w : Warp) (x : Word) : (w.withFcsr x).pc = w.pc := rfl
theorem Warp.withFcsr_m (w : Warp) (x : Word) : (w.withFcsr x).m = w.m := rfl
theorem Warp.withFcsr_pendings (w : Warp) (x : Word) : (w.withFcsr x).pendings = w.pendings := rfl
theorem Warp.withFcsr_fcsr (w : Warp) (x : Word) : (w.withFcsr x).fcsr = x := rfl

/-- A register written, flags added, and a step of the lanes k. -/
theorem flags_frame {s t : State} {l : List Nat} (k : Mask) (x : Word) (h : OnlyRegs s t l) :
    let u := (t.setMe (t.me.withFcsr x)).advance k
    frameOn k s u l ∧ u.me.fcsr = x ∧ ∀ j, u.me.reg j = t.me.reg j := by
  intro u
  have h1 : (t.setMe (t.me.withFcsr x)).me = t.me.withFcsr x := State.setMe_me t _
  have hu : u.me = (t.me.withFcsr x).atPc ((t.me.withFcsr x).pcPast k) := by
    rw [show u.me = _ from State.advance_me _ _, h1]
  have hw : u.warps = mapPut t.warps t.cur u.me := by
    rw [show u.me = _ from State.advance_me _ _]
    rw [show u = _ from State.advance_eq _ _]
    generalize (t.setMe (t.me.withFcsr x)).me.atPc ((t.setMe (t.me.withFcsr x)).me.pcPast k) = y
    show mapPut (mapPut t.warps t.cur _) t.cur _ = _
    rw [mapPut_put]
  refine ⟨⟨⟨h.quiet.device, h.quiet.groups, ?_, ?_⟩, ⟨h.straight.1, h.straight.2⟩, ?_, ?_, ?_, ?_⟩, ?_, ?_⟩
  · rw [hw, h.quiet.warps, State.besides_cur h.quiet.device, mapPut_put]
  · rw [hu, Warp.atPc_besides, Warp.withFcsr_besides, h.quiet.warp]
  · rw [hu, Warp.atPc_m, Warp.withFcsr_m]; exact h.masks.1
  · rw [hu, Warp.atPc_pc, Warp.pcPast, Warp.withFcsr_pc, h.pc]; rfl
  · rw [hu, Warp.atPc_pendings, Warp.withFcsr_pendings]; exact h.pending
  · intro j hj; rw [hu, Warp.atPc_reg, Warp.withFcsr_reg]; exact h.others j hj
  · rw [hu, Warp.atPc_fcsr, Warp.withFcsr_fcsr]
  · intro j; rw [hu, Warp.atPc_reg, Warp.withFcsr_reg]

theorem deliverV_eq (s : State) (d : Nat) (m : Mask) (fmt : BitVec 4) (uni : Bool) (r : Lane → Word × Flags) :
    s.deliverV d m fmt uni 0 (perLane r) =
      { st :=
          (s.writeV d (m &&& ~~~trapLanes (s.flagTraps m (fun l => (r l).2))) (entryOf uni (fun l => (r l).1)) fmt).setMe
            ((s.writeV d (m &&& ~~~trapLanes (s.flagTraps m (fun l => (r l).2))) (entryOf uni (fun l => (r l).1)) fmt).me.withFcsr
              ((s.writeV d (m &&& ~~~trapLanes (s.flagTraps m (fun l => (r l).2))) (entryOf uni (fun l => (r l).1)) fmt).me.fcsr
                ||| (s.flagsOf (m &&& ~~~trapLanes (s.flagTraps m (fun l => (r l).2))) (fun l => (r l).2)).setWidth 32))
        traps := s.flagTraps m (fun l => (r l).2) } := by
  have h1 : (fun l => (Lanes.at (perLane r) l).2) = (fun l => (r l).2) := by funext l; rw [perLane_at]
  have h2 : (fun l => (Lanes.at (perLane r) l).1) = (fun l => (r l).1) := by funext l; rw [perLane_at]
  have h3 : (fun (s : State) ok => s.later 0 ok [(d, fmt, entryOf uni (fun l => (Lanes.at (perLane r) l).1))]
        (s.lateFlags ok (perLane r))) =
      (fun s ok => s.writeV d ok (entryOf uni (fun l => (r l).1)) fmt) := by
    funext s ok
    rw [h2]
    rfl
  unfold State.deliverV
  rw [h1, h3]
  generalize entryOf uni (fun l => (r l).1) = e
  rfl

/-- The mould of R128 for one register, with no lookahead: the value of each lane and its flags. -/
theorem issue_delivers {u : Use} {s : State} {i : Instr} {body : State → Mask → Eff} {d : BitVec 5} {fmt : BitVec 4}
    {uni : Bool} {r : Lane → Word × Flags} (he : exec i s = .next (issue u s body)) (h : s.runs i) (hu : s.useOf i = some u)
    (hr : uni = true → ∀ l, (r l).1 = (r 0).1)
    (hb : body (s.acting u) (s.active u) = (s.acting u).deliverV d.toNat (s.active u) fmt uni 0 (perLane r)) :
    delivers s i (s.me.regNo d.toNat) fmt r := by
  unfold delivers
  rw [State.on_eq hu]
  rw [deliverV_eq] at hb
  have hf : (s.acting u).flagTraps (s.active u) (fun l => (r l).2) = s.flagTraps (s.active u) (fun l => (r l).2) := rfl
  have hg : ∀ m, (s.acting u).flagsOf m (fun l => (r l).2) = s.flagsOf m (fun l => (r l).2) := fun _ => rfl
  rw [hf, hg] at hb
  generalize s.flagTraps (s.active u) (fun l => (r l).2) = ts at hb ⊢
  intro ts' ok
  have hok : s.active u &&& ~~~trapLanes ts = ok := rfl
  rw [hok] at hb
  have o := writeV_only s (s.active u) d.toNat ok (entryOf uni (fun l => (r l).1)) fmt d.isLt
  obtain ⟨_, w⟩ := writeV_spec (s.actingOn (s.active u)) d.toNat ok (entryOf uni (fun l => (r l).1)) fmt d.isLt
  rw [← State.acting_eq] at o w
  generalize hx : (s.acting u).writeV d.toNat ok (entryOf uni (fun l => (r l).1)) fmt = x at hb o w
  rw [o.masks.2] at hb
  generalize hfl : s.me.fcsr ||| (s.flagsOf ok (fun l => (r l).2)).setWidth 32 = fl at hb ⊢
  have f := flags_frame (s.bundle &&& ~~~trapLanes ts) fl o
  refine ⟨_, ?_, f.1, ⟨?_, ?_, ?_⟩, f.2.1⟩
  · rw [he, issue_traps u s body h.1 (h.check hu) (by rw [hb]), hb, bundle_all]
  · intro l hl
    exact ((congrArg (fun x => x.entry.at l) (f.2.2 _)).trans (w.inside l hl)).trans
      (entryOf_at _ _ _ (fun e => (hr e l).symm))
  · intro l hl hm; exact (congrArg (fun x => x.entry.at l) (f.2.2 _)).trans (w.outside l hl hm)
  · intro hm; exact (congrArg VReg.fmt (f.2.2 _)).trans (w.format hm)

end Sys2Proof.Machine
end

