-- ==== Sys2Proof/Laws/Memory.lean ====
section
/-! SUPPORT. Physical memory: reading after writing, and that every operation keeps the canonical form. -/

namespace Sys2Proof.Machine

/-! ### Reading after writing -/

/-- A byte read after one byte is written. -/
theorem Mem.byte_setByte (m : Mem) (a x : Nat) (b : Byte) :
    (m.setByte a b).byte x = if x = a then b else m.byte x := by
  unfold Mem.setByte
  by_cases h : x = a
  · subst h
    split
    · next e => simp [Mem.byte, mapHas_del, e]
    · simp [Mem.byte, mapHas_put]
  · split
    · simp [Mem.byte, mapHas_del, h, mapGet_del_ne _ _ h]
    · simp [Mem.byte, mapHas_put, h, mapGet_put_ne _ _ _ h]

/-- A byte read after n bytes are written from a upward. -/
theorem Mem.byte_setBytes (m : Mem) (a x : Nat) (l : List Byte) :
    (m.setBytes a l).byte x = if a ≤ x ∧ x < a + l.length then l.getD (x - a) 0#8 else m.byte x := by
  induction l generalizing m a with
  | nil => rw [if_neg (by simp)]; rfl
  | cons b t ih =>
    simp only [Mem.setBytes, ih, Mem.byte_setByte, List.length_cons]
    by_cases h : x = a
    · subst h
      rw [if_neg (by omega), if_pos (by omega)]
      simp
    · by_cases h1 : a + 1 ≤ x ∧ x < a + 1 + t.length
      · have h2 : a ≤ x ∧ x < a + (t.length + 1) := by omega
        obtain ⟨k, hk⟩ : ∃ k, x - a = k + 1 := ⟨x - a - 1, by omega⟩
        have : x - (a + 1) = k := by omega
        rw [if_pos h1, if_pos h2, hk, this, List.getD_cons_succ]
      · have h2 : ¬(a ≤ x ∧ x < a + (t.length + 1)) := by omega
        rw [if_neg h1, if_neg h2, if_neg h]

/-- A byte outside the n bytes written keeps its value. -/
theorem Mem.byte_setNum_outside (m : Mem) (a n v x : Nat) (h : x < a ∨ a + n ≤ x) :
    (m.setNum a n v).byte x = m.byte x := by
  have len : ∀ n v, (bytesOfNat n v).length = n := by
    intro n
    induction n with
    | zero => intro v; rfl
    | succ k ih => intro v; simp [bytesOfNat, ih]
  unfold Mem.setNum
  rw [Mem.byte_setBytes, len, if_neg (by omega)]

/-- The little-endian bytes of a number, read back. -/
theorem natOfBytes_bytesOfNat (n x : Nat) : natOfBytes (bytesOfNat n x) = x % 256 ^ n := by
  induction n generalizing x with
  | zero => simp [bytesOfNat, natOfBytes, Nat.mod_one]
  | succ k ih =>
    have e : (BitVec.ofNat 8 x).toNat = x % 256 := by simp
    rw [bytesOfNat, natOfBytes, ih, e, Nat.pow_succ, Nat.mul_comm (256 ^ k) 256, Nat.mod_mul]

/-- The bytes just written, read back. -/
theorem Mem.bytes_setBytes (m : Mem) (a : Nat) (l : List Byte) : (m.setBytes a l).bytes a l.length = l := by
  have key : ∀ (n : Nat) (m : Mem) (b : Nat), b + n = a + l.length → a ≤ b →
      (m.setBytes a l).bytes b n = l.drop (b - a) := by
    intro n
    induction n with
    | zero => intro m b h1 h2; simp [Mem.bytes]; omega
    | succ k ih =>
      intro m b h1 h2
      have hb : b - a < l.length := by omega
      simp only [Mem.bytes, Mem.byte_setBytes]
      rw [if_pos (by omega), ih m (b + 1) (by omega) (by omega)]
      have e : b + 1 - a = (b - a) + 1 := by omega
      rw [e, List.drop_eq_getElem_cons hb]
      simp [hb]
  simpa using key l.length m a rfl (Nat.le_refl a)

/-- A number just written, read back. -/
theorem Mem.num_setNum (m : Mem) (a n x : Nat) : (m.setNum a n x).num a n = x % 256 ^ n := by
  have len : ∀ n v, (bytesOfNat n v).length = n := by
    intro n
    induction n with
    | zero => intro v; rfl
    | succ k ih => intro v; simp [bytesOfNat, ih]
  unfold Mem.num Mem.setNum
  have := Mem.bytes_setBytes m a (bytesOfNat n x)
  rw [len] at this
  rw [this, natOfBytes_bytesOfNat]

/-! ### The canonical form -/

theorem Mem.wf_iff (m : Mem) : m.wf = true ↔ mapRising m.hbm = true ∧ m.hbm.all (fun c => c.2 != 0#8) = true ∧
    mapRising m.l2 = true ∧ m.l2.all (fun c => mapGet 0#8 m.hbm c.1 != c.2) = true := by
  simp [Mem.wf, Bool.and_eq_true, and_assoc]

/-- Storing a byte keeps the form. -/
theorem Mem.wf_setByte {m : Mem} (h : m.wf = true) (a : Nat) (b : Byte) : (m.setByte a b).wf = true := by
  rw [Mem.wf_iff] at h
  obtain ⟨h1, h2, h3, h4⟩ := h
  unfold Mem.setByte
  split
  · rw [Mem.wf_iff]
    exact ⟨h1, h2, mapRising_del _ _ h3, all_del (fun k v => mapGet 0#8 m.hbm k != v) _ _ h4⟩
  · next e =>
    rw [Mem.wf_iff]
    exact ⟨h1, h2, mapRising_put _ _ _ h3,
      all_put (fun k v => mapGet 0#8 m.hbm k != v) _ _ _ h4 (by simpa using e)⟩

theorem Mem.wf_setBytes {m : Mem} (h : m.wf = true) (a : Nat) (l : List Byte) : (m.setBytes a l).wf = true := by
  induction l generalizing m a with
  | nil => exact h
  | cons b t ih => exact ih (Mem.wf_setByte h a b) (a + 1)

theorem Mem.wf_setNum {m : Mem} (h : m.wf = true) (a n x : Nat) : (m.setNum a n x).wf = true :=
  Mem.wf_setBytes h a _

theorem mem_mapDel {α : Type} {m : Map α} {k : Nat} {c : Nat × α} (h : c ∈ mapDel m k) : c ∈ m ∧ c.1 ≠ k := by
  induction m with
  | nil => simp [mapDel] at h
  | cons x t ih =>
    obtain ⟨a, b⟩ := x
    simp only [mapDel] at h
    split at h
    · exact ⟨List.mem_cons_of_mem _ (ih h).1, (ih h).2⟩
    · next e =>
      rcases List.mem_cons.1 h with h | h
      · subst h; exact ⟨List.mem_cons_self .., fun e' => e e'.symm⟩
      · exact ⟨List.mem_cons_of_mem _ (ih h).1, (ih h).2⟩

/-- Writing a byte back to HBM keeps the form. -/
theorem Mem.wf_cleanByte {m : Mem} (h : m.wf = true) (a : Nat) : (m.cleanByte a).wf = true := by
  unfold Mem.cleanByte
  split
  · rw [Mem.wf_iff] at h ⊢
    obtain ⟨h1, h2, h3, h4⟩ := h
    refine ⟨?_, ?_, mapRising_del _ _ h3, ?_⟩
    · dsimp only [mapSet]
      split
      · exact mapRising_del _ _ h1
      · exact mapRising_put _ _ _ h1
    · dsimp only [mapSet]
      split
      · exact all_del (fun _ v => v != 0#8) _ _ h2
      · next e => exact all_put (fun _ v => v != 0#8) _ _ _ h2 (by simpa using e)
    · rw [List.all_eq_true] at h4 ⊢
      intro c hc
      obtain ⟨hm, hne⟩ := mem_mapDel hc
      have := h4 c hm
      simpa [mapGet_set, hne] using this
  · exact h

theorem Mem.wf_clean {m : Mem} (h : m.wf = true) (a n : Nat) : (m.clean a n).wf = true := by
  induction n generalizing m a with
  | zero => exact h
  | succ k ih => exact ih (Mem.wf_cleanByte h a) (a + 1)

/-- Dropping L2 bytes keeps the form. -/
theorem Mem.wf_drop {m : Mem} (h : m.wf = true) (a n : Nat) : (m.drop a n).wf = true := by
  induction n generalizing m a with
  | zero => exact h
  | succ k ih =>
    refine ih ?_ (a + 1)
    rw [Mem.wf_iff] at h ⊢
    obtain ⟨h1, h2, h3, h4⟩ := h
    exact ⟨h1, h2, mapRising_del _ _ h3, all_del (fun k v => mapGet 0#8 m.hbm k != v) _ _ h4⟩

/-- The poison and line tags play no part in the form. -/
theorem Mem.wf_tagLine {m : Mem} (h : m.wf = true) (pa : Nat) (t : Option (Nat × Nat)) : (m.tagLine pa t).wf = true := by
  unfold Mem.tagLine
  split
  · split <;> exact h
  · exact h

theorem mapAbove_filter {α : Type} (p : Nat × α → Bool) (a : Nat) (m : Map α) (h : mapAbove a m = true)
    (hr : mapRising m = true) : mapAbove a (m.filter p) = true := by
  induction m with
  | nil => rfl
  | cons c t ih =>
    obtain ⟨x, y⟩ := c
    rw [mapRising_cons] at hr
    simp only [Bool.and_eq_true] at hr
    rw [List.filter_cons]
    split
    · exact h
    · exact ih (mapAbove_trans t hr.1 (by simpa [mapAbove] using h)) hr.2

theorem mapRising_filter {α : Type} (p : Nat × α → Bool) (m : Map α) (h : mapRising m = true) :
    mapRising (m.filter p) = true := by
  induction m with
  | nil => rfl
  | cons c t ih =>
    obtain ⟨a, b⟩ := c
    rw [mapRising_cons] at h
    simp only [Bool.and_eq_true] at h
    rw [List.filter_cons]
    split
    · rw [mapRising_cons, mapAbove_filter p a t h.1 h.2, ih h.2]; rfl
    · exact ih h.2

theorem mapGet_filter {α : Type} (d : α) (p : Nat → Bool) (m : Map α) (k : Nat) (h : p k = true) :
    mapGet d (m.filter (fun e => p e.1)) k = mapGet d m k := by
  induction m with
  | nil => rfl
  | cons c t ih =>
    obtain ⟨a, b⟩ := c
    rw [List.filter_cons]
    by_cases hp : p a = true
    · simp [hp, mapGet, ih]
    · have : k ≠ a := by rintro rfl; exact hp h
      simp [hp, mapGet, ih, this]

/-- The scrub of a warm start keeps the form. -/
theorem Mem.wf_scrubWorlds {m : Mem} (h : m.wf = true) : m.scrubWorlds.wf = true := by
  rw [Mem.wf_iff] at h ⊢
  obtain ⟨h1, h2, h3, h4⟩ := h
  refine ⟨mapRising_filter _ _ h1, ?_, mapRising_filter _ _ h3, ?_⟩
  · rw [List.all_eq_true] at h2 ⊢
    intro c hc
    exact h2 c (List.mem_filter.1 hc).1
  · rw [List.all_eq_true] at h4 ⊢
    intro c hc
    have h5 := h4 c (List.mem_filter.1 hc).1
    have h6 := (List.mem_filter.1 hc).2
    dsimp only [Mem.scrubWorlds]
    rw [mapGet_filter 0#8 (fun k => !m.lines.any (fun l => l.1 / 1024 == k / 65536)) m.hbm c.1 h6]
    exact h5

/-- Memory at reset has the form. -/
theorem Mem.wf_reset : Mem.reset.wf = true := by decide

end Sys2Proof.Machine
end

