-- ==== Sys2Proof/Laws/PerInstr.lean ====
section
/-! SUPPORT. Statements made per instruction. RoundTrip: the word of a well-formed instruction decodes to that instruction. -/

namespace Sys2Proof.Laws.RoundTrip

set_option Elab.async false

/-- The word that the encoder gives a well-formed instruction decodes to it (R41, R44). -/
def Statement (i : Instr) : Prop := i.wf = true → i.isWord = true → decode (encode i) = .ok i

/-- Fields by width and value, lowest first, packed into a number. -/
def pack : List (Nat × Nat) → Nat
  | [] => 0
  | (k, v) :: t => v + 2 ^ k * pack t
/-- Every value fits its width. -/
def Fit : List (Nat × Nat) → Prop
  | [] => True
  | (k, v) :: t => v < 2 ^ k ∧ Fit t
/-- The width of the first n fields. -/
def width : Nat → List (Nat × Nat) → Nat
  | 0, _ => 0
  | _, [] => 0
  | n + 1, (k, _) :: t => k + width n t

theorem pack_div {l : List (Nat × Nat)} (fit : Fit l) (j : Nat) : pack l / 2 ^ width j l = pack (l.drop j) := by
  induction j generalizing l with
  | zero => simp [width]
  | succ n ih =>
    match l, fit with
    | [], _ => simp [width, pack]
    | (k, v) :: t, ⟨h, f⟩ =>
      rw [width, pack, Nat.pow_add, ← Nat.div_div_eq_div_mul, Nat.add_mul_div_left _ _ (Nat.two_pow_pos k), Nat.div_eq_of_lt h,
        Nat.zero_add, ih f, List.drop_succ_cons]

theorem pack_mod {l : List (Nat × Nat)} (fit : Fit l) (n : Nat) : pack l % 2 ^ width n l = pack (l.take n) := by
  induction n generalizing l with
  | zero => simp [width, pack, Nat.mod_one]
  | succ n ih =>
    match l, fit with
    | [], _ => simp [width, pack]
    | (k, v) :: t, ⟨h, f⟩ =>
      rw [width, pack, Nat.pow_add, Nat.mod_mul, Nat.add_mul_mod_self_left, Nat.mod_eq_of_lt h,
        Nat.add_mul_div_left _ _ (Nat.two_pow_pos k), Nat.div_eq_of_lt h, Nat.zero_add, ih f, List.take_succ_cons, pack]

theorem Fit.drop {l : List (Nat × Nat)} (fit : Fit l) (j : Nat) : Fit (l.drop j) := by
  induction j generalizing l with
  | zero => exact fit
  | succ n ih =>
    match l, fit with
    | [], _ => trivial
    | _ :: t, ⟨_, f⟩ => exact ih f

/-- n fields from the j-th on, read from the word. -/
theorem bits_pack {w : Word} {l : List (Nat × Nat)} (e : w.toNat = pack l) (fit : Fit l) (j n : Nat) {lo len v : Nat}
    (ho : width j l = lo) (hl : width n (l.drop j) = len) (hv : pack ((l.drop j).take n) = v) : bits w lo len = v := by
  subst ho hl hv
  rw [bits, e, pack_div fit, pack_mod (fit.drop j)]
/-! The j-th field alone, for each place j. -/

theorem at0 {w : Word} {k0 v0 lo : Nat} {t : List (Nat × Nat)} (e : w.toNat = pack ((k0, v0) :: t))
    (fit : Fit ((k0, v0) :: t)) (ho : 0 = lo) : bits w lo k0 = v0 :=
  bits_pack e fit 0 1 ho rfl rfl
theorem at1 {w : Word} {k0 v0 k1 v1 lo : Nat} {t : List (Nat × Nat)} (e : w.toNat = pack ((k0, v0) :: (k1, v1) :: t))
    (fit : Fit ((k0, v0) :: (k1, v1) :: t)) (ho : k0 + 0 = lo) : bits w lo k1 = v1 :=
  bits_pack e fit 1 1 ho rfl rfl
theorem at2 {w : Word} {k0 v0 k1 v1 k2 v2 lo : Nat} {t : List (Nat × Nat)} (e : w.toNat = pack ((k0, v0) :: (k1, v1) :: (k2, v2) :: t))
    (fit : Fit ((k0, v0) :: (k1, v1) :: (k2, v2) :: t)) (ho : k0 + (k1 + 0) = lo) : bits w lo k2 = v2 :=
  bits_pack e fit 2 1 ho rfl rfl
theorem at3 {w : Word} {k0 v0 k1 v1 k2 v2 k3 v3 lo : Nat} {t : List (Nat × Nat)} (e : w.toNat = pack ((k0, v0) :: (k1, v1) :: (k2, v2) :: (k3, v3) :: t))
    (fit : Fit ((k0, v0) :: (k1, v1) :: (k2, v2) :: (k3, v3) :: t)) (ho : k0 + (k1 + (k2 + 0)) = lo) : bits w lo k3 = v3 :=
  bits_pack e fit 3 1 ho rfl rfl
theorem at4 {w : Word} {k0 v0 k1 v1 k2 v2 k3 v3 k4 v4 lo : Nat} {t : List (Nat × Nat)} (e : w.toNat = pack ((k0, v0) :: (k1, v1) :: (k2, v2) :: (k3, v3) :: (k4, v4) :: t))
    (fit : Fit ((k0, v0) :: (k1, v1) :: (k2, v2) :: (k3, v3) :: (k4, v4) :: t)) (ho : k0 + (k1 + (k2 + (k3 + 0))) = lo) : bits w lo k4 = v4 :=
  bits_pack e fit 4 1 ho rfl rfl
theorem at5 {w : Word} {k0 v0 k1 v1 k2 v2 k3 v3 k4 v4 k5 v5 lo : Nat} {t : List (Nat × Nat)} (e : w.toNat = pack ((k0, v0) :: (k1, v1) :: (k2, v2) :: (k3, v3) :: (k4, v4) :: (k5, v5) :: t))
    (fit : Fit ((k0, v0) :: (k1, v1) :: (k2, v2) :: (k3, v3) :: (k4, v4) :: (k5, v5) :: t)) (ho : k0 + (k1 + (k2 + (k3 + (k4 + 0)))) = lo) : bits w lo k5 = v5 :=
  bits_pack e fit 5 1 ho rfl rfl
theorem at6 {w : Word} {k0 v0 k1 v1 k2 v2 k3 v3 k4 v4 k5 v5 k6 v6 lo : Nat} {t : List (Nat × Nat)} (e : w.toNat = pack ((k0, v0) :: (k1, v1) :: (k2, v2) :: (k3, v3) :: (k4, v4) :: (k5, v5) :: (k6, v6) :: t))
    (fit : Fit ((k0, v0) :: (k1, v1) :: (k2, v2) :: (k3, v3) :: (k4, v4) :: (k5, v5) :: (k6, v6) :: t)) (ho : k0 + (k1 + (k2 + (k3 + (k4 + (k5 + 0))))) = lo) : bits w lo k6 = v6 :=
  bits_pack e fit 6 1 ho rfl rfl
theorem at7 {w : Word} {k0 v0 k1 v1 k2 v2 k3 v3 k4 v4 k5 v5 k6 v6 k7 v7 lo : Nat} {t : List (Nat × Nat)} (e : w.toNat = pack ((k0, v0) :: (k1, v1) :: (k2, v2) :: (k3, v3) :: (k4, v4) :: (k5, v5) :: (k6, v6) :: (k7, v7) :: t))
    (fit : Fit ((k0, v0) :: (k1, v1) :: (k2, v2) :: (k3, v3) :: (k4, v4) :: (k5, v5) :: (k6, v6) :: (k7, v7) :: t)) (ho : k0 + (k1 + (k2 + (k3 + (k4 + (k5 + (k6 + 0)))))) = lo) : bits w lo k7 = v7 :=
  bits_pack e fit 7 1 ho rfl rfl
theorem at8 {w : Word} {k0 v0 k1 v1 k2 v2 k3 v3 k4 v4 k5 v5 k6 v6 k7 v7 k8 v8 lo : Nat} {t : List (Nat × Nat)} (e : w.toNat = pack ((k0, v0) :: (k1, v1) :: (k2, v2) :: (k3, v3) :: (k4, v4) :: (k5, v5) :: (k6, v6) :: (k7, v7) :: (k8, v8) :: t))
    (fit : Fit ((k0, v0) :: (k1, v1) :: (k2, v2) :: (k3, v3) :: (k4, v4) :: (k5, v5) :: (k6, v6) :: (k7, v7) :: (k8, v8) :: t)) (ho : k0 + (k1 + (k2 + (k3 + (k4 + (k5 + (k6 + (k7 + 0))))))) = lo) : bits w lo k8 = v8 :=
  bits_pack e fit 8 1 ho rfl rfl
theorem at9 {w : Word} {k0 v0 k1 v1 k2 v2 k3 v3 k4 v4 k5 v5 k6 v6 k7 v7 k8 v8 k9 v9 lo : Nat} {t : List (Nat × Nat)} (e : w.toNat = pack ((k0, v0) :: (k1, v1) :: (k2, v2) :: (k3, v3) :: (k4, v4) :: (k5, v5) :: (k6, v6) :: (k7, v7) :: (k8, v8) :: (k9, v9) :: t))
    (fit : Fit ((k0, v0) :: (k1, v1) :: (k2, v2) :: (k3, v3) :: (k4, v4) :: (k5, v5) :: (k6, v6) :: (k7, v7) :: (k8, v8) :: (k9, v9) :: t)) (ho : k0 + (k1 + (k2 + (k3 + (k4 + (k5 + (k6 + (k7 + (k8 + 0)))))))) = lo) : bits w lo k9 = v9 :=
  bits_pack e fit 9 1 ho rfl rfl

/-- The word of an instruction whose encoding is the fields l. -/
theorem toNat_pack {w : Word} {i : Instr} {l : List (Nat × Nat)} (h : w = encode i) (fit : Fit l) (t : width l.length l = 32)
    (e : encodeNat i = pack l) : w.toNat = pack l := by
  have k := pack_mod fit l.length
  rw [t, List.take_length] at k
  rw [h, encode, e, BitVec.toNat_ofNat, k]

theorem fld_eq {w : Word} {lo len : Nat} {x : BitVec len} (h : bits w lo len = x.toNat) : fld w lo len = x := by
  apply BitVec.eq_of_toNat_eq
  simpa [fld, bits] using h

theorem srcCode_lt (a : Src) : srcCode a < 256 := by
  have h := a.reg.isLt
  obtain ⟨p, r⟩ := a
  cases p <;> simp [srcCode, permCode] <;> omega

theorem srcAt_eq {w : Word} {lo : Nat} {a : Src} (h : bits w lo 8 = srcCode a) : srcAt w lo = a := by
  obtain ⟨p, r⟩ := a
  have hr := r.isLt
  have key : ∀ n, n % 256 = permCode p * 32 + r.toNat → n / 32 % 8 = permCode p ∧ n % 32 = r.toNat := by
    intro n hn
    cases p <;> simp only [permCode] at hn ⊢ <;> omega
  have k := key _ (show w.toNat / 2 ^ lo % 256 = _ from h)
  have e : bits w (lo + 5) 3 = w.toNat / 2 ^ lo / 32 % 8 := by
    simp [bits, Nat.pow_add, Nat.div_div_eq_div_mul]
  have h1 : permOf (bits w (lo + 5) 3) = p := by
    rw [e, k.1]
    cases p <;> rfl
  have h2 : fld w lo 5 = r := fld_eq (show w.toNat / 2 ^ lo % 32 = _ from k.2)
  simp [srcAt, h1, h2]

/-- The major of a word. -/
theorem major {w : Word} {m : Nat} (h : bits w 26 6 = m) : w.toNat / 2 ^ 26 = m := by
  have k := w.isLt
  unfold bits at h
  omega

theorem of_row {w : Word} {i : Instr} (h : w = encode i) (r : decodeRow w = some i) : Statement i := by
  intro hwf _
  subst h
  simp [decode, r, hwf]

theorem event {i : Instr} (h : encodeNat i = 0) : Statement i := by
  intro _ hw
  simp [Instr.isWord, h] at hw


theorem row01 {w : Word} (h : bits w 26 6 = 1) : decodeRow w = decode01 w := by
  rw [decodeRow, major h]; rfl
theorem row02 {w : Word} (h : bits w 26 6 = 2) : decodeRow w = decode02 w := by
  rw [decodeRow, major h]; rfl
theorem row03 {w : Word} (h : bits w 26 6 = 3) : decodeRow w = decode03 w := by
  rw [decodeRow, major h]; rfl
theorem row04 {w : Word} (h : bits w 26 6 = 4) : decodeRow w = decode04 w := by
  rw [decodeRow, major h]; rfl
theorem row05 {w : Word} (h : bits w 26 6 = 5) : decodeRow w = decode05 w := by
  rw [decodeRow, major h]; rfl
theorem row08 {w : Word} (h : bits w 26 6 = 8) : decodeRow w = decode08 w := by
  rw [decodeRow, major h]; rfl
theorem row09 {w : Word} (h : bits w 26 6 = 9) : decodeRow w = decode09 w := by
  rw [decodeRow, major h]; rfl
theorem row0A {w : Word} (h : bits w 26 6 = 10) : decodeRow w = decode0A w := by
  rw [decodeRow, major h]; rfl
theorem row10 {w : Word} (h : bits w 26 6 = 16) : decodeRow w = decode10 w := by
  rw [decodeRow, major h]; rfl
theorem row11 {w : Word} (h : bits w 26 6 = 17) : decodeRow w = decode11 w := by
  rw [decodeRow, major h]; rfl
theorem row12 {w : Word} (h : bits w 26 6 = 18) : decodeRow w = decode12 w := by
  rw [decodeRow, major h]; rfl
theorem row13 {w : Word} (h : bits w 26 6 = 19) : decodeRow w = decode13 w := by
  rw [decodeRow, major h]; rfl
theorem row14 {w : Word} (h : bits w 26 6 = 20) : decodeRow w = decode14 w := by
  rw [decodeRow, major h]; rfl
theorem row15 {w : Word} (h : bits w 26 6 = 21) : decodeRow w = decode15 w := by
  rw [decodeRow, major h]; rfl
theorem row16 {w : Word} (h : bits w 26 6 = 22) : decodeRow w = decode16 w := by
  rw [decodeRow, major h]; rfl
theorem row17 {w : Word} (h : bits w 26 6 = 23) : decodeRow w = decode17 w := by
  rw [decodeRow, major h]; rfl
theorem row18 {w : Word} (h : bits w 26 6 = 24) : decodeRow w = decode18 w := by
  rw [decodeRow, major h]; rfl
theorem row19 {w : Word} (h : bits w 26 6 = 25) : decodeRow w = decode19 w := by
  rw [decodeRow, major h]; rfl
theorem row1A {w : Word} (h : bits w 26 6 = 26) : decodeRow w = decode1A w := by
  rw [decodeRow, major h]; rfl
theorem row1B {w : Word} (h : bits w 26 6 = 27) : decodeRow w = decode1B w := by
  rw [decodeRow, major h]; rfl
theorem row1C {w : Word} (h : bits w 26 6 = 28) : decodeRow w = decode1C w := by
  rw [decodeRow, major h]; rfl
theorem row1D {w : Word} (h : bits w 26 6 = 29) : decodeRow w = decode1D w := by
  rw [decodeRow, major h]; rfl
theorem row20 {w : Word} (h : bits w 26 6 = 32) : decodeRow w = decode20 w := by
  rw [decodeRow, major h]; rfl
theorem row21 {w : Word} (h : bits w 26 6 = 33) : decodeRow w = decode21 w := by
  rw [decodeRow, major h]; rfl
theorem row22 {w : Word} (h : bits w 26 6 = 34) : decodeRow w = decode22 w := by
  rw [decodeRow, major h]; rfl
theorem row23 {w : Word} (h : bits w 26 6 = 35) : decodeRow w = decode23 w := by
  rw [decodeRow, major h]; rfl
theorem row24 {w : Word} (h : bits w 26 6 = 36) : decodeRow w = decode24 w := by
  rw [decodeRow, major h]; rfl
theorem row25 {w : Word} (h : bits w 26 6 = 37) : decodeRow w = decode25 w := by
  rw [decodeRow, major h]; rfl
theorem row26 {w : Word} (h : bits w 26 6 = 38) : decodeRow w = decode26 w := by
  rw [decodeRow, major h]; rfl
theorem row27 {w : Word} (h : bits w 26 6 = 39) : decodeRow w = decode27 w := by
  rw [decodeRow, major h]; rfl
theorem row28 {w : Word} (h : bits w 26 6 = 40) : decodeRow w = decode28 w := by
  rw [decodeRow, major h]; rfl
theorem row29 {w : Word} (h : bits w 26 6 = 41) : decodeRow w = decode29 w := by
  rw [decodeRow, major h]; rfl
theorem row2A {w : Word} (h : bits w 26 6 = 42) : decodeRow w = decode2A w := by
  rw [decodeRow, major h]; rfl
theorem row2B {w : Word} (h : bits w 26 6 = 43) : decodeRow w = decode2B w := by
  rw [decodeRow, major h]; rfl
theorem row2C {w : Word} (h : bits w 26 6 = 44) : decodeRow w = decode2C w := by
  rw [decodeRow, major h]; rfl
theorem row2D {w : Word} (h : bits w 26 6 = 45) : decodeRow w = decode2D w := by
  rw [decodeRow, major h]; rfl
theorem row2E {w : Word} (h : bits w 26 6 = 46) : decodeRow w = decode2E w := by
  rw [decodeRow, major h]; rfl
theorem row30 {w : Word} (h : bits w 26 6 = 48) : decodeRow w = decode30 w := by
  rw [decodeRow, major h]; rfl
theorem row31 {w : Word} (h : bits w 26 6 = 49) : decodeRow w = decode31 w := by
  rw [decodeRow, major h]; rfl
theorem row32 {w : Word} (h : bits w 26 6 = 50) : decodeRow w = decode32 w := by
  rw [decodeRow, major h]; rfl
theorem row33 {w : Word} (h : bits w 26 6 = 51) : decodeRow w = decode33 w := by
  rw [decodeRow, major h]; rfl
theorem row34 {w : Word} (h : bits w 26 6 = 52) : decodeRow w = decode34 w := by
  rw [decodeRow, major h]; rfl
theorem row35 {w : Word} (h : bits w 26 6 = 53) : decodeRow w = decode35 w := by
  rw [decodeRow, major h]; rfl
theorem row36 {w : Word} (h : bits w 26 6 = 54) : decodeRow w = decode36 w := by
  rw [decodeRow, major h]; rfl
theorem row37 {w : Word} (h : bits w 26 6 = 55) : decodeRow w = decode37 w := by
  rw [decodeRow, major h]; rfl
theorem row38 {w : Word} (h : bits w 26 6 = 56) : decodeRow w = decode38 w := by
  rw [decodeRow, major h]; rfl
theorem row39 {w : Word} (h : bits w 26 6 = 57) : decodeRow w = decode39 w := by
  rw [decodeRow, major h]; rfl
theorem row3A {w : Word} (h : bits w 26 6 = 58) : decodeRow w = decode3A w := by
  rw [decodeRow, major h]; rfl
theorem row3B {w : Word} (h : bits w 26 6 = 59) : decodeRow w = decode3B w := by
  rw [decodeRow, major h]; rfl
theorem row3C {w : Word} (h : bits w 26 6 = 60) : decodeRow w = decode3C w := by
  rw [decodeRow, major h]; rfl
theorem row3D {w : Word} (h : bits w 26 6 = 61) : decodeRow w = decode3D w := by
  rw [decodeRow, major h]; rfl
theorem row3E {w : Word} (h : bits w 26 6 = 62) : decodeRow w = decode3E w := by
  rw [decodeRow, major h]; rfl

theorem bra (x0 : BitVec 18) : Statement (.bra x0) := by
  have f : Fit [(18, x0.toNat), (8, 0), (6, 1)] := ⟨x0.isLt, Nat.two_pow_pos 8, by decide, trivial⟩
  obtain ⟨w, hw⟩ : ∃ w, w = encode (.bra x0) := ⟨_, rfl⟩
  have e := toNat_pack hw f rfl (show 67108864 + x0.toNat = x0.toNat + 262144 * (0 + 256 * (1)) by omega)
  have b0 : bits w 18 8 = 0 := at1 e f rfl
  have b1 : bits w 26 6 = 1 := at2 e f rfl
  have f0 : Sys2Proof.fld w 0 18 = x0 := fld_eq (at0 e f rfl)
  exact of_row hw (by rw [row01 b1]; simp [decode01, b0, f0])
theorem brcAny (x0 : BitVec 4) (x1 : BitVec 18) : Statement (.brcAny x0 x1) := by
  have f : Fit [(18, x1.toNat), (4, x0.toNat), (4, 2), (6, 1)] := ⟨x1.isLt, x0.isLt, by decide, by decide, trivial⟩
  obtain ⟨w, hw⟩ : ∃ w, w = encode (.brcAny x0 x1) := ⟨_, rfl⟩
  have e := toNat_pack hw f rfl (show 75497472 + x0.toNat * 262144 + x1.toNat = x1.toNat + 262144 * (x0.toNat + 16 * (2 + 16 * (1))) by omega)
  have b0 : bits w 22 4 = 2 := at2 e f rfl
  have b1 : bits w 26 6 = 1 := at3 e f rfl
  have n0 : ¬bits w 18 8 = 0 := by intro h; unfold bits at h b0; omega
  have f0 : Sys2Proof.fld w 18 4 = x0 := fld_eq (at1 e f rfl)
  have f1 : Sys2Proof.fld w 0 18 = x1 := fld_eq (at0 e f rfl)
  exact of_row hw (by rw [row01 b1]; simp [decode01, b0, n0, f0, f1])
theorem brcAll (x0 : BitVec 4) (x1 : BitVec 18) : Statement (.brcAll x0 x1) := by
  have f : Fit [(18, x1.toNat), (4, x0.toNat), (4, 4), (6, 1)] := ⟨x1.isLt, x0.isLt, by decide, by decide, trivial⟩
  obtain ⟨w, hw⟩ : ∃ w, w = encode (.brcAll x0 x1) := ⟨_, rfl⟩
  have e := toNat_pack hw f rfl (show 83886080 + x0.toNat * 262144 + x1.toNat = x1.toNat + 262144 * (x0.toNat + 16 * (4 + 16 * (1))) by omega)
  have b0 : bits w 22 4 = 4 := at2 e f rfl
  have b1 : bits w 26 6 = 1 := at3 e f rfl
  have n0 : ¬bits w 18 8 = 0 := by intro h; unfold bits at h b0; omega
  have f0 : Sys2Proof.fld w 18 4 = x0 := fld_eq (at1 e f rfl)
  have f1 : Sys2Proof.fld w 0 18 = x1 := fld_eq (at0 e f rfl)
  exact of_row hw (by rw [row01 b1]; simp [decode01, b0, n0, f0, f1])
theorem brcNone (x0 : BitVec 4) (x1 : BitVec 18) : Statement (.brcNone x0 x1) := by
  have f : Fit [(18, x1.toNat), (4, x0.toNat), (4, 6), (6, 1)] := ⟨x1.isLt, x0.isLt, by decide, by decide, trivial⟩
  obtain ⟨w, hw⟩ : ∃ w, w = encode (.brcNone x0 x1) := ⟨_, rfl⟩
  have e := toNat_pack hw f rfl (show 92274688 + x0.toNat * 262144 + x1.toNat = x1.toNat + 262144 * (x0.toNat + 16 * (6 + 16 * (1))) by omega)
  have b0 : bits w 22 4 = 6 := at2 e f rfl
  have b1 : bits w 26 6 = 1 := at3 e f rfl
  have n0 : ¬bits w 18 8 = 0 := by intro h; unfold bits at h b0; omega
  have f0 : Sys2Proof.fld w 18 4 = x0 := fld_eq (at1 e f rfl)
  have f1 : Sys2Proof.fld w 0 18 = x1 := fld_eq (at0 e f rfl)
  exact of_row hw (by rw [row01 b1]; simp [decode01, b0, n0, f0, f1])
theorem brz (x0 : BitVec 5) (x1 : BitVec 18) : Statement (.brz x0 x1) := by
  have f : Fit [(18, x1.toNat), (5, x0.toNat), (3, 4), (6, 1)] := ⟨x1.isLt, x0.isLt, by decide, by decide, trivial⟩
  obtain ⟨w, hw⟩ : ∃ w, w = encode (.brz x0 x1) := ⟨_, rfl⟩
  have e := toNat_pack hw f rfl (show 100663296 + x0.toNat * 262144 + x1.toNat = x1.toNat + 262144 * (x0.toNat + 32 * (4 + 8 * (1))) by omega)
  have b0 : bits w 23 3 = 4 := at2 e f rfl
  have b1 : bits w 26 6 = 1 := at3 e f rfl
  have n0 : ¬bits w 18 8 = 0 := by intro h; unfold bits at h b0; omega
  have n1 : ¬bits w 22 4 = 2 := by intro h; unfold bits at h b0; omega
  have n2 : ¬bits w 22 4 = 4 := by intro h; unfold bits at h b0; omega
  have n3 : ¬bits w 22 4 = 6 := by intro h; unfold bits at h b0; omega
  have f0 : Sys2Proof.fld w 18 5 = x0 := fld_eq (at1 e f rfl)
  have f1 : Sys2Proof.fld w 0 18 = x1 := fld_eq (at0 e f rfl)
  exact of_row hw (by rw [row01 b1]; simp [decode01, b0, n0, n1, n2, n3, f0, f1])
theorem brnz (x0 : BitVec 5) (x1 : BitVec 18) : Statement (.brnz x0 x1) := by
  have f : Fit [(18, x1.toNat), (5, x0.toNat), (3, 5), (6, 1)] := ⟨x1.isLt, x0.isLt, by decide, by decide, trivial⟩
  obtain ⟨w, hw⟩ : ∃ w, w = encode (.brnz x0 x1) := ⟨_, rfl⟩
  have e := toNat_pack hw f rfl (show 109051904 + x0.toNat * 262144 + x1.toNat = x1.toNat + 262144 * (x0.toNat + 32 * (5 + 8 * (1))) by omega)
  have b0 : bits w 23 3 = 5 := at2 e f rfl
  have b1 : bits w 26 6 = 1 := at3 e f rfl
  have n0 : ¬bits w 18 8 = 0 := by intro h; unfold bits at h b0; omega
  have n1 : ¬bits w 22 4 = 2 := by intro h; unfold bits at h b0; omega
  have n2 : ¬bits w 22 4 = 4 := by intro h; unfold bits at h b0; omega
  have n3 : ¬bits w 22 4 = 6 := by intro h; unfold bits at h b0; omega
  have f0 : Sys2Proof.fld w 18 5 = x0 := fld_eq (at1 e f rfl)
  have f1 : Sys2Proof.fld w 0 18 = x1 := fld_eq (at0 e f rfl)
  exact of_row hw (by rw [row01 b1]; simp [decode01, b0, n0, n1, n2, n3, f0, f1])
theorem park (x0 : BitVec 4) (x1 : BitVec 18) : Statement (.park x0 x1) := by
  have f : Fit [(18, x1.toNat), (4, x0.toNat), (1, 0), (3, 6), (6, 1)] := ⟨x1.isLt, x0.isLt, Nat.two_pow_pos 1, by decide, by decide, trivial⟩
  obtain ⟨w, hw⟩ : ∃ w, w = encode (.park x0 x1) := ⟨_, rfl⟩
  have e := toNat_pack hw f rfl (show 117440512 + x0.toNat * 262144 + x1.toNat = x1.toNat + 262144 * (x0.toNat + 16 * (0 + 2 * (6 + 8 * (1)))) by omega)
  have b0 : bits w 22 4 = 12 := bits_pack e f 2 2 rfl rfl rfl
  have b1 : bits w 23 3 = 6 := at3 e f rfl
  have b2 : bits w 26 6 = 1 := at4 e f rfl
  have n0 : ¬bits w 18 8 = 0 := by intro h; unfold bits at h b0; omega
  have f0 : Sys2Proof.fld w 18 4 = x0 := fld_eq (at1 e f rfl)
  have f1 : Sys2Proof.fld w 0 18 = x1 := fld_eq (at0 e f rfl)
  exact of_row hw (by rw [row01 b2]; simp [decode01, b0, b1, n0, f0, f1])
theorem call (x0 : BitVec 5) (x1 : BitVec 18) : Statement (.call x0 x1) := by
  have f : Fit [(18, x1.toNat), (5, x0.toNat), (3, 0), (6, 2)] := ⟨x1.isLt, x0.isLt, Nat.two_pow_pos 3, by decide, trivial⟩
  obtain ⟨w, hw⟩ : ∃ w, w = encode (.call x0 x1) := ⟨_, rfl⟩
  have e := toNat_pack hw f rfl (show 134217728 + x0.toNat * 262144 + x1.toNat = x1.toNat + 262144 * (x0.toNat + 32 * (0 + 8 * (2))) by omega)
  have b0 : bits w 23 3 = 0 := at2 e f rfl
  have b1 : bits w 26 6 = 2 := at3 e f rfl
  have f0 : Sys2Proof.fld w 18 5 = x0 := fld_eq (at1 e f rfl)
  have f1 : Sys2Proof.fld w 0 18 = x1 := fld_eq (at0 e f rfl)
  exact of_row hw (by rw [row02 b1]; simp [decode02, b0, f0, f1])
theorem ret (x0 : BitVec 5) : Statement (.ret x0) := by
  have f : Fit [(18, 0), (5, x0.toNat), (3, 1), (6, 2)] := ⟨Nat.two_pow_pos 18, x0.isLt, by decide, by decide, trivial⟩
  obtain ⟨w, hw⟩ : ∃ w, w = encode (.ret x0) := ⟨_, rfl⟩
  have e := toNat_pack hw f rfl (show 142606336 + x0.toNat * 262144 = 0 + 262144 * (x0.toNat + 32 * (1 + 8 * (2))) by omega)
  have b0 : bits w 0 18 = 0 := at0 e f rfl
  have b1 : bits w 23 3 = 1 := at2 e f rfl
  have b2 : bits w 26 6 = 2 := at3 e f rfl
  have f0 : Sys2Proof.fld w 18 5 = x0 := fld_eq (at1 e f rfl)
  exact of_row hw (by rw [row02 b2]; simp [decode02, b0, b1, f0])
theorem bix (x0 : BitVec 5) : Statement (.bix x0) := by
  have f : Fit [(18, 0), (5, x0.toNat), (3, 2), (6, 2)] := ⟨Nat.two_pow_pos 18, x0.isLt, by decide, by decide, trivial⟩
  obtain ⟨w, hw⟩ : ∃ w, w = encode (.bix x0) := ⟨_, rfl⟩
  have e := toNat_pack hw f rfl (show 150994944 + x0.toNat * 262144 = 0 + 262144 * (x0.toNat + 32 * (2 + 8 * (2))) by omega)
  have b0 : bits w 0 18 = 0 := at0 e f rfl
  have b1 : bits w 23 3 = 2 := at2 e f rfl
  have b2 : bits w 26 6 = 2 := at3 e f rfl
  have f0 : Sys2Proof.fld w 18 5 = x0 := fld_eq (at1 e f rfl)
  exact of_row hw (by rw [row02 b2]; simp [decode02, b0, b1, f0])
theorem callx (x0 : BitVec 5) : Statement (.callx x0) := by
  have f : Fit [(18, 0), (5, x0.toNat), (3, 3), (6, 2)] := ⟨Nat.two_pow_pos 18, x0.isLt, by decide, by decide, trivial⟩
  obtain ⟨w, hw⟩ : ∃ w, w = encode (.callx x0) := ⟨_, rfl⟩
  have e := toNat_pack hw f rfl (show 159383552 + x0.toNat * 262144 = 0 + 262144 * (x0.toNat + 32 * (3 + 8 * (2))) by omega)
  have b0 : bits w 0 18 = 0 := at0 e f rfl
  have b1 : bits w 23 3 = 3 := at2 e f rfl
  have b2 : bits w 26 6 = 2 := at3 e f rfl
  have f0 : Sys2Proof.fld w 18 5 = x0 := fld_eq (at1 e f rfl)
  exact of_row hw (by rw [row02 b2]; simp [decode02, b0, b1, f0])
theorem enrol (x0 : BitVec 4) (x1 : BitVec 2) : Statement (.enrol x0 x1) := by
  have f : Fit [(3, 0), (2, x1.toNat), (16, 0), (4, x0.toNat), (1, 0), (6, 3)] := ⟨Nat.two_pow_pos 3, x1.isLt, Nat.two_pow_pos 16, x0.isLt, Nat.two_pow_pos 1, by decide, trivial⟩
  obtain ⟨w, hw⟩ : ∃ w, w = encode (.enrol x0 x1) := ⟨_, rfl⟩
  have e := toNat_pack hw f rfl (show 201326592 + x0.toNat * 2097152 + x1.toNat * 8 = 0 + 8 * (x1.toNat + 4 * (0 + 65536 * (x0.toNat + 16 * (0 + 2 * (3))))) by omega)
  have b0 : bits w 0 3 = 0 := at0 e f rfl
  have b1 : bits w 5 16 = 0 := at2 e f rfl
  have b2 : bits w 25 1 = 0 := at4 e f rfl
  have b3 : bits w 26 6 = 3 := at5 e f rfl
  have f0 : Sys2Proof.fld w 21 4 = x0 := fld_eq (at3 e f rfl)
  have f1 : Sys2Proof.fld w 3 2 = x1 := fld_eq (at1 e f rfl)
  exact of_row hw (by rw [row03 b3]; simp [decode03, b0, b1, b2, f0, f1])
theorem strike (x0 : BitVec 4) (x1 : BitVec 2) : Statement (.strike x0 x1) := by
  have f : Fit [(3, 1), (2, x1.toNat), (16, 0), (4, x0.toNat), (1, 0), (6, 3)] := ⟨by decide, x1.isLt, Nat.two_pow_pos 16, x0.isLt, Nat.two_pow_pos 1, by decide, trivial⟩
  obtain ⟨w, hw⟩ : ∃ w, w = encode (.strike x0 x1) := ⟨_, rfl⟩
  have e := toNat_pack hw f rfl (show 201326593 + x0.toNat * 2097152 + x1.toNat * 8 = 1 + 8 * (x1.toNat + 4 * (0 + 65536 * (x0.toNat + 16 * (0 + 2 * (3))))) by omega)
  have b0 : bits w 0 3 = 1 := at0 e f rfl
  have b1 : bits w 5 16 = 0 := at2 e f rfl
  have b2 : bits w 25 1 = 0 := at4 e f rfl
  have b3 : bits w 26 6 = 3 := at5 e f rfl
  have f0 : Sys2Proof.fld w 21 4 = x0 := fld_eq (at3 e f rfl)
  have f1 : Sys2Proof.fld w 3 2 = x1 := fld_eq (at1 e f rfl)
  exact of_row hw (by rw [row03 b3]; simp [decode03, b0, b1, b2, f0, f1])
theorem mand (x0 : BitVec 4) (x1 : BitVec 4) (x2 : BitVec 4) (x3 : BitVec 2) : Statement (.mand x0 x1 x2 x3) := by
  have f : Fit [(3, 2), (2, x3.toNat), (4, x2.toNat), (4, 0), (4, x1.toNat), (4, 0), (4, x0.toNat), (1, 0), (6, 3)] := ⟨by decide, x3.isLt, x2.isLt, Nat.two_pow_pos 4, x1.isLt, Nat.two_pow_pos 4, x0.isLt, Nat.two_pow_pos 1, by decide, trivial⟩
  obtain ⟨w, hw⟩ : ∃ w, w = encode (.mand x0 x1 x2 x3) := ⟨_, rfl⟩
  have e := toNat_pack hw f rfl (show 201326594 + x0.toNat * 2097152 + x1.toNat * 8192 + x2.toNat * 32 + x3.toNat * 8 = 2 + 8 * (x3.toNat + 4 * (x2.toNat + 16 * (0 + 16 * (x1.toNat + 16 * (0 + 16 * (x0.toNat + 16 * (0 + 2 * (3)))))))) by omega)
  have b0 : bits w 0 3 = 2 := at0 e f rfl
  have b1 : bits w 9 4 = 0 := at3 e f rfl
  have b2 : bits w 17 4 = 0 := at5 e f rfl
  have b3 : bits w 25 1 = 0 := at7 e f rfl
  have b4 : bits w 26 6 = 3 := at8 e f rfl
  have f0 : Sys2Proof.fld w 21 4 = x0 := fld_eq (at6 e f rfl)
  have f1 : Sys2Proof.fld w 13 4 = x1 := fld_eq (at4 e f rfl)
  have f2 : Sys2Proof.fld w 5 4 = x2 := fld_eq (at2 e f rfl)
  have f3 : Sys2Proof.fld w 3 2 = x3 := fld_eq (at1 e f rfl)
  exact of_row hw (by rw [row03 b4]; simp [decode03, b0, b1, b2, b3, f0, f1, f2, f3])
theorem mor (x0 : BitVec 4) (x1 : BitVec 4) (x2 : BitVec 4) (x3 : BitVec 2) : Statement (.mor x0 x1 x2 x3) := by
  have f : Fit [(3, 3), (2, x3.toNat), (4, x2.toNat), (4, 0), (4, x1.toNat), (4, 0), (4, x0.toNat), (1, 0), (6, 3)] := ⟨by decide, x3.isLt, x2.isLt, Nat.two_pow_pos 4, x1.isLt, Nat.two_pow_pos 4, x0.isLt, Nat.two_pow_pos 1, by decide, trivial⟩
  obtain ⟨w, hw⟩ : ∃ w, w = encode (.mor x0 x1 x2 x3) := ⟨_, rfl⟩
  have e := toNat_pack hw f rfl (show 201326595 + x0.toNat * 2097152 + x1.toNat * 8192 + x2.toNat * 32 + x3.toNat * 8 = 3 + 8 * (x3.toNat + 4 * (x2.toNat + 16 * (0 + 16 * (x1.toNat + 16 * (0 + 16 * (x0.toNat + 16 * (0 + 2 * (3)))))))) by omega)
  have b0 : bits w 0 3 = 3 := at0 e f rfl
  have b1 : bits w 9 4 = 0 := at3 e f rfl
  have b2 : bits w 17 4 = 0 := at5 e f rfl
  have b3 : bits w 25 1 = 0 := at7 e f rfl
  have b4 : bits w 26 6 = 3 := at8 e f rfl
  have f0 : Sys2Proof.fld w 21 4 = x0 := fld_eq (at6 e f rfl)
  have f1 : Sys2Proof.fld w 13 4 = x1 := fld_eq (at4 e f rfl)
  have f2 : Sys2Proof.fld w 5 4 = x2 := fld_eq (at2 e f rfl)
  have f3 : Sys2Proof.fld w 3 2 = x3 := fld_eq (at1 e f rfl)
  exact of_row hw (by rw [row03 b4]; simp [decode03, b0, b1, b2, b3, f0, f1, f2, f3])
theorem mxor (x0 : BitVec 4) (x1 : BitVec 4) (x2 : BitVec 4) (x3 : BitVec 2) : Statement (.mxor x0 x1 x2 x3) := by
  have f : Fit [(3, 4), (2, x3.toNat), (4, x2.toNat), (4, 0), (4, x1.toNat), (4, 0), (4, x0.toNat), (1, 0), (6, 3)] := ⟨by decide, x3.isLt, x2.isLt, Nat.two_pow_pos 4, x1.isLt, Nat.two_pow_pos 4, x0.isLt, Nat.two_pow_pos 1, by decide, trivial⟩
  obtain ⟨w, hw⟩ : ∃ w, w = encode (.mxor x0 x1 x2 x3) := ⟨_, rfl⟩
  have e := toNat_pack hw f rfl (show 201326596 + x0.toNat * 2097152 + x1.toNat * 8192 + x2.toNat * 32 + x3.toNat * 8 = 4 + 8 * (x3.toNat + 4 * (x2.toNat + 16 * (0 + 16 * (x1.toNat + 16 * (0 + 16 * (x0.toNat + 16 * (0 + 2 * (3)))))))) by omega)
  have b0 : bits w 0 3 = 4 := at0 e f rfl
  have b1 : bits w 9 4 = 0 := at3 e f rfl
  have b2 : bits w 17 4 = 0 := at5 e f rfl
  have b3 : bits w 25 1 = 0 := at7 e f rfl
  have b4 : bits w 26 6 = 3 := at8 e f rfl
  have f0 : Sys2Proof.fld w 21 4 = x0 := fld_eq (at6 e f rfl)
  have f1 : Sys2Proof.fld w 13 4 = x1 := fld_eq (at4 e f rfl)
  have f2 : Sys2Proof.fld w 5 4 = x2 := fld_eq (at2 e f rfl)
  have f3 : Sys2Proof.fld w 3 2 = x3 := fld_eq (at1 e f rfl)
  exact of_row hw (by rw [row03 b4]; simp [decode03, b0, b1, b2, b3, f0, f1, f2, f3])
theorem mnot (x0 : BitVec 4) (x1 : BitVec 4) (x2 : BitVec 2) : Statement (.mnot x0 x1 x2) := by
  have f : Fit [(3, 5), (2, x2.toNat), (4, 0), (4, 0), (4, x1.toNat), (4, 0), (4, x0.toNat), (1, 0), (6, 3)] := ⟨by decide, x2.isLt, Nat.two_pow_pos 4, Nat.two_pow_pos 4, x1.isLt, Nat.two_pow_pos 4, x0.isLt, Nat.two_pow_pos 1, by decide, trivial⟩
  obtain ⟨w, hw⟩ : ∃ w, w = encode (.mnot x0 x1 x2) := ⟨_, rfl⟩
  have e := toNat_pack hw f rfl (show 201326597 + x0.toNat * 2097152 + x1.toNat * 8192 + x2.toNat * 8 = 5 + 8 * (x2.toNat + 4 * (0 + 16 * (0 + 16 * (x1.toNat + 16 * (0 + 16 * (x0.toNat + 16 * (0 + 2 * (3)))))))) by omega)
  have b0 : bits w 0 3 = 5 := at0 e f rfl
  have b1 : bits w 5 8 = 0 := bits_pack e f 2 2 rfl rfl rfl
  have b2 : bits w 9 4 = 0 := at3 e f rfl
  have b3 : bits w 17 4 = 0 := at5 e f rfl
  have b4 : bits w 25 1 = 0 := at7 e f rfl
  have b5 : bits w 26 6 = 3 := at8 e f rfl
  have f0 : Sys2Proof.fld w 21 4 = x0 := fld_eq (at6 e f rfl)
  have f1 : Sys2Proof.fld w 13 4 = x1 := fld_eq (at4 e f rfl)
  have f2 : Sys2Proof.fld w 3 2 = x2 := fld_eq (at1 e f rfl)
  exact of_row hw (by rw [row03 b5]; simp [decode03, b0, b1, b2, b3, b4, f0, f1, f2])
theorem mpop (x0 : BitVec 5) (x1 : BitVec 4) (x2 : BitVec 2) : Statement (.mpop x0 x1 x2) := by
  have f : Fit [(3, 6), (2, x2.toNat), (4, 0), (4, 0), (4, x1.toNat), (4, 0), (5, x0.toNat), (6, 3)] := ⟨by decide, x2.isLt, Nat.two_pow_pos 4, Nat.two_pow_pos 4, x1.isLt, Nat.two_pow_pos 4, x0.isLt, by decide, trivial⟩
  obtain ⟨w, hw⟩ : ∃ w, w = encode (.mpop x0 x1 x2) := ⟨_, rfl⟩
  have e := toNat_pack hw f rfl (show 201326598 + x0.toNat * 2097152 + x1.toNat * 8192 + x2.toNat * 8 = 6 + 8 * (x2.toNat + 4 * (0 + 16 * (0 + 16 * (x1.toNat + 16 * (0 + 16 * (x0.toNat + 32 * (3))))))) by omega)
  have b0 : bits w 0 3 = 6 := at0 e f rfl
  have b1 : bits w 5 8 = 0 := bits_pack e f 2 2 rfl rfl rfl
  have b2 : bits w 9 4 = 0 := at3 e f rfl
  have b3 : bits w 17 4 = 0 := at5 e f rfl
  have b4 : bits w 26 6 = 3 := at7 e f rfl
  have f0 : Sys2Proof.fld w 21 5 = x0 := fld_eq (at6 e f rfl)
  have f1 : Sys2Proof.fld w 13 4 = x1 := fld_eq (at4 e f rfl)
  have f2 : Sys2Proof.fld w 3 2 = x2 := fld_eq (at1 e f rfl)
  exact of_row hw (by rw [row03 b4]; simp [decode03, b0, b1, b2, b3, f0, f1, f2])
theorem mfirst (x0 : BitVec 5) (x1 : BitVec 4) (x2 : BitVec 2) : Statement (.mfirst x0 x1 x2) := by
  have f : Fit [(3, 7), (2, x2.toNat), (4, 0), (4, 0), (4, x1.toNat), (4, 0), (5, x0.toNat), (6, 3)] := ⟨by decide, x2.isLt, Nat.two_pow_pos 4, Nat.two_pow_pos 4, x1.isLt, Nat.two_pow_pos 4, x0.isLt, by decide, trivial⟩
  obtain ⟨w, hw⟩ : ∃ w, w = encode (.mfirst x0 x1 x2) := ⟨_, rfl⟩
  have e := toNat_pack hw f rfl (show 201326599 + x0.toNat * 2097152 + x1.toNat * 8192 + x2.toNat * 8 = 7 + 8 * (x2.toNat + 4 * (0 + 16 * (0 + 16 * (x1.toNat + 16 * (0 + 16 * (x0.toNat + 32 * (3))))))) by omega)
  have b0 : bits w 0 3 = 7 := at0 e f rfl
  have b1 : bits w 5 8 = 0 := bits_pack e f 2 2 rfl rfl rfl
  have b2 : bits w 9 4 = 0 := at3 e f rfl
  have b3 : bits w 17 4 = 0 := at5 e f rfl
  have b4 : bits w 26 6 = 3 := at7 e f rfl
  have f0 : Sys2Proof.fld w 21 5 = x0 := fld_eq (at6 e f rfl)
  have f1 : Sys2Proof.fld w 13 4 = x1 := fld_eq (at4 e f rfl)
  have f2 : Sys2Proof.fld w 3 2 = x2 := fld_eq (at1 e f rfl)
  exact of_row hw (by rw [row03 b4]; simp [decode03, b0, b1, b2, b3, f0, f1, f2])
theorem exit (x0 : BitVec 2) : Statement (.exit x0) := by
  have f : Fit [(3, 0), (2, x0.toNat), (21, 0), (6, 4)] := ⟨Nat.two_pow_pos 3, x0.isLt, Nat.two_pow_pos 21, by decide, trivial⟩
  obtain ⟨w, hw⟩ : ∃ w, w = encode (.exit x0) := ⟨_, rfl⟩
  have e := toNat_pack hw f rfl (show 268435456 + x0.toNat * 8 = 0 + 8 * (x0.toNat + 4 * (0 + 2097152 * (4))) by omega)
  have b0 : bits w 0 3 = 0 := at0 e f rfl
  have b1 : bits w 5 21 = 0 := at2 e f rfl
  have b2 : bits w 26 6 = 4 := at3 e f rfl
  have f0 : Sys2Proof.fld w 3 2 = x0 := fld_eq (at1 e f rfl)
  exact of_row hw (by rw [row04 b2]; simp [decode04, b0, b1, f0])
theorem yield (x0 : BitVec 2) : Statement (.yield x0) := by
  have f : Fit [(3, 1), (2, x0.toNat), (21, 0), (6, 4)] := ⟨by decide, x0.isLt, Nat.two_pow_pos 21, by decide, trivial⟩
  obtain ⟨w, hw⟩ : ∃ w, w = encode (.yield x0) := ⟨_, rfl⟩
  have e := toNat_pack hw f rfl (show 268435457 + x0.toNat * 8 = 1 + 8 * (x0.toNat + 4 * (0 + 2097152 * (4))) by omega)
  have b0 : bits w 0 3 = 1 := at0 e f rfl
  have b1 : bits w 5 21 = 0 := at2 e f rfl
  have b2 : bits w 26 6 = 4 := at3 e f rfl
  have f0 : Sys2Proof.fld w 3 2 = x0 := fld_eq (at1 e f rfl)
  exact of_row hw (by rw [row04 b2]; simp [decode04, b0, b1, f0])
theorem region : Statement (.region) := by
  have f : Fit [(3, 2), (2, 0), (21, 0), (6, 4)] := ⟨by decide, Nat.two_pow_pos 2, Nat.two_pow_pos 21, by decide, trivial⟩
  obtain ⟨w, hw⟩ : ∃ w, w = encode (.region) := ⟨_, rfl⟩
  have e := toNat_pack hw f rfl (show 268435458 = 2 + 8 * (0 + 4 * (0 + 2097152 * (4))) by rfl)
  have b0 : bits w 0 3 = 2 := at0 e f rfl
  have b1 : bits w 0 26 = 2 := bits_pack e f 0 3 rfl rfl rfl
  have b2 : bits w 5 21 = 0 := at2 e f rfl
  have b3 : bits w 26 6 = 4 := at3 e f rfl
  exact of_row hw (by rw [row04 b3]; simp [decode04, b0, b1, b2])
theorem waitAddr (x0 : Src) (x1 : Src) (x2 : BitVec 2) : Statement (.waitAddr x0 x1 x2) := by
  have f : Fit [(3, 3), (2, x2.toNat), (8, srcCode x1), (8, srcCode x0), (5, 0), (6, 4)] := ⟨by decide, x2.isLt, srcCode_lt x1, srcCode_lt x0, Nat.two_pow_pos 5, by decide, trivial⟩
  obtain ⟨w, hw⟩ : ∃ w, w = encode (.waitAddr x0 x1 x2) := ⟨_, rfl⟩
  have e := toNat_pack hw f rfl (show 268435459 + srcCode x0 * 8192 + srcCode x1 * 32 + x2.toNat * 8 = 3 + 8 * (x2.toNat + 4 * (srcCode x1 + 256 * (srcCode x0 + 256 * (0 + 32 * (4))))) by omega)
  have b0 : bits w 0 3 = 3 := at0 e f rfl
  have b1 : bits w 21 5 = 0 := at4 e f rfl
  have b2 : bits w 26 6 = 4 := at5 e f rfl
  have n0 : ¬bits w 0 26 = 2 := by intro h; unfold bits at h b0; omega
  have f0 : srcAt w 13 = x0 := srcAt_eq (at3 e f rfl)
  have f1 : srcAt w 5 = x1 := srcAt_eq (at2 e f rfl)
  have f2 : Sys2Proof.fld w 3 2 = x2 := fld_eq (at1 e f rfl)
  exact of_row hw (by rw [row04 b2]; simp [decode04, b0, b1, n0, f0, f1, f2])
theorem voteAny (x0 : BitVec 4) (x1 : Src) (x2 : BitVec 2) : Statement (.voteAny x0 x1 x2) := by
  have f : Fit [(3, 0), (2, x2.toNat), (8, 0), (8, srcCode x1), (4, x0.toNat), (1, 0), (6, 5)] := ⟨Nat.two_pow_pos 3, x2.isLt, Nat.two_pow_pos 8, srcCode_lt x1, x0.isLt, Nat.two_pow_pos 1, by decide, trivial⟩
  obtain ⟨w, hw⟩ : ∃ w, w = encode (.voteAny x0 x1 x2) := ⟨_, rfl⟩
  have e := toNat_pack hw f rfl (show 335544320 + x0.toNat * 2097152 + srcCode x1 * 8192 + x2.toNat * 8 = 0 + 8 * (x2.toNat + 4 * (0 + 256 * (srcCode x1 + 256 * (x0.toNat + 16 * (0 + 2 * (5)))))) by omega)
  have b0 : bits w 0 3 = 0 := at0 e f rfl
  have b1 : bits w 5 8 = 0 := at2 e f rfl
  have b2 : bits w 25 1 = 0 := at5 e f rfl
  have b3 : bits w 26 6 = 5 := at6 e f rfl
  have f0 : Sys2Proof.fld w 21 4 = x0 := fld_eq (at4 e f rfl)
  have f1 : srcAt w 13 = x1 := srcAt_eq (at3 e f rfl)
  have f2 : Sys2Proof.fld w 3 2 = x2 := fld_eq (at1 e f rfl)
  exact of_row hw (by rw [row05 b3]; simp [decode05, b0, b1, b2, f0, f1, f2])
theorem voteAll (x0 : BitVec 4) (x1 : Src) (x2 : BitVec 2) : Statement (.voteAll x0 x1 x2) := by
  have f : Fit [(3, 1), (2, x2.toNat), (8, 0), (8, srcCode x1), (4, x0.toNat), (1, 0), (6, 5)] := ⟨by decide, x2.isLt, Nat.two_pow_pos 8, srcCode_lt x1, x0.isLt, Nat.two_pow_pos 1, by decide, trivial⟩
  obtain ⟨w, hw⟩ : ∃ w, w = encode (.voteAll x0 x1 x2) := ⟨_, rfl⟩
  have e := toNat_pack hw f rfl (show 335544321 + x0.toNat * 2097152 + srcCode x1 * 8192 + x2.toNat * 8 = 1 + 8 * (x2.toNat + 4 * (0 + 256 * (srcCode x1 + 256 * (x0.toNat + 16 * (0 + 2 * (5)))))) by omega)
  have b0 : bits w 0 3 = 1 := at0 e f rfl
  have b1 : bits w 5 8 = 0 := at2 e f rfl
  have b2 : bits w 25 1 = 0 := at5 e f rfl
  have b3 : bits w 26 6 = 5 := at6 e f rfl
  have f0 : Sys2Proof.fld w 21 4 = x0 := fld_eq (at4 e f rfl)
  have f1 : srcAt w 13 = x1 := srcAt_eq (at3 e f rfl)
  have f2 : Sys2Proof.fld w 3 2 = x2 := fld_eq (at1 e f rfl)
  exact of_row hw (by rw [row05 b3]; simp [decode05, b0, b1, b2, f0, f1, f2])
theorem voteBallot (x0 : BitVec 5) (x1 : Src) (x2 : BitVec 2) : Statement (.voteBallot x0 x1 x2) := by
  have f : Fit [(3, 2), (2, x2.toNat), (8, 0), (8, srcCode x1), (5, x0.toNat), (6, 5)] := ⟨by decide, x2.isLt, Nat.two_pow_pos 8, srcCode_lt x1, x0.isLt, by decide, trivial⟩
  obtain ⟨w, hw⟩ : ∃ w, w = encode (.voteBallot x0 x1 x2) := ⟨_, rfl⟩
  have e := toNat_pack hw f rfl (show 335544322 + x0.toNat * 2097152 + srcCode x1 * 8192 + x2.toNat * 8 = 2 + 8 * (x2.toNat + 4 * (0 + 256 * (srcCode x1 + 256 * (x0.toNat + 32 * (5))))) by omega)
  have b0 : bits w 0 3 = 2 := at0 e f rfl
  have b1 : bits w 5 8 = 0 := at2 e f rfl
  have b2 : bits w 26 6 = 5 := at5 e f rfl
  have f0 : Sys2Proof.fld w 21 5 = x0 := fld_eq (at4 e f rfl)
  have f1 : srcAt w 13 = x1 := srcAt_eq (at3 e f rfl)
  have f2 : Sys2Proof.fld w 3 2 = x2 := fld_eq (at1 e f rfl)
  exact of_row hw (by rw [row05 b2]; simp [decode05, b0, b1, f0, f1, f2])
theorem nop : Statement (.nop) := by
  have f : Fit [(26, 0), (6, 8)] := ⟨Nat.two_pow_pos 26, by decide, trivial⟩
  obtain ⟨w, hw⟩ : ∃ w, w = encode (.nop) := ⟨_, rfl⟩
  have e := toNat_pack hw f rfl (show 536870912 = 0 + 67108864 * (8) by rfl)
  have b0 : bits w 0 26 = 0 := at0 e f rfl
  have b1 : bits w 26 6 = 8 := at1 e f rfl
  exact of_row hw (by rw [row08 b1]; simp [decode08, b0])
theorem hintK (x0 : BitVec 5) (x1 : BitVec 5) : Statement (.hintK x0 x1) := by
  have f : Fit [(5, x1.toNat), (5, x0.toNat), (16, 4096), (6, 8)] := ⟨x1.isLt, x0.isLt, by decide, by decide, trivial⟩
  obtain ⟨w, hw⟩ : ∃ w, w = encode (.hintK x0 x1) := ⟨_, rfl⟩
  have e := toNat_pack hw f rfl (show 541065216 + x0.toNat * 32 + x1.toNat = x1.toNat + 32 * (x0.toNat + 32 * (4096 + 65536 * (8))) by omega)
  have b0 : bits w 10 16 = 4096 := at2 e f rfl
  have b1 : bits w 26 6 = 8 := at3 e f rfl
  have n0 : ¬bits w 0 26 = 0 := by intro h; unfold bits at h b0; omega
  have f0 : Sys2Proof.fld w 5 5 = x0 := fld_eq (at1 e f rfl)
  have f1 : Sys2Proof.fld w 0 5 = x1 := fld_eq (at0 e f rfl)
  exact of_row hw (by rw [row08 b1]; simp [decode08, b0, n0, f0, f1])
theorem hintImm (x0 : BitVec 22) : Statement (.hintImm x0) := by
  have f : Fit [(22, x0.toNat), (4, 2), (6, 8)] := ⟨x0.isLt, by decide, by decide, trivial⟩
  obtain ⟨w, hw⟩ : ∃ w, w = encode (.hintImm x0) := ⟨_, rfl⟩
  have e := toNat_pack hw f rfl (show 545259520 + x0.toNat = x0.toNat + 4194304 * (2 + 16 * (8)) by omega)
  have b0 : bits w 22 4 = 2 := at1 e f rfl
  have b1 : bits w 26 6 = 8 := at2 e f rfl
  have n0 : ¬bits w 0 26 = 0 := by intro h; unfold bits at h b0; omega
  have n1 : ¬bits w 10 16 = 4096 := by intro h; unfold bits at h b0; omega
  have f0 : Sys2Proof.fld w 0 22 = x0 := fld_eq (at0 e f rfl)
  exact of_row hw (by rw [row08 b1]; simp [decode08, b0, n0, n1, f0])
theorem hintLu (x0 : BitVec 22) : Statement (.hintLu x0) := by
  have f : Fit [(22, x0.toNat), (4, 3), (6, 8)] := ⟨x0.isLt, by decide, by decide, trivial⟩
  obtain ⟨w, hw⟩ : ∃ w, w = encode (.hintLu x0) := ⟨_, rfl⟩
  have e := toNat_pack hw f rfl (show 549453824 + x0.toNat = x0.toNat + 4194304 * (3 + 16 * (8)) by omega)
  have b0 : bits w 22 4 = 3 := at1 e f rfl
  have b1 : bits w 26 6 = 8 := at2 e f rfl
  have n0 : ¬bits w 0 26 = 0 := by intro h; unfold bits at h b0; omega
  have n1 : ¬bits w 10 16 = 4096 := by intro h; unfold bits at h b0; omega
  have f0 : Sys2Proof.fld w 0 22 = x0 := fld_eq (at0 e f rfl)
  exact of_row hw (by rw [row08 b1]; simp [decode08, b0, n0, n1, f0])
theorem hintPred (x0 : BitVec 1) (x1 : BitVec 4) : Statement (.hintPred x0 x1) := by
  have f : Fit [(4, x1.toNat), (1, x0.toNat), (5, 0), (12, 0), (4, 4), (6, 8)] := ⟨x1.isLt, x0.isLt, Nat.two_pow_pos 5, Nat.two_pow_pos 12, by decide, by decide, trivial⟩
  obtain ⟨w, hw⟩ : ∃ w, w = encode (.hintPred x0 x1) := ⟨_, rfl⟩
  have e := toNat_pack hw f rfl (show 553648128 + x0.toNat * 16 + x1.toNat = x1.toNat + 16 * (x0.toNat + 2 * (0 + 32 * (0 + 4096 * (4 + 16 * (8))))) by omega)
  have b0 : bits w 5 21 = 524288 := bits_pack e f 2 3 rfl rfl rfl
  have b1 : bits w 10 16 = 16384 := bits_pack e f 3 2 rfl rfl rfl
  have b2 : bits w 22 4 = 4 := at4 e f rfl
  have b3 : bits w 26 6 = 8 := at5 e f rfl
  have n0 : ¬bits w 0 26 = 0 := by intro h; unfold bits at h b0; omega
  have f0 : Sys2Proof.fld w 4 1 = x0 := fld_eq (at1 e f rfl)
  have f1 : Sys2Proof.fld w 0 4 = x1 := fld_eq (at0 e f rfl)
  exact of_row hw (by rw [row08 b3]; simp [decode08, b0, b1, b2, n0, f0, f1])
theorem hintOff (x0 : BitVec 22) : Statement (.hintOff x0) := by
  have f : Fit [(22, x0.toNat), (4, 5), (6, 8)] := ⟨x0.isLt, by decide, by decide, trivial⟩
  obtain ⟨w, hw⟩ : ∃ w, w = encode (.hintOff x0) := ⟨_, rfl⟩
  have e := toNat_pack hw f rfl (show 557842432 + x0.toNat = x0.toNat + 4194304 * (5 + 16 * (8)) by omega)
  have b0 : bits w 22 4 = 5 := at1 e f rfl
  have b1 : bits w 26 6 = 8 := at2 e f rfl
  have n0 : ¬bits w 0 26 = 0 := by intro h; unfold bits at h b0; omega
  have n1 : ¬bits w 10 16 = 4096 := by intro h; unfold bits at h b0; omega
  have n2 : ¬bits w 5 21 = 524288 := by intro h; unfold bits at h b0; omega
  have f0 : Sys2Proof.fld w 0 22 = x0 := fld_eq (at0 e f rfl)
  exact of_row hw (by rw [row08 b1]; simp [decode08, b0, n0, n1, n2, f0])
theorem hintCache (x0 : BitVec 3) (x1 : BitVec 4) (x2 : BitVec 3) : Statement (.hintCache x0 x1 x2) := by
  have f : Fit [(3, x2.toNat), (1, 0), (4, x1.toNat), (3, x0.toNat), (11, 0), (4, 6), (6, 8)] := ⟨x2.isLt, Nat.two_pow_pos 1, x1.isLt, x0.isLt, Nat.two_pow_pos 11, by decide, by decide, trivial⟩
  obtain ⟨w, hw⟩ : ∃ w, w = encode (.hintCache x0 x1 x2) := ⟨_, rfl⟩
  have e := toNat_pack hw f rfl (show 562036736 + x0.toNat * 256 + x1.toNat * 16 + x2.toNat = x2.toNat + 8 * (0 + 2 * (x1.toNat + 16 * (x0.toNat + 8 * (0 + 2048 * (6 + 16 * (8)))))) by omega)
  have b0 : bits w 3 1 = 0 := at1 e f rfl
  have b1 : bits w 11 15 = 12288 := bits_pack e f 4 2 rfl rfl rfl
  have b2 : bits w 22 4 = 6 := at5 e f rfl
  have b3 : bits w 26 6 = 8 := at6 e f rfl
  have n0 : ¬bits w 0 26 = 0 := by intro h; unfold bits at h b1; omega
  have n1 : ¬bits w 10 16 = 4096 := by intro h; unfold bits at h b1; omega
  have n2 : ¬bits w 5 21 = 524288 := by intro h; unfold bits at h b1; omega
  have f0 : Sys2Proof.fld w 8 3 = x0 := fld_eq (at3 e f rfl)
  have f1 : Sys2Proof.fld w 4 4 = x1 := fld_eq (at2 e f rfl)
  have f2 : Sys2Proof.fld w 0 3 = x2 := fld_eq (at0 e f rfl)
  exact of_row hw (by rw [row08 b3]; simp [decode08, b0, b1, b2, n0, n1, n2, f0, f1, f2])
theorem hintSched (x0 : BitVec 2) (x1 : BitVec 4) : Statement (.hintSched x0 x1) := by
  have f : Fit [(4, x1.toNat), (2, x0.toNat), (4, 0), (1, 0), (11, 0), (4, 7), (6, 8)] := ⟨x1.isLt, x0.isLt, Nat.two_pow_pos 4, Nat.two_pow_pos 1, Nat.two_pow_pos 11, by decide, by decide, trivial⟩
  obtain ⟨w, hw⟩ : ∃ w, w = encode (.hintSched x0 x1) := ⟨_, rfl⟩
  have e := toNat_pack hw f rfl (show 566231040 + x0.toNat * 16 + x1.toNat = x1.toNat + 16 * (x0.toNat + 4 * (0 + 16 * (0 + 2 * (0 + 2048 * (7 + 16 * (8)))))) by omega)
  have b0 : bits w 6 20 = 458752 := bits_pack e f 2 4 rfl rfl rfl
  have b1 : bits w 10 16 = 28672 := bits_pack e f 3 3 rfl rfl rfl
  have b2 : bits w 11 15 = 14336 := bits_pack e f 4 2 rfl rfl rfl
  have b3 : bits w 22 4 = 7 := at5 e f rfl
  have b4 : bits w 26 6 = 8 := at6 e f rfl
  have n0 : ¬bits w 0 26 = 0 := by intro h; unfold bits at h b0; omega
  have n1 : ¬bits w 5 21 = 524288 := by intro h; unfold bits at h b0; omega
  have f0 : Sys2Proof.fld w 4 2 = x0 := fld_eq (at1 e f rfl)
  have f1 : Sys2Proof.fld w 0 4 = x1 := fld_eq (at0 e f rfl)
  exact of_row hw (by rw [row08 b4]; simp [decode08, b0, b1, b2, b3, n0, n1, f0, f1])
theorem rds (x0 : BitVec 7) (x1 : BitVec 12) (x2 : BitVec 1) : Statement (.rds x0 x1 x2) := by
  have f : Fit [(3, 0), (1, x2.toNat), (12, x1.toNat), (7, x0.toNat), (3, 0), (6, 9)] := ⟨Nat.two_pow_pos 3, x2.isLt, x1.isLt, x0.isLt, Nat.two_pow_pos 3, by decide, trivial⟩
  obtain ⟨w, hw⟩ : ∃ w, w = encode (.rds x0 x1 x2) := ⟨_, rfl⟩
  have e := toNat_pack hw f rfl (show 603979776 + x0.toNat * 65536 + x1.toNat * 16 + x2.toNat * 8 = 0 + 8 * (x2.toNat + 2 * (x1.toNat + 4096 * (x0.toNat + 128 * (0 + 8 * (9))))) by omega)
  have b0 : bits w 0 3 = 0 := at0 e f rfl
  have b1 : bits w 23 3 = 0 := at4 e f rfl
  have b2 : bits w 26 6 = 9 := at5 e f rfl
  have f0 : Sys2Proof.fld w 16 7 = x0 := fld_eq (at3 e f rfl)
  have f1 : Sys2Proof.fld w 4 12 = x1 := fld_eq (at2 e f rfl)
  have f2 : Sys2Proof.fld w 3 1 = x2 := fld_eq (at1 e f rfl)
  exact of_row hw (by rw [row09 b2]; simp [decode09, b0, b1, f0, f1, f2])
theorem wrs (x0 : BitVec 7) (x1 : BitVec 12) (x2 : BitVec 1) : Statement (.wrs x0 x1 x2) := by
  have f : Fit [(3, 0), (1, x2.toNat), (12, x1.toNat), (7, x0.toNat), (3, 1), (6, 9)] := ⟨Nat.two_pow_pos 3, x2.isLt, x1.isLt, x0.isLt, by decide, by decide, trivial⟩
  obtain ⟨w, hw⟩ : ∃ w, w = encode (.wrs x0 x1 x2) := ⟨_, rfl⟩
  have e := toNat_pack hw f rfl (show 612368384 + x0.toNat * 65536 + x1.toNat * 16 + x2.toNat * 8 = 0 + 8 * (x2.toNat + 2 * (x1.toNat + 4096 * (x0.toNat + 128 * (1 + 8 * (9))))) by omega)
  have b0 : bits w 0 3 = 0 := at0 e f rfl
  have b1 : bits w 23 3 = 1 := at4 e f rfl
  have b2 : bits w 26 6 = 9 := at5 e f rfl
  have f0 : Sys2Proof.fld w 16 7 = x0 := fld_eq (at3 e f rfl)
  have f1 : Sys2Proof.fld w 4 12 = x1 := fld_eq (at2 e f rfl)
  have f2 : Sys2Proof.fld w 3 1 = x2 := fld_eq (at1 e f rfl)
  exact of_row hw (by rw [row09 b2]; simp [decode09, b0, b1, f0, f1, f2])
theorem trap (x0 : BitVec 12) : Statement (.trap x0) := by
  have f : Fit [(3, 0), (1, 0), (12, x0.toNat), (7, 0), (3, 2), (6, 9)] := ⟨Nat.two_pow_pos 3, Nat.two_pow_pos 1, x0.isLt, Nat.two_pow_pos 7, by decide, by decide, trivial⟩
  obtain ⟨w, hw⟩ : ∃ w, w = encode (.trap x0) := ⟨_, rfl⟩
  have e := toNat_pack hw f rfl (show 620756992 + x0.toNat * 16 = 0 + 8 * (0 + 2 * (x0.toNat + 4096 * (0 + 128 * (2 + 8 * (9))))) by omega)
  have b0 : bits w 0 3 = 0 := at0 e f rfl
  have b1 : bits w 0 4 = 0 := bits_pack e f 0 2 rfl rfl rfl
  have b2 : bits w 16 10 = 256 := bits_pack e f 3 2 rfl rfl rfl
  have b3 : bits w 23 3 = 2 := at4 e f rfl
  have b4 : bits w 26 6 = 9 := at5 e f rfl
  have f0 : Sys2Proof.fld w 4 12 = x0 := fld_eq (at2 e f rfl)
  exact of_row hw (by rw [row09 b4]; simp [decode09, b0, b1, b2, b3, f0])
theorem rte : Statement (.rte) := by
  have f : Fit [(3, 0), (1, 0), (12, 0), (7, 0), (3, 3), (6, 9)] := ⟨Nat.two_pow_pos 3, Nat.two_pow_pos 1, Nat.two_pow_pos 12, Nat.two_pow_pos 7, by decide, by decide, trivial⟩
  obtain ⟨w, hw⟩ : ∃ w, w = encode (.rte) := ⟨_, rfl⟩
  have e := toNat_pack hw f rfl (show 629145600 = 0 + 8 * (0 + 2 * (0 + 4096 * (0 + 128 * (3 + 8 * (9))))) by rfl)
  have b0 : bits w 0 3 = 0 := at0 e f rfl
  have b1 : bits w 0 4 = 0 := bits_pack e f 0 2 rfl rfl rfl
  have b2 : bits w 0 26 = 25165824 := bits_pack e f 0 5 rfl rfl rfl
  have b3 : bits w 16 10 = 384 := bits_pack e f 3 2 rfl rfl rfl
  have b4 : bits w 23 3 = 3 := at4 e f rfl
  have b5 : bits w 26 6 = 9 := at5 e f rfl
  exact of_row hw (by rw [row09 b5]; simp [decode09, b0, b1, b2, b3, b4])
theorem gret : Statement (.gret) := by
  have f : Fit [(3, 0), (1, 0), (12, 0), (7, 0), (3, 4), (6, 9)] := ⟨Nat.two_pow_pos 3, Nat.two_pow_pos 1, Nat.two_pow_pos 12, Nat.two_pow_pos 7, by decide, by decide, trivial⟩
  obtain ⟨w, hw⟩ : ∃ w, w = encode (.gret) := ⟨_, rfl⟩
  have e := toNat_pack hw f rfl (show 637534208 = 0 + 8 * (0 + 2 * (0 + 4096 * (0 + 128 * (4 + 8 * (9))))) by rfl)
  have b0 : bits w 0 3 = 0 := at0 e f rfl
  have b1 : bits w 0 4 = 0 := bits_pack e f 0 2 rfl rfl rfl
  have b2 : bits w 0 26 = 33554432 := bits_pack e f 0 5 rfl rfl rfl
  have b3 : bits w 16 10 = 512 := bits_pack e f 3 2 rfl rfl rfl
  have b4 : bits w 23 3 = 4 := at4 e f rfl
  have b5 : bits w 26 6 = 9 := at5 e f rfl
  exact of_row hw (by rw [row09 b5]; simp [decode09, b0, b1, b2, b3, b4])
theorem gretSame : Statement (.gretSame) := by
  have f : Fit [(3, 0), (1, 0), (12, 1), (7, 0), (3, 4), (6, 9)] := ⟨Nat.two_pow_pos 3, Nat.two_pow_pos 1, by decide, Nat.two_pow_pos 7, by decide, by decide, trivial⟩
  obtain ⟨w, hw⟩ : ∃ w, w = encode (.gretSame) := ⟨_, rfl⟩
  have e := toNat_pack hw f rfl (show 637534224 = 0 + 8 * (0 + 2 * (1 + 4096 * (0 + 128 * (4 + 8 * (9))))) by rfl)
  have b0 : bits w 0 3 = 0 := at0 e f rfl
  have b1 : bits w 0 4 = 0 := bits_pack e f 0 2 rfl rfl rfl
  have b2 : bits w 0 26 = 33554448 := bits_pack e f 0 5 rfl rfl rfl
  have b3 : bits w 16 10 = 512 := bits_pack e f 3 2 rfl rfl rfl
  have b4 : bits w 23 3 = 4 := at4 e f rfl
  have b5 : bits w 26 6 = 9 := at5 e f rfl
  exact of_row hw (by rw [row09 b5]; simp [decode09, b0, b1, b2, b3, b4])
theorem gretPc (x0 : BitVec 5) : Statement (.gretPc x0) := by
  have f : Fit [(3, 0), (1, 1), (12, 2), (5, x0.toNat), (2, 0), (3, 4), (6, 9)] := ⟨Nat.two_pow_pos 3, by decide, by decide, x0.isLt, Nat.two_pow_pos 2, by decide, by decide, trivial⟩
  obtain ⟨w, hw⟩ : ∃ w, w = encode (.gretPc x0) := ⟨_, rfl⟩
  have e := toNat_pack hw f rfl (show 637534248 + x0.toNat * 65536 = 0 + 8 * (1 + 2 * (2 + 4096 * (x0.toNat + 32 * (0 + 4 * (4 + 8 * (9)))))) by omega)
  have b0 : bits w 0 3 = 0 := at0 e f rfl
  have b1 : bits w 0 4 = 8 := bits_pack e f 0 2 rfl rfl rfl
  have b2 : bits w 0 16 = 40 := bits_pack e f 0 3 rfl rfl rfl
  have b3 : bits w 21 5 = 16 := bits_pack e f 4 2 rfl rfl rfl
  have b4 : bits w 23 3 = 4 := at5 e f rfl
  have b5 : bits w 26 6 = 9 := at6 e f rfl
  have n0 : ¬bits w 0 26 = 25165824 := by intro h; unfold bits at h b2; omega
  have n1 : ¬bits w 0 26 = 33554432 := by intro h; unfold bits at h b2; omega
  have n2 : ¬bits w 0 26 = 33554448 := by intro h; unfold bits at h b2; omega
  have f0 : Sys2Proof.fld w 16 5 = x0 := fld_eq (at3 e f rfl)
  exact of_row hw (by rw [row09 b5]; simp [decode09, b0, b1, b2, b3, b4, n0, n1, n2, f0])
theorem gkill : Statement (.gkill) := by
  have f : Fit [(3, 0), (1, 0), (12, 0), (5, 0), (2, 0), (3, 5), (6, 9)] := ⟨Nat.two_pow_pos 3, Nat.two_pow_pos 1, Nat.two_pow_pos 12, Nat.two_pow_pos 5, Nat.two_pow_pos 2, by decide, by decide, trivial⟩
  obtain ⟨w, hw⟩ : ∃ w, w = encode (.gkill) := ⟨_, rfl⟩
  have e := toNat_pack hw f rfl (show 645922816 = 0 + 8 * (0 + 2 * (0 + 4096 * (0 + 32 * (0 + 4 * (5 + 8 * (9)))))) by rfl)
  have b0 : bits w 0 3 = 0 := at0 e f rfl
  have b1 : bits w 0 4 = 0 := bits_pack e f 0 2 rfl rfl rfl
  have b2 : bits w 0 16 = 0 := bits_pack e f 0 3 rfl rfl rfl
  have b3 : bits w 0 26 = 41943040 := bits_pack e f 0 6 rfl rfl rfl
  have b4 : bits w 16 10 = 640 := bits_pack e f 3 3 rfl rfl rfl
  have b5 : bits w 21 5 = 20 := bits_pack e f 4 2 rfl rfl rfl
  have b6 : bits w 23 3 = 5 := at5 e f rfl
  have b7 : bits w 26 6 = 9 := at6 e f rfl
  exact of_row hw (by rw [row09 b7]; simp [decode09, b0, b1, b2, b3, b4, b5, b6])
theorem segset (x0 : BitVec 7) (x1 : BitVec 2) : Statement (.segset x0 x1) := by
  have f : Fit [(3, 0), (1, 0), (2, x1.toNat), (10, 0), (7, x0.toNat), (3, 6), (6, 9)] := ⟨Nat.two_pow_pos 3, Nat.two_pow_pos 1, x1.isLt, Nat.two_pow_pos 10, x0.isLt, by decide, by decide, trivial⟩
  obtain ⟨w, hw⟩ : ∃ w, w = encode (.segset x0 x1) := ⟨_, rfl⟩
  have e := toNat_pack hw f rfl (show 654311424 + x0.toNat * 65536 + x1.toNat * 16 = 0 + 8 * (0 + 2 * (x1.toNat + 4 * (0 + 1024 * (x0.toNat + 128 * (6 + 8 * (9)))))) by omega)
  have b0 : bits w 0 3 = 0 := at0 e f rfl
  have b1 : bits w 0 4 = 0 := bits_pack e f 0 2 rfl rfl rfl
  have b2 : bits w 6 10 = 0 := at3 e f rfl
  have b3 : bits w 23 3 = 6 := at5 e f rfl
  have b4 : bits w 26 6 = 9 := at6 e f rfl
  have n0 : ¬bits w 16 10 = 256 := by intro h; unfold bits at h b3; omega
  have n1 : ¬bits w 0 26 = 25165824 := by intro h; unfold bits at h b3; omega
  have n2 : ¬bits w 0 26 = 33554432 := by intro h; unfold bits at h b3; omega
  have n3 : ¬bits w 0 26 = 33554448 := by intro h; unfold bits at h b3; omega
  have n4 : ¬bits w 21 5 = 16 := by intro h; unfold bits at h b3; omega
  have n5 : ¬bits w 0 26 = 41943040 := by intro h; unfold bits at h b3; omega
  have f0 : Sys2Proof.fld w 16 7 = x0 := fld_eq (at4 e f rfl)
  have f1 : Sys2Proof.fld w 4 2 = x1 := fld_eq (at2 e f rfl)
  exact of_row hw (by rw [row09 b4]; simp [decode09, b0, b1, b2, b3, n0, n1, n2, n3, n4, n5, f0, f1])
theorem tlbinvVa (x0 : BitVec 7) : Statement (.tlbinvVa x0) := by
  have f : Fit [(3, 0), (1, 0), (2, 0), (10, 0), (7, x0.toNat), (3, 7), (6, 9)] := ⟨Nat.two_pow_pos 3, Nat.two_pow_pos 1, Nat.two_pow_pos 2, Nat.two_pow_pos 10, x0.isLt, by decide, by decide, trivial⟩
  obtain ⟨w, hw⟩ : ∃ w, w = encode (.tlbinvVa x0) := ⟨_, rfl⟩
  have e := toNat_pack hw f rfl (show 662700032 + x0.toNat * 65536 = 0 + 8 * (0 + 2 * (0 + 4 * (0 + 1024 * (x0.toNat + 128 * (7 + 8 * (9)))))) by omega)
  have b0 : bits w 0 3 = 0 := at0 e f rfl
  have b1 : bits w 0 4 = 0 := bits_pack e f 0 2 rfl rfl rfl
  have b2 : bits w 0 16 = 0 := bits_pack e f 0 4 rfl rfl rfl
  have b3 : bits w 6 10 = 0 := at3 e f rfl
  have b4 : bits w 23 3 = 7 := at5 e f rfl
  have b5 : bits w 26 6 = 9 := at6 e f rfl
  have n0 : ¬bits w 16 10 = 256 := by intro h; unfold bits at h b4; omega
  have n1 : ¬bits w 0 26 = 25165824 := by intro h; unfold bits at h b4; omega
  have n2 : ¬bits w 0 26 = 33554432 := by intro h; unfold bits at h b4; omega
  have n3 : ¬bits w 0 26 = 33554448 := by intro h; unfold bits at h b2; omega
  have n4 : ¬bits w 0 26 = 41943040 := by intro h; unfold bits at h b4; omega
  have f0 : Sys2Proof.fld w 16 7 = x0 := fld_eq (at4 e f rfl)
  exact of_row hw (by rw [row09 b5]; simp [decode09, b0, b1, b2, b3, b4, n0, n1, n2, n3, n4, f0])
theorem tlbinvRoot (x0 : BitVec 7) : Statement (.tlbinvRoot x0) := by
  have f : Fit [(3, 0), (1, 0), (2, 1), (10, 0), (7, x0.toNat), (3, 7), (6, 9)] := ⟨Nat.two_pow_pos 3, Nat.two_pow_pos 1, by decide, Nat.two_pow_pos 10, x0.isLt, by decide, by decide, trivial⟩
  obtain ⟨w, hw⟩ : ∃ w, w = encode (.tlbinvRoot x0) := ⟨_, rfl⟩
  have e := toNat_pack hw f rfl (show 662700048 + x0.toNat * 65536 = 0 + 8 * (0 + 2 * (1 + 4 * (0 + 1024 * (x0.toNat + 128 * (7 + 8 * (9)))))) by omega)
  have b0 : bits w 0 3 = 0 := at0 e f rfl
  have b1 : bits w 0 4 = 0 := bits_pack e f 0 2 rfl rfl rfl
  have b2 : bits w 0 16 = 16 := bits_pack e f 0 4 rfl rfl rfl
  have b3 : bits w 6 10 = 0 := at3 e f rfl
  have b4 : bits w 23 3 = 7 := at5 e f rfl
  have b5 : bits w 26 6 = 9 := at6 e f rfl
  have n0 : ¬bits w 16 10 = 256 := by intro h; unfold bits at h b4; omega
  have n1 : ¬bits w 0 26 = 25165824 := by intro h; unfold bits at h b2; omega
  have n2 : ¬bits w 0 26 = 33554432 := by intro h; unfold bits at h b2; omega
  have n3 : ¬bits w 0 26 = 33554448 := by intro h; unfold bits at h b4; omega
  have n4 : ¬bits w 0 26 = 41943040 := by intro h; unfold bits at h b2; omega
  have f0 : Sys2Proof.fld w 16 7 = x0 := fld_eq (at4 e f rfl)
  exact of_row hw (by rw [row09 b5]; simp [decode09, b0, b1, b2, b3, b4, n0, n1, n2, n3, n4, f0])
theorem tlbinvAll : Statement (.tlbinvAll) := by
  have f : Fit [(3, 0), (1, 0), (2, 2), (10, 0), (5, 0), (2, 0), (3, 7), (6, 9)] := ⟨Nat.two_pow_pos 3, Nat.two_pow_pos 1, by decide, Nat.two_pow_pos 10, Nat.two_pow_pos 5, Nat.two_pow_pos 2, by decide, by decide, trivial⟩
  obtain ⟨w, hw⟩ : ∃ w, w = encode (.tlbinvAll) := ⟨_, rfl⟩
  have e := toNat_pack hw f rfl (show 662700064 = 0 + 8 * (0 + 2 * (2 + 4 * (0 + 1024 * (0 + 32 * (0 + 4 * (7 + 8 * (9))))))) by rfl)
  have b0 : bits w 0 3 = 0 := at0 e f rfl
  have b1 : bits w 0 4 = 0 := bits_pack e f 0 2 rfl rfl rfl
  have b2 : bits w 0 16 = 32 := bits_pack e f 0 4 rfl rfl rfl
  have b3 : bits w 0 26 = 58720288 := bits_pack e f 0 7 rfl rfl rfl
  have b4 : bits w 6 10 = 0 := at3 e f rfl
  have b5 : bits w 16 10 = 896 := bits_pack e f 4 3 rfl rfl rfl
  have b6 : bits w 21 5 = 28 := bits_pack e f 5 2 rfl rfl rfl
  have b7 : bits w 23 3 = 7 := at6 e f rfl
  have b8 : bits w 26 6 = 9 := at7 e f rfl
  exact of_row hw (by rw [row09 b8]; simp [decode09, b0, b1, b2, b3, b4, b5, b6, b7])
theorem brk : Statement (.brk) := by
  have f : Fit [(26, 0), (6, 10)] := ⟨Nat.two_pow_pos 26, by decide, trivial⟩
  obtain ⟨w, hw⟩ : ∃ w, w = encode (.brk) := ⟨_, rfl⟩
  have e := toNat_pack hw f rfl (show 671088640 = 0 + 67108864 * (10) by rfl)
  have b0 : bits w 0 26 = 0 := at0 e f rfl
  have b1 : bits w 26 6 = 10 := at1 e f rfl
  exact of_row hw (by rw [row0A b1]; simp [decode0A, b0])
theorem dbgStep (x0 : BitVec 7) : Statement (.dbgStep x0) := by
  have f : Fit [(16, 0), (7, x0.toNat), (3, 1), (6, 10)] := ⟨Nat.two_pow_pos 16, x0.isLt, by decide, by decide, trivial⟩
  obtain ⟨w, hw⟩ : ∃ w, w = encode (.dbgStep x0) := ⟨_, rfl⟩
  have e := toNat_pack hw f rfl (show 679477248 + x0.toNat * 65536 = 0 + 65536 * (x0.toNat + 128 * (1 + 8 * (10))) by omega)
  have b0 : bits w 0 16 = 0 := at0 e f rfl
  have b1 : bits w 23 3 = 1 := at2 e f rfl
  have b2 : bits w 26 6 = 10 := at3 e f rfl
  have n0 : ¬bits w 0 26 = 0 := by intro h; unfold bits at h b1; omega
  have f0 : Sys2Proof.fld w 16 7 = x0 := fld_eq (at1 e f rfl)
  exact of_row hw (by rw [row0A b2]; simp [decode0A, b0, b1, n0, f0])
theorem preack : Statement (.preack) := by
  have f : Fit [(16, 0), (7, 0), (3, 2), (6, 10)] := ⟨Nat.two_pow_pos 16, Nat.two_pow_pos 7, by decide, by decide, trivial⟩
  obtain ⟨w, hw⟩ : ∃ w, w = encode (.preack) := ⟨_, rfl⟩
  have e := toNat_pack hw f rfl (show 687865856 = 0 + 65536 * (0 + 128 * (2 + 8 * (10))) by rfl)
  have b0 : bits w 0 16 = 0 := at0 e f rfl
  have b1 : bits w 0 26 = 16777216 := bits_pack e f 0 3 rfl rfl rfl
  have b2 : bits w 23 3 = 2 := at2 e f rfl
  have b3 : bits w 26 6 = 10 := at3 e f rfl
  exact of_row hw (by rw [row0A b3]; simp [decode0A, b0, b1, b2])
theorem vadd (x0 : BitVec 5) (x1 : Src) (x2 : Src) (x3 : BitVec 2) : Statement (.vadd x0 x1 x2 x3) := by
  have f : Fit [(3, 0), (2, x3.toNat), (8, srcCode x2), (8, srcCode x1), (5, x0.toNat), (6, 16)] := ⟨Nat.two_pow_pos 3, x3.isLt, srcCode_lt x2, srcCode_lt x1, x0.isLt, by decide, trivial⟩
  obtain ⟨w, hw⟩ : ∃ w, w = encode (.vadd x0 x1 x2 x3) := ⟨_, rfl⟩
  have e := toNat_pack hw f rfl (show 1073741824 + x0.toNat * 2097152 + srcCode x1 * 8192 + srcCode x2 * 32 + x3.toNat * 8 = 0 + 8 * (x3.toNat + 4 * (srcCode x2 + 256 * (srcCode x1 + 256 * (x0.toNat + 32 * (16))))) by omega)
  have b0 : bits w 0 3 = 0 := at0 e f rfl
  have b1 : bits w 26 6 = 16 := at5 e f rfl
  have f0 : Sys2Proof.fld w 21 5 = x0 := fld_eq (at4 e f rfl)
  have f1 : srcAt w 13 = x1 := srcAt_eq (at3 e f rfl)
  have f2 : srcAt w 5 = x2 := srcAt_eq (at2 e f rfl)
  have f3 : Sys2Proof.fld w 3 2 = x3 := fld_eq (at1 e f rfl)
  exact of_row hw (by rw [row10 b1]; simp [decode10, b0, f0, f1, f2, f3])
theorem vsub (x0 : BitVec 5) (x1 : Src) (x2 : Src) (x3 : BitVec 2) : Statement (.vsub x0 x1 x2 x3) := by
  have f : Fit [(3, 1), (2, x3.toNat), (8, srcCode x2), (8, srcCode x1), (5, x0.toNat), (6, 16)] := ⟨by decide, x3.isLt, srcCode_lt x2, srcCode_lt x1, x0.isLt, by decide, trivial⟩
  obtain ⟨w, hw⟩ : ∃ w, w = encode (.vsub x0 x1 x2 x3) := ⟨_, rfl⟩
  have e := toNat_pack hw f rfl (show 1073741825 + x0.toNat * 2097152 + srcCode x1 * 8192 + srcCode x2 * 32 + x3.toNat * 8 = 1 + 8 * (x3.toNat + 4 * (srcCode x2 + 256 * (srcCode x1 + 256 * (x0.toNat + 32 * (16))))) by omega)
  have b0 : bits w 0 3 = 1 := at0 e f rfl
  have b1 : bits w 26 6 = 16 := at5 e f rfl
  have f0 : Sys2Proof.fld w 21 5 = x0 := fld_eq (at4 e f rfl)
  have f1 : srcAt w 13 = x1 := srcAt_eq (at3 e f rfl)
  have f2 : srcAt w 5 = x2 := srcAt_eq (at2 e f rfl)
  have f3 : Sys2Proof.fld w 3 2 = x3 := fld_eq (at1 e f rfl)
  exact of_row hw (by rw [row10 b1]; simp [decode10, b0, f0, f1, f2, f3])
theorem vaddSatS32 (x0 : BitVec 5) (x1 : Src) (x2 : Src) (x3 : BitVec 2) : Statement (.vaddSatS32 x0 x1 x2 x3) := by
  have f : Fit [(3, 2), (2, x3.toNat), (8, srcCode x2), (8, srcCode x1), (5, x0.toNat), (6, 16)] := ⟨by decide, x3.isLt, srcCode_lt x2, srcCode_lt x1, x0.isLt, by decide, trivial⟩
  obtain ⟨w, hw⟩ : ∃ w, w = encode (.vaddSatS32 x0 x1 x2 x3) := ⟨_, rfl⟩
  have e := toNat_pack hw f rfl (show 1073741826 + x0.toNat * 2097152 + srcCode x1 * 8192 + srcCode x2 * 32 + x3.toNat * 8 = 2 + 8 * (x3.toNat + 4 * (srcCode x2 + 256 * (srcCode x1 + 256 * (x0.toNat + 32 * (16))))) by omega)
  have b0 : bits w 0 3 = 2 := at0 e f rfl
  have b1 : bits w 26 6 = 16 := at5 e f rfl
  have f0 : Sys2Proof.fld w 21 5 = x0 := fld_eq (at4 e f rfl)
  have f1 : srcAt w 13 = x1 := srcAt_eq (at3 e f rfl)
  have f2 : srcAt w 5 = x2 := srcAt_eq (at2 e f rfl)
  have f3 : Sys2Proof.fld w 3 2 = x3 := fld_eq (at1 e f rfl)
  exact of_row hw (by rw [row10 b1]; simp [decode10, b0, f0, f1, f2, f3])
theorem vaddSatN32 (x0 : BitVec 5) (x1 : Src) (x2 : Src) (x3 : BitVec 2) : Statement (.vaddSatN32 x0 x1 x2 x3) := by
  have f : Fit [(3, 3), (2, x3.toNat), (8, srcCode x2), (8, srcCode x1), (5, x0.toNat), (6, 16)] := ⟨by decide, x3.isLt, srcCode_lt x2, srcCode_lt x1, x0.isLt, by decide, trivial⟩
  obtain ⟨w, hw⟩ : ∃ w, w = encode (.vaddSatN32 x0 x1 x2 x3) := ⟨_, rfl⟩
  have e := toNat_pack hw f rfl (show 1073741827 + x0.toNat * 2097152 + srcCode x1 * 8192 + srcCode x2 * 32 + x3.toNat * 8 = 3 + 8 * (x3.toNat + 4 * (srcCode x2 + 256 * (srcCode x1 + 256 * (x0.toNat + 32 * (16))))) by omega)
  have b0 : bits w 0 3 = 3 := at0 e f rfl
  have b1 : bits w 26 6 = 16 := at5 e f rfl
  have f0 : Sys2Proof.fld w 21 5 = x0 := fld_eq (at4 e f rfl)
  have f1 : srcAt w 13 = x1 := srcAt_eq (at3 e f rfl)
  have f2 : srcAt w 5 = x2 := srcAt_eq (at2 e f rfl)
  have f3 : Sys2Proof.fld w 3 2 = x3 := fld_eq (at1 e f rfl)
  exact of_row hw (by rw [row10 b1]; simp [decode10, b0, f0, f1, f2, f3])
theorem vaddc (x0 : BitVec 4) (x1 : Src) (x2 : Src) (x3 : BitVec 2) : Statement (.vaddc x0 x1 x2 x3) := by
  have f : Fit [(3, 4), (2, x3.toNat), (8, srcCode x2), (8, srcCode x1), (1, 0), (4, x0.toNat), (6, 16)] := ⟨by decide, x3.isLt, srcCode_lt x2, srcCode_lt x1, Nat.two_pow_pos 1, x0.isLt, by decide, trivial⟩
  obtain ⟨w, hw⟩ : ∃ w, w = encode (.vaddc x0 x1 x2 x3) := ⟨_, rfl⟩
  have e := toNat_pack hw f rfl (show 1073741828 + x0.toNat * 4194304 + srcCode x1 * 8192 + srcCode x2 * 32 + x3.toNat * 8 = 4 + 8 * (x3.toNat + 4 * (srcCode x2 + 256 * (srcCode x1 + 256 * (0 + 2 * (x0.toNat + 16 * (16)))))) by omega)
  have b0 : bits w 0 3 = 4 := at0 e f rfl
  have b1 : bits w 21 1 = 0 := at4 e f rfl
  have b2 : bits w 26 6 = 16 := at6 e f rfl
  have f0 : Sys2Proof.fld w 22 4 = x0 := fld_eq (at5 e f rfl)
  have f1 : srcAt w 13 = x1 := srcAt_eq (at3 e f rfl)
  have f2 : srcAt w 5 = x2 := srcAt_eq (at2 e f rfl)
  have f3 : Sys2Proof.fld w 3 2 = x3 := fld_eq (at1 e f rfl)
  exact of_row hw (by rw [row10 b2]; simp [decode10, b0, b1, f0, f1, f2, f3])
theorem vmulLo (x0 : BitVec 5) (x1 : Src) (x2 : Src) (x3 : BitVec 2) : Statement (.vmulLo x0 x1 x2 x3) := by
  have f : Fit [(3, 5), (2, x3.toNat), (8, srcCode x2), (8, srcCode x1), (5, x0.toNat), (6, 16)] := ⟨by decide, x3.isLt, srcCode_lt x2, srcCode_lt x1, x0.isLt, by decide, trivial⟩
  obtain ⟨w, hw⟩ : ∃ w, w = encode (.vmulLo x0 x1 x2 x3) := ⟨_, rfl⟩
  have e := toNat_pack hw f rfl (show 1073741829 + x0.toNat * 2097152 + srcCode x1 * 8192 + srcCode x2 * 32 + x3.toNat * 8 = 5 + 8 * (x3.toNat + 4 * (srcCode x2 + 256 * (srcCode x1 + 256 * (x0.toNat + 32 * (16))))) by omega)
  have b0 : bits w 0 3 = 5 := at0 e f rfl
  have b1 : bits w 26 6 = 16 := at5 e f rfl
  have f0 : Sys2Proof.fld w 21 5 = x0 := fld_eq (at4 e f rfl)
  have f1 : srcAt w 13 = x1 := srcAt_eq (at3 e f rfl)
  have f2 : srcAt w 5 = x2 := srcAt_eq (at2 e f rfl)
  have f3 : Sys2Proof.fld w 3 2 = x3 := fld_eq (at1 e f rfl)
  exact of_row hw (by rw [row10 b1]; simp [decode10, b0, f0, f1, f2, f3])
theorem vmulHiS32 (x0 : BitVec 5) (x1 : Src) (x2 : Src) (x3 : BitVec 2) : Statement (.vmulHiS32 x0 x1 x2 x3) := by
  have f : Fit [(3, 6), (2, x3.toNat), (8, srcCode x2), (8, srcCode x1), (5, x0.toNat), (6, 16)] := ⟨by decide, x3.isLt, srcCode_lt x2, srcCode_lt x1, x0.isLt, by decide, trivial⟩
  obtain ⟨w, hw⟩ : ∃ w, w = encode (.vmulHiS32 x0 x1 x2 x3) := ⟨_, rfl⟩
  have e := toNat_pack hw f rfl (show 1073741830 + x0.toNat * 2097152 + srcCode x1 * 8192 + srcCode x2 * 32 + x3.toNat * 8 = 6 + 8 * (x3.toNat + 4 * (srcCode x2 + 256 * (srcCode x1 + 256 * (x0.toNat + 32 * (16))))) by omega)
  have b0 : bits w 0 3 = 6 := at0 e f rfl
  have b1 : bits w 26 6 = 16 := at5 e f rfl
  have f0 : Sys2Proof.fld w 21 5 = x0 := fld_eq (at4 e f rfl)
  have f1 : srcAt w 13 = x1 := srcAt_eq (at3 e f rfl)
  have f2 : srcAt w 5 = x2 := srcAt_eq (at2 e f rfl)
  have f3 : Sys2Proof.fld w 3 2 = x3 := fld_eq (at1 e f rfl)
  exact of_row hw (by rw [row10 b1]; simp [decode10, b0, f0, f1, f2, f3])
theorem vmulHiN32 (x0 : BitVec 5) (x1 : Src) (x2 : Src) (x3 : BitVec 2) : Statement (.vmulHiN32 x0 x1 x2 x3) := by
  have f : Fit [(3, 7), (2, x3.toNat), (8, srcCode x2), (8, srcCode x1), (5, x0.toNat), (6, 16)] := ⟨by decide, x3.isLt, srcCode_lt x2, srcCode_lt x1, x0.isLt, by decide, trivial⟩
  obtain ⟨w, hw⟩ : ∃ w, w = encode (.vmulHiN32 x0 x1 x2 x3) := ⟨_, rfl⟩
  have e := toNat_pack hw f rfl (show 1073741831 + x0.toNat * 2097152 + srcCode x1 * 8192 + srcCode x2 * 32 + x3.toNat * 8 = 7 + 8 * (x3.toNat + 4 * (srcCode x2 + 256 * (srcCode x1 + 256 * (x0.toNat + 32 * (16))))) by omega)
  have b0 : bits w 0 3 = 7 := at0 e f rfl
  have b1 : bits w 26 6 = 16 := at5 e f rfl
  have f0 : Sys2Proof.fld w 21 5 = x0 := fld_eq (at4 e f rfl)
  have f1 : srcAt w 13 = x1 := srcAt_eq (at3 e f rfl)
  have f2 : srcAt w 5 = x2 := srcAt_eq (at2 e f rfl)
  have f3 : Sys2Proof.fld w 3 2 = x3 := fld_eq (at1 e f rfl)
  exact of_row hw (by rw [row10 b1]; simp [decode10, b0, f0, f1, f2, f3])
theorem vmad (x0 : BitVec 5) (x1 : Src) (x2 : Src) (x3 : BitVec 2) : Statement (.vmad x0 x1 x2 x3) := by
  have f : Fit [(3, 0), (2, x3.toNat), (8, srcCode x2), (8, srcCode x1), (5, x0.toNat), (6, 17)] := ⟨Nat.two_pow_pos 3, x3.isLt, srcCode_lt x2, srcCode_lt x1, x0.isLt, by decide, trivial⟩
  obtain ⟨w, hw⟩ : ∃ w, w = encode (.vmad x0 x1 x2 x3) := ⟨_, rfl⟩
  have e := toNat_pack hw f rfl (show 1140850688 + x0.toNat * 2097152 + srcCode x1 * 8192 + srcCode x2 * 32 + x3.toNat * 8 = 0 + 8 * (x3.toNat + 4 * (srcCode x2 + 256 * (srcCode x1 + 256 * (x0.toNat + 32 * (17))))) by omega)
  have b0 : bits w 0 3 = 0 := at0 e f rfl
  have b1 : bits w 26 6 = 17 := at5 e f rfl
  have f0 : Sys2Proof.fld w 21 5 = x0 := fld_eq (at4 e f rfl)
  have f1 : srcAt w 13 = x1 := srcAt_eq (at3 e f rfl)
  have f2 : srcAt w 5 = x2 := srcAt_eq (at2 e f rfl)
  have f3 : Sys2Proof.fld w 3 2 = x3 := fld_eq (at1 e f rfl)
  exact of_row hw (by rw [row11 b1]; simp [decode11, b0, f0, f1, f2, f3])
theorem vdivS32 (x0 : BitVec 5) (x1 : Src) (x2 : Src) (x3 : BitVec 2) : Statement (.vdivS32 x0 x1 x2 x3) := by
  have f : Fit [(3, 1), (2, x3.toNat), (8, srcCode x2), (8, srcCode x1), (5, x0.toNat), (6, 17)] := ⟨by decide, x3.isLt, srcCode_lt x2, srcCode_lt x1, x0.isLt, by decide, trivial⟩
  obtain ⟨w, hw⟩ : ∃ w, w = encode (.vdivS32 x0 x1 x2 x3) := ⟨_, rfl⟩
  have e := toNat_pack hw f rfl (show 1140850689 + x0.toNat * 2097152 + srcCode x1 * 8192 + srcCode x2 * 32 + x3.toNat * 8 = 1 + 8 * (x3.toNat + 4 * (srcCode x2 + 256 * (srcCode x1 + 256 * (x0.toNat + 32 * (17))))) by omega)
  have b0 : bits w 0 3 = 1 := at0 e f rfl
  have b1 : bits w 26 6 = 17 := at5 e f rfl
  have f0 : Sys2Proof.fld w 21 5 = x0 := fld_eq (at4 e f rfl)
  have f1 : srcAt w 13 = x1 := srcAt_eq (at3 e f rfl)
  have f2 : srcAt w 5 = x2 := srcAt_eq (at2 e f rfl)
  have f3 : Sys2Proof.fld w 3 2 = x3 := fld_eq (at1 e f rfl)
  exact of_row hw (by rw [row11 b1]; simp [decode11, b0, f0, f1, f2, f3])
theorem vdivN32 (x0 : BitVec 5) (x1 : Src) (x2 : Src) (x3 : BitVec 2) : Statement (.vdivN32 x0 x1 x2 x3) := by
  have f : Fit [(3, 2), (2, x3.toNat), (8, srcCode x2), (8, srcCode x1), (5, x0.toNat), (6, 17)] := ⟨by decide, x3.isLt, srcCode_lt x2, srcCode_lt x1, x0.isLt, by decide, trivial⟩
  obtain ⟨w, hw⟩ : ∃ w, w = encode (.vdivN32 x0 x1 x2 x3) := ⟨_, rfl⟩
  have e := toNat_pack hw f rfl (show 1140850690 + x0.toNat * 2097152 + srcCode x1 * 8192 + srcCode x2 * 32 + x3.toNat * 8 = 2 + 8 * (x3.toNat + 4 * (srcCode x2 + 256 * (srcCode x1 + 256 * (x0.toNat + 32 * (17))))) by omega)
  have b0 : bits w 0 3 = 2 := at0 e f rfl
  have b1 : bits w 26 6 = 17 := at5 e f rfl
  have f0 : Sys2Proof.fld w 21 5 = x0 := fld_eq (at4 e f rfl)
  have f1 : srcAt w 13 = x1 := srcAt_eq (at3 e f rfl)
  have f2 : srcAt w 5 = x2 := srcAt_eq (at2 e f rfl)
  have f3 : Sys2Proof.fld w 3 2 = x3 := fld_eq (at1 e f rfl)
  exact of_row hw (by rw [row11 b1]; simp [decode11, b0, f0, f1, f2, f3])
theorem vremS32 (x0 : BitVec 5) (x1 : Src) (x2 : Src) (x3 : BitVec 2) : Statement (.vremS32 x0 x1 x2 x3) := by
  have f : Fit [(3, 3), (2, x3.toNat), (8, srcCode x2), (8, srcCode x1), (5, x0.toNat), (6, 17)] := ⟨by decide, x3.isLt, srcCode_lt x2, srcCode_lt x1, x0.isLt, by decide, trivial⟩
  obtain ⟨w, hw⟩ : ∃ w, w = encode (.vremS32 x0 x1 x2 x3) := ⟨_, rfl⟩
  have e := toNat_pack hw f rfl (show 1140850691 + x0.toNat * 2097152 + srcCode x1 * 8192 + srcCode x2 * 32 + x3.toNat * 8 = 3 + 8 * (x3.toNat + 4 * (srcCode x2 + 256 * (srcCode x1 + 256 * (x0.toNat + 32 * (17))))) by omega)
  have b0 : bits w 0 3 = 3 := at0 e f rfl
  have b1 : bits w 26 6 = 17 := at5 e f rfl
  have f0 : Sys2Proof.fld w 21 5 = x0 := fld_eq (at4 e f rfl)
  have f1 : srcAt w 13 = x1 := srcAt_eq (at3 e f rfl)
  have f2 : srcAt w 5 = x2 := srcAt_eq (at2 e f rfl)
  have f3 : Sys2Proof.fld w 3 2 = x3 := fld_eq (at1 e f rfl)
  exact of_row hw (by rw [row11 b1]; simp [decode11, b0, f0, f1, f2, f3])
theorem vremN32 (x0 : BitVec 5) (x1 : Src) (x2 : Src) (x3 : BitVec 2) : Statement (.vremN32 x0 x1 x2 x3) := by
  have f : Fit [(3, 4), (2, x3.toNat), (8, srcCode x2), (8, srcCode x1), (5, x0.toNat), (6, 17)] := ⟨by decide, x3.isLt, srcCode_lt x2, srcCode_lt x1, x0.isLt, by decide, trivial⟩
  obtain ⟨w, hw⟩ : ∃ w, w = encode (.vremN32 x0 x1 x2 x3) := ⟨_, rfl⟩
  have e := toNat_pack hw f rfl (show 1140850692 + x0.toNat * 2097152 + srcCode x1 * 8192 + srcCode x2 * 32 + x3.toNat * 8 = 4 + 8 * (x3.toNat + 4 * (srcCode x2 + 256 * (srcCode x1 + 256 * (x0.toNat + 32 * (17))))) by omega)
  have b0 : bits w 0 3 = 4 := at0 e f rfl
  have b1 : bits w 26 6 = 17 := at5 e f rfl
  have f0 : Sys2Proof.fld w 21 5 = x0 := fld_eq (at4 e f rfl)
  have f1 : srcAt w 13 = x1 := srcAt_eq (at3 e f rfl)
  have f2 : srcAt w 5 = x2 := srcAt_eq (at2 e f rfl)
  have f3 : Sys2Proof.fld w 3 2 = x3 := fld_eq (at1 e f rfl)
  exact of_row hw (by rw [row11 b1]; simp [decode11, b0, f0, f1, f2, f3])
theorem vminS32 (x0 : BitVec 5) (x1 : Src) (x2 : Src) (x3 : BitVec 2) : Statement (.vminS32 x0 x1 x2 x3) := by
  have f : Fit [(3, 5), (2, x3.toNat), (8, srcCode x2), (8, srcCode x1), (5, x0.toNat), (6, 17)] := ⟨by decide, x3.isLt, srcCode_lt x2, srcCode_lt x1, x0.isLt, by decide, trivial⟩
  obtain ⟨w, hw⟩ : ∃ w, w = encode (.vminS32 x0 x1 x2 x3) := ⟨_, rfl⟩
  have e := toNat_pack hw f rfl (show 1140850693 + x0.toNat * 2097152 + srcCode x1 * 8192 + srcCode x2 * 32 + x3.toNat * 8 = 5 + 8 * (x3.toNat + 4 * (srcCode x2 + 256 * (srcCode x1 + 256 * (x0.toNat + 32 * (17))))) by omega)
  have b0 : bits w 0 3 = 5 := at0 e f rfl
  have b1 : bits w 26 6 = 17 := at5 e f rfl
  have f0 : Sys2Proof.fld w 21 5 = x0 := fld_eq (at4 e f rfl)
  have f1 : srcAt w 13 = x1 := srcAt_eq (at3 e f rfl)
  have f2 : srcAt w 5 = x2 := srcAt_eq (at2 e f rfl)
  have f3 : Sys2Proof.fld w 3 2 = x3 := fld_eq (at1 e f rfl)
  exact of_row hw (by rw [row11 b1]; simp [decode11, b0, f0, f1, f2, f3])
theorem vminN32 (x0 : BitVec 5) (x1 : Src) (x2 : Src) (x3 : BitVec 2) : Statement (.vminN32 x0 x1 x2 x3) := by
  have f : Fit [(3, 6), (2, x3.toNat), (8, srcCode x2), (8, srcCode x1), (5, x0.toNat), (6, 17)] := ⟨by decide, x3.isLt, srcCode_lt x2, srcCode_lt x1, x0.isLt, by decide, trivial⟩
  obtain ⟨w, hw⟩ : ∃ w, w = encode (.vminN32 x0 x1 x2 x3) := ⟨_, rfl⟩
  have e := toNat_pack hw f rfl (show 1140850694 + x0.toNat * 2097152 + srcCode x1 * 8192 + srcCode x2 * 32 + x3.toNat * 8 = 6 + 8 * (x3.toNat + 4 * (srcCode x2 + 256 * (srcCode x1 + 256 * (x0.toNat + 32 * (17))))) by omega)
  have b0 : bits w 0 3 = 6 := at0 e f rfl
  have b1 : bits w 26 6 = 17 := at5 e f rfl
  have f0 : Sys2Proof.fld w 21 5 = x0 := fld_eq (at4 e f rfl)
  have f1 : srcAt w 13 = x1 := srcAt_eq (at3 e f rfl)
  have f2 : srcAt w 5 = x2 := srcAt_eq (at2 e f rfl)
  have f3 : Sys2Proof.fld w 3 2 = x3 := fld_eq (at1 e f rfl)
  exact of_row hw (by rw [row11 b1]; simp [decode11, b0, f0, f1, f2, f3])
theorem vmaxS32 (x0 : BitVec 5) (x1 : Src) (x2 : Src) (x3 : BitVec 2) : Statement (.vmaxS32 x0 x1 x2 x3) := by
  have f : Fit [(3, 7), (2, x3.toNat), (8, srcCode x2), (8, srcCode x1), (5, x0.toNat), (6, 17)] := ⟨by decide, x3.isLt, srcCode_lt x2, srcCode_lt x1, x0.isLt, by decide, trivial⟩
  obtain ⟨w, hw⟩ : ∃ w, w = encode (.vmaxS32 x0 x1 x2 x3) := ⟨_, rfl⟩
  have e := toNat_pack hw f rfl (show 1140850695 + x0.toNat * 2097152 + srcCode x1 * 8192 + srcCode x2 * 32 + x3.toNat * 8 = 7 + 8 * (x3.toNat + 4 * (srcCode x2 + 256 * (srcCode x1 + 256 * (x0.toNat + 32 * (17))))) by omega)
  have b0 : bits w 0 3 = 7 := at0 e f rfl
  have b1 : bits w 26 6 = 17 := at5 e f rfl
  have f0 : Sys2Proof.fld w 21 5 = x0 := fld_eq (at4 e f rfl)
  have f1 : srcAt w 13 = x1 := srcAt_eq (at3 e f rfl)
  have f2 : srcAt w 5 = x2 := srcAt_eq (at2 e f rfl)
  have f3 : Sys2Proof.fld w 3 2 = x3 := fld_eq (at1 e f rfl)
  exact of_row hw (by rw [row11 b1]; simp [decode11, b0, f0, f1, f2, f3])
theorem vmaxN32 (x0 : BitVec 5) (x1 : Src) (x2 : Src) (x3 : BitVec 2) : Statement (.vmaxN32 x0 x1 x2 x3) := by
  have f : Fit [(3, 0), (2, x3.toNat), (8, srcCode x2), (8, srcCode x1), (5, x0.toNat), (6, 18)] := ⟨Nat.two_pow_pos 3, x3.isLt, srcCode_lt x2, srcCode_lt x1, x0.isLt, by decide, trivial⟩
  obtain ⟨w, hw⟩ : ∃ w, w = encode (.vmaxN32 x0 x1 x2 x3) := ⟨_, rfl⟩
  have e := toNat_pack hw f rfl (show 1207959552 + x0.toNat * 2097152 + srcCode x1 * 8192 + srcCode x2 * 32 + x3.toNat * 8 = 0 + 8 * (x3.toNat + 4 * (srcCode x2 + 256 * (srcCode x1 + 256 * (x0.toNat + 32 * (18))))) by omega)
  have b0 : bits w 0 3 = 0 := at0 e f rfl
  have b1 : bits w 26 6 = 18 := at5 e f rfl
  have f0 : Sys2Proof.fld w 21 5 = x0 := fld_eq (at4 e f rfl)
  have f1 : srcAt w 13 = x1 := srcAt_eq (at3 e f rfl)
  have f2 : srcAt w 5 = x2 := srcAt_eq (at2 e f rfl)
  have f3 : Sys2Proof.fld w 3 2 = x3 := fld_eq (at1 e f rfl)
  exact of_row hw (by rw [row12 b1]; simp [decode12, b0, f0, f1, f2, f3])
theorem vabsS32 (x0 : BitVec 5) (x1 : Src) (x2 : BitVec 2) : Statement (.vabsS32 x0 x1 x2) := by
  have f : Fit [(3, 1), (2, x2.toNat), (8, 0), (8, srcCode x1), (5, x0.toNat), (6, 18)] := ⟨by decide, x2.isLt, Nat.two_pow_pos 8, srcCode_lt x1, x0.isLt, by decide, trivial⟩
  obtain ⟨w, hw⟩ : ∃ w, w = encode (.vabsS32 x0 x1 x2) := ⟨_, rfl⟩
  have e := toNat_pack hw f rfl (show 1207959553 + x0.toNat * 2097152 + srcCode x1 * 8192 + x2.toNat * 8 = 1 + 8 * (x2.toNat + 4 * (0 + 256 * (srcCode x1 + 256 * (x0.toNat + 32 * (18))))) by omega)
  have b0 : bits w 0 3 = 1 := at0 e f rfl
  have b1 : bits w 5 8 = 0 := at2 e f rfl
  have b2 : bits w 26 6 = 18 := at5 e f rfl
  have f0 : Sys2Proof.fld w 21 5 = x0 := fld_eq (at4 e f rfl)
  have f1 : srcAt w 13 = x1 := srcAt_eq (at3 e f rfl)
  have f2 : Sys2Proof.fld w 3 2 = x2 := fld_eq (at1 e f rfl)
  exact of_row hw (by rw [row12 b2]; simp [decode12, b0, b1, f0, f1, f2])
theorem vneg (x0 : BitVec 5) (x1 : Src) (x2 : BitVec 2) : Statement (.vneg x0 x1 x2) := by
  have f : Fit [(3, 2), (2, x2.toNat), (8, 0), (8, srcCode x1), (5, x0.toNat), (6, 18)] := ⟨by decide, x2.isLt, Nat.two_pow_pos 8, srcCode_lt x1, x0.isLt, by decide, trivial⟩
  obtain ⟨w, hw⟩ : ∃ w, w = encode (.vneg x0 x1 x2) := ⟨_, rfl⟩
  have e := toNat_pack hw f rfl (show 1207959554 + x0.toNat * 2097152 + srcCode x1 * 8192 + x2.toNat * 8 = 2 + 8 * (x2.toNat + 4 * (0 + 256 * (srcCode x1 + 256 * (x0.toNat + 32 * (18))))) by omega)
  have b0 : bits w 0 3 = 2 := at0 e f rfl
  have b1 : bits w 5 8 = 0 := at2 e f rfl
  have b2 : bits w 26 6 = 18 := at5 e f rfl
  have f0 : Sys2Proof.fld w 21 5 = x0 := fld_eq (at4 e f rfl)
  have f1 : srcAt w 13 = x1 := srcAt_eq (at3 e f rfl)
  have f2 : Sys2Proof.fld w 3 2 = x2 := fld_eq (at1 e f rfl)
  exact of_row hw (by rw [row12 b2]; simp [decode12, b0, b1, f0, f1, f2])
theorem vand (x0 : BitVec 5) (x1 : Src) (x2 : Src) (x3 : BitVec 2) : Statement (.vand x0 x1 x2 x3) := by
  have f : Fit [(3, 3), (2, x3.toNat), (8, srcCode x2), (8, srcCode x1), (5, x0.toNat), (6, 18)] := ⟨by decide, x3.isLt, srcCode_lt x2, srcCode_lt x1, x0.isLt, by decide, trivial⟩
  obtain ⟨w, hw⟩ : ∃ w, w = encode (.vand x0 x1 x2 x3) := ⟨_, rfl⟩
  have e := toNat_pack hw f rfl (show 1207959555 + x0.toNat * 2097152 + srcCode x1 * 8192 + srcCode x2 * 32 + x3.toNat * 8 = 3 + 8 * (x3.toNat + 4 * (srcCode x2 + 256 * (srcCode x1 + 256 * (x0.toNat + 32 * (18))))) by omega)
  have b0 : bits w 0 3 = 3 := at0 e f rfl
  have b1 : bits w 26 6 = 18 := at5 e f rfl
  have f0 : Sys2Proof.fld w 21 5 = x0 := fld_eq (at4 e f rfl)
  have f1 : srcAt w 13 = x1 := srcAt_eq (at3 e f rfl)
  have f2 : srcAt w 5 = x2 := srcAt_eq (at2 e f rfl)
  have f3 : Sys2Proof.fld w 3 2 = x3 := fld_eq (at1 e f rfl)
  exact of_row hw (by rw [row12 b1]; simp [decode12, b0, f0, f1, f2, f3])
theorem vor (x0 : BitVec 5) (x1 : Src) (x2 : Src) (x3 : BitVec 2) : Statement (.vor x0 x1 x2 x3) := by
  have f : Fit [(3, 4), (2, x3.toNat), (8, srcCode x2), (8, srcCode x1), (5, x0.toNat), (6, 18)] := ⟨by decide, x3.isLt, srcCode_lt x2, srcCode_lt x1, x0.isLt, by decide, trivial⟩
  obtain ⟨w, hw⟩ : ∃ w, w = encode (.vor x0 x1 x2 x3) := ⟨_, rfl⟩
  have e := toNat_pack hw f rfl (show 1207959556 + x0.toNat * 2097152 + srcCode x1 * 8192 + srcCode x2 * 32 + x3.toNat * 8 = 4 + 8 * (x3.toNat + 4 * (srcCode x2 + 256 * (srcCode x1 + 256 * (x0.toNat + 32 * (18))))) by omega)
  have b0 : bits w 0 3 = 4 := at0 e f rfl
  have b1 : bits w 26 6 = 18 := at5 e f rfl
  have f0 : Sys2Proof.fld w 21 5 = x0 := fld_eq (at4 e f rfl)
  have f1 : srcAt w 13 = x1 := srcAt_eq (at3 e f rfl)
  have f2 : srcAt w 5 = x2 := srcAt_eq (at2 e f rfl)
  have f3 : Sys2Proof.fld w 3 2 = x3 := fld_eq (at1 e f rfl)
  exact of_row hw (by rw [row12 b1]; simp [decode12, b0, f0, f1, f2, f3])
theorem vxor (x0 : BitVec 5) (x1 : Src) (x2 : Src) (x3 : BitVec 2) : Statement (.vxor x0 x1 x2 x3) := by
  have f : Fit [(3, 5), (2, x3.toNat), (8, srcCode x2), (8, srcCode x1), (5, x0.toNat), (6, 18)] := ⟨by decide, x3.isLt, srcCode_lt x2, srcCode_lt x1, x0.isLt, by decide, trivial⟩
  obtain ⟨w, hw⟩ : ∃ w, w = encode (.vxor x0 x1 x2 x3) := ⟨_, rfl⟩
  have e := toNat_pack hw f rfl (show 1207959557 + x0.toNat * 2097152 + srcCode x1 * 8192 + srcCode x2 * 32 + x3.toNat * 8 = 5 + 8 * (x3.toNat + 4 * (srcCode x2 + 256 * (srcCode x1 + 256 * (x0.toNat + 32 * (18))))) by omega)
  have b0 : bits w 0 3 = 5 := at0 e f rfl
  have b1 : bits w 26 6 = 18 := at5 e f rfl
  have f0 : Sys2Proof.fld w 21 5 = x0 := fld_eq (at4 e f rfl)
  have f1 : srcAt w 13 = x1 := srcAt_eq (at3 e f rfl)
  have f2 : srcAt w 5 = x2 := srcAt_eq (at2 e f rfl)
  have f3 : Sys2Proof.fld w 3 2 = x3 := fld_eq (at1 e f rfl)
  exact of_row hw (by rw [row12 b1]; simp [decode12, b0, f0, f1, f2, f3])
theorem vnot (x0 : BitVec 5) (x1 : Src) (x2 : BitVec 2) : Statement (.vnot x0 x1 x2) := by
  have f : Fit [(3, 6), (2, x2.toNat), (8, 0), (8, srcCode x1), (5, x0.toNat), (6, 18)] := ⟨by decide, x2.isLt, Nat.two_pow_pos 8, srcCode_lt x1, x0.isLt, by decide, trivial⟩
  obtain ⟨w, hw⟩ : ∃ w, w = encode (.vnot x0 x1 x2) := ⟨_, rfl⟩
  have e := toNat_pack hw f rfl (show 1207959558 + x0.toNat * 2097152 + srcCode x1 * 8192 + x2.toNat * 8 = 6 + 8 * (x2.toNat + 4 * (0 + 256 * (srcCode x1 + 256 * (x0.toNat + 32 * (18))))) by omega)
  have b0 : bits w 0 3 = 6 := at0 e f rfl
  have b1 : bits w 5 8 = 0 := at2 e f rfl
  have b2 : bits w 26 6 = 18 := at5 e f rfl
  have f0 : Sys2Proof.fld w 21 5 = x0 := fld_eq (at4 e f rfl)
  have f1 : srcAt w 13 = x1 := srcAt_eq (at3 e f rfl)
  have f2 : Sys2Proof.fld w 3 2 = x2 := fld_eq (at1 e f rfl)
  exact of_row hw (by rw [row12 b2]; simp [decode12, b0, b1, f0, f1, f2])
theorem vsel (x0 : BitVec 5) (x1 : Src) (x2 : Src) (x3 : BitVec 2) : Statement (.vsel x0 x1 x2 x3) := by
  have f : Fit [(3, 7), (2, x3.toNat), (8, srcCode x2), (8, srcCode x1), (5, x0.toNat), (6, 18)] := ⟨by decide, x3.isLt, srcCode_lt x2, srcCode_lt x1, x0.isLt, by decide, trivial⟩
  obtain ⟨w, hw⟩ : ∃ w, w = encode (.vsel x0 x1 x2 x3) := ⟨_, rfl⟩
  have e := toNat_pack hw f rfl (show 1207959559 + x0.toNat * 2097152 + srcCode x1 * 8192 + srcCode x2 * 32 + x3.toNat * 8 = 7 + 8 * (x3.toNat + 4 * (srcCode x2 + 256 * (srcCode x1 + 256 * (x0.toNat + 32 * (18))))) by omega)
  have b0 : bits w 0 3 = 7 := at0 e f rfl
  have b1 : bits w 26 6 = 18 := at5 e f rfl
  have f0 : Sys2Proof.fld w 21 5 = x0 := fld_eq (at4 e f rfl)
  have f1 : srcAt w 13 = x1 := srcAt_eq (at3 e f rfl)
  have f2 : srcAt w 5 = x2 := srcAt_eq (at2 e f rfl)
  have f3 : Sys2Proof.fld w 3 2 = x3 := fld_eq (at1 e f rfl)
  exact of_row hw (by rw [row12 b1]; simp [decode12, b0, f0, f1, f2, f3])
theorem vshl (x0 : BitVec 5) (x1 : Src) (x2 : Src) (x3 : BitVec 2) : Statement (.vshl x0 x1 x2 x3) := by
  have f : Fit [(3, 0), (2, x3.toNat), (8, srcCode x2), (8, srcCode x1), (5, x0.toNat), (6, 19)] := ⟨Nat.two_pow_pos 3, x3.isLt, srcCode_lt x2, srcCode_lt x1, x0.isLt, by decide, trivial⟩
  obtain ⟨w, hw⟩ : ∃ w, w = encode (.vshl x0 x1 x2 x3) := ⟨_, rfl⟩
  have e := toNat_pack hw f rfl (show 1275068416 + x0.toNat * 2097152 + srcCode x1 * 8192 + srcCode x2 * 32 + x3.toNat * 8 = 0 + 8 * (x3.toNat + 4 * (srcCode x2 + 256 * (srcCode x1 + 256 * (x0.toNat + 32 * (19))))) by omega)
  have b0 : bits w 0 3 = 0 := at0 e f rfl
  have b1 : bits w 26 6 = 19 := at5 e f rfl
  have f0 : Sys2Proof.fld w 21 5 = x0 := fld_eq (at4 e f rfl)
  have f1 : srcAt w 13 = x1 := srcAt_eq (at3 e f rfl)
  have f2 : srcAt w 5 = x2 := srcAt_eq (at2 e f rfl)
  have f3 : Sys2Proof.fld w 3 2 = x3 := fld_eq (at1 e f rfl)
  exact of_row hw (by rw [row13 b1]; simp [decode13, b0, f0, f1, f2, f3])
theorem vshr (x0 : BitVec 5) (x1 : Src) (x2 : Src) (x3 : BitVec 2) : Statement (.vshr x0 x1 x2 x3) := by
  have f : Fit [(3, 1), (2, x3.toNat), (8, srcCode x2), (8, srcCode x1), (5, x0.toNat), (6, 19)] := ⟨by decide, x3.isLt, srcCode_lt x2, srcCode_lt x1, x0.isLt, by decide, trivial⟩
  obtain ⟨w, hw⟩ : ∃ w, w = encode (.vshr x0 x1 x2 x3) := ⟨_, rfl⟩
  have e := toNat_pack hw f rfl (show 1275068417 + x0.toNat * 2097152 + srcCode x1 * 8192 + srcCode x2 * 32 + x3.toNat * 8 = 1 + 8 * (x3.toNat + 4 * (srcCode x2 + 256 * (srcCode x1 + 256 * (x0.toNat + 32 * (19))))) by omega)
  have b0 : bits w 0 3 = 1 := at0 e f rfl
  have b1 : bits w 26 6 = 19 := at5 e f rfl
  have f0 : Sys2Proof.fld w 21 5 = x0 := fld_eq (at4 e f rfl)
  have f1 : srcAt w 13 = x1 := srcAt_eq (at3 e f rfl)
  have f2 : srcAt w 5 = x2 := srcAt_eq (at2 e f rfl)
  have f3 : Sys2Proof.fld w 3 2 = x3 := fld_eq (at1 e f rfl)
  exact of_row hw (by rw [row13 b1]; simp [decode13, b0, f0, f1, f2, f3])
theorem vsra (x0 : BitVec 5) (x1 : Src) (x2 : Src) (x3 : BitVec 2) : Statement (.vsra x0 x1 x2 x3) := by
  have f : Fit [(3, 2), (2, x3.toNat), (8, srcCode x2), (8, srcCode x1), (5, x0.toNat), (6, 19)] := ⟨by decide, x3.isLt, srcCode_lt x2, srcCode_lt x1, x0.isLt, by decide, trivial⟩
  obtain ⟨w, hw⟩ : ∃ w, w = encode (.vsra x0 x1 x2 x3) := ⟨_, rfl⟩
  have e := toNat_pack hw f rfl (show 1275068418 + x0.toNat * 2097152 + srcCode x1 * 8192 + srcCode x2 * 32 + x3.toNat * 8 = 2 + 8 * (x3.toNat + 4 * (srcCode x2 + 256 * (srcCode x1 + 256 * (x0.toNat + 32 * (19))))) by omega)
  have b0 : bits w 0 3 = 2 := at0 e f rfl
  have b1 : bits w 26 6 = 19 := at5 e f rfl
  have f0 : Sys2Proof.fld w 21 5 = x0 := fld_eq (at4 e f rfl)
  have f1 : srcAt w 13 = x1 := srcAt_eq (at3 e f rfl)
  have f2 : srcAt w 5 = x2 := srcAt_eq (at2 e f rfl)
  have f3 : Sys2Proof.fld w 3 2 = x3 := fld_eq (at1 e f rfl)
  exact of_row hw (by rw [row13 b1]; simp [decode13, b0, f0, f1, f2, f3])
theorem vrot (x0 : BitVec 5) (x1 : Src) (x2 : Src) (x3 : BitVec 2) : Statement (.vrot x0 x1 x2 x3) := by
  have f : Fit [(3, 3), (2, x3.toNat), (8, srcCode x2), (8, srcCode x1), (5, x0.toNat), (6, 19)] := ⟨by decide, x3.isLt, srcCode_lt x2, srcCode_lt x1, x0.isLt, by decide, trivial⟩
  obtain ⟨w, hw⟩ : ∃ w, w = encode (.vrot x0 x1 x2 x3) := ⟨_, rfl⟩
  have e := toNat_pack hw f rfl (show 1275068419 + x0.toNat * 2097152 + srcCode x1 * 8192 + srcCode x2 * 32 + x3.toNat * 8 = 3 + 8 * (x3.toNat + 4 * (srcCode x2 + 256 * (srcCode x1 + 256 * (x0.toNat + 32 * (19))))) by omega)
  have b0 : bits w 0 3 = 3 := at0 e f rfl
  have b1 : bits w 26 6 = 19 := at5 e f rfl
  have f0 : Sys2Proof.fld w 21 5 = x0 := fld_eq (at4 e f rfl)
  have f1 : srcAt w 13 = x1 := srcAt_eq (at3 e f rfl)
  have f2 : srcAt w 5 = x2 := srcAt_eq (at2 e f rfl)
  have f3 : Sys2Proof.fld w 3 2 = x3 := fld_eq (at1 e f rfl)
  exact of_row hw (by rw [row13 b1]; simp [decode13, b0, f0, f1, f2, f3])
theorem vpopc (x0 : BitVec 5) (x1 : Src) (x2 : BitVec 2) : Statement (.vpopc x0 x1 x2) := by
  have f : Fit [(3, 4), (2, x2.toNat), (8, 0), (8, srcCode x1), (5, x0.toNat), (6, 19)] := ⟨by decide, x2.isLt, Nat.two_pow_pos 8, srcCode_lt x1, x0.isLt, by decide, trivial⟩
  obtain ⟨w, hw⟩ : ∃ w, w = encode (.vpopc x0 x1 x2) := ⟨_, rfl⟩
  have e := toNat_pack hw f rfl (show 1275068420 + x0.toNat * 2097152 + srcCode x1 * 8192 + x2.toNat * 8 = 4 + 8 * (x2.toNat + 4 * (0 + 256 * (srcCode x1 + 256 * (x0.toNat + 32 * (19))))) by omega)
  have b0 : bits w 0 3 = 4 := at0 e f rfl
  have b1 : bits w 5 8 = 0 := at2 e f rfl
  have b2 : bits w 26 6 = 19 := at5 e f rfl
  have f0 : Sys2Proof.fld w 21 5 = x0 := fld_eq (at4 e f rfl)
  have f1 : srcAt w 13 = x1 := srcAt_eq (at3 e f rfl)
  have f2 : Sys2Proof.fld w 3 2 = x2 := fld_eq (at1 e f rfl)
  exact of_row hw (by rw [row13 b2]; simp [decode13, b0, b1, f0, f1, f2])
theorem vclz (x0 : BitVec 5) (x1 : Src) (x2 : BitVec 2) : Statement (.vclz x0 x1 x2) := by
  have f : Fit [(3, 5), (2, x2.toNat), (8, 0), (8, srcCode x1), (5, x0.toNat), (6, 19)] := ⟨by decide, x2.isLt, Nat.two_pow_pos 8, srcCode_lt x1, x0.isLt, by decide, trivial⟩
  obtain ⟨w, hw⟩ : ∃ w, w = encode (.vclz x0 x1 x2) := ⟨_, rfl⟩
  have e := toNat_pack hw f rfl (show 1275068421 + x0.toNat * 2097152 + srcCode x1 * 8192 + x2.toNat * 8 = 5 + 8 * (x2.toNat + 4 * (0 + 256 * (srcCode x1 + 256 * (x0.toNat + 32 * (19))))) by omega)
  have b0 : bits w 0 3 = 5 := at0 e f rfl
  have b1 : bits w 5 8 = 0 := at2 e f rfl
  have b2 : bits w 26 6 = 19 := at5 e f rfl
  have f0 : Sys2Proof.fld w 21 5 = x0 := fld_eq (at4 e f rfl)
  have f1 : srcAt w 13 = x1 := srcAt_eq (at3 e f rfl)
  have f2 : Sys2Proof.fld w 3 2 = x2 := fld_eq (at1 e f rfl)
  exact of_row hw (by rw [row13 b2]; simp [decode13, b0, b1, f0, f1, f2])
theorem vbrev (x0 : BitVec 5) (x1 : Src) (x2 : BitVec 2) : Statement (.vbrev x0 x1 x2) := by
  have f : Fit [(3, 6), (2, x2.toNat), (8, 0), (8, srcCode x1), (5, x0.toNat), (6, 19)] := ⟨by decide, x2.isLt, Nat.two_pow_pos 8, srcCode_lt x1, x0.isLt, by decide, trivial⟩
  obtain ⟨w, hw⟩ : ∃ w, w = encode (.vbrev x0 x1 x2) := ⟨_, rfl⟩
  have e := toNat_pack hw f rfl (show 1275068422 + x0.toNat * 2097152 + srcCode x1 * 8192 + x2.toNat * 8 = 6 + 8 * (x2.toNat + 4 * (0 + 256 * (srcCode x1 + 256 * (x0.toNat + 32 * (19))))) by omega)
  have b0 : bits w 0 3 = 6 := at0 e f rfl
  have b1 : bits w 5 8 = 0 := at2 e f rfl
  have b2 : bits w 26 6 = 19 := at5 e f rfl
  have f0 : Sys2Proof.fld w 21 5 = x0 := fld_eq (at4 e f rfl)
  have f1 : srcAt w 13 = x1 := srcAt_eq (at3 e f rfl)
  have f2 : Sys2Proof.fld w 3 2 = x2 := fld_eq (at1 e f rfl)
  exact of_row hw (by rw [row13 b2]; simp [decode13, b0, b1, f0, f1, f2])
theorem vmov (x0 : BitVec 5) (x1 : Src) (x2 : BitVec 2) : Statement (.vmov x0 x1 x2) := by
  have f : Fit [(3, 7), (2, x2.toNat), (8, 0), (8, srcCode x1), (5, x0.toNat), (6, 19)] := ⟨by decide, x2.isLt, Nat.two_pow_pos 8, srcCode_lt x1, x0.isLt, by decide, trivial⟩
  obtain ⟨w, hw⟩ : ∃ w, w = encode (.vmov x0 x1 x2) := ⟨_, rfl⟩
  have e := toNat_pack hw f rfl (show 1275068423 + x0.toNat * 2097152 + srcCode x1 * 8192 + x2.toNat * 8 = 7 + 8 * (x2.toNat + 4 * (0 + 256 * (srcCode x1 + 256 * (x0.toNat + 32 * (19))))) by omega)
  have b0 : bits w 0 3 = 7 := at0 e f rfl
  have b1 : bits w 5 8 = 0 := at2 e f rfl
  have b2 : bits w 26 6 = 19 := at5 e f rfl
  have f0 : Sys2Proof.fld w 21 5 = x0 := fld_eq (at4 e f rfl)
  have f1 : srcAt w 13 = x1 := srcAt_eq (at3 e f rfl)
  have f2 : Sys2Proof.fld w 3 2 = x2 := fld_eq (at1 e f rfl)
  exact of_row hw (by rw [row13 b2]; simp [decode13, b0, b1, f0, f1, f2])
theorem vadd64 (x0 : BitVec 4) (x1 : Src) (x2 : Src) (x3 : BitVec 2) : Statement (.vadd64 x0 x1 x2 x3) := by
  have f : Fit [(3, 0), (2, x3.toNat), (8, srcCode x2), (8, srcCode x1), (1, 0), (4, x0.toNat), (6, 20)] := ⟨Nat.two_pow_pos 3, x3.isLt, srcCode_lt x2, srcCode_lt x1, Nat.two_pow_pos 1, x0.isLt, by decide, trivial⟩
  obtain ⟨w, hw⟩ : ∃ w, w = encode (.vadd64 x0 x1 x2 x3) := ⟨_, rfl⟩
  have e := toNat_pack hw f rfl (show 1342177280 + x0.toNat * 4194304 + srcCode x1 * 8192 + srcCode x2 * 32 + x3.toNat * 8 = 0 + 8 * (x3.toNat + 4 * (srcCode x2 + 256 * (srcCode x1 + 256 * (0 + 2 * (x0.toNat + 16 * (20)))))) by omega)
  have b0 : bits w 0 3 = 0 := at0 e f rfl
  have b1 : bits w 21 1 = 0 := at4 e f rfl
  have b2 : bits w 26 6 = 20 := at6 e f rfl
  have f0 : Sys2Proof.fld w 22 4 = x0 := fld_eq (at5 e f rfl)
  have f1 : srcAt w 13 = x1 := srcAt_eq (at3 e f rfl)
  have f2 : srcAt w 5 = x2 := srcAt_eq (at2 e f rfl)
  have f3 : Sys2Proof.fld w 3 2 = x3 := fld_eq (at1 e f rfl)
  exact of_row hw (by rw [row14 b2]; simp [decode14, b0, b1, f0, f1, f2, f3])
theorem vsub64 (x0 : BitVec 4) (x1 : Src) (x2 : Src) (x3 : BitVec 2) : Statement (.vsub64 x0 x1 x2 x3) := by
  have f : Fit [(3, 1), (2, x3.toNat), (8, srcCode x2), (8, srcCode x1), (1, 0), (4, x0.toNat), (6, 20)] := ⟨by decide, x3.isLt, srcCode_lt x2, srcCode_lt x1, Nat.two_pow_pos 1, x0.isLt, by decide, trivial⟩
  obtain ⟨w, hw⟩ : ∃ w, w = encode (.vsub64 x0 x1 x2 x3) := ⟨_, rfl⟩
  have e := toNat_pack hw f rfl (show 1342177281 + x0.toNat * 4194304 + srcCode x1 * 8192 + srcCode x2 * 32 + x3.toNat * 8 = 1 + 8 * (x3.toNat + 4 * (srcCode x2 + 256 * (srcCode x1 + 256 * (0 + 2 * (x0.toNat + 16 * (20)))))) by omega)
  have b0 : bits w 0 3 = 1 := at0 e f rfl
  have b1 : bits w 21 1 = 0 := at4 e f rfl
  have b2 : bits w 26 6 = 20 := at6 e f rfl
  have f0 : Sys2Proof.fld w 22 4 = x0 := fld_eq (at5 e f rfl)
  have f1 : srcAt w 13 = x1 := srcAt_eq (at3 e f rfl)
  have f2 : srcAt w 5 = x2 := srcAt_eq (at2 e f rfl)
  have f3 : Sys2Proof.fld w 3 2 = x3 := fld_eq (at1 e f rfl)
  exact of_row hw (by rw [row14 b2]; simp [decode14, b0, b1, f0, f1, f2, f3])
theorem vmulLo64 (x0 : BitVec 4) (x1 : Src) (x2 : Src) (x3 : BitVec 2) : Statement (.vmulLo64 x0 x1 x2 x3) := by
  have f : Fit [(3, 2), (2, x3.toNat), (8, srcCode x2), (8, srcCode x1), (1, 0), (4, x0.toNat), (6, 20)] := ⟨by decide, x3.isLt, srcCode_lt x2, srcCode_lt x1, Nat.two_pow_pos 1, x0.isLt, by decide, trivial⟩
  obtain ⟨w, hw⟩ : ∃ w, w = encode (.vmulLo64 x0 x1 x2 x3) := ⟨_, rfl⟩
  have e := toNat_pack hw f rfl (show 1342177282 + x0.toNat * 4194304 + srcCode x1 * 8192 + srcCode x2 * 32 + x3.toNat * 8 = 2 + 8 * (x3.toNat + 4 * (srcCode x2 + 256 * (srcCode x1 + 256 * (0 + 2 * (x0.toNat + 16 * (20)))))) by omega)
  have b0 : bits w 0 3 = 2 := at0 e f rfl
  have b1 : bits w 21 1 = 0 := at4 e f rfl
  have b2 : bits w 26 6 = 20 := at6 e f rfl
  have f0 : Sys2Proof.fld w 22 4 = x0 := fld_eq (at5 e f rfl)
  have f1 : srcAt w 13 = x1 := srcAt_eq (at3 e f rfl)
  have f2 : srcAt w 5 = x2 := srcAt_eq (at2 e f rfl)
  have f3 : Sys2Proof.fld w 3 2 = x3 := fld_eq (at1 e f rfl)
  exact of_row hw (by rw [row14 b2]; simp [decode14, b0, b1, f0, f1, f2, f3])
theorem vminS64 (x0 : BitVec 4) (x1 : Src) (x2 : Src) (x3 : BitVec 2) : Statement (.vminS64 x0 x1 x2 x3) := by
  have f : Fit [(3, 3), (2, x3.toNat), (8, srcCode x2), (8, srcCode x1), (1, 0), (4, x0.toNat), (6, 20)] := ⟨by decide, x3.isLt, srcCode_lt x2, srcCode_lt x1, Nat.two_pow_pos 1, x0.isLt, by decide, trivial⟩
  obtain ⟨w, hw⟩ : ∃ w, w = encode (.vminS64 x0 x1 x2 x3) := ⟨_, rfl⟩
  have e := toNat_pack hw f rfl (show 1342177283 + x0.toNat * 4194304 + srcCode x1 * 8192 + srcCode x2 * 32 + x3.toNat * 8 = 3 + 8 * (x3.toNat + 4 * (srcCode x2 + 256 * (srcCode x1 + 256 * (0 + 2 * (x0.toNat + 16 * (20)))))) by omega)
  have b0 : bits w 0 3 = 3 := at0 e f rfl
  have b1 : bits w 21 1 = 0 := at4 e f rfl
  have b2 : bits w 26 6 = 20 := at6 e f rfl
  have f0 : Sys2Proof.fld w 22 4 = x0 := fld_eq (at5 e f rfl)
  have f1 : srcAt w 13 = x1 := srcAt_eq (at3 e f rfl)
  have f2 : srcAt w 5 = x2 := srcAt_eq (at2 e f rfl)
  have f3 : Sys2Proof.fld w 3 2 = x3 := fld_eq (at1 e f rfl)
  exact of_row hw (by rw [row14 b2]; simp [decode14, b0, b1, f0, f1, f2, f3])
theorem vminN64 (x0 : BitVec 4) (x1 : Src) (x2 : Src) (x3 : BitVec 2) : Statement (.vminN64 x0 x1 x2 x3) := by
  have f : Fit [(3, 4), (2, x3.toNat), (8, srcCode x2), (8, srcCode x1), (1, 0), (4, x0.toNat), (6, 20)] := ⟨by decide, x3.isLt, srcCode_lt x2, srcCode_lt x1, Nat.two_pow_pos 1, x0.isLt, by decide, trivial⟩
  obtain ⟨w, hw⟩ : ∃ w, w = encode (.vminN64 x0 x1 x2 x3) := ⟨_, rfl⟩
  have e := toNat_pack hw f rfl (show 1342177284 + x0.toNat * 4194304 + srcCode x1 * 8192 + srcCode x2 * 32 + x3.toNat * 8 = 4 + 8 * (x3.toNat + 4 * (srcCode x2 + 256 * (srcCode x1 + 256 * (0 + 2 * (x0.toNat + 16 * (20)))))) by omega)
  have b0 : bits w 0 3 = 4 := at0 e f rfl
  have b1 : bits w 21 1 = 0 := at4 e f rfl
  have b2 : bits w 26 6 = 20 := at6 e f rfl
  have f0 : Sys2Proof.fld w 22 4 = x0 := fld_eq (at5 e f rfl)
  have f1 : srcAt w 13 = x1 := srcAt_eq (at3 e f rfl)
  have f2 : srcAt w 5 = x2 := srcAt_eq (at2 e f rfl)
  have f3 : Sys2Proof.fld w 3 2 = x3 := fld_eq (at1 e f rfl)
  exact of_row hw (by rw [row14 b2]; simp [decode14, b0, b1, f0, f1, f2, f3])
theorem vmaxS64 (x0 : BitVec 4) (x1 : Src) (x2 : Src) (x3 : BitVec 2) : Statement (.vmaxS64 x0 x1 x2 x3) := by
  have f : Fit [(3, 5), (2, x3.toNat), (8, srcCode x2), (8, srcCode x1), (1, 0), (4, x0.toNat), (6, 20)] := ⟨by decide, x3.isLt, srcCode_lt x2, srcCode_lt x1, Nat.two_pow_pos 1, x0.isLt, by decide, trivial⟩
  obtain ⟨w, hw⟩ : ∃ w, w = encode (.vmaxS64 x0 x1 x2 x3) := ⟨_, rfl⟩
  have e := toNat_pack hw f rfl (show 1342177285 + x0.toNat * 4194304 + srcCode x1 * 8192 + srcCode x2 * 32 + x3.toNat * 8 = 5 + 8 * (x3.toNat + 4 * (srcCode x2 + 256 * (srcCode x1 + 256 * (0 + 2 * (x0.toNat + 16 * (20)))))) by omega)
  have b0 : bits w 0 3 = 5 := at0 e f rfl
  have b1 : bits w 21 1 = 0 := at4 e f rfl
  have b2 : bits w 26 6 = 20 := at6 e f rfl
  have f0 : Sys2Proof.fld w 22 4 = x0 := fld_eq (at5 e f rfl)
  have f1 : srcAt w 13 = x1 := srcAt_eq (at3 e f rfl)
  have f2 : srcAt w 5 = x2 := srcAt_eq (at2 e f rfl)
  have f3 : Sys2Proof.fld w 3 2 = x3 := fld_eq (at1 e f rfl)
  exact of_row hw (by rw [row14 b2]; simp [decode14, b0, b1, f0, f1, f2, f3])
theorem vmaxN64 (x0 : BitVec 4) (x1 : Src) (x2 : Src) (x3 : BitVec 2) : Statement (.vmaxN64 x0 x1 x2 x3) := by
  have f : Fit [(3, 6), (2, x3.toNat), (8, srcCode x2), (8, srcCode x1), (1, 0), (4, x0.toNat), (6, 20)] := ⟨by decide, x3.isLt, srcCode_lt x2, srcCode_lt x1, Nat.two_pow_pos 1, x0.isLt, by decide, trivial⟩
  obtain ⟨w, hw⟩ : ∃ w, w = encode (.vmaxN64 x0 x1 x2 x3) := ⟨_, rfl⟩
  have e := toNat_pack hw f rfl (show 1342177286 + x0.toNat * 4194304 + srcCode x1 * 8192 + srcCode x2 * 32 + x3.toNat * 8 = 6 + 8 * (x3.toNat + 4 * (srcCode x2 + 256 * (srcCode x1 + 256 * (0 + 2 * (x0.toNat + 16 * (20)))))) by omega)
  have b0 : bits w 0 3 = 6 := at0 e f rfl
  have b1 : bits w 21 1 = 0 := at4 e f rfl
  have b2 : bits w 26 6 = 20 := at6 e f rfl
  have f0 : Sys2Proof.fld w 22 4 = x0 := fld_eq (at5 e f rfl)
  have f1 : srcAt w 13 = x1 := srcAt_eq (at3 e f rfl)
  have f2 : srcAt w 5 = x2 := srcAt_eq (at2 e f rfl)
  have f3 : Sys2Proof.fld w 3 2 = x3 := fld_eq (at1 e f rfl)
  exact of_row hw (by rw [row14 b2]; simp [decode14, b0, b1, f0, f1, f2, f3])
theorem vshl64 (x0 : BitVec 4) (x1 : Src) (x2 : Src) (x3 : BitVec 2) : Statement (.vshl64 x0 x1 x2 x3) := by
  have f : Fit [(3, 7), (2, x3.toNat), (8, srcCode x2), (8, srcCode x1), (1, 0), (4, x0.toNat), (6, 20)] := ⟨by decide, x3.isLt, srcCode_lt x2, srcCode_lt x1, Nat.two_pow_pos 1, x0.isLt, by decide, trivial⟩
  obtain ⟨w, hw⟩ : ∃ w, w = encode (.vshl64 x0 x1 x2 x3) := ⟨_, rfl⟩
  have e := toNat_pack hw f rfl (show 1342177287 + x0.toNat * 4194304 + srcCode x1 * 8192 + srcCode x2 * 32 + x3.toNat * 8 = 7 + 8 * (x3.toNat + 4 * (srcCode x2 + 256 * (srcCode x1 + 256 * (0 + 2 * (x0.toNat + 16 * (20)))))) by omega)
  have b0 : bits w 0 3 = 7 := at0 e f rfl
  have b1 : bits w 21 1 = 0 := at4 e f rfl
  have b2 : bits w 26 6 = 20 := at6 e f rfl
  have f0 : Sys2Proof.fld w 22 4 = x0 := fld_eq (at5 e f rfl)
  have f1 : srcAt w 13 = x1 := srcAt_eq (at3 e f rfl)
  have f2 : srcAt w 5 = x2 := srcAt_eq (at2 e f rfl)
  have f3 : Sys2Proof.fld w 3 2 = x3 := fld_eq (at1 e f rfl)
  exact of_row hw (by rw [row14 b2]; simp [decode14, b0, b1, f0, f1, f2, f3])
theorem vshr64 (x0 : BitVec 4) (x1 : Src) (x2 : Src) (x3 : BitVec 2) : Statement (.vshr64 x0 x1 x2 x3) := by
  have f : Fit [(3, 0), (2, x3.toNat), (8, srcCode x2), (8, srcCode x1), (1, 0), (4, x0.toNat), (6, 21)] := ⟨Nat.two_pow_pos 3, x3.isLt, srcCode_lt x2, srcCode_lt x1, Nat.two_pow_pos 1, x0.isLt, by decide, trivial⟩
  obtain ⟨w, hw⟩ : ∃ w, w = encode (.vshr64 x0 x1 x2 x3) := ⟨_, rfl⟩
  have e := toNat_pack hw f rfl (show 1409286144 + x0.toNat * 4194304 + srcCode x1 * 8192 + srcCode x2 * 32 + x3.toNat * 8 = 0 + 8 * (x3.toNat + 4 * (srcCode x2 + 256 * (srcCode x1 + 256 * (0 + 2 * (x0.toNat + 16 * (21)))))) by omega)
  have b0 : bits w 0 3 = 0 := at0 e f rfl
  have b1 : bits w 21 1 = 0 := at4 e f rfl
  have b2 : bits w 26 6 = 21 := at6 e f rfl
  have f0 : Sys2Proof.fld w 22 4 = x0 := fld_eq (at5 e f rfl)
  have f1 : srcAt w 13 = x1 := srcAt_eq (at3 e f rfl)
  have f2 : srcAt w 5 = x2 := srcAt_eq (at2 e f rfl)
  have f3 : Sys2Proof.fld w 3 2 = x3 := fld_eq (at1 e f rfl)
  exact of_row hw (by rw [row15 b2]; simp [decode15, b0, b1, f0, f1, f2, f3])
theorem vsra64 (x0 : BitVec 4) (x1 : Src) (x2 : Src) (x3 : BitVec 2) : Statement (.vsra64 x0 x1 x2 x3) := by
  have f : Fit [(3, 1), (2, x3.toNat), (8, srcCode x2), (8, srcCode x1), (1, 0), (4, x0.toNat), (6, 21)] := ⟨by decide, x3.isLt, srcCode_lt x2, srcCode_lt x1, Nat.two_pow_pos 1, x0.isLt, by decide, trivial⟩
  obtain ⟨w, hw⟩ : ∃ w, w = encode (.vsra64 x0 x1 x2 x3) := ⟨_, rfl⟩
  have e := toNat_pack hw f rfl (show 1409286145 + x0.toNat * 4194304 + srcCode x1 * 8192 + srcCode x2 * 32 + x3.toNat * 8 = 1 + 8 * (x3.toNat + 4 * (srcCode x2 + 256 * (srcCode x1 + 256 * (0 + 2 * (x0.toNat + 16 * (21)))))) by omega)
  have b0 : bits w 0 3 = 1 := at0 e f rfl
  have b1 : bits w 21 1 = 0 := at4 e f rfl
  have b2 : bits w 26 6 = 21 := at6 e f rfl
  have f0 : Sys2Proof.fld w 22 4 = x0 := fld_eq (at5 e f rfl)
  have f1 : srcAt w 13 = x1 := srcAt_eq (at3 e f rfl)
  have f2 : srcAt w 5 = x2 := srcAt_eq (at2 e f rfl)
  have f3 : Sys2Proof.fld w 3 2 = x3 := fld_eq (at1 e f rfl)
  exact of_row hw (by rw [row15 b2]; simp [decode15, b0, b1, f0, f1, f2, f3])
theorem vlea (x0 : BitVec 4) (x1 : Src) (x2 : Src) (x3 : BitVec 2) : Statement (.vlea x0 x1 x2 x3) := by
  have f : Fit [(3, 2), (2, x3.toNat), (8, srcCode x2), (8, srcCode x1), (1, 0), (4, x0.toNat), (6, 21)] := ⟨by decide, x3.isLt, srcCode_lt x2, srcCode_lt x1, Nat.two_pow_pos 1, x0.isLt, by decide, trivial⟩
  obtain ⟨w, hw⟩ : ∃ w, w = encode (.vlea x0 x1 x2 x3) := ⟨_, rfl⟩
  have e := toNat_pack hw f rfl (show 1409286146 + x0.toNat * 4194304 + srcCode x1 * 8192 + srcCode x2 * 32 + x3.toNat * 8 = 2 + 8 * (x3.toNat + 4 * (srcCode x2 + 256 * (srcCode x1 + 256 * (0 + 2 * (x0.toNat + 16 * (21)))))) by omega)
  have b0 : bits w 0 3 = 2 := at0 e f rfl
  have b1 : bits w 21 1 = 0 := at4 e f rfl
  have b2 : bits w 26 6 = 21 := at6 e f rfl
  have f0 : Sys2Proof.fld w 22 4 = x0 := fld_eq (at5 e f rfl)
  have f1 : srcAt w 13 = x1 := srcAt_eq (at3 e f rfl)
  have f2 : srcAt w 5 = x2 := srcAt_eq (at2 e f rfl)
  have f3 : Sys2Proof.fld w 3 2 = x3 := fld_eq (at1 e f rfl)
  exact of_row hw (by rw [row15 b2]; simp [decode15, b0, b1, f0, f1, f2, f3])
theorem vmovrel (x0 : BitVec 5) (x1 : BitVec 5) (x2 : Src) (x3 : BitVec 2) : Statement (.vmovrel x0 x1 x2 x3) := by
  have f : Fit [(3, 3), (2, x3.toNat), (8, srcCode x2), (5, x1.toNat), (3, 0), (5, x0.toNat), (6, 21)] := ⟨by decide, x3.isLt, srcCode_lt x2, x1.isLt, Nat.two_pow_pos 3, x0.isLt, by decide, trivial⟩
  obtain ⟨w, hw⟩ : ∃ w, w = encode (.vmovrel x0 x1 x2 x3) := ⟨_, rfl⟩
  have e := toNat_pack hw f rfl (show 1409286147 + x0.toNat * 2097152 + x1.toNat * 8192 + srcCode x2 * 32 + x3.toNat * 8 = 3 + 8 * (x3.toNat + 4 * (srcCode x2 + 256 * (x1.toNat + 32 * (0 + 8 * (x0.toNat + 32 * (21)))))) by omega)
  have b0 : bits w 0 3 = 3 := at0 e f rfl
  have b1 : bits w 18 3 = 0 := at4 e f rfl
  have b2 : bits w 26 6 = 21 := at6 e f rfl
  have f0 : Sys2Proof.fld w 21 5 = x0 := fld_eq (at5 e f rfl)
  have f1 : Sys2Proof.fld w 13 5 = x1 := fld_eq (at3 e f rfl)
  have f2 : srcAt w 5 = x2 := srcAt_eq (at2 e f rfl)
  have f3 : Sys2Proof.fld w 3 2 = x3 := fld_eq (at1 e f rfl)
  exact of_row hw (by rw [row15 b2]; simp [decode15, b0, b1, f0, f1, f2, f3])
theorem vreadl (x0 : BitVec 5) (x1 : Src) (x2 : Src) (x3 : BitVec 2) : Statement (.vreadl x0 x1 x2 x3) := by
  have f : Fit [(3, 4), (2, x3.toNat), (8, srcCode x2), (8, srcCode x1), (5, x0.toNat), (6, 21)] := ⟨by decide, x3.isLt, srcCode_lt x2, srcCode_lt x1, x0.isLt, by decide, trivial⟩
  obtain ⟨w, hw⟩ : ∃ w, w = encode (.vreadl x0 x1 x2 x3) := ⟨_, rfl⟩
  have e := toNat_pack hw f rfl (show 1409286148 + x0.toNat * 2097152 + srcCode x1 * 8192 + srcCode x2 * 32 + x3.toNat * 8 = 4 + 8 * (x3.toNat + 4 * (srcCode x2 + 256 * (srcCode x1 + 256 * (x0.toNat + 32 * (21))))) by omega)
  have b0 : bits w 0 3 = 4 := at0 e f rfl
  have b1 : bits w 26 6 = 21 := at5 e f rfl
  have f0 : Sys2Proof.fld w 21 5 = x0 := fld_eq (at4 e f rfl)
  have f1 : srcAt w 13 = x1 := srcAt_eq (at3 e f rfl)
  have f2 : srcAt w 5 = x2 := srcAt_eq (at2 e f rfl)
  have f3 : Sys2Proof.fld w 3 2 = x3 := fld_eq (at1 e f rfl)
  exact of_row hw (by rw [row15 b1]; simp [decode15, b0, f0, f1, f2, f3])
theorem vbcs (x0 : BitVec 5) (x1 : Src) (x2 : BitVec 2) : Statement (.vbcs x0 x1 x2) := by
  have f : Fit [(3, 5), (2, x2.toNat), (8, 0), (8, srcCode x1), (5, x0.toNat), (6, 21)] := ⟨by decide, x2.isLt, Nat.two_pow_pos 8, srcCode_lt x1, x0.isLt, by decide, trivial⟩
  obtain ⟨w, hw⟩ : ∃ w, w = encode (.vbcs x0 x1 x2) := ⟨_, rfl⟩
  have e := toNat_pack hw f rfl (show 1409286149 + x0.toNat * 2097152 + srcCode x1 * 8192 + x2.toNat * 8 = 5 + 8 * (x2.toNat + 4 * (0 + 256 * (srcCode x1 + 256 * (x0.toNat + 32 * (21))))) by omega)
  have b0 : bits w 0 3 = 5 := at0 e f rfl
  have b1 : bits w 5 8 = 0 := at2 e f rfl
  have b2 : bits w 26 6 = 21 := at5 e f rfl
  have f0 : Sys2Proof.fld w 21 5 = x0 := fld_eq (at4 e f rfl)
  have f1 : srcAt w 13 = x1 := srcAt_eq (at3 e f rfl)
  have f2 : Sys2Proof.fld w 3 2 = x2 := fld_eq (at1 e f rfl)
  exact of_row hw (by rw [row15 b2]; simp [decode15, b0, b1, f0, f1, f2])
theorem vcmpEq (x0 : BitVec 4) (x1 : Src) (x2 : Src) (x3 : BitVec 2) : Statement (.vcmpEq x0 x1 x2 x3) := by
  have f : Fit [(3, 0), (2, x3.toNat), (8, srcCode x2), (8, srcCode x1), (4, x0.toNat), (1, 0), (6, 22)] := ⟨Nat.two_pow_pos 3, x3.isLt, srcCode_lt x2, srcCode_lt x1, x0.isLt, Nat.two_pow_pos 1, by decide, trivial⟩
  obtain ⟨w, hw⟩ : ∃ w, w = encode (.vcmpEq x0 x1 x2 x3) := ⟨_, rfl⟩
  have e := toNat_pack hw f rfl (show 1476395008 + x0.toNat * 2097152 + srcCode x1 * 8192 + srcCode x2 * 32 + x3.toNat * 8 = 0 + 8 * (x3.toNat + 4 * (srcCode x2 + 256 * (srcCode x1 + 256 * (x0.toNat + 16 * (0 + 2 * (22)))))) by omega)
  have b0 : bits w 0 3 = 0 := at0 e f rfl
  have b1 : bits w 25 1 = 0 := at5 e f rfl
  have b2 : bits w 26 6 = 22 := at6 e f rfl
  have f0 : Sys2Proof.fld w 21 4 = x0 := fld_eq (at4 e f rfl)
  have f1 : srcAt w 13 = x1 := srcAt_eq (at3 e f rfl)
  have f2 : srcAt w 5 = x2 := srcAt_eq (at2 e f rfl)
  have f3 : Sys2Proof.fld w 3 2 = x3 := fld_eq (at1 e f rfl)
  exact of_row hw (by rw [row16 b2]; simp [decode16, b0, b1, f0, f1, f2, f3])
theorem vcmpNe (x0 : BitVec 4) (x1 : Src) (x2 : Src) (x3 : BitVec 2) : Statement (.vcmpNe x0 x1 x2 x3) := by
  have f : Fit [(3, 1), (2, x3.toNat), (8, srcCode x2), (8, srcCode x1), (4, x0.toNat), (1, 0), (6, 22)] := ⟨by decide, x3.isLt, srcCode_lt x2, srcCode_lt x1, x0.isLt, Nat.two_pow_pos 1, by decide, trivial⟩
  obtain ⟨w, hw⟩ : ∃ w, w = encode (.vcmpNe x0 x1 x2 x3) := ⟨_, rfl⟩
  have e := toNat_pack hw f rfl (show 1476395009 + x0.toNat * 2097152 + srcCode x1 * 8192 + srcCode x2 * 32 + x3.toNat * 8 = 1 + 8 * (x3.toNat + 4 * (srcCode x2 + 256 * (srcCode x1 + 256 * (x0.toNat + 16 * (0 + 2 * (22)))))) by omega)
  have b0 : bits w 0 3 = 1 := at0 e f rfl
  have b1 : bits w 25 1 = 0 := at5 e f rfl
  have b2 : bits w 26 6 = 22 := at6 e f rfl
  have f0 : Sys2Proof.fld w 21 4 = x0 := fld_eq (at4 e f rfl)
  have f1 : srcAt w 13 = x1 := srcAt_eq (at3 e f rfl)
  have f2 : srcAt w 5 = x2 := srcAt_eq (at2 e f rfl)
  have f3 : Sys2Proof.fld w 3 2 = x3 := fld_eq (at1 e f rfl)
  exact of_row hw (by rw [row16 b2]; simp [decode16, b0, b1, f0, f1, f2, f3])
theorem vcmpLtS32 (x0 : BitVec 4) (x1 : Src) (x2 : Src) (x3 : BitVec 2) : Statement (.vcmpLtS32 x0 x1 x2 x3) := by
  have f : Fit [(3, 2), (2, x3.toNat), (8, srcCode x2), (8, srcCode x1), (4, x0.toNat), (1, 0), (6, 22)] := ⟨by decide, x3.isLt, srcCode_lt x2, srcCode_lt x1, x0.isLt, Nat.two_pow_pos 1, by decide, trivial⟩
  obtain ⟨w, hw⟩ : ∃ w, w = encode (.vcmpLtS32 x0 x1 x2 x3) := ⟨_, rfl⟩
  have e := toNat_pack hw f rfl (show 1476395010 + x0.toNat * 2097152 + srcCode x1 * 8192 + srcCode x2 * 32 + x3.toNat * 8 = 2 + 8 * (x3.toNat + 4 * (srcCode x2 + 256 * (srcCode x1 + 256 * (x0.toNat + 16 * (0 + 2 * (22)))))) by omega)
  have b0 : bits w 0 3 = 2 := at0 e f rfl
  have b1 : bits w 25 1 = 0 := at5 e f rfl
  have b2 : bits w 26 6 = 22 := at6 e f rfl
  have f0 : Sys2Proof.fld w 21 4 = x0 := fld_eq (at4 e f rfl)
  have f1 : srcAt w 13 = x1 := srcAt_eq (at3 e f rfl)
  have f2 : srcAt w 5 = x2 := srcAt_eq (at2 e f rfl)
  have f3 : Sys2Proof.fld w 3 2 = x3 := fld_eq (at1 e f rfl)
  exact of_row hw (by rw [row16 b2]; simp [decode16, b0, b1, f0, f1, f2, f3])
theorem vcmpLeS32 (x0 : BitVec 4) (x1 : Src) (x2 : Src) (x3 : BitVec 2) : Statement (.vcmpLeS32 x0 x1 x2 x3) := by
  have f : Fit [(3, 3), (2, x3.toNat), (8, srcCode x2), (8, srcCode x1), (4, x0.toNat), (1, 0), (6, 22)] := ⟨by decide, x3.isLt, srcCode_lt x2, srcCode_lt x1, x0.isLt, Nat.two_pow_pos 1, by decide, trivial⟩
  obtain ⟨w, hw⟩ : ∃ w, w = encode (.vcmpLeS32 x0 x1 x2 x3) := ⟨_, rfl⟩
  have e := toNat_pack hw f rfl (show 1476395011 + x0.toNat * 2097152 + srcCode x1 * 8192 + srcCode x2 * 32 + x3.toNat * 8 = 3 + 8 * (x3.toNat + 4 * (srcCode x2 + 256 * (srcCode x1 + 256 * (x0.toNat + 16 * (0 + 2 * (22)))))) by omega)
  have b0 : bits w 0 3 = 3 := at0 e f rfl
  have b1 : bits w 25 1 = 0 := at5 e f rfl
  have b2 : bits w 26 6 = 22 := at6 e f rfl
  have f0 : Sys2Proof.fld w 21 4 = x0 := fld_eq (at4 e f rfl)
  have f1 : srcAt w 13 = x1 := srcAt_eq (at3 e f rfl)
  have f2 : srcAt w 5 = x2 := srcAt_eq (at2 e f rfl)
  have f3 : Sys2Proof.fld w 3 2 = x3 := fld_eq (at1 e f rfl)
  exact of_row hw (by rw [row16 b2]; simp [decode16, b0, b1, f0, f1, f2, f3])
theorem vcmpLtN32 (x0 : BitVec 4) (x1 : Src) (x2 : Src) (x3 : BitVec 2) : Statement (.vcmpLtN32 x0 x1 x2 x3) := by
  have f : Fit [(3, 4), (2, x3.toNat), (8, srcCode x2), (8, srcCode x1), (4, x0.toNat), (1, 0), (6, 22)] := ⟨by decide, x3.isLt, srcCode_lt x2, srcCode_lt x1, x0.isLt, Nat.two_pow_pos 1, by decide, trivial⟩
  obtain ⟨w, hw⟩ : ∃ w, w = encode (.vcmpLtN32 x0 x1 x2 x3) := ⟨_, rfl⟩
  have e := toNat_pack hw f rfl (show 1476395012 + x0.toNat * 2097152 + srcCode x1 * 8192 + srcCode x2 * 32 + x3.toNat * 8 = 4 + 8 * (x3.toNat + 4 * (srcCode x2 + 256 * (srcCode x1 + 256 * (x0.toNat + 16 * (0 + 2 * (22)))))) by omega)
  have b0 : bits w 0 3 = 4 := at0 e f rfl
  have b1 : bits w 25 1 = 0 := at5 e f rfl
  have b2 : bits w 26 6 = 22 := at6 e f rfl
  have f0 : Sys2Proof.fld w 21 4 = x0 := fld_eq (at4 e f rfl)
  have f1 : srcAt w 13 = x1 := srcAt_eq (at3 e f rfl)
  have f2 : srcAt w 5 = x2 := srcAt_eq (at2 e f rfl)
  have f3 : Sys2Proof.fld w 3 2 = x3 := fld_eq (at1 e f rfl)
  exact of_row hw (by rw [row16 b2]; simp [decode16, b0, b1, f0, f1, f2, f3])
theorem vcmpLeN32 (x0 : BitVec 4) (x1 : Src) (x2 : Src) (x3 : BitVec 2) : Statement (.vcmpLeN32 x0 x1 x2 x3) := by
  have f : Fit [(3, 5), (2, x3.toNat), (8, srcCode x2), (8, srcCode x1), (4, x0.toNat), (1, 0), (6, 22)] := ⟨by decide, x3.isLt, srcCode_lt x2, srcCode_lt x1, x0.isLt, Nat.two_pow_pos 1, by decide, trivial⟩
  obtain ⟨w, hw⟩ : ∃ w, w = encode (.vcmpLeN32 x0 x1 x2 x3) := ⟨_, rfl⟩
  have e := toNat_pack hw f rfl (show 1476395013 + x0.toNat * 2097152 + srcCode x1 * 8192 + srcCode x2 * 32 + x3.toNat * 8 = 5 + 8 * (x3.toNat + 4 * (srcCode x2 + 256 * (srcCode x1 + 256 * (x0.toNat + 16 * (0 + 2 * (22)))))) by omega)
  have b0 : bits w 0 3 = 5 := at0 e f rfl
  have b1 : bits w 25 1 = 0 := at5 e f rfl
  have b2 : bits w 26 6 = 22 := at6 e f rfl
  have f0 : Sys2Proof.fld w 21 4 = x0 := fld_eq (at4 e f rfl)
  have f1 : srcAt w 13 = x1 := srcAt_eq (at3 e f rfl)
  have f2 : srcAt w 5 = x2 := srcAt_eq (at2 e f rfl)
  have f3 : Sys2Proof.fld w 3 2 = x3 := fld_eq (at1 e f rfl)
  exact of_row hw (by rw [row16 b2]; simp [decode16, b0, b1, f0, f1, f2, f3])
theorem vcmpEq64 (x0 : BitVec 4) (x1 : Src) (x2 : Src) (x3 : BitVec 2) : Statement (.vcmpEq64 x0 x1 x2 x3) := by
  have f : Fit [(3, 0), (2, x3.toNat), (8, srcCode x2), (8, srcCode x1), (4, x0.toNat), (1, 0), (6, 23)] := ⟨Nat.two_pow_pos 3, x3.isLt, srcCode_lt x2, srcCode_lt x1, x0.isLt, Nat.two_pow_pos 1, by decide, trivial⟩
  obtain ⟨w, hw⟩ : ∃ w, w = encode (.vcmpEq64 x0 x1 x2 x3) := ⟨_, rfl⟩
  have e := toNat_pack hw f rfl (show 1543503872 + x0.toNat * 2097152 + srcCode x1 * 8192 + srcCode x2 * 32 + x3.toNat * 8 = 0 + 8 * (x3.toNat + 4 * (srcCode x2 + 256 * (srcCode x1 + 256 * (x0.toNat + 16 * (0 + 2 * (23)))))) by omega)
  have b0 : bits w 0 3 = 0 := at0 e f rfl
  have b1 : bits w 25 1 = 0 := at5 e f rfl
  have b2 : bits w 26 6 = 23 := at6 e f rfl
  have f0 : Sys2Proof.fld w 21 4 = x0 := fld_eq (at4 e f rfl)
  have f1 : srcAt w 13 = x1 := srcAt_eq (at3 e f rfl)
  have f2 : srcAt w 5 = x2 := srcAt_eq (at2 e f rfl)
  have f3 : Sys2Proof.fld w 3 2 = x3 := fld_eq (at1 e f rfl)
  exact of_row hw (by rw [row17 b2]; simp [decode17, b0, b1, f0, f1, f2, f3])
theorem vcmpNe64 (x0 : BitVec 4) (x1 : Src) (x2 : Src) (x3 : BitVec 2) : Statement (.vcmpNe64 x0 x1 x2 x3) := by
  have f : Fit [(3, 1), (2, x3.toNat), (8, srcCode x2), (8, srcCode x1), (4, x0.toNat), (1, 0), (6, 23)] := ⟨by decide, x3.isLt, srcCode_lt x2, srcCode_lt x1, x0.isLt, Nat.two_pow_pos 1, by decide, trivial⟩
  obtain ⟨w, hw⟩ : ∃ w, w = encode (.vcmpNe64 x0 x1 x2 x3) := ⟨_, rfl⟩
  have e := toNat_pack hw f rfl (show 1543503873 + x0.toNat * 2097152 + srcCode x1 * 8192 + srcCode x2 * 32 + x3.toNat * 8 = 1 + 8 * (x3.toNat + 4 * (srcCode x2 + 256 * (srcCode x1 + 256 * (x0.toNat + 16 * (0 + 2 * (23)))))) by omega)
  have b0 : bits w 0 3 = 1 := at0 e f rfl
  have b1 : bits w 25 1 = 0 := at5 e f rfl
  have b2 : bits w 26 6 = 23 := at6 e f rfl
  have f0 : Sys2Proof.fld w 21 4 = x0 := fld_eq (at4 e f rfl)
  have f1 : srcAt w 13 = x1 := srcAt_eq (at3 e f rfl)
  have f2 : srcAt w 5 = x2 := srcAt_eq (at2 e f rfl)
  have f3 : Sys2Proof.fld w 3 2 = x3 := fld_eq (at1 e f rfl)
  exact of_row hw (by rw [row17 b2]; simp [decode17, b0, b1, f0, f1, f2, f3])
theorem vcmpLtS64 (x0 : BitVec 4) (x1 : Src) (x2 : Src) (x3 : BitVec 2) : Statement (.vcmpLtS64 x0 x1 x2 x3) := by
  have f : Fit [(3, 2), (2, x3.toNat), (8, srcCode x2), (8, srcCode x1), (4, x0.toNat), (1, 0), (6, 23)] := ⟨by decide, x3.isLt, srcCode_lt x2, srcCode_lt x1, x0.isLt, Nat.two_pow_pos 1, by decide, trivial⟩
  obtain ⟨w, hw⟩ : ∃ w, w = encode (.vcmpLtS64 x0 x1 x2 x3) := ⟨_, rfl⟩
  have e := toNat_pack hw f rfl (show 1543503874 + x0.toNat * 2097152 + srcCode x1 * 8192 + srcCode x2 * 32 + x3.toNat * 8 = 2 + 8 * (x3.toNat + 4 * (srcCode x2 + 256 * (srcCode x1 + 256 * (x0.toNat + 16 * (0 + 2 * (23)))))) by omega)
  have b0 : bits w 0 3 = 2 := at0 e f rfl
  have b1 : bits w 25 1 = 0 := at5 e f rfl
  have b2 : bits w 26 6 = 23 := at6 e f rfl
  have f0 : Sys2Proof.fld w 21 4 = x0 := fld_eq (at4 e f rfl)
  have f1 : srcAt w 13 = x1 := srcAt_eq (at3 e f rfl)
  have f2 : srcAt w 5 = x2 := srcAt_eq (at2 e f rfl)
  have f3 : Sys2Proof.fld w 3 2 = x3 := fld_eq (at1 e f rfl)
  exact of_row hw (by rw [row17 b2]; simp [decode17, b0, b1, f0, f1, f2, f3])
theorem vcmpLeS64 (x0 : BitVec 4) (x1 : Src) (x2 : Src) (x3 : BitVec 2) : Statement (.vcmpLeS64 x0 x1 x2 x3) := by
  have f : Fit [(3, 3), (2, x3.toNat), (8, srcCode x2), (8, srcCode x1), (4, x0.toNat), (1, 0), (6, 23)] := ⟨by decide, x3.isLt, srcCode_lt x2, srcCode_lt x1, x0.isLt, Nat.two_pow_pos 1, by decide, trivial⟩
  obtain ⟨w, hw⟩ : ∃ w, w = encode (.vcmpLeS64 x0 x1 x2 x3) := ⟨_, rfl⟩
  have e := toNat_pack hw f rfl (show 1543503875 + x0.toNat * 2097152 + srcCode x1 * 8192 + srcCode x2 * 32 + x3.toNat * 8 = 3 + 8 * (x3.toNat + 4 * (srcCode x2 + 256 * (srcCode x1 + 256 * (x0.toNat + 16 * (0 + 2 * (23)))))) by omega)
  have b0 : bits w 0 3 = 3 := at0 e f rfl
  have b1 : bits w 25 1 = 0 := at5 e f rfl
  have b2 : bits w 26 6 = 23 := at6 e f rfl
  have f0 : Sys2Proof.fld w 21 4 = x0 := fld_eq (at4 e f rfl)
  have f1 : srcAt w 13 = x1 := srcAt_eq (at3 e f rfl)
  have f2 : srcAt w 5 = x2 := srcAt_eq (at2 e f rfl)
  have f3 : Sys2Proof.fld w 3 2 = x3 := fld_eq (at1 e f rfl)
  exact of_row hw (by rw [row17 b2]; simp [decode17, b0, b1, f0, f1, f2, f3])
theorem vcmpLtN64 (x0 : BitVec 4) (x1 : Src) (x2 : Src) (x3 : BitVec 2) : Statement (.vcmpLtN64 x0 x1 x2 x3) := by
  have f : Fit [(3, 4), (2, x3.toNat), (8, srcCode x2), (8, srcCode x1), (4, x0.toNat), (1, 0), (6, 23)] := ⟨by decide, x3.isLt, srcCode_lt x2, srcCode_lt x1, x0.isLt, Nat.two_pow_pos 1, by decide, trivial⟩
  obtain ⟨w, hw⟩ : ∃ w, w = encode (.vcmpLtN64 x0 x1 x2 x3) := ⟨_, rfl⟩
  have e := toNat_pack hw f rfl (show 1543503876 + x0.toNat * 2097152 + srcCode x1 * 8192 + srcCode x2 * 32 + x3.toNat * 8 = 4 + 8 * (x3.toNat + 4 * (srcCode x2 + 256 * (srcCode x1 + 256 * (x0.toNat + 16 * (0 + 2 * (23)))))) by omega)
  have b0 : bits w 0 3 = 4 := at0 e f rfl
  have b1 : bits w 25 1 = 0 := at5 e f rfl
  have b2 : bits w 26 6 = 23 := at6 e f rfl
  have f0 : Sys2Proof.fld w 21 4 = x0 := fld_eq (at4 e f rfl)
  have f1 : srcAt w 13 = x1 := srcAt_eq (at3 e f rfl)
  have f2 : srcAt w 5 = x2 := srcAt_eq (at2 e f rfl)
  have f3 : Sys2Proof.fld w 3 2 = x3 := fld_eq (at1 e f rfl)
  exact of_row hw (by rw [row17 b2]; simp [decode17, b0, b1, f0, f1, f2, f3])
theorem vcmpLeN64 (x0 : BitVec 4) (x1 : Src) (x2 : Src) (x3 : BitVec 2) : Statement (.vcmpLeN64 x0 x1 x2 x3) := by
  have f : Fit [(3, 5), (2, x3.toNat), (8, srcCode x2), (8, srcCode x1), (4, x0.toNat), (1, 0), (6, 23)] := ⟨by decide, x3.isLt, srcCode_lt x2, srcCode_lt x1, x0.isLt, Nat.two_pow_pos 1, by decide, trivial⟩
  obtain ⟨w, hw⟩ : ∃ w, w = encode (.vcmpLeN64 x0 x1 x2 x3) := ⟨_, rfl⟩
  have e := toNat_pack hw f rfl (show 1543503877 + x0.toNat * 2097152 + srcCode x1 * 8192 + srcCode x2 * 32 + x3.toNat * 8 = 5 + 8 * (x3.toNat + 4 * (srcCode x2 + 256 * (srcCode x1 + 256 * (x0.toNat + 16 * (0 + 2 * (23)))))) by omega)
  have b0 : bits w 0 3 = 5 := at0 e f rfl
  have b1 : bits w 25 1 = 0 := at5 e f rfl
  have b2 : bits w 26 6 = 23 := at6 e f rfl
  have f0 : Sys2Proof.fld w 21 4 = x0 := fld_eq (at4 e f rfl)
  have f1 : srcAt w 13 = x1 := srcAt_eq (at3 e f rfl)
  have f2 : srcAt w 5 = x2 := srcAt_eq (at2 e f rfl)
  have f3 : Sys2Proof.fld w 3 2 = x3 := fld_eq (at1 e f rfl)
  exact of_row hw (by rw [row17 b2]; simp [decode17, b0, b1, f0, f1, f2, f3])
theorem vaddImm (x0 : BitVec 5) (x1 : Src) (x2 : BitVec 13) : Statement (.vaddImm x0 x1 x2) := by
  have f : Fit [(13, x2.toNat), (8, srcCode x1), (5, x0.toNat), (6, 24)] := ⟨x2.isLt, srcCode_lt x1, x0.isLt, by decide, trivial⟩
  obtain ⟨w, hw⟩ : ∃ w, w = encode (.vaddImm x0 x1 x2) := ⟨_, rfl⟩
  have e := toNat_pack hw f rfl (show 1610612736 + x0.toNat * 2097152 + srcCode x1 * 8192 + x2.toNat = x2.toNat + 8192 * (srcCode x1 + 256 * (x0.toNat + 32 * (24))) by omega)
  have b0 : bits w 26 6 = 24 := at3 e f rfl
  have f0 : Sys2Proof.fld w 21 5 = x0 := fld_eq (at2 e f rfl)
  have f1 : srcAt w 13 = x1 := srcAt_eq (at1 e f rfl)
  have f2 : Sys2Proof.fld w 0 13 = x2 := fld_eq (at0 e f rfl)
  exact of_row hw (by rw [row18 b0]; simp [decode18, f0, f1, f2])
theorem vmovi (x0 : BitVec 5) (x1 : BitVec 13) : Statement (.vmovi x0 x1) := by
  have f : Fit [(13, x1.toNat), (8, 0), (5, x0.toNat), (6, 25)] := ⟨x1.isLt, Nat.two_pow_pos 8, x0.isLt, by decide, trivial⟩
  obtain ⟨w, hw⟩ : ∃ w, w = encode (.vmovi x0 x1) := ⟨_, rfl⟩
  have e := toNat_pack hw f rfl (show 1677721600 + x0.toNat * 2097152 + x1.toNat = x1.toNat + 8192 * (0 + 256 * (x0.toNat + 32 * (25))) by omega)
  have b0 : bits w 13 8 = 0 := at1 e f rfl
  have b1 : bits w 26 6 = 25 := at3 e f rfl
  have f0 : Sys2Proof.fld w 21 5 = x0 := fld_eq (at2 e f rfl)
  have f1 : Sys2Proof.fld w 0 13 = x1 := fld_eq (at0 e f rfl)
  exact of_row hw (by rw [row19 b1]; simp [decode19, b0, f0, f1])
theorem sadd (x0 : BitVec 7) (x1 : BitVec 7) (x2 : BitVec 7) : Statement (.sadd x0 x1 x2) := by
  have f : Fit [(5, 0), (7, x2.toNat), (7, x1.toNat), (7, x0.toNat), (6, 26)] := ⟨Nat.two_pow_pos 5, x2.isLt, x1.isLt, x0.isLt, by decide, trivial⟩
  obtain ⟨w, hw⟩ : ∃ w, w = encode (.sadd x0 x1 x2) := ⟨_, rfl⟩
  have e := toNat_pack hw f rfl (show 1744830464 + x0.toNat * 524288 + x1.toNat * 4096 + x2.toNat * 32 = 0 + 32 * (x2.toNat + 128 * (x1.toNat + 128 * (x0.toNat + 128 * (26)))) by omega)
  have b0 : bits w 0 5 = 0 := at0 e f rfl
  have b1 : bits w 26 6 = 26 := at4 e f rfl
  have f0 : Sys2Proof.fld w 19 7 = x0 := fld_eq (at3 e f rfl)
  have f1 : Sys2Proof.fld w 12 7 = x1 := fld_eq (at2 e f rfl)
  have f2 : Sys2Proof.fld w 5 7 = x2 := fld_eq (at1 e f rfl)
  exact of_row hw (by rw [row1A b1]; simp [decode1A, b0, f0, f1, f2])
theorem ssub (x0 : BitVec 7) (x1 : BitVec 7) (x2 : BitVec 7) : Statement (.ssub x0 x1 x2) := by
  have f : Fit [(5, 1), (7, x2.toNat), (7, x1.toNat), (7, x0.toNat), (6, 26)] := ⟨by decide, x2.isLt, x1.isLt, x0.isLt, by decide, trivial⟩
  obtain ⟨w, hw⟩ : ∃ w, w = encode (.ssub x0 x1 x2) := ⟨_, rfl⟩
  have e := toNat_pack hw f rfl (show 1744830465 + x0.toNat * 524288 + x1.toNat * 4096 + x2.toNat * 32 = 1 + 32 * (x2.toNat + 128 * (x1.toNat + 128 * (x0.toNat + 128 * (26)))) by omega)
  have b0 : bits w 0 5 = 1 := at0 e f rfl
  have b1 : bits w 26 6 = 26 := at4 e f rfl
  have f0 : Sys2Proof.fld w 19 7 = x0 := fld_eq (at3 e f rfl)
  have f1 : Sys2Proof.fld w 12 7 = x1 := fld_eq (at2 e f rfl)
  have f2 : Sys2Proof.fld w 5 7 = x2 := fld_eq (at1 e f rfl)
  exact of_row hw (by rw [row1A b1]; simp [decode1A, b0, f0, f1, f2])
theorem smul (x0 : BitVec 7) (x1 : BitVec 7) (x2 : BitVec 7) : Statement (.smul x0 x1 x2) := by
  have f : Fit [(5, 2), (7, x2.toNat), (7, x1.toNat), (7, x0.toNat), (6, 26)] := ⟨by decide, x2.isLt, x1.isLt, x0.isLt, by decide, trivial⟩
  obtain ⟨w, hw⟩ : ∃ w, w = encode (.smul x0 x1 x2) := ⟨_, rfl⟩
  have e := toNat_pack hw f rfl (show 1744830466 + x0.toNat * 524288 + x1.toNat * 4096 + x2.toNat * 32 = 2 + 32 * (x2.toNat + 128 * (x1.toNat + 128 * (x0.toNat + 128 * (26)))) by omega)
  have b0 : bits w 0 5 = 2 := at0 e f rfl
  have b1 : bits w 26 6 = 26 := at4 e f rfl
  have f0 : Sys2Proof.fld w 19 7 = x0 := fld_eq (at3 e f rfl)
  have f1 : Sys2Proof.fld w 12 7 = x1 := fld_eq (at2 e f rfl)
  have f2 : Sys2Proof.fld w 5 7 = x2 := fld_eq (at1 e f rfl)
  exact of_row hw (by rw [row1A b1]; simp [decode1A, b0, f0, f1, f2])
theorem sand (x0 : BitVec 7) (x1 : BitVec 7) (x2 : BitVec 7) : Statement (.sand x0 x1 x2) := by
  have f : Fit [(5, 3), (7, x2.toNat), (7, x1.toNat), (7, x0.toNat), (6, 26)] := ⟨by decide, x2.isLt, x1.isLt, x0.isLt, by decide, trivial⟩
  obtain ⟨w, hw⟩ : ∃ w, w = encode (.sand x0 x1 x2) := ⟨_, rfl⟩
  have e := toNat_pack hw f rfl (show 1744830467 + x0.toNat * 524288 + x1.toNat * 4096 + x2.toNat * 32 = 3 + 32 * (x2.toNat + 128 * (x1.toNat + 128 * (x0.toNat + 128 * (26)))) by omega)
  have b0 : bits w 0 5 = 3 := at0 e f rfl
  have b1 : bits w 26 6 = 26 := at4 e f rfl
  have f0 : Sys2Proof.fld w 19 7 = x0 := fld_eq (at3 e f rfl)
  have f1 : Sys2Proof.fld w 12 7 = x1 := fld_eq (at2 e f rfl)
  have f2 : Sys2Proof.fld w 5 7 = x2 := fld_eq (at1 e f rfl)
  exact of_row hw (by rw [row1A b1]; simp [decode1A, b0, f0, f1, f2])
theorem sor (x0 : BitVec 7) (x1 : BitVec 7) (x2 : BitVec 7) : Statement (.sor x0 x1 x2) := by
  have f : Fit [(5, 4), (7, x2.toNat), (7, x1.toNat), (7, x0.toNat), (6, 26)] := ⟨by decide, x2.isLt, x1.isLt, x0.isLt, by decide, trivial⟩
  obtain ⟨w, hw⟩ : ∃ w, w = encode (.sor x0 x1 x2) := ⟨_, rfl⟩
  have e := toNat_pack hw f rfl (show 1744830468 + x0.toNat * 524288 + x1.toNat * 4096 + x2.toNat * 32 = 4 + 32 * (x2.toNat + 128 * (x1.toNat + 128 * (x0.toNat + 128 * (26)))) by omega)
  have b0 : bits w 0 5 = 4 := at0 e f rfl
  have b1 : bits w 26 6 = 26 := at4 e f rfl
  have f0 : Sys2Proof.fld w 19 7 = x0 := fld_eq (at3 e f rfl)
  have f1 : Sys2Proof.fld w 12 7 = x1 := fld_eq (at2 e f rfl)
  have f2 : Sys2Proof.fld w 5 7 = x2 := fld_eq (at1 e f rfl)
  exact of_row hw (by rw [row1A b1]; simp [decode1A, b0, f0, f1, f2])
theorem sxor (x0 : BitVec 7) (x1 : BitVec 7) (x2 : BitVec 7) : Statement (.sxor x0 x1 x2) := by
  have f : Fit [(5, 5), (7, x2.toNat), (7, x1.toNat), (7, x0.toNat), (6, 26)] := ⟨by decide, x2.isLt, x1.isLt, x0.isLt, by decide, trivial⟩
  obtain ⟨w, hw⟩ : ∃ w, w = encode (.sxor x0 x1 x2) := ⟨_, rfl⟩
  have e := toNat_pack hw f rfl (show 1744830469 + x0.toNat * 524288 + x1.toNat * 4096 + x2.toNat * 32 = 5 + 32 * (x2.toNat + 128 * (x1.toNat + 128 * (x0.toNat + 128 * (26)))) by omega)
  have b0 : bits w 0 5 = 5 := at0 e f rfl
  have b1 : bits w 26 6 = 26 := at4 e f rfl
  have f0 : Sys2Proof.fld w 19 7 = x0 := fld_eq (at3 e f rfl)
  have f1 : Sys2Proof.fld w 12 7 = x1 := fld_eq (at2 e f rfl)
  have f2 : Sys2Proof.fld w 5 7 = x2 := fld_eq (at1 e f rfl)
  exact of_row hw (by rw [row1A b1]; simp [decode1A, b0, f0, f1, f2])
theorem sshl (x0 : BitVec 7) (x1 : BitVec 7) (x2 : BitVec 7) : Statement (.sshl x0 x1 x2) := by
  have f : Fit [(5, 6), (7, x2.toNat), (7, x1.toNat), (7, x0.toNat), (6, 26)] := ⟨by decide, x2.isLt, x1.isLt, x0.isLt, by decide, trivial⟩
  obtain ⟨w, hw⟩ : ∃ w, w = encode (.sshl x0 x1 x2) := ⟨_, rfl⟩
  have e := toNat_pack hw f rfl (show 1744830470 + x0.toNat * 524288 + x1.toNat * 4096 + x2.toNat * 32 = 6 + 32 * (x2.toNat + 128 * (x1.toNat + 128 * (x0.toNat + 128 * (26)))) by omega)
  have b0 : bits w 0 5 = 6 := at0 e f rfl
  have b1 : bits w 26 6 = 26 := at4 e f rfl
  have f0 : Sys2Proof.fld w 19 7 = x0 := fld_eq (at3 e f rfl)
  have f1 : Sys2Proof.fld w 12 7 = x1 := fld_eq (at2 e f rfl)
  have f2 : Sys2Proof.fld w 5 7 = x2 := fld_eq (at1 e f rfl)
  exact of_row hw (by rw [row1A b1]; simp [decode1A, b0, f0, f1, f2])
theorem sshr (x0 : BitVec 7) (x1 : BitVec 7) (x2 : BitVec 7) : Statement (.sshr x0 x1 x2) := by
  have f : Fit [(5, 7), (7, x2.toNat), (7, x1.toNat), (7, x0.toNat), (6, 26)] := ⟨by decide, x2.isLt, x1.isLt, x0.isLt, by decide, trivial⟩
  obtain ⟨w, hw⟩ : ∃ w, w = encode (.sshr x0 x1 x2) := ⟨_, rfl⟩
  have e := toNat_pack hw f rfl (show 1744830471 + x0.toNat * 524288 + x1.toNat * 4096 + x2.toNat * 32 = 7 + 32 * (x2.toNat + 128 * (x1.toNat + 128 * (x0.toNat + 128 * (26)))) by omega)
  have b0 : bits w 0 5 = 7 := at0 e f rfl
  have b1 : bits w 26 6 = 26 := at4 e f rfl
  have f0 : Sys2Proof.fld w 19 7 = x0 := fld_eq (at3 e f rfl)
  have f1 : Sys2Proof.fld w 12 7 = x1 := fld_eq (at2 e f rfl)
  have f2 : Sys2Proof.fld w 5 7 = x2 := fld_eq (at1 e f rfl)
  exact of_row hw (by rw [row1A b1]; simp [decode1A, b0, f0, f1, f2])
theorem scmpEq (x0 : BitVec 7) (x1 : BitVec 7) (x2 : BitVec 7) : Statement (.scmpEq x0 x1 x2) := by
  have f : Fit [(5, 8), (7, x2.toNat), (7, x1.toNat), (7, x0.toNat), (6, 26)] := ⟨by decide, x2.isLt, x1.isLt, x0.isLt, by decide, trivial⟩
  obtain ⟨w, hw⟩ : ∃ w, w = encode (.scmpEq x0 x1 x2) := ⟨_, rfl⟩
  have e := toNat_pack hw f rfl (show 1744830472 + x0.toNat * 524288 + x1.toNat * 4096 + x2.toNat * 32 = 8 + 32 * (x2.toNat + 128 * (x1.toNat + 128 * (x0.toNat + 128 * (26)))) by omega)
  have b0 : bits w 0 5 = 8 := at0 e f rfl
  have b1 : bits w 26 6 = 26 := at4 e f rfl
  have f0 : Sys2Proof.fld w 19 7 = x0 := fld_eq (at3 e f rfl)
  have f1 : Sys2Proof.fld w 12 7 = x1 := fld_eq (at2 e f rfl)
  have f2 : Sys2Proof.fld w 5 7 = x2 := fld_eq (at1 e f rfl)
  exact of_row hw (by rw [row1A b1]; simp [decode1A, b0, f0, f1, f2])
theorem scmpLtS64 (x0 : BitVec 7) (x1 : BitVec 7) (x2 : BitVec 7) : Statement (.scmpLtS64 x0 x1 x2) := by
  have f : Fit [(5, 9), (7, x2.toNat), (7, x1.toNat), (7, x0.toNat), (6, 26)] := ⟨by decide, x2.isLt, x1.isLt, x0.isLt, by decide, trivial⟩
  obtain ⟨w, hw⟩ : ∃ w, w = encode (.scmpLtS64 x0 x1 x2) := ⟨_, rfl⟩
  have e := toNat_pack hw f rfl (show 1744830473 + x0.toNat * 524288 + x1.toNat * 4096 + x2.toNat * 32 = 9 + 32 * (x2.toNat + 128 * (x1.toNat + 128 * (x0.toNat + 128 * (26)))) by omega)
  have b0 : bits w 0 5 = 9 := at0 e f rfl
  have b1 : bits w 26 6 = 26 := at4 e f rfl
  have f0 : Sys2Proof.fld w 19 7 = x0 := fld_eq (at3 e f rfl)
  have f1 : Sys2Proof.fld w 12 7 = x1 := fld_eq (at2 e f rfl)
  have f2 : Sys2Proof.fld w 5 7 = x2 := fld_eq (at1 e f rfl)
  exact of_row hw (by rw [row1A b1]; simp [decode1A, b0, f0, f1, f2])
theorem scmpLtN64 (x0 : BitVec 7) (x1 : BitVec 7) (x2 : BitVec 7) : Statement (.scmpLtN64 x0 x1 x2) := by
  have f : Fit [(5, 10), (7, x2.toNat), (7, x1.toNat), (7, x0.toNat), (6, 26)] := ⟨by decide, x2.isLt, x1.isLt, x0.isLt, by decide, trivial⟩
  obtain ⟨w, hw⟩ : ∃ w, w = encode (.scmpLtN64 x0 x1 x2) := ⟨_, rfl⟩
  have e := toNat_pack hw f rfl (show 1744830474 + x0.toNat * 524288 + x1.toNat * 4096 + x2.toNat * 32 = 10 + 32 * (x2.toNat + 128 * (x1.toNat + 128 * (x0.toNat + 128 * (26)))) by omega)
  have b0 : bits w 0 5 = 10 := at0 e f rfl
  have b1 : bits w 26 6 = 26 := at4 e f rfl
  have f0 : Sys2Proof.fld w 19 7 = x0 := fld_eq (at3 e f rfl)
  have f1 : Sys2Proof.fld w 12 7 = x1 := fld_eq (at2 e f rfl)
  have f2 : Sys2Proof.fld w 5 7 = x2 := fld_eq (at1 e f rfl)
  exact of_row hw (by rw [row1A b1]; simp [decode1A, b0, f0, f1, f2])
theorem smov (x0 : BitVec 7) (x1 : BitVec 7) : Statement (.smov x0 x1) := by
  have f : Fit [(5, 11), (7, 0), (7, x1.toNat), (7, x0.toNat), (6, 26)] := ⟨by decide, Nat.two_pow_pos 7, x1.isLt, x0.isLt, by decide, trivial⟩
  obtain ⟨w, hw⟩ : ∃ w, w = encode (.smov x0 x1) := ⟨_, rfl⟩
  have e := toNat_pack hw f rfl (show 1744830475 + x0.toNat * 524288 + x1.toNat * 4096 = 11 + 32 * (0 + 128 * (x1.toNat + 128 * (x0.toNat + 128 * (26)))) by omega)
  have b0 : bits w 0 5 = 11 := at0 e f rfl
  have b1 : bits w 0 12 = 11 := bits_pack e f 0 2 rfl rfl rfl
  have b2 : bits w 26 6 = 26 := at4 e f rfl
  have f0 : Sys2Proof.fld w 19 7 = x0 := fld_eq (at3 e f rfl)
  have f1 : Sys2Proof.fld w 12 7 = x1 := fld_eq (at2 e f rfl)
  exact of_row hw (by rw [row1A b2]; simp [decode1A, b0, b1, f0, f1])
theorem saddImm (x0 : BitVec 7) (x1 : BitVec 7) (x2 : BitVec 10) : Statement (.saddImm x0 x1 x2) := by
  have f : Fit [(2, 0), (10, x2.toNat), (7, x1.toNat), (7, x0.toNat), (6, 27)] := ⟨Nat.two_pow_pos 2, x2.isLt, x1.isLt, x0.isLt, by decide, trivial⟩
  obtain ⟨w, hw⟩ : ∃ w, w = encode (.saddImm x0 x1 x2) := ⟨_, rfl⟩
  have e := toNat_pack hw f rfl (show 1811939328 + x0.toNat * 524288 + x1.toNat * 4096 + x2.toNat * 4 = 0 + 4 * (x2.toNat + 1024 * (x1.toNat + 128 * (x0.toNat + 128 * (27)))) by omega)
  have b0 : bits w 0 2 = 0 := at0 e f rfl
  have b1 : bits w 26 6 = 27 := at4 e f rfl
  have f0 : Sys2Proof.fld w 19 7 = x0 := fld_eq (at3 e f rfl)
  have f1 : Sys2Proof.fld w 12 7 = x1 := fld_eq (at2 e f rfl)
  have f2 : Sys2Proof.fld w 2 10 = x2 := fld_eq (at1 e f rfl)
  exact of_row hw (by rw [row1B b1]; simp [decode1B, b0, f0, f1, f2])
theorem smovi (x0 : BitVec 7) (x1 : BitVec 10) : Statement (.smovi x0 x1) := by
  have f : Fit [(2, 1), (10, x1.toNat), (7, 0), (7, x0.toNat), (6, 27)] := ⟨by decide, x1.isLt, Nat.two_pow_pos 7, x0.isLt, by decide, trivial⟩
  obtain ⟨w, hw⟩ : ∃ w, w = encode (.smovi x0 x1) := ⟨_, rfl⟩
  have e := toNat_pack hw f rfl (show 1811939329 + x0.toNat * 524288 + x1.toNat * 4 = 1 + 4 * (x1.toNat + 1024 * (0 + 128 * (x0.toNat + 128 * (27)))) by omega)
  have b0 : bits w 0 2 = 1 := at0 e f rfl
  have b1 : bits w 12 7 = 0 := at2 e f rfl
  have b2 : bits w 26 6 = 27 := at4 e f rfl
  have f0 : Sys2Proof.fld w 19 7 = x0 := fld_eq (at3 e f rfl)
  have f1 : Sys2Proof.fld w 2 10 = x1 := fld_eq (at1 e f rfl)
  exact of_row hw (by rw [row1B b2]; simp [decode1B, b0, b1, f0, f1])
theorem vshape (x0 : BitVec 5) (x1 : BitVec 5) (x2 : BitVec 2) : Statement (.vshape x0 x1 x2) := by
  have f : Fit [(3, 0), (2, x2.toNat), (8, 0), (5, x1.toNat), (3, 0), (5, x0.toNat), (6, 28)] := ⟨Nat.two_pow_pos 3, x2.isLt, Nat.two_pow_pos 8, x1.isLt, Nat.two_pow_pos 3, x0.isLt, by decide, trivial⟩
  obtain ⟨w, hw⟩ : ∃ w, w = encode (.vshape x0 x1 x2) := ⟨_, rfl⟩
  have e := toNat_pack hw f rfl (show 1879048192 + x0.toNat * 2097152 + x1.toNat * 8192 + x2.toNat * 8 = 0 + 8 * (x2.toNat + 4 * (0 + 256 * (x1.toNat + 32 * (0 + 8 * (x0.toNat + 32 * (28)))))) by omega)
  have b0 : bits w 0 3 = 0 := at0 e f rfl
  have b1 : bits w 5 8 = 0 := at2 e f rfl
  have b2 : bits w 18 3 = 0 := at4 e f rfl
  have b3 : bits w 26 6 = 28 := at6 e f rfl
  have f0 : Sys2Proof.fld w 21 5 = x0 := fld_eq (at5 e f rfl)
  have f1 : Sys2Proof.fld w 13 5 = x1 := fld_eq (at3 e f rfl)
  have f2 : Sys2Proof.fld w 3 2 = x2 := fld_eq (at1 e f rfl)
  exact of_row hw (by rw [row1C b3]; simp [decode1C, b0, b1, b2, f0, f1, f2])
theorem vfmt (x0 : BitVec 5) (x1 : Src) (x2 : Src) (x3 : BitVec 2) : Statement (.vfmt x0 x1 x2 x3) := by
  have f : Fit [(3, 1), (2, x3.toNat), (8, srcCode x2), (8, srcCode x1), (5, x0.toNat), (6, 28)] := ⟨by decide, x3.isLt, srcCode_lt x2, srcCode_lt x1, x0.isLt, by decide, trivial⟩
  obtain ⟨w, hw⟩ : ∃ w, w = encode (.vfmt x0 x1 x2 x3) := ⟨_, rfl⟩
  have e := toNat_pack hw f rfl (show 1879048193 + x0.toNat * 2097152 + srcCode x1 * 8192 + srcCode x2 * 32 + x3.toNat * 8 = 1 + 8 * (x3.toNat + 4 * (srcCode x2 + 256 * (srcCode x1 + 256 * (x0.toNat + 32 * (28))))) by omega)
  have b0 : bits w 0 3 = 1 := at0 e f rfl
  have b1 : bits w 26 6 = 28 := at5 e f rfl
  have f0 : Sys2Proof.fld w 21 5 = x0 := fld_eq (at4 e f rfl)
  have f1 : srcAt w 13 = x1 := srcAt_eq (at3 e f rfl)
  have f2 : srcAt w 5 = x2 := srcAt_eq (at2 e f rfl)
  have f3 : Sys2Proof.fld w 3 2 = x3 := fld_eq (at1 e f rfl)
  exact of_row hw (by rw [row1C b1]; simp [decode1C, b0, f0, f1, f2, f3])
theorem vaffine (x0 : BitVec 5) (x1 : Src) (x2 : Src) (x3 : BitVec 2) : Statement (.vaffine x0 x1 x2 x3) := by
  have f : Fit [(3, 2), (2, x3.toNat), (8, srcCode x2), (8, srcCode x1), (5, x0.toNat), (6, 28)] := ⟨by decide, x3.isLt, srcCode_lt x2, srcCode_lt x1, x0.isLt, by decide, trivial⟩
  obtain ⟨w, hw⟩ : ∃ w, w = encode (.vaffine x0 x1 x2 x3) := ⟨_, rfl⟩
  have e := toNat_pack hw f rfl (show 1879048194 + x0.toNat * 2097152 + srcCode x1 * 8192 + srcCode x2 * 32 + x3.toNat * 8 = 2 + 8 * (x3.toNat + 4 * (srcCode x2 + 256 * (srcCode x1 + 256 * (x0.toNat + 32 * (28))))) by omega)
  have b0 : bits w 0 3 = 2 := at0 e f rfl
  have b1 : bits w 26 6 = 28 := at5 e f rfl
  have f0 : Sys2Proof.fld w 21 5 = x0 := fld_eq (at4 e f rfl)
  have f1 : srcAt w 13 = x1 := srcAt_eq (at3 e f rfl)
  have f2 : srcAt w 5 = x2 := srcAt_eq (at2 e f rfl)
  have f3 : Sys2Proof.fld w 3 2 = x3 := fld_eq (at1 e f rfl)
  exact of_row hw (by rw [row1C b1]; simp [decode1C, b0, f0, f1, f2, f3])
theorem vidx (x0 : BitVec 5) (x1 : BitVec 2) : Statement (.vidx x0 x1) := by
  have f : Fit [(3, 3), (2, x1.toNat), (8, 0), (5, 0), (3, 0), (5, x0.toNat), (6, 28)] := ⟨by decide, x1.isLt, Nat.two_pow_pos 8, Nat.two_pow_pos 5, Nat.two_pow_pos 3, x0.isLt, by decide, trivial⟩
  obtain ⟨w, hw⟩ : ∃ w, w = encode (.vidx x0 x1) := ⟨_, rfl⟩
  have e := toNat_pack hw f rfl (show 1879048195 + x0.toNat * 2097152 + x1.toNat * 8 = 3 + 8 * (x1.toNat + 4 * (0 + 256 * (0 + 32 * (0 + 8 * (x0.toNat + 32 * (28)))))) by omega)
  have b0 : bits w 0 3 = 3 := at0 e f rfl
  have b1 : bits w 5 8 = 0 := at2 e f rfl
  have b2 : bits w 5 16 = 0 := bits_pack e f 2 3 rfl rfl rfl
  have b3 : bits w 18 3 = 0 := at4 e f rfl
  have b4 : bits w 26 6 = 28 := at6 e f rfl
  have f0 : Sys2Proof.fld w 21 5 = x0 := fld_eq (at5 e f rfl)
  have f1 : Sys2Proof.fld w 3 2 = x1 := fld_eq (at1 e f rfl)
  exact of_row hw (by rw [row1C b4]; simp [decode1C, b0, b1, b2, b3, f0, f1])
theorem vfree (x0 : BitVec 5) : Statement (.vfree x0) := by
  have f : Fit [(3, 4), (2, 0), (8, 0), (5, 0), (3, 0), (5, x0.toNat), (6, 28)] := ⟨by decide, Nat.two_pow_pos 2, Nat.two_pow_pos 8, Nat.two_pow_pos 5, Nat.two_pow_pos 3, x0.isLt, by decide, trivial⟩
  obtain ⟨w, hw⟩ : ∃ w, w = encode (.vfree x0) := ⟨_, rfl⟩
  have e := toNat_pack hw f rfl (show 1879048196 + x0.toNat * 2097152 = 4 + 8 * (0 + 4 * (0 + 256 * (0 + 32 * (0 + 8 * (x0.toNat + 32 * (28)))))) by omega)
  have b0 : bits w 0 3 = 4 := at0 e f rfl
  have b1 : bits w 0 21 = 4 := bits_pack e f 0 5 rfl rfl rfl
  have b2 : bits w 5 8 = 0 := at2 e f rfl
  have b3 : bits w 5 16 = 0 := bits_pack e f 2 3 rfl rfl rfl
  have b4 : bits w 18 3 = 0 := at4 e f rfl
  have b5 : bits w 26 6 = 28 := at6 e f rfl
  have f0 : Sys2Proof.fld w 21 5 = x0 := fld_eq (at5 e f rfl)
  exact of_row hw (by rw [row1C b5]; simp [decode1C, b0, b1, b2, b3, b4, f0])
theorem vbfeS32 (x0 : BitVec 5) (x1 : Src) (x2 : Src) (x3 : BitVec 2) : Statement (.vbfeS32 x0 x1 x2 x3) := by
  have f : Fit [(3, 0), (2, x3.toNat), (8, srcCode x2), (8, srcCode x1), (5, x0.toNat), (6, 29)] := ⟨Nat.two_pow_pos 3, x3.isLt, srcCode_lt x2, srcCode_lt x1, x0.isLt, by decide, trivial⟩
  obtain ⟨w, hw⟩ : ∃ w, w = encode (.vbfeS32 x0 x1 x2 x3) := ⟨_, rfl⟩
  have e := toNat_pack hw f rfl (show 1946157056 + x0.toNat * 2097152 + srcCode x1 * 8192 + srcCode x2 * 32 + x3.toNat * 8 = 0 + 8 * (x3.toNat + 4 * (srcCode x2 + 256 * (srcCode x1 + 256 * (x0.toNat + 32 * (29))))) by omega)
  have b0 : bits w 0 3 = 0 := at0 e f rfl
  have b1 : bits w 26 6 = 29 := at5 e f rfl
  have f0 : Sys2Proof.fld w 21 5 = x0 := fld_eq (at4 e f rfl)
  have f1 : srcAt w 13 = x1 := srcAt_eq (at3 e f rfl)
  have f2 : srcAt w 5 = x2 := srcAt_eq (at2 e f rfl)
  have f3 : Sys2Proof.fld w 3 2 = x3 := fld_eq (at1 e f rfl)
  exact of_row hw (by rw [row1D b1]; simp [decode1D, b0, f0, f1, f2, f3])
theorem vbfeN32 (x0 : BitVec 5) (x1 : Src) (x2 : Src) (x3 : BitVec 2) : Statement (.vbfeN32 x0 x1 x2 x3) := by
  have f : Fit [(3, 1), (2, x3.toNat), (8, srcCode x2), (8, srcCode x1), (5, x0.toNat), (6, 29)] := ⟨by decide, x3.isLt, srcCode_lt x2, srcCode_lt x1, x0.isLt, by decide, trivial⟩
  obtain ⟨w, hw⟩ : ∃ w, w = encode (.vbfeN32 x0 x1 x2 x3) := ⟨_, rfl⟩
  have e := toNat_pack hw f rfl (show 1946157057 + x0.toNat * 2097152 + srcCode x1 * 8192 + srcCode x2 * 32 + x3.toNat * 8 = 1 + 8 * (x3.toNat + 4 * (srcCode x2 + 256 * (srcCode x1 + 256 * (x0.toNat + 32 * (29))))) by omega)
  have b0 : bits w 0 3 = 1 := at0 e f rfl
  have b1 : bits w 26 6 = 29 := at5 e f rfl
  have f0 : Sys2Proof.fld w 21 5 = x0 := fld_eq (at4 e f rfl)
  have f1 : srcAt w 13 = x1 := srcAt_eq (at3 e f rfl)
  have f2 : srcAt w 5 = x2 := srcAt_eq (at2 e f rfl)
  have f3 : Sys2Proof.fld w 3 2 = x3 := fld_eq (at1 e f rfl)
  exact of_row hw (by rw [row1D b1]; simp [decode1D, b0, f0, f1, f2, f3])
theorem vbfi (x0 : BitVec 5) (x1 : Src) (x2 : Src) (x3 : BitVec 2) : Statement (.vbfi x0 x1 x2 x3) := by
  have f : Fit [(3, 2), (2, x3.toNat), (8, srcCode x2), (8, srcCode x1), (5, x0.toNat), (6, 29)] := ⟨by decide, x3.isLt, srcCode_lt x2, srcCode_lt x1, x0.isLt, by decide, trivial⟩
  obtain ⟨w, hw⟩ : ∃ w, w = encode (.vbfi x0 x1 x2 x3) := ⟨_, rfl⟩
  have e := toNat_pack hw f rfl (show 1946157058 + x0.toNat * 2097152 + srcCode x1 * 8192 + srcCode x2 * 32 + x3.toNat * 8 = 2 + 8 * (x3.toNat + 4 * (srcCode x2 + 256 * (srcCode x1 + 256 * (x0.toNat + 32 * (29))))) by omega)
  have b0 : bits w 0 3 = 2 := at0 e f rfl
  have b1 : bits w 26 6 = 29 := at5 e f rfl
  have f0 : Sys2Proof.fld w 21 5 = x0 := fld_eq (at4 e f rfl)
  have f1 : srcAt w 13 = x1 := srcAt_eq (at3 e f rfl)
  have f2 : srcAt w 5 = x2 := srcAt_eq (at2 e f rfl)
  have f3 : Sys2Proof.fld w 3 2 = x3 := fld_eq (at1 e f rfl)
  exact of_row hw (by rw [row1D b1]; simp [decode1D, b0, f0, f1, f2, f3])
theorem vsext (x0 : BitVec 5) (x1 : Src) (x2 : Src) (x3 : BitVec 2) : Statement (.vsext x0 x1 x2 x3) := by
  have f : Fit [(3, 3), (2, x3.toNat), (8, srcCode x2), (8, srcCode x1), (5, x0.toNat), (6, 29)] := ⟨by decide, x3.isLt, srcCode_lt x2, srcCode_lt x1, x0.isLt, by decide, trivial⟩
  obtain ⟨w, hw⟩ : ∃ w, w = encode (.vsext x0 x1 x2 x3) := ⟨_, rfl⟩
  have e := toNat_pack hw f rfl (show 1946157059 + x0.toNat * 2097152 + srcCode x1 * 8192 + srcCode x2 * 32 + x3.toNat * 8 = 3 + 8 * (x3.toNat + 4 * (srcCode x2 + 256 * (srcCode x1 + 256 * (x0.toNat + 32 * (29))))) by omega)
  have b0 : bits w 0 3 = 3 := at0 e f rfl
  have b1 : bits w 26 6 = 29 := at5 e f rfl
  have f0 : Sys2Proof.fld w 21 5 = x0 := fld_eq (at4 e f rfl)
  have f1 : srcAt w 13 = x1 := srcAt_eq (at3 e f rfl)
  have f2 : srcAt w 5 = x2 := srcAt_eq (at2 e f rfl)
  have f3 : Sys2Proof.fld w 3 2 = x3 := fld_eq (at1 e f rfl)
  exact of_row hw (by rw [row1D b1]; simp [decode1D, b0, f0, f1, f2, f3])
theorem vzext (x0 : BitVec 5) (x1 : Src) (x2 : Src) (x3 : BitVec 2) : Statement (.vzext x0 x1 x2 x3) := by
  have f : Fit [(3, 4), (2, x3.toNat), (8, srcCode x2), (8, srcCode x1), (5, x0.toNat), (6, 29)] := ⟨by decide, x3.isLt, srcCode_lt x2, srcCode_lt x1, x0.isLt, by decide, trivial⟩
  obtain ⟨w, hw⟩ : ∃ w, w = encode (.vzext x0 x1 x2 x3) := ⟨_, rfl⟩
  have e := toNat_pack hw f rfl (show 1946157060 + x0.toNat * 2097152 + srcCode x1 * 8192 + srcCode x2 * 32 + x3.toNat * 8 = 4 + 8 * (x3.toNat + 4 * (srcCode x2 + 256 * (srcCode x1 + 256 * (x0.toNat + 32 * (29))))) by omega)
  have b0 : bits w 0 3 = 4 := at0 e f rfl
  have b1 : bits w 26 6 = 29 := at5 e f rfl
  have f0 : Sys2Proof.fld w 21 5 = x0 := fld_eq (at4 e f rfl)
  have f1 : srcAt w 13 = x1 := srcAt_eq (at3 e f rfl)
  have f2 : srcAt w 5 = x2 := srcAt_eq (at2 e f rfl)
  have f3 : Sys2Proof.fld w 3 2 = x3 := fld_eq (at1 e f rfl)
  exact of_row hw (by rw [row1D b1]; simp [decode1D, b0, f0, f1, f2, f3])
theorem vfaddF32 (x0 : BitVec 5) (x1 : Src) (x2 : Src) (x3 : BitVec 2) : Statement (.vfaddF32 x0 x1 x2 x3) := by
  have f : Fit [(3, 0), (2, x3.toNat), (8, srcCode x2), (8, srcCode x1), (5, x0.toNat), (6, 32)] := ⟨Nat.two_pow_pos 3, x3.isLt, srcCode_lt x2, srcCode_lt x1, x0.isLt, by decide, trivial⟩
  obtain ⟨w, hw⟩ : ∃ w, w = encode (.vfaddF32 x0 x1 x2 x3) := ⟨_, rfl⟩
  have e := toNat_pack hw f rfl (show 2147483648 + x0.toNat * 2097152 + srcCode x1 * 8192 + srcCode x2 * 32 + x3.toNat * 8 = 0 + 8 * (x3.toNat + 4 * (srcCode x2 + 256 * (srcCode x1 + 256 * (x0.toNat + 32 * (32))))) by omega)
  have b0 : bits w 0 3 = 0 := at0 e f rfl
  have b1 : bits w 26 6 = 32 := at5 e f rfl
  have f0 : Sys2Proof.fld w 21 5 = x0 := fld_eq (at4 e f rfl)
  have f1 : srcAt w 13 = x1 := srcAt_eq (at3 e f rfl)
  have f2 : srcAt w 5 = x2 := srcAt_eq (at2 e f rfl)
  have f3 : Sys2Proof.fld w 3 2 = x3 := fld_eq (at1 e f rfl)
  exact of_row hw (by rw [row20 b1]; simp [decode20, b0, f0, f1, f2, f3])
theorem vfsubF32 (x0 : BitVec 5) (x1 : Src) (x2 : Src) (x3 : BitVec 2) : Statement (.vfsubF32 x0 x1 x2 x3) := by
  have f : Fit [(3, 1), (2, x3.toNat), (8, srcCode x2), (8, srcCode x1), (5, x0.toNat), (6, 32)] := ⟨by decide, x3.isLt, srcCode_lt x2, srcCode_lt x1, x0.isLt, by decide, trivial⟩
  obtain ⟨w, hw⟩ : ∃ w, w = encode (.vfsubF32 x0 x1 x2 x3) := ⟨_, rfl⟩
  have e := toNat_pack hw f rfl (show 2147483649 + x0.toNat * 2097152 + srcCode x1 * 8192 + srcCode x2 * 32 + x3.toNat * 8 = 1 + 8 * (x3.toNat + 4 * (srcCode x2 + 256 * (srcCode x1 + 256 * (x0.toNat + 32 * (32))))) by omega)
  have b0 : bits w 0 3 = 1 := at0 e f rfl
  have b1 : bits w 26 6 = 32 := at5 e f rfl
  have f0 : Sys2Proof.fld w 21 5 = x0 := fld_eq (at4 e f rfl)
  have f1 : srcAt w 13 = x1 := srcAt_eq (at3 e f rfl)
  have f2 : srcAt w 5 = x2 := srcAt_eq (at2 e f rfl)
  have f3 : Sys2Proof.fld w 3 2 = x3 := fld_eq (at1 e f rfl)
  exact of_row hw (by rw [row20 b1]; simp [decode20, b0, f0, f1, f2, f3])
theorem vfmulF32 (x0 : BitVec 5) (x1 : Src) (x2 : Src) (x3 : BitVec 2) : Statement (.vfmulF32 x0 x1 x2 x3) := by
  have f : Fit [(3, 2), (2, x3.toNat), (8, srcCode x2), (8, srcCode x1), (5, x0.toNat), (6, 32)] := ⟨by decide, x3.isLt, srcCode_lt x2, srcCode_lt x1, x0.isLt, by decide, trivial⟩
  obtain ⟨w, hw⟩ : ∃ w, w = encode (.vfmulF32 x0 x1 x2 x3) := ⟨_, rfl⟩
  have e := toNat_pack hw f rfl (show 2147483650 + x0.toNat * 2097152 + srcCode x1 * 8192 + srcCode x2 * 32 + x3.toNat * 8 = 2 + 8 * (x3.toNat + 4 * (srcCode x2 + 256 * (srcCode x1 + 256 * (x0.toNat + 32 * (32))))) by omega)
  have b0 : bits w 0 3 = 2 := at0 e f rfl
  have b1 : bits w 26 6 = 32 := at5 e f rfl
  have f0 : Sys2Proof.fld w 21 5 = x0 := fld_eq (at4 e f rfl)
  have f1 : srcAt w 13 = x1 := srcAt_eq (at3 e f rfl)
  have f2 : srcAt w 5 = x2 := srcAt_eq (at2 e f rfl)
  have f3 : Sys2Proof.fld w 3 2 = x3 := fld_eq (at1 e f rfl)
  exact of_row hw (by rw [row20 b1]; simp [decode20, b0, f0, f1, f2, f3])
theorem vfmaF32 (x0 : BitVec 5) (x1 : Src) (x2 : Src) (x3 : BitVec 2) : Statement (.vfmaF32 x0 x1 x2 x3) := by
  have f : Fit [(3, 3), (2, x3.toNat), (8, srcCode x2), (8, srcCode x1), (5, x0.toNat), (6, 32)] := ⟨by decide, x3.isLt, srcCode_lt x2, srcCode_lt x1, x0.isLt, by decide, trivial⟩
  obtain ⟨w, hw⟩ : ∃ w, w = encode (.vfmaF32 x0 x1 x2 x3) := ⟨_, rfl⟩
  have e := toNat_pack hw f rfl (show 2147483651 + x0.toNat * 2097152 + srcCode x1 * 8192 + srcCode x2 * 32 + x3.toNat * 8 = 3 + 8 * (x3.toNat + 4 * (srcCode x2 + 256 * (srcCode x1 + 256 * (x0.toNat + 32 * (32))))) by omega)
  have b0 : bits w 0 3 = 3 := at0 e f rfl
  have b1 : bits w 26 6 = 32 := at5 e f rfl
  have f0 : Sys2Proof.fld w 21 5 = x0 := fld_eq (at4 e f rfl)
  have f1 : srcAt w 13 = x1 := srcAt_eq (at3 e f rfl)
  have f2 : srcAt w 5 = x2 := srcAt_eq (at2 e f rfl)
  have f3 : Sys2Proof.fld w 3 2 = x3 := fld_eq (at1 e f rfl)
  exact of_row hw (by rw [row20 b1]; simp [decode20, b0, f0, f1, f2, f3])
theorem vfminF32 (x0 : BitVec 5) (x1 : Src) (x2 : Src) (x3 : BitVec 2) : Statement (.vfminF32 x0 x1 x2 x3) := by
  have f : Fit [(3, 4), (2, x3.toNat), (8, srcCode x2), (8, srcCode x1), (5, x0.toNat), (6, 32)] := ⟨by decide, x3.isLt, srcCode_lt x2, srcCode_lt x1, x0.isLt, by decide, trivial⟩
  obtain ⟨w, hw⟩ : ∃ w, w = encode (.vfminF32 x0 x1 x2 x3) := ⟨_, rfl⟩
  have e := toNat_pack hw f rfl (show 2147483652 + x0.toNat * 2097152 + srcCode x1 * 8192 + srcCode x2 * 32 + x3.toNat * 8 = 4 + 8 * (x3.toNat + 4 * (srcCode x2 + 256 * (srcCode x1 + 256 * (x0.toNat + 32 * (32))))) by omega)
  have b0 : bits w 0 3 = 4 := at0 e f rfl
  have b1 : bits w 26 6 = 32 := at5 e f rfl
  have f0 : Sys2Proof.fld w 21 5 = x0 := fld_eq (at4 e f rfl)
  have f1 : srcAt w 13 = x1 := srcAt_eq (at3 e f rfl)
  have f2 : srcAt w 5 = x2 := srcAt_eq (at2 e f rfl)
  have f3 : Sys2Proof.fld w 3 2 = x3 := fld_eq (at1 e f rfl)
  exact of_row hw (by rw [row20 b1]; simp [decode20, b0, f0, f1, f2, f3])
theorem vfmaxF32 (x0 : BitVec 5) (x1 : Src) (x2 : Src) (x3 : BitVec 2) : Statement (.vfmaxF32 x0 x1 x2 x3) := by
  have f : Fit [(3, 5), (2, x3.toNat), (8, srcCode x2), (8, srcCode x1), (5, x0.toNat), (6, 32)] := ⟨by decide, x3.isLt, srcCode_lt x2, srcCode_lt x1, x0.isLt, by decide, trivial⟩
  obtain ⟨w, hw⟩ : ∃ w, w = encode (.vfmaxF32 x0 x1 x2 x3) := ⟨_, rfl⟩
  have e := toNat_pack hw f rfl (show 2147483653 + x0.toNat * 2097152 + srcCode x1 * 8192 + srcCode x2 * 32 + x3.toNat * 8 = 5 + 8 * (x3.toNat + 4 * (srcCode x2 + 256 * (srcCode x1 + 256 * (x0.toNat + 32 * (32))))) by omega)
  have b0 : bits w 0 3 = 5 := at0 e f rfl
  have b1 : bits w 26 6 = 32 := at5 e f rfl
  have f0 : Sys2Proof.fld w 21 5 = x0 := fld_eq (at4 e f rfl)
  have f1 : srcAt w 13 = x1 := srcAt_eq (at3 e f rfl)
  have f2 : srcAt w 5 = x2 := srcAt_eq (at2 e f rfl)
  have f3 : Sys2Proof.fld w 3 2 = x3 := fld_eq (at1 e f rfl)
  exact of_row hw (by rw [row20 b1]; simp [decode20, b0, f0, f1, f2, f3])
theorem vfabsF32 (x0 : BitVec 5) (x1 : Src) (x2 : BitVec 2) : Statement (.vfabsF32 x0 x1 x2) := by
  have f : Fit [(3, 6), (2, x2.toNat), (8, 0), (8, srcCode x1), (5, x0.toNat), (6, 32)] := ⟨by decide, x2.isLt, Nat.two_pow_pos 8, srcCode_lt x1, x0.isLt, by decide, trivial⟩
  obtain ⟨w, hw⟩ : ∃ w, w = encode (.vfabsF32 x0 x1 x2) := ⟨_, rfl⟩
  have e := toNat_pack hw f rfl (show 2147483654 + x0.toNat * 2097152 + srcCode x1 * 8192 + x2.toNat * 8 = 6 + 8 * (x2.toNat + 4 * (0 + 256 * (srcCode x1 + 256 * (x0.toNat + 32 * (32))))) by omega)
  have b0 : bits w 0 3 = 6 := at0 e f rfl
  have b1 : bits w 5 8 = 0 := at2 e f rfl
  have b2 : bits w 26 6 = 32 := at5 e f rfl
  have f0 : Sys2Proof.fld w 21 5 = x0 := fld_eq (at4 e f rfl)
  have f1 : srcAt w 13 = x1 := srcAt_eq (at3 e f rfl)
  have f2 : Sys2Proof.fld w 3 2 = x2 := fld_eq (at1 e f rfl)
  exact of_row hw (by rw [row20 b2]; simp [decode20, b0, b1, f0, f1, f2])
theorem vfnegF32 (x0 : BitVec 5) (x1 : Src) (x2 : BitVec 2) : Statement (.vfnegF32 x0 x1 x2) := by
  have f : Fit [(3, 7), (2, x2.toNat), (8, 0), (8, srcCode x1), (5, x0.toNat), (6, 32)] := ⟨by decide, x2.isLt, Nat.two_pow_pos 8, srcCode_lt x1, x0.isLt, by decide, trivial⟩
  obtain ⟨w, hw⟩ : ∃ w, w = encode (.vfnegF32 x0 x1 x2) := ⟨_, rfl⟩
  have e := toNat_pack hw f rfl (show 2147483655 + x0.toNat * 2097152 + srcCode x1 * 8192 + x2.toNat * 8 = 7 + 8 * (x2.toNat + 4 * (0 + 256 * (srcCode x1 + 256 * (x0.toNat + 32 * (32))))) by omega)
  have b0 : bits w 0 3 = 7 := at0 e f rfl
  have b1 : bits w 5 8 = 0 := at2 e f rfl
  have b2 : bits w 26 6 = 32 := at5 e f rfl
  have f0 : Sys2Proof.fld w 21 5 = x0 := fld_eq (at4 e f rfl)
  have f1 : srcAt w 13 = x1 := srcAt_eq (at3 e f rfl)
  have f2 : Sys2Proof.fld w 3 2 = x2 := fld_eq (at1 e f rfl)
  exact of_row hw (by rw [row20 b2]; simp [decode20, b0, b1, f0, f1, f2])
theorem vfcmpEqF32 (x0 : BitVec 4) (x1 : Src) (x2 : Src) (x3 : BitVec 2) : Statement (.vfcmpEqF32 x0 x1 x2 x3) := by
  have f : Fit [(3, 0), (2, x3.toNat), (8, srcCode x2), (8, srcCode x1), (4, x0.toNat), (1, 0), (6, 33)] := ⟨Nat.two_pow_pos 3, x3.isLt, srcCode_lt x2, srcCode_lt x1, x0.isLt, Nat.two_pow_pos 1, by decide, trivial⟩
  obtain ⟨w, hw⟩ : ∃ w, w = encode (.vfcmpEqF32 x0 x1 x2 x3) := ⟨_, rfl⟩
  have e := toNat_pack hw f rfl (show 2214592512 + x0.toNat * 2097152 + srcCode x1 * 8192 + srcCode x2 * 32 + x3.toNat * 8 = 0 + 8 * (x3.toNat + 4 * (srcCode x2 + 256 * (srcCode x1 + 256 * (x0.toNat + 16 * (0 + 2 * (33)))))) by omega)
  have b0 : bits w 0 3 = 0 := at0 e f rfl
  have b1 : bits w 25 1 = 0 := at5 e f rfl
  have b2 : bits w 26 6 = 33 := at6 e f rfl
  have f0 : Sys2Proof.fld w 21 4 = x0 := fld_eq (at4 e f rfl)
  have f1 : srcAt w 13 = x1 := srcAt_eq (at3 e f rfl)
  have f2 : srcAt w 5 = x2 := srcAt_eq (at2 e f rfl)
  have f3 : Sys2Proof.fld w 3 2 = x3 := fld_eq (at1 e f rfl)
  exact of_row hw (by rw [row21 b2]; simp [decode21, b0, b1, f0, f1, f2, f3])
theorem vfcmpNeF32 (x0 : BitVec 4) (x1 : Src) (x2 : Src) (x3 : BitVec 2) : Statement (.vfcmpNeF32 x0 x1 x2 x3) := by
  have f : Fit [(3, 1), (2, x3.toNat), (8, srcCode x2), (8, srcCode x1), (4, x0.toNat), (1, 0), (6, 33)] := ⟨by decide, x3.isLt, srcCode_lt x2, srcCode_lt x1, x0.isLt, Nat.two_pow_pos 1, by decide, trivial⟩
  obtain ⟨w, hw⟩ : ∃ w, w = encode (.vfcmpNeF32 x0 x1 x2 x3) := ⟨_, rfl⟩
  have e := toNat_pack hw f rfl (show 2214592513 + x0.toNat * 2097152 + srcCode x1 * 8192 + srcCode x2 * 32 + x3.toNat * 8 = 1 + 8 * (x3.toNat + 4 * (srcCode x2 + 256 * (srcCode x1 + 256 * (x0.toNat + 16 * (0 + 2 * (33)))))) by omega)
  have b0 : bits w 0 3 = 1 := at0 e f rfl
  have b1 : bits w 25 1 = 0 := at5 e f rfl
  have b2 : bits w 26 6 = 33 := at6 e f rfl
  have f0 : Sys2Proof.fld w 21 4 = x0 := fld_eq (at4 e f rfl)
  have f1 : srcAt w 13 = x1 := srcAt_eq (at3 e f rfl)
  have f2 : srcAt w 5 = x2 := srcAt_eq (at2 e f rfl)
  have f3 : Sys2Proof.fld w 3 2 = x3 := fld_eq (at1 e f rfl)
  exact of_row hw (by rw [row21 b2]; simp [decode21, b0, b1, f0, f1, f2, f3])
theorem vfcmpLtF32 (x0 : BitVec 4) (x1 : Src) (x2 : Src) (x3 : BitVec 2) : Statement (.vfcmpLtF32 x0 x1 x2 x3) := by
  have f : Fit [(3, 2), (2, x3.toNat), (8, srcCode x2), (8, srcCode x1), (4, x0.toNat), (1, 0), (6, 33)] := ⟨by decide, x3.isLt, srcCode_lt x2, srcCode_lt x1, x0.isLt, Nat.two_pow_pos 1, by decide, trivial⟩
  obtain ⟨w, hw⟩ : ∃ w, w = encode (.vfcmpLtF32 x0 x1 x2 x3) := ⟨_, rfl⟩
  have e := toNat_pack hw f rfl (show 2214592514 + x0.toNat * 2097152 + srcCode x1 * 8192 + srcCode x2 * 32 + x3.toNat * 8 = 2 + 8 * (x3.toNat + 4 * (srcCode x2 + 256 * (srcCode x1 + 256 * (x0.toNat + 16 * (0 + 2 * (33)))))) by omega)
  have b0 : bits w 0 3 = 2 := at0 e f rfl
  have b1 : bits w 25 1 = 0 := at5 e f rfl
  have b2 : bits w 26 6 = 33 := at6 e f rfl
  have f0 : Sys2Proof.fld w 21 4 = x0 := fld_eq (at4 e f rfl)
  have f1 : srcAt w 13 = x1 := srcAt_eq (at3 e f rfl)
  have f2 : srcAt w 5 = x2 := srcAt_eq (at2 e f rfl)
  have f3 : Sys2Proof.fld w 3 2 = x3 := fld_eq (at1 e f rfl)
  exact of_row hw (by rw [row21 b2]; simp [decode21, b0, b1, f0, f1, f2, f3])
theorem vfcmpLeF32 (x0 : BitVec 4) (x1 : Src) (x2 : Src) (x3 : BitVec 2) : Statement (.vfcmpLeF32 x0 x1 x2 x3) := by
  have f : Fit [(3, 3), (2, x3.toNat), (8, srcCode x2), (8, srcCode x1), (4, x0.toNat), (1, 0), (6, 33)] := ⟨by decide, x3.isLt, srcCode_lt x2, srcCode_lt x1, x0.isLt, Nat.two_pow_pos 1, by decide, trivial⟩
  obtain ⟨w, hw⟩ : ∃ w, w = encode (.vfcmpLeF32 x0 x1 x2 x3) := ⟨_, rfl⟩
  have e := toNat_pack hw f rfl (show 2214592515 + x0.toNat * 2097152 + srcCode x1 * 8192 + srcCode x2 * 32 + x3.toNat * 8 = 3 + 8 * (x3.toNat + 4 * (srcCode x2 + 256 * (srcCode x1 + 256 * (x0.toNat + 16 * (0 + 2 * (33)))))) by omega)
  have b0 : bits w 0 3 = 3 := at0 e f rfl
  have b1 : bits w 25 1 = 0 := at5 e f rfl
  have b2 : bits w 26 6 = 33 := at6 e f rfl
  have f0 : Sys2Proof.fld w 21 4 = x0 := fld_eq (at4 e f rfl)
  have f1 : srcAt w 13 = x1 := srcAt_eq (at3 e f rfl)
  have f2 : srcAt w 5 = x2 := srcAt_eq (at2 e f rfl)
  have f3 : Sys2Proof.fld w 3 2 = x3 := fld_eq (at1 e f rfl)
  exact of_row hw (by rw [row21 b2]; simp [decode21, b0, b1, f0, f1, f2, f3])
theorem vfcmpUnF32 (x0 : BitVec 4) (x1 : Src) (x2 : Src) (x3 : BitVec 2) : Statement (.vfcmpUnF32 x0 x1 x2 x3) := by
  have f : Fit [(3, 4), (2, x3.toNat), (8, srcCode x2), (8, srcCode x1), (4, x0.toNat), (1, 0), (6, 33)] := ⟨by decide, x3.isLt, srcCode_lt x2, srcCode_lt x1, x0.isLt, Nat.two_pow_pos 1, by decide, trivial⟩
  obtain ⟨w, hw⟩ : ∃ w, w = encode (.vfcmpUnF32 x0 x1 x2 x3) := ⟨_, rfl⟩
  have e := toNat_pack hw f rfl (show 2214592516 + x0.toNat * 2097152 + srcCode x1 * 8192 + srcCode x2 * 32 + x3.toNat * 8 = 4 + 8 * (x3.toNat + 4 * (srcCode x2 + 256 * (srcCode x1 + 256 * (x0.toNat + 16 * (0 + 2 * (33)))))) by omega)
  have b0 : bits w 0 3 = 4 := at0 e f rfl
  have b1 : bits w 25 1 = 0 := at5 e f rfl
  have b2 : bits w 26 6 = 33 := at6 e f rfl
  have f0 : Sys2Proof.fld w 21 4 = x0 := fld_eq (at4 e f rfl)
  have f1 : srcAt w 13 = x1 := srcAt_eq (at3 e f rfl)
  have f2 : srcAt w 5 = x2 := srcAt_eq (at2 e f rfl)
  have f3 : Sys2Proof.fld w 3 2 = x3 := fld_eq (at1 e f rfl)
  exact of_row hw (by rw [row21 b2]; simp [decode21, b0, b1, f0, f1, f2, f3])
theorem vfclassF32 (x0 : BitVec 5) (x1 : Src) (x2 : BitVec 2) : Statement (.vfclassF32 x0 x1 x2) := by
  have f : Fit [(3, 5), (2, x2.toNat), (8, 0), (8, srcCode x1), (5, x0.toNat), (6, 33)] := ⟨by decide, x2.isLt, Nat.two_pow_pos 8, srcCode_lt x1, x0.isLt, by decide, trivial⟩
  obtain ⟨w, hw⟩ : ∃ w, w = encode (.vfclassF32 x0 x1 x2) := ⟨_, rfl⟩
  have e := toNat_pack hw f rfl (show 2214592517 + x0.toNat * 2097152 + srcCode x1 * 8192 + x2.toNat * 8 = 5 + 8 * (x2.toNat + 4 * (0 + 256 * (srcCode x1 + 256 * (x0.toNat + 32 * (33))))) by omega)
  have b0 : bits w 0 3 = 5 := at0 e f rfl
  have b1 : bits w 5 8 = 0 := at2 e f rfl
  have b2 : bits w 26 6 = 33 := at5 e f rfl
  have f0 : Sys2Proof.fld w 21 5 = x0 := fld_eq (at4 e f rfl)
  have f1 : srcAt w 13 = x1 := srcAt_eq (at3 e f rfl)
  have f2 : Sys2Proof.fld w 3 2 = x2 := fld_eq (at1 e f rfl)
  exact of_row hw (by rw [row21 b2]; simp [decode21, b0, b1, f0, f1, f2])
theorem vfaddF16 (x0 : BitVec 5) (x1 : Src) (x2 : Src) (x3 : BitVec 2) : Statement (.vfaddF16 x0 x1 x2 x3) := by
  have f : Fit [(3, 0), (2, x3.toNat), (8, srcCode x2), (8, srcCode x1), (5, x0.toNat), (6, 34)] := ⟨Nat.two_pow_pos 3, x3.isLt, srcCode_lt x2, srcCode_lt x1, x0.isLt, by decide, trivial⟩
  obtain ⟨w, hw⟩ : ∃ w, w = encode (.vfaddF16 x0 x1 x2 x3) := ⟨_, rfl⟩
  have e := toNat_pack hw f rfl (show 2281701376 + x0.toNat * 2097152 + srcCode x1 * 8192 + srcCode x2 * 32 + x3.toNat * 8 = 0 + 8 * (x3.toNat + 4 * (srcCode x2 + 256 * (srcCode x1 + 256 * (x0.toNat + 32 * (34))))) by omega)
  have b0 : bits w 0 3 = 0 := at0 e f rfl
  have b1 : bits w 26 6 = 34 := at5 e f rfl
  have f0 : Sys2Proof.fld w 21 5 = x0 := fld_eq (at4 e f rfl)
  have f1 : srcAt w 13 = x1 := srcAt_eq (at3 e f rfl)
  have f2 : srcAt w 5 = x2 := srcAt_eq (at2 e f rfl)
  have f3 : Sys2Proof.fld w 3 2 = x3 := fld_eq (at1 e f rfl)
  exact of_row hw (by rw [row22 b1]; simp [decode22, b0, f0, f1, f2, f3])
theorem vfsubF16 (x0 : BitVec 5) (x1 : Src) (x2 : Src) (x3 : BitVec 2) : Statement (.vfsubF16 x0 x1 x2 x3) := by
  have f : Fit [(3, 1), (2, x3.toNat), (8, srcCode x2), (8, srcCode x1), (5, x0.toNat), (6, 34)] := ⟨by decide, x3.isLt, srcCode_lt x2, srcCode_lt x1, x0.isLt, by decide, trivial⟩
  obtain ⟨w, hw⟩ : ∃ w, w = encode (.vfsubF16 x0 x1 x2 x3) := ⟨_, rfl⟩
  have e := toNat_pack hw f rfl (show 2281701377 + x0.toNat * 2097152 + srcCode x1 * 8192 + srcCode x2 * 32 + x3.toNat * 8 = 1 + 8 * (x3.toNat + 4 * (srcCode x2 + 256 * (srcCode x1 + 256 * (x0.toNat + 32 * (34))))) by omega)
  have b0 : bits w 0 3 = 1 := at0 e f rfl
  have b1 : bits w 26 6 = 34 := at5 e f rfl
  have f0 : Sys2Proof.fld w 21 5 = x0 := fld_eq (at4 e f rfl)
  have f1 : srcAt w 13 = x1 := srcAt_eq (at3 e f rfl)
  have f2 : srcAt w 5 = x2 := srcAt_eq (at2 e f rfl)
  have f3 : Sys2Proof.fld w 3 2 = x3 := fld_eq (at1 e f rfl)
  exact of_row hw (by rw [row22 b1]; simp [decode22, b0, f0, f1, f2, f3])
theorem vfmulF16 (x0 : BitVec 5) (x1 : Src) (x2 : Src) (x3 : BitVec 2) : Statement (.vfmulF16 x0 x1 x2 x3) := by
  have f : Fit [(3, 2), (2, x3.toNat), (8, srcCode x2), (8, srcCode x1), (5, x0.toNat), (6, 34)] := ⟨by decide, x3.isLt, srcCode_lt x2, srcCode_lt x1, x0.isLt, by decide, trivial⟩
  obtain ⟨w, hw⟩ : ∃ w, w = encode (.vfmulF16 x0 x1 x2 x3) := ⟨_, rfl⟩
  have e := toNat_pack hw f rfl (show 2281701378 + x0.toNat * 2097152 + srcCode x1 * 8192 + srcCode x2 * 32 + x3.toNat * 8 = 2 + 8 * (x3.toNat + 4 * (srcCode x2 + 256 * (srcCode x1 + 256 * (x0.toNat + 32 * (34))))) by omega)
  have b0 : bits w 0 3 = 2 := at0 e f rfl
  have b1 : bits w 26 6 = 34 := at5 e f rfl
  have f0 : Sys2Proof.fld w 21 5 = x0 := fld_eq (at4 e f rfl)
  have f1 : srcAt w 13 = x1 := srcAt_eq (at3 e f rfl)
  have f2 : srcAt w 5 = x2 := srcAt_eq (at2 e f rfl)
  have f3 : Sys2Proof.fld w 3 2 = x3 := fld_eq (at1 e f rfl)
  exact of_row hw (by rw [row22 b1]; simp [decode22, b0, f0, f1, f2, f3])
theorem vfmaF16 (x0 : BitVec 5) (x1 : Src) (x2 : Src) (x3 : BitVec 2) : Statement (.vfmaF16 x0 x1 x2 x3) := by
  have f : Fit [(3, 3), (2, x3.toNat), (8, srcCode x2), (8, srcCode x1), (5, x0.toNat), (6, 34)] := ⟨by decide, x3.isLt, srcCode_lt x2, srcCode_lt x1, x0.isLt, by decide, trivial⟩
  obtain ⟨w, hw⟩ : ∃ w, w = encode (.vfmaF16 x0 x1 x2 x3) := ⟨_, rfl⟩
  have e := toNat_pack hw f rfl (show 2281701379 + x0.toNat * 2097152 + srcCode x1 * 8192 + srcCode x2 * 32 + x3.toNat * 8 = 3 + 8 * (x3.toNat + 4 * (srcCode x2 + 256 * (srcCode x1 + 256 * (x0.toNat + 32 * (34))))) by omega)
  have b0 : bits w 0 3 = 3 := at0 e f rfl
  have b1 : bits w 26 6 = 34 := at5 e f rfl
  have f0 : Sys2Proof.fld w 21 5 = x0 := fld_eq (at4 e f rfl)
  have f1 : srcAt w 13 = x1 := srcAt_eq (at3 e f rfl)
  have f2 : srcAt w 5 = x2 := srcAt_eq (at2 e f rfl)
  have f3 : Sys2Proof.fld w 3 2 = x3 := fld_eq (at1 e f rfl)
  exact of_row hw (by rw [row22 b1]; simp [decode22, b0, f0, f1, f2, f3])
theorem vfminF16 (x0 : BitVec 5) (x1 : Src) (x2 : Src) (x3 : BitVec 2) : Statement (.vfminF16 x0 x1 x2 x3) := by
  have f : Fit [(3, 4), (2, x3.toNat), (8, srcCode x2), (8, srcCode x1), (5, x0.toNat), (6, 34)] := ⟨by decide, x3.isLt, srcCode_lt x2, srcCode_lt x1, x0.isLt, by decide, trivial⟩
  obtain ⟨w, hw⟩ : ∃ w, w = encode (.vfminF16 x0 x1 x2 x3) := ⟨_, rfl⟩
  have e := toNat_pack hw f rfl (show 2281701380 + x0.toNat * 2097152 + srcCode x1 * 8192 + srcCode x2 * 32 + x3.toNat * 8 = 4 + 8 * (x3.toNat + 4 * (srcCode x2 + 256 * (srcCode x1 + 256 * (x0.toNat + 32 * (34))))) by omega)
  have b0 : bits w 0 3 = 4 := at0 e f rfl
  have b1 : bits w 26 6 = 34 := at5 e f rfl
  have f0 : Sys2Proof.fld w 21 5 = x0 := fld_eq (at4 e f rfl)
  have f1 : srcAt w 13 = x1 := srcAt_eq (at3 e f rfl)
  have f2 : srcAt w 5 = x2 := srcAt_eq (at2 e f rfl)
  have f3 : Sys2Proof.fld w 3 2 = x3 := fld_eq (at1 e f rfl)
  exact of_row hw (by rw [row22 b1]; simp [decode22, b0, f0, f1, f2, f3])
theorem vfmaxF16 (x0 : BitVec 5) (x1 : Src) (x2 : Src) (x3 : BitVec 2) : Statement (.vfmaxF16 x0 x1 x2 x3) := by
  have f : Fit [(3, 5), (2, x3.toNat), (8, srcCode x2), (8, srcCode x1), (5, x0.toNat), (6, 34)] := ⟨by decide, x3.isLt, srcCode_lt x2, srcCode_lt x1, x0.isLt, by decide, trivial⟩
  obtain ⟨w, hw⟩ : ∃ w, w = encode (.vfmaxF16 x0 x1 x2 x3) := ⟨_, rfl⟩
  have e := toNat_pack hw f rfl (show 2281701381 + x0.toNat * 2097152 + srcCode x1 * 8192 + srcCode x2 * 32 + x3.toNat * 8 = 5 + 8 * (x3.toNat + 4 * (srcCode x2 + 256 * (srcCode x1 + 256 * (x0.toNat + 32 * (34))))) by omega)
  have b0 : bits w 0 3 = 5 := at0 e f rfl
  have b1 : bits w 26 6 = 34 := at5 e f rfl
  have f0 : Sys2Proof.fld w 21 5 = x0 := fld_eq (at4 e f rfl)
  have f1 : srcAt w 13 = x1 := srcAt_eq (at3 e f rfl)
  have f2 : srcAt w 5 = x2 := srcAt_eq (at2 e f rfl)
  have f3 : Sys2Proof.fld w 3 2 = x3 := fld_eq (at1 e f rfl)
  exact of_row hw (by rw [row22 b1]; simp [decode22, b0, f0, f1, f2, f3])
theorem vfabsF16 (x0 : BitVec 5) (x1 : Src) (x2 : BitVec 2) : Statement (.vfabsF16 x0 x1 x2) := by
  have f : Fit [(3, 6), (2, x2.toNat), (8, 0), (8, srcCode x1), (5, x0.toNat), (6, 34)] := ⟨by decide, x2.isLt, Nat.two_pow_pos 8, srcCode_lt x1, x0.isLt, by decide, trivial⟩
  obtain ⟨w, hw⟩ : ∃ w, w = encode (.vfabsF16 x0 x1 x2) := ⟨_, rfl⟩
  have e := toNat_pack hw f rfl (show 2281701382 + x0.toNat * 2097152 + srcCode x1 * 8192 + x2.toNat * 8 = 6 + 8 * (x2.toNat + 4 * (0 + 256 * (srcCode x1 + 256 * (x0.toNat + 32 * (34))))) by omega)
  have b0 : bits w 0 3 = 6 := at0 e f rfl
  have b1 : bits w 5 8 = 0 := at2 e f rfl
  have b2 : bits w 26 6 = 34 := at5 e f rfl
  have f0 : Sys2Proof.fld w 21 5 = x0 := fld_eq (at4 e f rfl)
  have f1 : srcAt w 13 = x1 := srcAt_eq (at3 e f rfl)
  have f2 : Sys2Proof.fld w 3 2 = x2 := fld_eq (at1 e f rfl)
  exact of_row hw (by rw [row22 b2]; simp [decode22, b0, b1, f0, f1, f2])
theorem vfnegF16 (x0 : BitVec 5) (x1 : Src) (x2 : BitVec 2) : Statement (.vfnegF16 x0 x1 x2) := by
  have f : Fit [(3, 7), (2, x2.toNat), (8, 0), (8, srcCode x1), (5, x0.toNat), (6, 34)] := ⟨by decide, x2.isLt, Nat.two_pow_pos 8, srcCode_lt x1, x0.isLt, by decide, trivial⟩
  obtain ⟨w, hw⟩ : ∃ w, w = encode (.vfnegF16 x0 x1 x2) := ⟨_, rfl⟩
  have e := toNat_pack hw f rfl (show 2281701383 + x0.toNat * 2097152 + srcCode x1 * 8192 + x2.toNat * 8 = 7 + 8 * (x2.toNat + 4 * (0 + 256 * (srcCode x1 + 256 * (x0.toNat + 32 * (34))))) by omega)
  have b0 : bits w 0 3 = 7 := at0 e f rfl
  have b1 : bits w 5 8 = 0 := at2 e f rfl
  have b2 : bits w 26 6 = 34 := at5 e f rfl
  have f0 : Sys2Proof.fld w 21 5 = x0 := fld_eq (at4 e f rfl)
  have f1 : srcAt w 13 = x1 := srcAt_eq (at3 e f rfl)
  have f2 : Sys2Proof.fld w 3 2 = x2 := fld_eq (at1 e f rfl)
  exact of_row hw (by rw [row22 b2]; simp [decode22, b0, b1, f0, f1, f2])
theorem vfcmpEqF16 (x0 : BitVec 4) (x1 : Src) (x2 : Src) (x3 : BitVec 2) : Statement (.vfcmpEqF16 x0 x1 x2 x3) := by
  have f : Fit [(3, 0), (2, x3.toNat), (8, srcCode x2), (8, srcCode x1), (4, x0.toNat), (1, 0), (6, 35)] := ⟨Nat.two_pow_pos 3, x3.isLt, srcCode_lt x2, srcCode_lt x1, x0.isLt, Nat.two_pow_pos 1, by decide, trivial⟩
  obtain ⟨w, hw⟩ : ∃ w, w = encode (.vfcmpEqF16 x0 x1 x2 x3) := ⟨_, rfl⟩
  have e := toNat_pack hw f rfl (show 2348810240 + x0.toNat * 2097152 + srcCode x1 * 8192 + srcCode x2 * 32 + x3.toNat * 8 = 0 + 8 * (x3.toNat + 4 * (srcCode x2 + 256 * (srcCode x1 + 256 * (x0.toNat + 16 * (0 + 2 * (35)))))) by omega)
  have b0 : bits w 0 3 = 0 := at0 e f rfl
  have b1 : bits w 25 1 = 0 := at5 e f rfl
  have b2 : bits w 26 6 = 35 := at6 e f rfl
  have f0 : Sys2Proof.fld w 21 4 = x0 := fld_eq (at4 e f rfl)
  have f1 : srcAt w 13 = x1 := srcAt_eq (at3 e f rfl)
  have f2 : srcAt w 5 = x2 := srcAt_eq (at2 e f rfl)
  have f3 : Sys2Proof.fld w 3 2 = x3 := fld_eq (at1 e f rfl)
  exact of_row hw (by rw [row23 b2]; simp [decode23, b0, b1, f0, f1, f2, f3])
theorem vfcmpNeF16 (x0 : BitVec 4) (x1 : Src) (x2 : Src) (x3 : BitVec 2) : Statement (.vfcmpNeF16 x0 x1 x2 x3) := by
  have f : Fit [(3, 1), (2, x3.toNat), (8, srcCode x2), (8, srcCode x1), (4, x0.toNat), (1, 0), (6, 35)] := ⟨by decide, x3.isLt, srcCode_lt x2, srcCode_lt x1, x0.isLt, Nat.two_pow_pos 1, by decide, trivial⟩
  obtain ⟨w, hw⟩ : ∃ w, w = encode (.vfcmpNeF16 x0 x1 x2 x3) := ⟨_, rfl⟩
  have e := toNat_pack hw f rfl (show 2348810241 + x0.toNat * 2097152 + srcCode x1 * 8192 + srcCode x2 * 32 + x3.toNat * 8 = 1 + 8 * (x3.toNat + 4 * (srcCode x2 + 256 * (srcCode x1 + 256 * (x0.toNat + 16 * (0 + 2 * (35)))))) by omega)
  have b0 : bits w 0 3 = 1 := at0 e f rfl
  have b1 : bits w 25 1 = 0 := at5 e f rfl
  have b2 : bits w 26 6 = 35 := at6 e f rfl
  have f0 : Sys2Proof.fld w 21 4 = x0 := fld_eq (at4 e f rfl)
  have f1 : srcAt w 13 = x1 := srcAt_eq (at3 e f rfl)
  have f2 : srcAt w 5 = x2 := srcAt_eq (at2 e f rfl)
  have f3 : Sys2Proof.fld w 3 2 = x3 := fld_eq (at1 e f rfl)
  exact of_row hw (by rw [row23 b2]; simp [decode23, b0, b1, f0, f1, f2, f3])
theorem vfcmpLtF16 (x0 : BitVec 4) (x1 : Src) (x2 : Src) (x3 : BitVec 2) : Statement (.vfcmpLtF16 x0 x1 x2 x3) := by
  have f : Fit [(3, 2), (2, x3.toNat), (8, srcCode x2), (8, srcCode x1), (4, x0.toNat), (1, 0), (6, 35)] := ⟨by decide, x3.isLt, srcCode_lt x2, srcCode_lt x1, x0.isLt, Nat.two_pow_pos 1, by decide, trivial⟩
  obtain ⟨w, hw⟩ : ∃ w, w = encode (.vfcmpLtF16 x0 x1 x2 x3) := ⟨_, rfl⟩
  have e := toNat_pack hw f rfl (show 2348810242 + x0.toNat * 2097152 + srcCode x1 * 8192 + srcCode x2 * 32 + x3.toNat * 8 = 2 + 8 * (x3.toNat + 4 * (srcCode x2 + 256 * (srcCode x1 + 256 * (x0.toNat + 16 * (0 + 2 * (35)))))) by omega)
  have b0 : bits w 0 3 = 2 := at0 e f rfl
  have b1 : bits w 25 1 = 0 := at5 e f rfl
  have b2 : bits w 26 6 = 35 := at6 e f rfl
  have f0 : Sys2Proof.fld w 21 4 = x0 := fld_eq (at4 e f rfl)
  have f1 : srcAt w 13 = x1 := srcAt_eq (at3 e f rfl)
  have f2 : srcAt w 5 = x2 := srcAt_eq (at2 e f rfl)
  have f3 : Sys2Proof.fld w 3 2 = x3 := fld_eq (at1 e f rfl)
  exact of_row hw (by rw [row23 b2]; simp [decode23, b0, b1, f0, f1, f2, f3])
theorem vfcmpLeF16 (x0 : BitVec 4) (x1 : Src) (x2 : Src) (x3 : BitVec 2) : Statement (.vfcmpLeF16 x0 x1 x2 x3) := by
  have f : Fit [(3, 3), (2, x3.toNat), (8, srcCode x2), (8, srcCode x1), (4, x0.toNat), (1, 0), (6, 35)] := ⟨by decide, x3.isLt, srcCode_lt x2, srcCode_lt x1, x0.isLt, Nat.two_pow_pos 1, by decide, trivial⟩
  obtain ⟨w, hw⟩ : ∃ w, w = encode (.vfcmpLeF16 x0 x1 x2 x3) := ⟨_, rfl⟩
  have e := toNat_pack hw f rfl (show 2348810243 + x0.toNat * 2097152 + srcCode x1 * 8192 + srcCode x2 * 32 + x3.toNat * 8 = 3 + 8 * (x3.toNat + 4 * (srcCode x2 + 256 * (srcCode x1 + 256 * (x0.toNat + 16 * (0 + 2 * (35)))))) by omega)
  have b0 : bits w 0 3 = 3 := at0 e f rfl
  have b1 : bits w 25 1 = 0 := at5 e f rfl
  have b2 : bits w 26 6 = 35 := at6 e f rfl
  have f0 : Sys2Proof.fld w 21 4 = x0 := fld_eq (at4 e f rfl)
  have f1 : srcAt w 13 = x1 := srcAt_eq (at3 e f rfl)
  have f2 : srcAt w 5 = x2 := srcAt_eq (at2 e f rfl)
  have f3 : Sys2Proof.fld w 3 2 = x3 := fld_eq (at1 e f rfl)
  exact of_row hw (by rw [row23 b2]; simp [decode23, b0, b1, f0, f1, f2, f3])
theorem vfcmpUnF16 (x0 : BitVec 4) (x1 : Src) (x2 : Src) (x3 : BitVec 2) : Statement (.vfcmpUnF16 x0 x1 x2 x3) := by
  have f : Fit [(3, 4), (2, x3.toNat), (8, srcCode x2), (8, srcCode x1), (4, x0.toNat), (1, 0), (6, 35)] := ⟨by decide, x3.isLt, srcCode_lt x2, srcCode_lt x1, x0.isLt, Nat.two_pow_pos 1, by decide, trivial⟩
  obtain ⟨w, hw⟩ : ∃ w, w = encode (.vfcmpUnF16 x0 x1 x2 x3) := ⟨_, rfl⟩
  have e := toNat_pack hw f rfl (show 2348810244 + x0.toNat * 2097152 + srcCode x1 * 8192 + srcCode x2 * 32 + x3.toNat * 8 = 4 + 8 * (x3.toNat + 4 * (srcCode x2 + 256 * (srcCode x1 + 256 * (x0.toNat + 16 * (0 + 2 * (35)))))) by omega)
  have b0 : bits w 0 3 = 4 := at0 e f rfl
  have b1 : bits w 25 1 = 0 := at5 e f rfl
  have b2 : bits w 26 6 = 35 := at6 e f rfl
  have f0 : Sys2Proof.fld w 21 4 = x0 := fld_eq (at4 e f rfl)
  have f1 : srcAt w 13 = x1 := srcAt_eq (at3 e f rfl)
  have f2 : srcAt w 5 = x2 := srcAt_eq (at2 e f rfl)
  have f3 : Sys2Proof.fld w 3 2 = x3 := fld_eq (at1 e f rfl)
  exact of_row hw (by rw [row23 b2]; simp [decode23, b0, b1, f0, f1, f2, f3])
theorem vfclassF16 (x0 : BitVec 5) (x1 : Src) (x2 : BitVec 2) : Statement (.vfclassF16 x0 x1 x2) := by
  have f : Fit [(3, 5), (2, x2.toNat), (8, 0), (8, srcCode x1), (5, x0.toNat), (6, 35)] := ⟨by decide, x2.isLt, Nat.two_pow_pos 8, srcCode_lt x1, x0.isLt, by decide, trivial⟩
  obtain ⟨w, hw⟩ : ∃ w, w = encode (.vfclassF16 x0 x1 x2) := ⟨_, rfl⟩
  have e := toNat_pack hw f rfl (show 2348810245 + x0.toNat * 2097152 + srcCode x1 * 8192 + x2.toNat * 8 = 5 + 8 * (x2.toNat + 4 * (0 + 256 * (srcCode x1 + 256 * (x0.toNat + 32 * (35))))) by omega)
  have b0 : bits w 0 3 = 5 := at0 e f rfl
  have b1 : bits w 5 8 = 0 := at2 e f rfl
  have b2 : bits w 26 6 = 35 := at5 e f rfl
  have f0 : Sys2Proof.fld w 21 5 = x0 := fld_eq (at4 e f rfl)
  have f1 : srcAt w 13 = x1 := srcAt_eq (at3 e f rfl)
  have f2 : Sys2Proof.fld w 3 2 = x2 := fld_eq (at1 e f rfl)
  exact of_row hw (by rw [row23 b2]; simp [decode23, b0, b1, f0, f1, f2])
theorem vfdot2F16 (x0 : BitVec 5) (x1 : Src) (x2 : Src) (x3 : BitVec 2) : Statement (.vfdot2F16 x0 x1 x2 x3) := by
  have f : Fit [(3, 6), (2, x3.toNat), (8, srcCode x2), (8, srcCode x1), (5, x0.toNat), (6, 35)] := ⟨by decide, x3.isLt, srcCode_lt x2, srcCode_lt x1, x0.isLt, by decide, trivial⟩
  obtain ⟨w, hw⟩ : ∃ w, w = encode (.vfdot2F16 x0 x1 x2 x3) := ⟨_, rfl⟩
  have e := toNat_pack hw f rfl (show 2348810246 + x0.toNat * 2097152 + srcCode x1 * 8192 + srcCode x2 * 32 + x3.toNat * 8 = 6 + 8 * (x3.toNat + 4 * (srcCode x2 + 256 * (srcCode x1 + 256 * (x0.toNat + 32 * (35))))) by omega)
  have b0 : bits w 0 3 = 6 := at0 e f rfl
  have b1 : bits w 26 6 = 35 := at5 e f rfl
  have f0 : Sys2Proof.fld w 21 5 = x0 := fld_eq (at4 e f rfl)
  have f1 : srcAt w 13 = x1 := srcAt_eq (at3 e f rfl)
  have f2 : srcAt w 5 = x2 := srcAt_eq (at2 e f rfl)
  have f3 : Sys2Proof.fld w 3 2 = x3 := fld_eq (at1 e f rfl)
  exact of_row hw (by rw [row23 b1]; simp [decode23, b0, f0, f1, f2, f3])
theorem vfaddBf16 (x0 : BitVec 5) (x1 : Src) (x2 : Src) (x3 : BitVec 2) : Statement (.vfaddBf16 x0 x1 x2 x3) := by
  have f : Fit [(3, 0), (2, x3.toNat), (8, srcCode x2), (8, srcCode x1), (5, x0.toNat), (6, 36)] := ⟨Nat.two_pow_pos 3, x3.isLt, srcCode_lt x2, srcCode_lt x1, x0.isLt, by decide, trivial⟩
  obtain ⟨w, hw⟩ : ∃ w, w = encode (.vfaddBf16 x0 x1 x2 x3) := ⟨_, rfl⟩
  have e := toNat_pack hw f rfl (show 2415919104 + x0.toNat * 2097152 + srcCode x1 * 8192 + srcCode x2 * 32 + x3.toNat * 8 = 0 + 8 * (x3.toNat + 4 * (srcCode x2 + 256 * (srcCode x1 + 256 * (x0.toNat + 32 * (36))))) by omega)
  have b0 : bits w 0 3 = 0 := at0 e f rfl
  have b1 : bits w 26 6 = 36 := at5 e f rfl
  have f0 : Sys2Proof.fld w 21 5 = x0 := fld_eq (at4 e f rfl)
  have f1 : srcAt w 13 = x1 := srcAt_eq (at3 e f rfl)
  have f2 : srcAt w 5 = x2 := srcAt_eq (at2 e f rfl)
  have f3 : Sys2Proof.fld w 3 2 = x3 := fld_eq (at1 e f rfl)
  exact of_row hw (by rw [row24 b1]; simp [decode24, b0, f0, f1, f2, f3])
theorem vfsubBf16 (x0 : BitVec 5) (x1 : Src) (x2 : Src) (x3 : BitVec 2) : Statement (.vfsubBf16 x0 x1 x2 x3) := by
  have f : Fit [(3, 1), (2, x3.toNat), (8, srcCode x2), (8, srcCode x1), (5, x0.toNat), (6, 36)] := ⟨by decide, x3.isLt, srcCode_lt x2, srcCode_lt x1, x0.isLt, by decide, trivial⟩
  obtain ⟨w, hw⟩ : ∃ w, w = encode (.vfsubBf16 x0 x1 x2 x3) := ⟨_, rfl⟩
  have e := toNat_pack hw f rfl (show 2415919105 + x0.toNat * 2097152 + srcCode x1 * 8192 + srcCode x2 * 32 + x3.toNat * 8 = 1 + 8 * (x3.toNat + 4 * (srcCode x2 + 256 * (srcCode x1 + 256 * (x0.toNat + 32 * (36))))) by omega)
  have b0 : bits w 0 3 = 1 := at0 e f rfl
  have b1 : bits w 26 6 = 36 := at5 e f rfl
  have f0 : Sys2Proof.fld w 21 5 = x0 := fld_eq (at4 e f rfl)
  have f1 : srcAt w 13 = x1 := srcAt_eq (at3 e f rfl)
  have f2 : srcAt w 5 = x2 := srcAt_eq (at2 e f rfl)
  have f3 : Sys2Proof.fld w 3 2 = x3 := fld_eq (at1 e f rfl)
  exact of_row hw (by rw [row24 b1]; simp [decode24, b0, f0, f1, f2, f3])
theorem vfmulBf16 (x0 : BitVec 5) (x1 : Src) (x2 : Src) (x3 : BitVec 2) : Statement (.vfmulBf16 x0 x1 x2 x3) := by
  have f : Fit [(3, 2), (2, x3.toNat), (8, srcCode x2), (8, srcCode x1), (5, x0.toNat), (6, 36)] := ⟨by decide, x3.isLt, srcCode_lt x2, srcCode_lt x1, x0.isLt, by decide, trivial⟩
  obtain ⟨w, hw⟩ : ∃ w, w = encode (.vfmulBf16 x0 x1 x2 x3) := ⟨_, rfl⟩
  have e := toNat_pack hw f rfl (show 2415919106 + x0.toNat * 2097152 + srcCode x1 * 8192 + srcCode x2 * 32 + x3.toNat * 8 = 2 + 8 * (x3.toNat + 4 * (srcCode x2 + 256 * (srcCode x1 + 256 * (x0.toNat + 32 * (36))))) by omega)
  have b0 : bits w 0 3 = 2 := at0 e f rfl
  have b1 : bits w 26 6 = 36 := at5 e f rfl
  have f0 : Sys2Proof.fld w 21 5 = x0 := fld_eq (at4 e f rfl)
  have f1 : srcAt w 13 = x1 := srcAt_eq (at3 e f rfl)
  have f2 : srcAt w 5 = x2 := srcAt_eq (at2 e f rfl)
  have f3 : Sys2Proof.fld w 3 2 = x3 := fld_eq (at1 e f rfl)
  exact of_row hw (by rw [row24 b1]; simp [decode24, b0, f0, f1, f2, f3])
theorem vfmaBf16 (x0 : BitVec 5) (x1 : Src) (x2 : Src) (x3 : BitVec 2) : Statement (.vfmaBf16 x0 x1 x2 x3) := by
  have f : Fit [(3, 3), (2, x3.toNat), (8, srcCode x2), (8, srcCode x1), (5, x0.toNat), (6, 36)] := ⟨by decide, x3.isLt, srcCode_lt x2, srcCode_lt x1, x0.isLt, by decide, trivial⟩
  obtain ⟨w, hw⟩ : ∃ w, w = encode (.vfmaBf16 x0 x1 x2 x3) := ⟨_, rfl⟩
  have e := toNat_pack hw f rfl (show 2415919107 + x0.toNat * 2097152 + srcCode x1 * 8192 + srcCode x2 * 32 + x3.toNat * 8 = 3 + 8 * (x3.toNat + 4 * (srcCode x2 + 256 * (srcCode x1 + 256 * (x0.toNat + 32 * (36))))) by omega)
  have b0 : bits w 0 3 = 3 := at0 e f rfl
  have b1 : bits w 26 6 = 36 := at5 e f rfl
  have f0 : Sys2Proof.fld w 21 5 = x0 := fld_eq (at4 e f rfl)
  have f1 : srcAt w 13 = x1 := srcAt_eq (at3 e f rfl)
  have f2 : srcAt w 5 = x2 := srcAt_eq (at2 e f rfl)
  have f3 : Sys2Proof.fld w 3 2 = x3 := fld_eq (at1 e f rfl)
  exact of_row hw (by rw [row24 b1]; simp [decode24, b0, f0, f1, f2, f3])
theorem vfminBf16 (x0 : BitVec 5) (x1 : Src) (x2 : Src) (x3 : BitVec 2) : Statement (.vfminBf16 x0 x1 x2 x3) := by
  have f : Fit [(3, 4), (2, x3.toNat), (8, srcCode x2), (8, srcCode x1), (5, x0.toNat), (6, 36)] := ⟨by decide, x3.isLt, srcCode_lt x2, srcCode_lt x1, x0.isLt, by decide, trivial⟩
  obtain ⟨w, hw⟩ : ∃ w, w = encode (.vfminBf16 x0 x1 x2 x3) := ⟨_, rfl⟩
  have e := toNat_pack hw f rfl (show 2415919108 + x0.toNat * 2097152 + srcCode x1 * 8192 + srcCode x2 * 32 + x3.toNat * 8 = 4 + 8 * (x3.toNat + 4 * (srcCode x2 + 256 * (srcCode x1 + 256 * (x0.toNat + 32 * (36))))) by omega)
  have b0 : bits w 0 3 = 4 := at0 e f rfl
  have b1 : bits w 26 6 = 36 := at5 e f rfl
  have f0 : Sys2Proof.fld w 21 5 = x0 := fld_eq (at4 e f rfl)
  have f1 : srcAt w 13 = x1 := srcAt_eq (at3 e f rfl)
  have f2 : srcAt w 5 = x2 := srcAt_eq (at2 e f rfl)
  have f3 : Sys2Proof.fld w 3 2 = x3 := fld_eq (at1 e f rfl)
  exact of_row hw (by rw [row24 b1]; simp [decode24, b0, f0, f1, f2, f3])
theorem vfmaxBf16 (x0 : BitVec 5) (x1 : Src) (x2 : Src) (x3 : BitVec 2) : Statement (.vfmaxBf16 x0 x1 x2 x3) := by
  have f : Fit [(3, 5), (2, x3.toNat), (8, srcCode x2), (8, srcCode x1), (5, x0.toNat), (6, 36)] := ⟨by decide, x3.isLt, srcCode_lt x2, srcCode_lt x1, x0.isLt, by decide, trivial⟩
  obtain ⟨w, hw⟩ : ∃ w, w = encode (.vfmaxBf16 x0 x1 x2 x3) := ⟨_, rfl⟩
  have e := toNat_pack hw f rfl (show 2415919109 + x0.toNat * 2097152 + srcCode x1 * 8192 + srcCode x2 * 32 + x3.toNat * 8 = 5 + 8 * (x3.toNat + 4 * (srcCode x2 + 256 * (srcCode x1 + 256 * (x0.toNat + 32 * (36))))) by omega)
  have b0 : bits w 0 3 = 5 := at0 e f rfl
  have b1 : bits w 26 6 = 36 := at5 e f rfl
  have f0 : Sys2Proof.fld w 21 5 = x0 := fld_eq (at4 e f rfl)
  have f1 : srcAt w 13 = x1 := srcAt_eq (at3 e f rfl)
  have f2 : srcAt w 5 = x2 := srcAt_eq (at2 e f rfl)
  have f3 : Sys2Proof.fld w 3 2 = x3 := fld_eq (at1 e f rfl)
  exact of_row hw (by rw [row24 b1]; simp [decode24, b0, f0, f1, f2, f3])
theorem vfabsBf16 (x0 : BitVec 5) (x1 : Src) (x2 : BitVec 2) : Statement (.vfabsBf16 x0 x1 x2) := by
  have f : Fit [(3, 6), (2, x2.toNat), (8, 0), (8, srcCode x1), (5, x0.toNat), (6, 36)] := ⟨by decide, x2.isLt, Nat.two_pow_pos 8, srcCode_lt x1, x0.isLt, by decide, trivial⟩
  obtain ⟨w, hw⟩ : ∃ w, w = encode (.vfabsBf16 x0 x1 x2) := ⟨_, rfl⟩
  have e := toNat_pack hw f rfl (show 2415919110 + x0.toNat * 2097152 + srcCode x1 * 8192 + x2.toNat * 8 = 6 + 8 * (x2.toNat + 4 * (0 + 256 * (srcCode x1 + 256 * (x0.toNat + 32 * (36))))) by omega)
  have b0 : bits w 0 3 = 6 := at0 e f rfl
  have b1 : bits w 5 8 = 0 := at2 e f rfl
  have b2 : bits w 26 6 = 36 := at5 e f rfl
  have f0 : Sys2Proof.fld w 21 5 = x0 := fld_eq (at4 e f rfl)
  have f1 : srcAt w 13 = x1 := srcAt_eq (at3 e f rfl)
  have f2 : Sys2Proof.fld w 3 2 = x2 := fld_eq (at1 e f rfl)
  exact of_row hw (by rw [row24 b2]; simp [decode24, b0, b1, f0, f1, f2])
theorem vfnegBf16 (x0 : BitVec 5) (x1 : Src) (x2 : BitVec 2) : Statement (.vfnegBf16 x0 x1 x2) := by
  have f : Fit [(3, 7), (2, x2.toNat), (8, 0), (8, srcCode x1), (5, x0.toNat), (6, 36)] := ⟨by decide, x2.isLt, Nat.two_pow_pos 8, srcCode_lt x1, x0.isLt, by decide, trivial⟩
  obtain ⟨w, hw⟩ : ∃ w, w = encode (.vfnegBf16 x0 x1 x2) := ⟨_, rfl⟩
  have e := toNat_pack hw f rfl (show 2415919111 + x0.toNat * 2097152 + srcCode x1 * 8192 + x2.toNat * 8 = 7 + 8 * (x2.toNat + 4 * (0 + 256 * (srcCode x1 + 256 * (x0.toNat + 32 * (36))))) by omega)
  have b0 : bits w 0 3 = 7 := at0 e f rfl
  have b1 : bits w 5 8 = 0 := at2 e f rfl
  have b2 : bits w 26 6 = 36 := at5 e f rfl
  have f0 : Sys2Proof.fld w 21 5 = x0 := fld_eq (at4 e f rfl)
  have f1 : srcAt w 13 = x1 := srcAt_eq (at3 e f rfl)
  have f2 : Sys2Proof.fld w 3 2 = x2 := fld_eq (at1 e f rfl)
  exact of_row hw (by rw [row24 b2]; simp [decode24, b0, b1, f0, f1, f2])
theorem vfcmpEqBf16 (x0 : BitVec 4) (x1 : Src) (x2 : Src) (x3 : BitVec 2) : Statement (.vfcmpEqBf16 x0 x1 x2 x3) := by
  have f : Fit [(3, 0), (2, x3.toNat), (8, srcCode x2), (8, srcCode x1), (4, x0.toNat), (1, 0), (6, 37)] := ⟨Nat.two_pow_pos 3, x3.isLt, srcCode_lt x2, srcCode_lt x1, x0.isLt, Nat.two_pow_pos 1, by decide, trivial⟩
  obtain ⟨w, hw⟩ : ∃ w, w = encode (.vfcmpEqBf16 x0 x1 x2 x3) := ⟨_, rfl⟩
  have e := toNat_pack hw f rfl (show 2483027968 + x0.toNat * 2097152 + srcCode x1 * 8192 + srcCode x2 * 32 + x3.toNat * 8 = 0 + 8 * (x3.toNat + 4 * (srcCode x2 + 256 * (srcCode x1 + 256 * (x0.toNat + 16 * (0 + 2 * (37)))))) by omega)
  have b0 : bits w 0 3 = 0 := at0 e f rfl
  have b1 : bits w 25 1 = 0 := at5 e f rfl
  have b2 : bits w 26 6 = 37 := at6 e f rfl
  have f0 : Sys2Proof.fld w 21 4 = x0 := fld_eq (at4 e f rfl)
  have f1 : srcAt w 13 = x1 := srcAt_eq (at3 e f rfl)
  have f2 : srcAt w 5 = x2 := srcAt_eq (at2 e f rfl)
  have f3 : Sys2Proof.fld w 3 2 = x3 := fld_eq (at1 e f rfl)
  exact of_row hw (by rw [row25 b2]; simp [decode25, b0, b1, f0, f1, f2, f3])
theorem vfcmpNeBf16 (x0 : BitVec 4) (x1 : Src) (x2 : Src) (x3 : BitVec 2) : Statement (.vfcmpNeBf16 x0 x1 x2 x3) := by
  have f : Fit [(3, 1), (2, x3.toNat), (8, srcCode x2), (8, srcCode x1), (4, x0.toNat), (1, 0), (6, 37)] := ⟨by decide, x3.isLt, srcCode_lt x2, srcCode_lt x1, x0.isLt, Nat.two_pow_pos 1, by decide, trivial⟩
  obtain ⟨w, hw⟩ : ∃ w, w = encode (.vfcmpNeBf16 x0 x1 x2 x3) := ⟨_, rfl⟩
  have e := toNat_pack hw f rfl (show 2483027969 + x0.toNat * 2097152 + srcCode x1 * 8192 + srcCode x2 * 32 + x3.toNat * 8 = 1 + 8 * (x3.toNat + 4 * (srcCode x2 + 256 * (srcCode x1 + 256 * (x0.toNat + 16 * (0 + 2 * (37)))))) by omega)
  have b0 : bits w 0 3 = 1 := at0 e f rfl
  have b1 : bits w 25 1 = 0 := at5 e f rfl
  have b2 : bits w 26 6 = 37 := at6 e f rfl
  have f0 : Sys2Proof.fld w 21 4 = x0 := fld_eq (at4 e f rfl)
  have f1 : srcAt w 13 = x1 := srcAt_eq (at3 e f rfl)
  have f2 : srcAt w 5 = x2 := srcAt_eq (at2 e f rfl)
  have f3 : Sys2Proof.fld w 3 2 = x3 := fld_eq (at1 e f rfl)
  exact of_row hw (by rw [row25 b2]; simp [decode25, b0, b1, f0, f1, f2, f3])
theorem vfcmpLtBf16 (x0 : BitVec 4) (x1 : Src) (x2 : Src) (x3 : BitVec 2) : Statement (.vfcmpLtBf16 x0 x1 x2 x3) := by
  have f : Fit [(3, 2), (2, x3.toNat), (8, srcCode x2), (8, srcCode x1), (4, x0.toNat), (1, 0), (6, 37)] := ⟨by decide, x3.isLt, srcCode_lt x2, srcCode_lt x1, x0.isLt, Nat.two_pow_pos 1, by decide, trivial⟩
  obtain ⟨w, hw⟩ : ∃ w, w = encode (.vfcmpLtBf16 x0 x1 x2 x3) := ⟨_, rfl⟩
  have e := toNat_pack hw f rfl (show 2483027970 + x0.toNat * 2097152 + srcCode x1 * 8192 + srcCode x2 * 32 + x3.toNat * 8 = 2 + 8 * (x3.toNat + 4 * (srcCode x2 + 256 * (srcCode x1 + 256 * (x0.toNat + 16 * (0 + 2 * (37)))))) by omega)
  have b0 : bits w 0 3 = 2 := at0 e f rfl
  have b1 : bits w 25 1 = 0 := at5 e f rfl
  have b2 : bits w 26 6 = 37 := at6 e f rfl
  have f0 : Sys2Proof.fld w 21 4 = x0 := fld_eq (at4 e f rfl)
  have f1 : srcAt w 13 = x1 := srcAt_eq (at3 e f rfl)
  have f2 : srcAt w 5 = x2 := srcAt_eq (at2 e f rfl)
  have f3 : Sys2Proof.fld w 3 2 = x3 := fld_eq (at1 e f rfl)
  exact of_row hw (by rw [row25 b2]; simp [decode25, b0, b1, f0, f1, f2, f3])
theorem vfcmpLeBf16 (x0 : BitVec 4) (x1 : Src) (x2 : Src) (x3 : BitVec 2) : Statement (.vfcmpLeBf16 x0 x1 x2 x3) := by
  have f : Fit [(3, 3), (2, x3.toNat), (8, srcCode x2), (8, srcCode x1), (4, x0.toNat), (1, 0), (6, 37)] := ⟨by decide, x3.isLt, srcCode_lt x2, srcCode_lt x1, x0.isLt, Nat.two_pow_pos 1, by decide, trivial⟩
  obtain ⟨w, hw⟩ : ∃ w, w = encode (.vfcmpLeBf16 x0 x1 x2 x3) := ⟨_, rfl⟩
  have e := toNat_pack hw f rfl (show 2483027971 + x0.toNat * 2097152 + srcCode x1 * 8192 + srcCode x2 * 32 + x3.toNat * 8 = 3 + 8 * (x3.toNat + 4 * (srcCode x2 + 256 * (srcCode x1 + 256 * (x0.toNat + 16 * (0 + 2 * (37)))))) by omega)
  have b0 : bits w 0 3 = 3 := at0 e f rfl
  have b1 : bits w 25 1 = 0 := at5 e f rfl
  have b2 : bits w 26 6 = 37 := at6 e f rfl
  have f0 : Sys2Proof.fld w 21 4 = x0 := fld_eq (at4 e f rfl)
  have f1 : srcAt w 13 = x1 := srcAt_eq (at3 e f rfl)
  have f2 : srcAt w 5 = x2 := srcAt_eq (at2 e f rfl)
  have f3 : Sys2Proof.fld w 3 2 = x3 := fld_eq (at1 e f rfl)
  exact of_row hw (by rw [row25 b2]; simp [decode25, b0, b1, f0, f1, f2, f3])
theorem vfcmpUnBf16 (x0 : BitVec 4) (x1 : Src) (x2 : Src) (x3 : BitVec 2) : Statement (.vfcmpUnBf16 x0 x1 x2 x3) := by
  have f : Fit [(3, 4), (2, x3.toNat), (8, srcCode x2), (8, srcCode x1), (4, x0.toNat), (1, 0), (6, 37)] := ⟨by decide, x3.isLt, srcCode_lt x2, srcCode_lt x1, x0.isLt, Nat.two_pow_pos 1, by decide, trivial⟩
  obtain ⟨w, hw⟩ : ∃ w, w = encode (.vfcmpUnBf16 x0 x1 x2 x3) := ⟨_, rfl⟩
  have e := toNat_pack hw f rfl (show 2483027972 + x0.toNat * 2097152 + srcCode x1 * 8192 + srcCode x2 * 32 + x3.toNat * 8 = 4 + 8 * (x3.toNat + 4 * (srcCode x2 + 256 * (srcCode x1 + 256 * (x0.toNat + 16 * (0 + 2 * (37)))))) by omega)
  have b0 : bits w 0 3 = 4 := at0 e f rfl
  have b1 : bits w 25 1 = 0 := at5 e f rfl
  have b2 : bits w 26 6 = 37 := at6 e f rfl
  have f0 : Sys2Proof.fld w 21 4 = x0 := fld_eq (at4 e f rfl)
  have f1 : srcAt w 13 = x1 := srcAt_eq (at3 e f rfl)
  have f2 : srcAt w 5 = x2 := srcAt_eq (at2 e f rfl)
  have f3 : Sys2Proof.fld w 3 2 = x3 := fld_eq (at1 e f rfl)
  exact of_row hw (by rw [row25 b2]; simp [decode25, b0, b1, f0, f1, f2, f3])
theorem vfclassBf16 (x0 : BitVec 5) (x1 : Src) (x2 : BitVec 2) : Statement (.vfclassBf16 x0 x1 x2) := by
  have f : Fit [(3, 5), (2, x2.toNat), (8, 0), (8, srcCode x1), (5, x0.toNat), (6, 37)] := ⟨by decide, x2.isLt, Nat.two_pow_pos 8, srcCode_lt x1, x0.isLt, by decide, trivial⟩
  obtain ⟨w, hw⟩ : ∃ w, w = encode (.vfclassBf16 x0 x1 x2) := ⟨_, rfl⟩
  have e := toNat_pack hw f rfl (show 2483027973 + x0.toNat * 2097152 + srcCode x1 * 8192 + x2.toNat * 8 = 5 + 8 * (x2.toNat + 4 * (0 + 256 * (srcCode x1 + 256 * (x0.toNat + 32 * (37))))) by omega)
  have b0 : bits w 0 3 = 5 := at0 e f rfl
  have b1 : bits w 5 8 = 0 := at2 e f rfl
  have b2 : bits w 26 6 = 37 := at5 e f rfl
  have f0 : Sys2Proof.fld w 21 5 = x0 := fld_eq (at4 e f rfl)
  have f1 : srcAt w 13 = x1 := srcAt_eq (at3 e f rfl)
  have f2 : Sys2Proof.fld w 3 2 = x2 := fld_eq (at1 e f rfl)
  exact of_row hw (by rw [row25 b2]; simp [decode25, b0, b1, f0, f1, f2])
theorem vfdot2Bf16 (x0 : BitVec 5) (x1 : Src) (x2 : Src) (x3 : BitVec 2) : Statement (.vfdot2Bf16 x0 x1 x2 x3) := by
  have f : Fit [(3, 6), (2, x3.toNat), (8, srcCode x2), (8, srcCode x1), (5, x0.toNat), (6, 37)] := ⟨by decide, x3.isLt, srcCode_lt x2, srcCode_lt x1, x0.isLt, by decide, trivial⟩
  obtain ⟨w, hw⟩ : ∃ w, w = encode (.vfdot2Bf16 x0 x1 x2 x3) := ⟨_, rfl⟩
  have e := toNat_pack hw f rfl (show 2483027974 + x0.toNat * 2097152 + srcCode x1 * 8192 + srcCode x2 * 32 + x3.toNat * 8 = 6 + 8 * (x3.toNat + 4 * (srcCode x2 + 256 * (srcCode x1 + 256 * (x0.toNat + 32 * (37))))) by omega)
  have b0 : bits w 0 3 = 6 := at0 e f rfl
  have b1 : bits w 26 6 = 37 := at5 e f rfl
  have f0 : Sys2Proof.fld w 21 5 = x0 := fld_eq (at4 e f rfl)
  have f1 : srcAt w 13 = x1 := srcAt_eq (at3 e f rfl)
  have f2 : srcAt w 5 = x2 := srcAt_eq (at2 e f rfl)
  have f3 : Sys2Proof.fld w 3 2 = x3 := fld_eq (at1 e f rfl)
  exact of_row hw (by rw [row25 b1]; simp [decode25, b0, f0, f1, f2, f3])
theorem vfaddF64 (x0 : BitVec 4) (x1 : Src) (x2 : Src) (x3 : BitVec 2) : Statement (.vfaddF64 x0 x1 x2 x3) := by
  have f : Fit [(3, 0), (2, x3.toNat), (8, srcCode x2), (8, srcCode x1), (1, 0), (4, x0.toNat), (6, 38)] := ⟨Nat.two_pow_pos 3, x3.isLt, srcCode_lt x2, srcCode_lt x1, Nat.two_pow_pos 1, x0.isLt, by decide, trivial⟩
  obtain ⟨w, hw⟩ : ∃ w, w = encode (.vfaddF64 x0 x1 x2 x3) := ⟨_, rfl⟩
  have e := toNat_pack hw f rfl (show 2550136832 + x0.toNat * 4194304 + srcCode x1 * 8192 + srcCode x2 * 32 + x3.toNat * 8 = 0 + 8 * (x3.toNat + 4 * (srcCode x2 + 256 * (srcCode x1 + 256 * (0 + 2 * (x0.toNat + 16 * (38)))))) by omega)
  have b0 : bits w 0 3 = 0 := at0 e f rfl
  have b1 : bits w 21 1 = 0 := at4 e f rfl
  have b2 : bits w 26 6 = 38 := at6 e f rfl
  have f0 : Sys2Proof.fld w 22 4 = x0 := fld_eq (at5 e f rfl)
  have f1 : srcAt w 13 = x1 := srcAt_eq (at3 e f rfl)
  have f2 : srcAt w 5 = x2 := srcAt_eq (at2 e f rfl)
  have f3 : Sys2Proof.fld w 3 2 = x3 := fld_eq (at1 e f rfl)
  exact of_row hw (by rw [row26 b2]; simp [decode26, b0, b1, f0, f1, f2, f3])
theorem vfsubF64 (x0 : BitVec 4) (x1 : Src) (x2 : Src) (x3 : BitVec 2) : Statement (.vfsubF64 x0 x1 x2 x3) := by
  have f : Fit [(3, 1), (2, x3.toNat), (8, srcCode x2), (8, srcCode x1), (1, 0), (4, x0.toNat), (6, 38)] := ⟨by decide, x3.isLt, srcCode_lt x2, srcCode_lt x1, Nat.two_pow_pos 1, x0.isLt, by decide, trivial⟩
  obtain ⟨w, hw⟩ : ∃ w, w = encode (.vfsubF64 x0 x1 x2 x3) := ⟨_, rfl⟩
  have e := toNat_pack hw f rfl (show 2550136833 + x0.toNat * 4194304 + srcCode x1 * 8192 + srcCode x2 * 32 + x3.toNat * 8 = 1 + 8 * (x3.toNat + 4 * (srcCode x2 + 256 * (srcCode x1 + 256 * (0 + 2 * (x0.toNat + 16 * (38)))))) by omega)
  have b0 : bits w 0 3 = 1 := at0 e f rfl
  have b1 : bits w 21 1 = 0 := at4 e f rfl
  have b2 : bits w 26 6 = 38 := at6 e f rfl
  have f0 : Sys2Proof.fld w 22 4 = x0 := fld_eq (at5 e f rfl)
  have f1 : srcAt w 13 = x1 := srcAt_eq (at3 e f rfl)
  have f2 : srcAt w 5 = x2 := srcAt_eq (at2 e f rfl)
  have f3 : Sys2Proof.fld w 3 2 = x3 := fld_eq (at1 e f rfl)
  exact of_row hw (by rw [row26 b2]; simp [decode26, b0, b1, f0, f1, f2, f3])
theorem vfmulF64 (x0 : BitVec 4) (x1 : Src) (x2 : Src) (x3 : BitVec 2) : Statement (.vfmulF64 x0 x1 x2 x3) := by
  have f : Fit [(3, 2), (2, x3.toNat), (8, srcCode x2), (8, srcCode x1), (1, 0), (4, x0.toNat), (6, 38)] := ⟨by decide, x3.isLt, srcCode_lt x2, srcCode_lt x1, Nat.two_pow_pos 1, x0.isLt, by decide, trivial⟩
  obtain ⟨w, hw⟩ : ∃ w, w = encode (.vfmulF64 x0 x1 x2 x3) := ⟨_, rfl⟩
  have e := toNat_pack hw f rfl (show 2550136834 + x0.toNat * 4194304 + srcCode x1 * 8192 + srcCode x2 * 32 + x3.toNat * 8 = 2 + 8 * (x3.toNat + 4 * (srcCode x2 + 256 * (srcCode x1 + 256 * (0 + 2 * (x0.toNat + 16 * (38)))))) by omega)
  have b0 : bits w 0 3 = 2 := at0 e f rfl
  have b1 : bits w 21 1 = 0 := at4 e f rfl
  have b2 : bits w 26 6 = 38 := at6 e f rfl
  have f0 : Sys2Proof.fld w 22 4 = x0 := fld_eq (at5 e f rfl)
  have f1 : srcAt w 13 = x1 := srcAt_eq (at3 e f rfl)
  have f2 : srcAt w 5 = x2 := srcAt_eq (at2 e f rfl)
  have f3 : Sys2Proof.fld w 3 2 = x3 := fld_eq (at1 e f rfl)
  exact of_row hw (by rw [row26 b2]; simp [decode26, b0, b1, f0, f1, f2, f3])
theorem vfmaF64 (x0 : BitVec 4) (x1 : Src) (x2 : Src) (x3 : BitVec 2) : Statement (.vfmaF64 x0 x1 x2 x3) := by
  have f : Fit [(3, 3), (2, x3.toNat), (8, srcCode x2), (8, srcCode x1), (1, 0), (4, x0.toNat), (6, 38)] := ⟨by decide, x3.isLt, srcCode_lt x2, srcCode_lt x1, Nat.two_pow_pos 1, x0.isLt, by decide, trivial⟩
  obtain ⟨w, hw⟩ : ∃ w, w = encode (.vfmaF64 x0 x1 x2 x3) := ⟨_, rfl⟩
  have e := toNat_pack hw f rfl (show 2550136835 + x0.toNat * 4194304 + srcCode x1 * 8192 + srcCode x2 * 32 + x3.toNat * 8 = 3 + 8 * (x3.toNat + 4 * (srcCode x2 + 256 * (srcCode x1 + 256 * (0 + 2 * (x0.toNat + 16 * (38)))))) by omega)
  have b0 : bits w 0 3 = 3 := at0 e f rfl
  have b1 : bits w 21 1 = 0 := at4 e f rfl
  have b2 : bits w 26 6 = 38 := at6 e f rfl
  have f0 : Sys2Proof.fld w 22 4 = x0 := fld_eq (at5 e f rfl)
  have f1 : srcAt w 13 = x1 := srcAt_eq (at3 e f rfl)
  have f2 : srcAt w 5 = x2 := srcAt_eq (at2 e f rfl)
  have f3 : Sys2Proof.fld w 3 2 = x3 := fld_eq (at1 e f rfl)
  exact of_row hw (by rw [row26 b2]; simp [decode26, b0, b1, f0, f1, f2, f3])
theorem vfminF64 (x0 : BitVec 4) (x1 : Src) (x2 : Src) (x3 : BitVec 2) : Statement (.vfminF64 x0 x1 x2 x3) := by
  have f : Fit [(3, 4), (2, x3.toNat), (8, srcCode x2), (8, srcCode x1), (1, 0), (4, x0.toNat), (6, 38)] := ⟨by decide, x3.isLt, srcCode_lt x2, srcCode_lt x1, Nat.two_pow_pos 1, x0.isLt, by decide, trivial⟩
  obtain ⟨w, hw⟩ : ∃ w, w = encode (.vfminF64 x0 x1 x2 x3) := ⟨_, rfl⟩
  have e := toNat_pack hw f rfl (show 2550136836 + x0.toNat * 4194304 + srcCode x1 * 8192 + srcCode x2 * 32 + x3.toNat * 8 = 4 + 8 * (x3.toNat + 4 * (srcCode x2 + 256 * (srcCode x1 + 256 * (0 + 2 * (x0.toNat + 16 * (38)))))) by omega)
  have b0 : bits w 0 3 = 4 := at0 e f rfl
  have b1 : bits w 21 1 = 0 := at4 e f rfl
  have b2 : bits w 26 6 = 38 := at6 e f rfl
  have f0 : Sys2Proof.fld w 22 4 = x0 := fld_eq (at5 e f rfl)
  have f1 : srcAt w 13 = x1 := srcAt_eq (at3 e f rfl)
  have f2 : srcAt w 5 = x2 := srcAt_eq (at2 e f rfl)
  have f3 : Sys2Proof.fld w 3 2 = x3 := fld_eq (at1 e f rfl)
  exact of_row hw (by rw [row26 b2]; simp [decode26, b0, b1, f0, f1, f2, f3])
theorem vfmaxF64 (x0 : BitVec 4) (x1 : Src) (x2 : Src) (x3 : BitVec 2) : Statement (.vfmaxF64 x0 x1 x2 x3) := by
  have f : Fit [(3, 5), (2, x3.toNat), (8, srcCode x2), (8, srcCode x1), (1, 0), (4, x0.toNat), (6, 38)] := ⟨by decide, x3.isLt, srcCode_lt x2, srcCode_lt x1, Nat.two_pow_pos 1, x0.isLt, by decide, trivial⟩
  obtain ⟨w, hw⟩ : ∃ w, w = encode (.vfmaxF64 x0 x1 x2 x3) := ⟨_, rfl⟩
  have e := toNat_pack hw f rfl (show 2550136837 + x0.toNat * 4194304 + srcCode x1 * 8192 + srcCode x2 * 32 + x3.toNat * 8 = 5 + 8 * (x3.toNat + 4 * (srcCode x2 + 256 * (srcCode x1 + 256 * (0 + 2 * (x0.toNat + 16 * (38)))))) by omega)
  have b0 : bits w 0 3 = 5 := at0 e f rfl
  have b1 : bits w 21 1 = 0 := at4 e f rfl
  have b2 : bits w 26 6 = 38 := at6 e f rfl
  have f0 : Sys2Proof.fld w 22 4 = x0 := fld_eq (at5 e f rfl)
  have f1 : srcAt w 13 = x1 := srcAt_eq (at3 e f rfl)
  have f2 : srcAt w 5 = x2 := srcAt_eq (at2 e f rfl)
  have f3 : Sys2Proof.fld w 3 2 = x3 := fld_eq (at1 e f rfl)
  exact of_row hw (by rw [row26 b2]; simp [decode26, b0, b1, f0, f1, f2, f3])
theorem vfabsF64 (x0 : BitVec 4) (x1 : Src) (x2 : BitVec 2) : Statement (.vfabsF64 x0 x1 x2) := by
  have f : Fit [(3, 6), (2, x2.toNat), (8, 0), (8, srcCode x1), (1, 0), (4, x0.toNat), (6, 38)] := ⟨by decide, x2.isLt, Nat.two_pow_pos 8, srcCode_lt x1, Nat.two_pow_pos 1, x0.isLt, by decide, trivial⟩
  obtain ⟨w, hw⟩ : ∃ w, w = encode (.vfabsF64 x0 x1 x2) := ⟨_, rfl⟩
  have e := toNat_pack hw f rfl (show 2550136838 + x0.toNat * 4194304 + srcCode x1 * 8192 + x2.toNat * 8 = 6 + 8 * (x2.toNat + 4 * (0 + 256 * (srcCode x1 + 256 * (0 + 2 * (x0.toNat + 16 * (38)))))) by omega)
  have b0 : bits w 0 3 = 6 := at0 e f rfl
  have b1 : bits w 5 8 = 0 := at2 e f rfl
  have b2 : bits w 21 1 = 0 := at4 e f rfl
  have b3 : bits w 26 6 = 38 := at6 e f rfl
  have f0 : Sys2Proof.fld w 22 4 = x0 := fld_eq (at5 e f rfl)
  have f1 : srcAt w 13 = x1 := srcAt_eq (at3 e f rfl)
  have f2 : Sys2Proof.fld w 3 2 = x2 := fld_eq (at1 e f rfl)
  exact of_row hw (by rw [row26 b3]; simp [decode26, b0, b1, b2, f0, f1, f2])
theorem vfnegF64 (x0 : BitVec 4) (x1 : Src) (x2 : BitVec 2) : Statement (.vfnegF64 x0 x1 x2) := by
  have f : Fit [(3, 7), (2, x2.toNat), (8, 0), (8, srcCode x1), (1, 0), (4, x0.toNat), (6, 38)] := ⟨by decide, x2.isLt, Nat.two_pow_pos 8, srcCode_lt x1, Nat.two_pow_pos 1, x0.isLt, by decide, trivial⟩
  obtain ⟨w, hw⟩ : ∃ w, w = encode (.vfnegF64 x0 x1 x2) := ⟨_, rfl⟩
  have e := toNat_pack hw f rfl (show 2550136839 + x0.toNat * 4194304 + srcCode x1 * 8192 + x2.toNat * 8 = 7 + 8 * (x2.toNat + 4 * (0 + 256 * (srcCode x1 + 256 * (0 + 2 * (x0.toNat + 16 * (38)))))) by omega)
  have b0 : bits w 0 3 = 7 := at0 e f rfl
  have b1 : bits w 5 8 = 0 := at2 e f rfl
  have b2 : bits w 21 1 = 0 := at4 e f rfl
  have b3 : bits w 26 6 = 38 := at6 e f rfl
  have f0 : Sys2Proof.fld w 22 4 = x0 := fld_eq (at5 e f rfl)
  have f1 : srcAt w 13 = x1 := srcAt_eq (at3 e f rfl)
  have f2 : Sys2Proof.fld w 3 2 = x2 := fld_eq (at1 e f rfl)
  exact of_row hw (by rw [row26 b3]; simp [decode26, b0, b1, b2, f0, f1, f2])
theorem vfcmpEqF64 (x0 : BitVec 4) (x1 : Src) (x2 : Src) (x3 : BitVec 2) : Statement (.vfcmpEqF64 x0 x1 x2 x3) := by
  have f : Fit [(3, 0), (2, x3.toNat), (8, srcCode x2), (8, srcCode x1), (4, x0.toNat), (1, 0), (6, 39)] := ⟨Nat.two_pow_pos 3, x3.isLt, srcCode_lt x2, srcCode_lt x1, x0.isLt, Nat.two_pow_pos 1, by decide, trivial⟩
  obtain ⟨w, hw⟩ : ∃ w, w = encode (.vfcmpEqF64 x0 x1 x2 x3) := ⟨_, rfl⟩
  have e := toNat_pack hw f rfl (show 2617245696 + x0.toNat * 2097152 + srcCode x1 * 8192 + srcCode x2 * 32 + x3.toNat * 8 = 0 + 8 * (x3.toNat + 4 * (srcCode x2 + 256 * (srcCode x1 + 256 * (x0.toNat + 16 * (0 + 2 * (39)))))) by omega)
  have b0 : bits w 0 3 = 0 := at0 e f rfl
  have b1 : bits w 25 1 = 0 := at5 e f rfl
  have b2 : bits w 26 6 = 39 := at6 e f rfl
  have f0 : Sys2Proof.fld w 21 4 = x0 := fld_eq (at4 e f rfl)
  have f1 : srcAt w 13 = x1 := srcAt_eq (at3 e f rfl)
  have f2 : srcAt w 5 = x2 := srcAt_eq (at2 e f rfl)
  have f3 : Sys2Proof.fld w 3 2 = x3 := fld_eq (at1 e f rfl)
  exact of_row hw (by rw [row27 b2]; simp [decode27, b0, b1, f0, f1, f2, f3])
theorem vfcmpNeF64 (x0 : BitVec 4) (x1 : Src) (x2 : Src) (x3 : BitVec 2) : Statement (.vfcmpNeF64 x0 x1 x2 x3) := by
  have f : Fit [(3, 1), (2, x3.toNat), (8, srcCode x2), (8, srcCode x1), (4, x0.toNat), (1, 0), (6, 39)] := ⟨by decide, x3.isLt, srcCode_lt x2, srcCode_lt x1, x0.isLt, Nat.two_pow_pos 1, by decide, trivial⟩
  obtain ⟨w, hw⟩ : ∃ w, w = encode (.vfcmpNeF64 x0 x1 x2 x3) := ⟨_, rfl⟩
  have e := toNat_pack hw f rfl (show 2617245697 + x0.toNat * 2097152 + srcCode x1 * 8192 + srcCode x2 * 32 + x3.toNat * 8 = 1 + 8 * (x3.toNat + 4 * (srcCode x2 + 256 * (srcCode x1 + 256 * (x0.toNat + 16 * (0 + 2 * (39)))))) by omega)
  have b0 : bits w 0 3 = 1 := at0 e f rfl
  have b1 : bits w 25 1 = 0 := at5 e f rfl
  have b2 : bits w 26 6 = 39 := at6 e f rfl
  have f0 : Sys2Proof.fld w 21 4 = x0 := fld_eq (at4 e f rfl)
  have f1 : srcAt w 13 = x1 := srcAt_eq (at3 e f rfl)
  have f2 : srcAt w 5 = x2 := srcAt_eq (at2 e f rfl)
  have f3 : Sys2Proof.fld w 3 2 = x3 := fld_eq (at1 e f rfl)
  exact of_row hw (by rw [row27 b2]; simp [decode27, b0, b1, f0, f1, f2, f3])
theorem vfcmpLtF64 (x0 : BitVec 4) (x1 : Src) (x2 : Src) (x3 : BitVec 2) : Statement (.vfcmpLtF64 x0 x1 x2 x3) := by
  have f : Fit [(3, 2), (2, x3.toNat), (8, srcCode x2), (8, srcCode x1), (4, x0.toNat), (1, 0), (6, 39)] := ⟨by decide, x3.isLt, srcCode_lt x2, srcCode_lt x1, x0.isLt, Nat.two_pow_pos 1, by decide, trivial⟩
  obtain ⟨w, hw⟩ : ∃ w, w = encode (.vfcmpLtF64 x0 x1 x2 x3) := ⟨_, rfl⟩
  have e := toNat_pack hw f rfl (show 2617245698 + x0.toNat * 2097152 + srcCode x1 * 8192 + srcCode x2 * 32 + x3.toNat * 8 = 2 + 8 * (x3.toNat + 4 * (srcCode x2 + 256 * (srcCode x1 + 256 * (x0.toNat + 16 * (0 + 2 * (39)))))) by omega)
  have b0 : bits w 0 3 = 2 := at0 e f rfl
  have b1 : bits w 25 1 = 0 := at5 e f rfl
  have b2 : bits w 26 6 = 39 := at6 e f rfl
  have f0 : Sys2Proof.fld w 21 4 = x0 := fld_eq (at4 e f rfl)
  have f1 : srcAt w 13 = x1 := srcAt_eq (at3 e f rfl)
  have f2 : srcAt w 5 = x2 := srcAt_eq (at2 e f rfl)
  have f3 : Sys2Proof.fld w 3 2 = x3 := fld_eq (at1 e f rfl)
  exact of_row hw (by rw [row27 b2]; simp [decode27, b0, b1, f0, f1, f2, f3])
theorem vfcmpLeF64 (x0 : BitVec 4) (x1 : Src) (x2 : Src) (x3 : BitVec 2) : Statement (.vfcmpLeF64 x0 x1 x2 x3) := by
  have f : Fit [(3, 3), (2, x3.toNat), (8, srcCode x2), (8, srcCode x1), (4, x0.toNat), (1, 0), (6, 39)] := ⟨by decide, x3.isLt, srcCode_lt x2, srcCode_lt x1, x0.isLt, Nat.two_pow_pos 1, by decide, trivial⟩
  obtain ⟨w, hw⟩ : ∃ w, w = encode (.vfcmpLeF64 x0 x1 x2 x3) := ⟨_, rfl⟩
  have e := toNat_pack hw f rfl (show 2617245699 + x0.toNat * 2097152 + srcCode x1 * 8192 + srcCode x2 * 32 + x3.toNat * 8 = 3 + 8 * (x3.toNat + 4 * (srcCode x2 + 256 * (srcCode x1 + 256 * (x0.toNat + 16 * (0 + 2 * (39)))))) by omega)
  have b0 : bits w 0 3 = 3 := at0 e f rfl
  have b1 : bits w 25 1 = 0 := at5 e f rfl
  have b2 : bits w 26 6 = 39 := at6 e f rfl
  have f0 : Sys2Proof.fld w 21 4 = x0 := fld_eq (at4 e f rfl)
  have f1 : srcAt w 13 = x1 := srcAt_eq (at3 e f rfl)
  have f2 : srcAt w 5 = x2 := srcAt_eq (at2 e f rfl)
  have f3 : Sys2Proof.fld w 3 2 = x3 := fld_eq (at1 e f rfl)
  exact of_row hw (by rw [row27 b2]; simp [decode27, b0, b1, f0, f1, f2, f3])
theorem vfcmpUnF64 (x0 : BitVec 4) (x1 : Src) (x2 : Src) (x3 : BitVec 2) : Statement (.vfcmpUnF64 x0 x1 x2 x3) := by
  have f : Fit [(3, 4), (2, x3.toNat), (8, srcCode x2), (8, srcCode x1), (4, x0.toNat), (1, 0), (6, 39)] := ⟨by decide, x3.isLt, srcCode_lt x2, srcCode_lt x1, x0.isLt, Nat.two_pow_pos 1, by decide, trivial⟩
  obtain ⟨w, hw⟩ : ∃ w, w = encode (.vfcmpUnF64 x0 x1 x2 x3) := ⟨_, rfl⟩
  have e := toNat_pack hw f rfl (show 2617245700 + x0.toNat * 2097152 + srcCode x1 * 8192 + srcCode x2 * 32 + x3.toNat * 8 = 4 + 8 * (x3.toNat + 4 * (srcCode x2 + 256 * (srcCode x1 + 256 * (x0.toNat + 16 * (0 + 2 * (39)))))) by omega)
  have b0 : bits w 0 3 = 4 := at0 e f rfl
  have b1 : bits w 25 1 = 0 := at5 e f rfl
  have b2 : bits w 26 6 = 39 := at6 e f rfl
  have f0 : Sys2Proof.fld w 21 4 = x0 := fld_eq (at4 e f rfl)
  have f1 : srcAt w 13 = x1 := srcAt_eq (at3 e f rfl)
  have f2 : srcAt w 5 = x2 := srcAt_eq (at2 e f rfl)
  have f3 : Sys2Proof.fld w 3 2 = x3 := fld_eq (at1 e f rfl)
  exact of_row hw (by rw [row27 b2]; simp [decode27, b0, b1, f0, f1, f2, f3])
theorem vfclassF64 (x0 : BitVec 5) (x1 : Src) (x2 : BitVec 2) : Statement (.vfclassF64 x0 x1 x2) := by
  have f : Fit [(3, 5), (2, x2.toNat), (8, 0), (8, srcCode x1), (5, x0.toNat), (6, 39)] := ⟨by decide, x2.isLt, Nat.two_pow_pos 8, srcCode_lt x1, x0.isLt, by decide, trivial⟩
  obtain ⟨w, hw⟩ : ∃ w, w = encode (.vfclassF64 x0 x1 x2) := ⟨_, rfl⟩
  have e := toNat_pack hw f rfl (show 2617245701 + x0.toNat * 2097152 + srcCode x1 * 8192 + x2.toNat * 8 = 5 + 8 * (x2.toNat + 4 * (0 + 256 * (srcCode x1 + 256 * (x0.toNat + 32 * (39))))) by omega)
  have b0 : bits w 0 3 = 5 := at0 e f rfl
  have b1 : bits w 5 8 = 0 := at2 e f rfl
  have b2 : bits w 26 6 = 39 := at5 e f rfl
  have f0 : Sys2Proof.fld w 21 5 = x0 := fld_eq (at4 e f rfl)
  have f1 : srcAt w 13 = x1 := srcAt_eq (at3 e f rfl)
  have f2 : Sys2Proof.fld w 3 2 = x2 := fld_eq (at1 e f rfl)
  exact of_row hw (by rw [row27 b2]; simp [decode27, b0, b1, f0, f1, f2])
theorem vfcvt (x0 : BitVec 5) (x1 : Src) (x2 : BitVec 4) (x3 : BitVec 4) (x4 : BitVec 2) : Statement (.vfcvt x0 x1 x2 x3 x4) := by
  have f : Fit [(3, 0), (2, x4.toNat), (4, x3.toNat), (4, x2.toNat), (8, srcCode x1), (5, x0.toNat), (6, 40)] := ⟨Nat.two_pow_pos 3, x4.isLt, x3.isLt, x2.isLt, srcCode_lt x1, x0.isLt, by decide, trivial⟩
  obtain ⟨w, hw⟩ : ∃ w, w = encode (.vfcvt x0 x1 x2 x3 x4) := ⟨_, rfl⟩
  have e := toNat_pack hw f rfl (show 2684354560 + x0.toNat * 2097152 + srcCode x1 * 8192 + x2.toNat * 512 + x3.toNat * 32 + x4.toNat * 8 = 0 + 8 * (x4.toNat + 4 * (x3.toNat + 16 * (x2.toNat + 16 * (srcCode x1 + 256 * (x0.toNat + 32 * (40)))))) by omega)
  have b0 : bits w 0 3 = 0 := at0 e f rfl
  have b1 : bits w 26 6 = 40 := at6 e f rfl
  have f0 : Sys2Proof.fld w 21 5 = x0 := fld_eq (at5 e f rfl)
  have f1 : srcAt w 13 = x1 := srcAt_eq (at4 e f rfl)
  have f2 : Sys2Proof.fld w 9 4 = x2 := fld_eq (at3 e f rfl)
  have f3 : Sys2Proof.fld w 5 4 = x3 := fld_eq (at2 e f rfl)
  have f4 : Sys2Proof.fld w 3 2 = x4 := fld_eq (at1 e f rfl)
  exact of_row hw (by rw [row28 b1]; simp [decode28, b0, f0, f1, f2, f3, f4])
theorem vfcvtRz (x0 : BitVec 5) (x1 : Src) (x2 : BitVec 4) (x3 : BitVec 4) (x4 : BitVec 2) : Statement (.vfcvtRz x0 x1 x2 x3 x4) := by
  have f : Fit [(3, 1), (2, x4.toNat), (4, x3.toNat), (4, x2.toNat), (8, srcCode x1), (5, x0.toNat), (6, 40)] := ⟨by decide, x4.isLt, x3.isLt, x2.isLt, srcCode_lt x1, x0.isLt, by decide, trivial⟩
  obtain ⟨w, hw⟩ : ∃ w, w = encode (.vfcvtRz x0 x1 x2 x3 x4) := ⟨_, rfl⟩
  have e := toNat_pack hw f rfl (show 2684354561 + x0.toNat * 2097152 + srcCode x1 * 8192 + x2.toNat * 512 + x3.toNat * 32 + x4.toNat * 8 = 1 + 8 * (x4.toNat + 4 * (x3.toNat + 16 * (x2.toNat + 16 * (srcCode x1 + 256 * (x0.toNat + 32 * (40)))))) by omega)
  have b0 : bits w 0 3 = 1 := at0 e f rfl
  have b1 : bits w 26 6 = 40 := at6 e f rfl
  have f0 : Sys2Proof.fld w 21 5 = x0 := fld_eq (at5 e f rfl)
  have f1 : srcAt w 13 = x1 := srcAt_eq (at4 e f rfl)
  have f2 : Sys2Proof.fld w 9 4 = x2 := fld_eq (at3 e f rfl)
  have f3 : Sys2Proof.fld w 5 4 = x3 := fld_eq (at2 e f rfl)
  have f4 : Sys2Proof.fld w 3 2 = x4 := fld_eq (at1 e f rfl)
  exact of_row hw (by rw [row28 b1]; simp [decode28, b0, f0, f1, f2, f3, f4])
theorem vfpack (x0 : BitVec 5) (x1 : Src) (x2 : Src) (x3 : BitVec 2) : Statement (.vfpack x0 x1 x2 x3) := by
  have f : Fit [(3, 2), (2, x3.toNat), (8, srcCode x2), (8, srcCode x1), (5, x0.toNat), (6, 40)] := ⟨by decide, x3.isLt, srcCode_lt x2, srcCode_lt x1, x0.isLt, by decide, trivial⟩
  obtain ⟨w, hw⟩ : ∃ w, w = encode (.vfpack x0 x1 x2 x3) := ⟨_, rfl⟩
  have e := toNat_pack hw f rfl (show 2684354562 + x0.toNat * 2097152 + srcCode x1 * 8192 + srcCode x2 * 32 + x3.toNat * 8 = 2 + 8 * (x3.toNat + 4 * (srcCode x2 + 256 * (srcCode x1 + 256 * (x0.toNat + 32 * (40))))) by omega)
  have b0 : bits w 0 3 = 2 := at0 e f rfl
  have b1 : bits w 26 6 = 40 := at5 e f rfl
  have f0 : Sys2Proof.fld w 21 5 = x0 := fld_eq (at4 e f rfl)
  have f1 : srcAt w 13 = x1 := srcAt_eq (at3 e f rfl)
  have f2 : srcAt w 5 = x2 := srcAt_eq (at2 e f rfl)
  have f3 : Sys2Proof.fld w 3 2 = x3 := fld_eq (at1 e f rfl)
  exact of_row hw (by rw [row28 b1]; simp [decode28, b0, f0, f1, f2, f3])
theorem vfpackRz (x0 : BitVec 5) (x1 : Src) (x2 : Src) (x3 : BitVec 2) : Statement (.vfpackRz x0 x1 x2 x3) := by
  have f : Fit [(3, 3), (2, x3.toNat), (8, srcCode x2), (8, srcCode x1), (5, x0.toNat), (6, 40)] := ⟨by decide, x3.isLt, srcCode_lt x2, srcCode_lt x1, x0.isLt, by decide, trivial⟩
  obtain ⟨w, hw⟩ : ∃ w, w = encode (.vfpackRz x0 x1 x2 x3) := ⟨_, rfl⟩
  have e := toNat_pack hw f rfl (show 2684354563 + x0.toNat * 2097152 + srcCode x1 * 8192 + srcCode x2 * 32 + x3.toNat * 8 = 3 + 8 * (x3.toNat + 4 * (srcCode x2 + 256 * (srcCode x1 + 256 * (x0.toNat + 32 * (40))))) by omega)
  have b0 : bits w 0 3 = 3 := at0 e f rfl
  have b1 : bits w 26 6 = 40 := at5 e f rfl
  have f0 : Sys2Proof.fld w 21 5 = x0 := fld_eq (at4 e f rfl)
  have f1 : srcAt w 13 = x1 := srcAt_eq (at3 e f rfl)
  have f2 : srcAt w 5 = x2 := srcAt_eq (at2 e f rfl)
  have f3 : Sys2Proof.fld w 3 2 = x3 := fld_eq (at1 e f rfl)
  exact of_row hw (by rw [row28 b1]; simp [decode28, b0, f0, f1, f2, f3])
theorem vfunpack (x0 : BitVec 5) (x1 : Src) (x2 : Src) (x3 : BitVec 2) : Statement (.vfunpack x0 x1 x2 x3) := by
  have f : Fit [(3, 4), (2, x3.toNat), (8, srcCode x2), (8, srcCode x1), (5, x0.toNat), (6, 40)] := ⟨by decide, x3.isLt, srcCode_lt x2, srcCode_lt x1, x0.isLt, by decide, trivial⟩
  obtain ⟨w, hw⟩ : ∃ w, w = encode (.vfunpack x0 x1 x2 x3) := ⟨_, rfl⟩
  have e := toNat_pack hw f rfl (show 2684354564 + x0.toNat * 2097152 + srcCode x1 * 8192 + srcCode x2 * 32 + x3.toNat * 8 = 4 + 8 * (x3.toNat + 4 * (srcCode x2 + 256 * (srcCode x1 + 256 * (x0.toNat + 32 * (40))))) by omega)
  have b0 : bits w 0 3 = 4 := at0 e f rfl
  have b1 : bits w 26 6 = 40 := at5 e f rfl
  have f0 : Sys2Proof.fld w 21 5 = x0 := fld_eq (at4 e f rfl)
  have f1 : srcAt w 13 = x1 := srcAt_eq (at3 e f rfl)
  have f2 : srcAt w 5 = x2 := srcAt_eq (at2 e f rfl)
  have f3 : Sys2Proof.fld w 3 2 = x3 := fld_eq (at1 e f rfl)
  exact of_row hw (by rw [row28 b1]; simp [decode28, b0, f0, f1, f2, f3])
theorem vfscale (x0 : BitVec 5) (x1 : Src) (x2 : Src) (x3 : BitVec 2) : Statement (.vfscale x0 x1 x2 x3) := by
  have f : Fit [(3, 5), (2, x3.toNat), (8, srcCode x2), (8, srcCode x1), (5, x0.toNat), (6, 40)] := ⟨by decide, x3.isLt, srcCode_lt x2, srcCode_lt x1, x0.isLt, by decide, trivial⟩
  obtain ⟨w, hw⟩ : ∃ w, w = encode (.vfscale x0 x1 x2 x3) := ⟨_, rfl⟩
  have e := toNat_pack hw f rfl (show 2684354565 + x0.toNat * 2097152 + srcCode x1 * 8192 + srcCode x2 * 32 + x3.toNat * 8 = 5 + 8 * (x3.toNat + 4 * (srcCode x2 + 256 * (srcCode x1 + 256 * (x0.toNat + 32 * (40))))) by omega)
  have b0 : bits w 0 3 = 5 := at0 e f rfl
  have b1 : bits w 26 6 = 40 := at5 e f rfl
  have f0 : Sys2Proof.fld w 21 5 = x0 := fld_eq (at4 e f rfl)
  have f1 : srcAt w 13 = x1 := srcAt_eq (at3 e f rfl)
  have f2 : srcAt w 5 = x2 := srcAt_eq (at2 e f rfl)
  have f3 : Sys2Proof.fld w 3 2 = x3 := fld_eq (at1 e f rfl)
  exact of_row hw (by rw [row28 b1]; simp [decode28, b0, f0, f1, f2, f3])
theorem vfround (x0 : BitVec 5) (x1 : Src) (x2 : BitVec 4) (x3 : BitVec 2) : Statement (.vfround x0 x1 x2 x3) := by
  have f : Fit [(3, 6), (2, x3.toNat), (4, x2.toNat), (4, 0), (8, srcCode x1), (5, x0.toNat), (6, 40)] := ⟨by decide, x3.isLt, x2.isLt, Nat.two_pow_pos 4, srcCode_lt x1, x0.isLt, by decide, trivial⟩
  obtain ⟨w, hw⟩ : ∃ w, w = encode (.vfround x0 x1 x2 x3) := ⟨_, rfl⟩
  have e := toNat_pack hw f rfl (show 2684354566 + x0.toNat * 2097152 + srcCode x1 * 8192 + x2.toNat * 32 + x3.toNat * 8 = 6 + 8 * (x3.toNat + 4 * (x2.toNat + 16 * (0 + 16 * (srcCode x1 + 256 * (x0.toNat + 32 * (40)))))) by omega)
  have b0 : bits w 0 3 = 6 := at0 e f rfl
  have b1 : bits w 9 4 = 0 := at3 e f rfl
  have b2 : bits w 26 6 = 40 := at6 e f rfl
  have f0 : Sys2Proof.fld w 21 5 = x0 := fld_eq (at5 e f rfl)
  have f1 : srcAt w 13 = x1 := srcAt_eq (at4 e f rfl)
  have f2 : Sys2Proof.fld w 5 4 = x2 := fld_eq (at2 e f rfl)
  have f3 : Sys2Proof.fld w 3 2 = x3 := fld_eq (at1 e f rfl)
  exact of_row hw (by rw [row28 b2]; simp [decode28, b0, b1, f0, f1, f2, f3])
theorem vftoiS32 (x0 : BitVec 5) (x1 : Src) (x2 : BitVec 1) (x3 : BitVec 2) : Statement (.vftoiS32 x0 x1 x2 x3) := by
  have f : Fit [(3, 0), (2, x3.toNat), (1, x2.toNat), (7, 0), (8, srcCode x1), (5, x0.toNat), (6, 41)] := ⟨Nat.two_pow_pos 3, x3.isLt, x2.isLt, Nat.two_pow_pos 7, srcCode_lt x1, x0.isLt, by decide, trivial⟩
  obtain ⟨w, hw⟩ : ∃ w, w = encode (.vftoiS32 x0 x1 x2 x3) := ⟨_, rfl⟩
  have e := toNat_pack hw f rfl (show 2751463424 + x0.toNat * 2097152 + srcCode x1 * 8192 + x2.toNat * 32 + x3.toNat * 8 = 0 + 8 * (x3.toNat + 4 * (x2.toNat + 2 * (0 + 128 * (srcCode x1 + 256 * (x0.toNat + 32 * (41)))))) by omega)
  have b0 : bits w 0 3 = 0 := at0 e f rfl
  have b1 : bits w 6 7 = 0 := at3 e f rfl
  have b2 : bits w 26 6 = 41 := at6 e f rfl
  have f0 : Sys2Proof.fld w 21 5 = x0 := fld_eq (at5 e f rfl)
  have f1 : srcAt w 13 = x1 := srcAt_eq (at4 e f rfl)
  have f2 : Sys2Proof.fld w 5 1 = x2 := fld_eq (at2 e f rfl)
  have f3 : Sys2Proof.fld w 3 2 = x3 := fld_eq (at1 e f rfl)
  exact of_row hw (by rw [row29 b2]; simp [decode29, b0, b1, f0, f1, f2, f3])
theorem vftoiN32 (x0 : BitVec 5) (x1 : Src) (x2 : BitVec 1) (x3 : BitVec 2) : Statement (.vftoiN32 x0 x1 x2 x3) := by
  have f : Fit [(3, 1), (2, x3.toNat), (1, x2.toNat), (7, 0), (8, srcCode x1), (5, x0.toNat), (6, 41)] := ⟨by decide, x3.isLt, x2.isLt, Nat.two_pow_pos 7, srcCode_lt x1, x0.isLt, by decide, trivial⟩
  obtain ⟨w, hw⟩ : ∃ w, w = encode (.vftoiN32 x0 x1 x2 x3) := ⟨_, rfl⟩
  have e := toNat_pack hw f rfl (show 2751463425 + x0.toNat * 2097152 + srcCode x1 * 8192 + x2.toNat * 32 + x3.toNat * 8 = 1 + 8 * (x3.toNat + 4 * (x2.toNat + 2 * (0 + 128 * (srcCode x1 + 256 * (x0.toNat + 32 * (41)))))) by omega)
  have b0 : bits w 0 3 = 1 := at0 e f rfl
  have b1 : bits w 6 7 = 0 := at3 e f rfl
  have b2 : bits w 26 6 = 41 := at6 e f rfl
  have f0 : Sys2Proof.fld w 21 5 = x0 := fld_eq (at5 e f rfl)
  have f1 : srcAt w 13 = x1 := srcAt_eq (at4 e f rfl)
  have f2 : Sys2Proof.fld w 5 1 = x2 := fld_eq (at2 e f rfl)
  have f3 : Sys2Proof.fld w 3 2 = x3 := fld_eq (at1 e f rfl)
  exact of_row hw (by rw [row29 b2]; simp [decode29, b0, b1, f0, f1, f2, f3])
theorem vitofS32 (x0 : BitVec 5) (x1 : Src) (x2 : BitVec 2) : Statement (.vitofS32 x0 x1 x2) := by
  have f : Fit [(3, 2), (2, x2.toNat), (1, 0), (7, 0), (8, srcCode x1), (5, x0.toNat), (6, 41)] := ⟨by decide, x2.isLt, Nat.two_pow_pos 1, Nat.two_pow_pos 7, srcCode_lt x1, x0.isLt, by decide, trivial⟩
  obtain ⟨w, hw⟩ : ∃ w, w = encode (.vitofS32 x0 x1 x2) := ⟨_, rfl⟩
  have e := toNat_pack hw f rfl (show 2751463426 + x0.toNat * 2097152 + srcCode x1 * 8192 + x2.toNat * 8 = 2 + 8 * (x2.toNat + 4 * (0 + 2 * (0 + 128 * (srcCode x1 + 256 * (x0.toNat + 32 * (41)))))) by omega)
  have b0 : bits w 0 3 = 2 := at0 e f rfl
  have b1 : bits w 5 8 = 0 := bits_pack e f 2 2 rfl rfl rfl
  have b2 : bits w 6 7 = 0 := at3 e f rfl
  have b3 : bits w 26 6 = 41 := at6 e f rfl
  have f0 : Sys2Proof.fld w 21 5 = x0 := fld_eq (at5 e f rfl)
  have f1 : srcAt w 13 = x1 := srcAt_eq (at4 e f rfl)
  have f2 : Sys2Proof.fld w 3 2 = x2 := fld_eq (at1 e f rfl)
  exact of_row hw (by rw [row29 b3]; simp [decode29, b0, b1, b2, f0, f1, f2])
theorem vitofN32 (x0 : BitVec 5) (x1 : Src) (x2 : BitVec 2) : Statement (.vitofN32 x0 x1 x2) := by
  have f : Fit [(3, 3), (2, x2.toNat), (1, 0), (7, 0), (8, srcCode x1), (5, x0.toNat), (6, 41)] := ⟨by decide, x2.isLt, Nat.two_pow_pos 1, Nat.two_pow_pos 7, srcCode_lt x1, x0.isLt, by decide, trivial⟩
  obtain ⟨w, hw⟩ : ∃ w, w = encode (.vitofN32 x0 x1 x2) := ⟨_, rfl⟩
  have e := toNat_pack hw f rfl (show 2751463427 + x0.toNat * 2097152 + srcCode x1 * 8192 + x2.toNat * 8 = 3 + 8 * (x2.toNat + 4 * (0 + 2 * (0 + 128 * (srcCode x1 + 256 * (x0.toNat + 32 * (41)))))) by omega)
  have b0 : bits w 0 3 = 3 := at0 e f rfl
  have b1 : bits w 5 8 = 0 := bits_pack e f 2 2 rfl rfl rfl
  have b2 : bits w 6 7 = 0 := at3 e f rfl
  have b3 : bits w 26 6 = 41 := at6 e f rfl
  have f0 : Sys2Proof.fld w 21 5 = x0 := fld_eq (at5 e f rfl)
  have f1 : srcAt w 13 = x1 := srcAt_eq (at4 e f rfl)
  have f2 : Sys2Proof.fld w 3 2 = x2 := fld_eq (at1 e f rfl)
  exact of_row hw (by rw [row29 b3]; simp [decode29, b0, b1, b2, f0, f1, f2])
theorem vfrcpF32 (x0 : BitVec 5) (x1 : Src) (x2 : BitVec 2) : Statement (.vfrcpF32 x0 x1 x2) := by
  have f : Fit [(3, 0), (2, x2.toNat), (8, 0), (8, srcCode x1), (5, x0.toNat), (6, 42)] := ⟨Nat.two_pow_pos 3, x2.isLt, Nat.two_pow_pos 8, srcCode_lt x1, x0.isLt, by decide, trivial⟩
  obtain ⟨w, hw⟩ : ∃ w, w = encode (.vfrcpF32 x0 x1 x2) := ⟨_, rfl⟩
  have e := toNat_pack hw f rfl (show 2818572288 + x0.toNat * 2097152 + srcCode x1 * 8192 + x2.toNat * 8 = 0 + 8 * (x2.toNat + 4 * (0 + 256 * (srcCode x1 + 256 * (x0.toNat + 32 * (42))))) by omega)
  have b0 : bits w 0 3 = 0 := at0 e f rfl
  have b1 : bits w 5 8 = 0 := at2 e f rfl
  have b2 : bits w 26 6 = 42 := at5 e f rfl
  have f0 : Sys2Proof.fld w 21 5 = x0 := fld_eq (at4 e f rfl)
  have f1 : srcAt w 13 = x1 := srcAt_eq (at3 e f rfl)
  have f2 : Sys2Proof.fld w 3 2 = x2 := fld_eq (at1 e f rfl)
  exact of_row hw (by rw [row2A b2]; simp [decode2A, b0, b1, f0, f1, f2])
theorem vfrsqF32 (x0 : BitVec 5) (x1 : Src) (x2 : BitVec 2) : Statement (.vfrsqF32 x0 x1 x2) := by
  have f : Fit [(3, 1), (2, x2.toNat), (8, 0), (8, srcCode x1), (5, x0.toNat), (6, 42)] := ⟨by decide, x2.isLt, Nat.two_pow_pos 8, srcCode_lt x1, x0.isLt, by decide, trivial⟩
  obtain ⟨w, hw⟩ : ∃ w, w = encode (.vfrsqF32 x0 x1 x2) := ⟨_, rfl⟩
  have e := toNat_pack hw f rfl (show 2818572289 + x0.toNat * 2097152 + srcCode x1 * 8192 + x2.toNat * 8 = 1 + 8 * (x2.toNat + 4 * (0 + 256 * (srcCode x1 + 256 * (x0.toNat + 32 * (42))))) by omega)
  have b0 : bits w 0 3 = 1 := at0 e f rfl
  have b1 : bits w 5 8 = 0 := at2 e f rfl
  have b2 : bits w 26 6 = 42 := at5 e f rfl
  have f0 : Sys2Proof.fld w 21 5 = x0 := fld_eq (at4 e f rfl)
  have f1 : srcAt w 13 = x1 := srcAt_eq (at3 e f rfl)
  have f2 : Sys2Proof.fld w 3 2 = x2 := fld_eq (at1 e f rfl)
  exact of_row hw (by rw [row2A b2]; simp [decode2A, b0, b1, f0, f1, f2])
theorem vfsqrtF32 (x0 : BitVec 5) (x1 : Src) (x2 : BitVec 2) : Statement (.vfsqrtF32 x0 x1 x2) := by
  have f : Fit [(3, 2), (2, x2.toNat), (8, 0), (8, srcCode x1), (5, x0.toNat), (6, 42)] := ⟨by decide, x2.isLt, Nat.two_pow_pos 8, srcCode_lt x1, x0.isLt, by decide, trivial⟩
  obtain ⟨w, hw⟩ : ∃ w, w = encode (.vfsqrtF32 x0 x1 x2) := ⟨_, rfl⟩
  have e := toNat_pack hw f rfl (show 2818572290 + x0.toNat * 2097152 + srcCode x1 * 8192 + x2.toNat * 8 = 2 + 8 * (x2.toNat + 4 * (0 + 256 * (srcCode x1 + 256 * (x0.toNat + 32 * (42))))) by omega)
  have b0 : bits w 0 3 = 2 := at0 e f rfl
  have b1 : bits w 5 8 = 0 := at2 e f rfl
  have b2 : bits w 26 6 = 42 := at5 e f rfl
  have f0 : Sys2Proof.fld w 21 5 = x0 := fld_eq (at4 e f rfl)
  have f1 : srcAt w 13 = x1 := srcAt_eq (at3 e f rfl)
  have f2 : Sys2Proof.fld w 3 2 = x2 := fld_eq (at1 e f rfl)
  exact of_row hw (by rw [row2A b2]; simp [decode2A, b0, b1, f0, f1, f2])
theorem vfexp2F32 (x0 : BitVec 5) (x1 : Src) (x2 : BitVec 2) : Statement (.vfexp2F32 x0 x1 x2) := by
  have f : Fit [(3, 3), (2, x2.toNat), (8, 0), (8, srcCode x1), (5, x0.toNat), (6, 42)] := ⟨by decide, x2.isLt, Nat.two_pow_pos 8, srcCode_lt x1, x0.isLt, by decide, trivial⟩
  obtain ⟨w, hw⟩ : ∃ w, w = encode (.vfexp2F32 x0 x1 x2) := ⟨_, rfl⟩
  have e := toNat_pack hw f rfl (show 2818572291 + x0.toNat * 2097152 + srcCode x1 * 8192 + x2.toNat * 8 = 3 + 8 * (x2.toNat + 4 * (0 + 256 * (srcCode x1 + 256 * (x0.toNat + 32 * (42))))) by omega)
  have b0 : bits w 0 3 = 3 := at0 e f rfl
  have b1 : bits w 5 8 = 0 := at2 e f rfl
  have b2 : bits w 26 6 = 42 := at5 e f rfl
  have f0 : Sys2Proof.fld w 21 5 = x0 := fld_eq (at4 e f rfl)
  have f1 : srcAt w 13 = x1 := srcAt_eq (at3 e f rfl)
  have f2 : Sys2Proof.fld w 3 2 = x2 := fld_eq (at1 e f rfl)
  exact of_row hw (by rw [row2A b2]; simp [decode2A, b0, b1, f0, f1, f2])
theorem vflog2F32 (x0 : BitVec 5) (x1 : Src) (x2 : BitVec 2) : Statement (.vflog2F32 x0 x1 x2) := by
  have f : Fit [(3, 4), (2, x2.toNat), (8, 0), (8, srcCode x1), (5, x0.toNat), (6, 42)] := ⟨by decide, x2.isLt, Nat.two_pow_pos 8, srcCode_lt x1, x0.isLt, by decide, trivial⟩
  obtain ⟨w, hw⟩ : ∃ w, w = encode (.vflog2F32 x0 x1 x2) := ⟨_, rfl⟩
  have e := toNat_pack hw f rfl (show 2818572292 + x0.toNat * 2097152 + srcCode x1 * 8192 + x2.toNat * 8 = 4 + 8 * (x2.toNat + 4 * (0 + 256 * (srcCode x1 + 256 * (x0.toNat + 32 * (42))))) by omega)
  have b0 : bits w 0 3 = 4 := at0 e f rfl
  have b1 : bits w 5 8 = 0 := at2 e f rfl
  have b2 : bits w 26 6 = 42 := at5 e f rfl
  have f0 : Sys2Proof.fld w 21 5 = x0 := fld_eq (at4 e f rfl)
  have f1 : srcAt w 13 = x1 := srcAt_eq (at3 e f rfl)
  have f2 : Sys2Proof.fld w 3 2 = x2 := fld_eq (at1 e f rfl)
  exact of_row hw (by rw [row2A b2]; simp [decode2A, b0, b1, f0, f1, f2])
theorem vftanhF32 (x0 : BitVec 5) (x1 : Src) (x2 : BitVec 2) : Statement (.vftanhF32 x0 x1 x2) := by
  have f : Fit [(3, 5), (2, x2.toNat), (8, 0), (8, srcCode x1), (5, x0.toNat), (6, 42)] := ⟨by decide, x2.isLt, Nat.two_pow_pos 8, srcCode_lt x1, x0.isLt, by decide, trivial⟩
  obtain ⟨w, hw⟩ : ∃ w, w = encode (.vftanhF32 x0 x1 x2) := ⟨_, rfl⟩
  have e := toNat_pack hw f rfl (show 2818572293 + x0.toNat * 2097152 + srcCode x1 * 8192 + x2.toNat * 8 = 5 + 8 * (x2.toNat + 4 * (0 + 256 * (srcCode x1 + 256 * (x0.toNat + 32 * (42))))) by omega)
  have b0 : bits w 0 3 = 5 := at0 e f rfl
  have b1 : bits w 5 8 = 0 := at2 e f rfl
  have b2 : bits w 26 6 = 42 := at5 e f rfl
  have f0 : Sys2Proof.fld w 21 5 = x0 := fld_eq (at4 e f rfl)
  have f1 : srcAt w 13 = x1 := srcAt_eq (at3 e f rfl)
  have f2 : Sys2Proof.fld w 3 2 = x2 := fld_eq (at1 e f rfl)
  exact of_row hw (by rw [row2A b2]; simp [decode2A, b0, b1, f0, f1, f2])
theorem vfrcpF64 (x0 : BitVec 4) (x1 : Src) (x2 : BitVec 2) : Statement (.vfrcpF64 x0 x1 x2) := by
  have f : Fit [(3, 0), (2, x2.toNat), (8, 0), (8, srcCode x1), (1, 0), (4, x0.toNat), (6, 43)] := ⟨Nat.two_pow_pos 3, x2.isLt, Nat.two_pow_pos 8, srcCode_lt x1, Nat.two_pow_pos 1, x0.isLt, by decide, trivial⟩
  obtain ⟨w, hw⟩ : ∃ w, w = encode (.vfrcpF64 x0 x1 x2) := ⟨_, rfl⟩
  have e := toNat_pack hw f rfl (show 2885681152 + x0.toNat * 4194304 + srcCode x1 * 8192 + x2.toNat * 8 = 0 + 8 * (x2.toNat + 4 * (0 + 256 * (srcCode x1 + 256 * (0 + 2 * (x0.toNat + 16 * (43)))))) by omega)
  have b0 : bits w 0 3 = 0 := at0 e f rfl
  have b1 : bits w 5 8 = 0 := at2 e f rfl
  have b2 : bits w 21 1 = 0 := at4 e f rfl
  have b3 : bits w 26 6 = 43 := at6 e f rfl
  have f0 : Sys2Proof.fld w 22 4 = x0 := fld_eq (at5 e f rfl)
  have f1 : srcAt w 13 = x1 := srcAt_eq (at3 e f rfl)
  have f2 : Sys2Proof.fld w 3 2 = x2 := fld_eq (at1 e f rfl)
  exact of_row hw (by rw [row2B b3]; simp [decode2B, b0, b1, b2, f0, f1, f2])
theorem vfrsqF64 (x0 : BitVec 4) (x1 : Src) (x2 : BitVec 2) : Statement (.vfrsqF64 x0 x1 x2) := by
  have f : Fit [(3, 1), (2, x2.toNat), (8, 0), (8, srcCode x1), (1, 0), (4, x0.toNat), (6, 43)] := ⟨by decide, x2.isLt, Nat.two_pow_pos 8, srcCode_lt x1, Nat.two_pow_pos 1, x0.isLt, by decide, trivial⟩
  obtain ⟨w, hw⟩ : ∃ w, w = encode (.vfrsqF64 x0 x1 x2) := ⟨_, rfl⟩
  have e := toNat_pack hw f rfl (show 2885681153 + x0.toNat * 4194304 + srcCode x1 * 8192 + x2.toNat * 8 = 1 + 8 * (x2.toNat + 4 * (0 + 256 * (srcCode x1 + 256 * (0 + 2 * (x0.toNat + 16 * (43)))))) by omega)
  have b0 : bits w 0 3 = 1 := at0 e f rfl
  have b1 : bits w 5 8 = 0 := at2 e f rfl
  have b2 : bits w 21 1 = 0 := at4 e f rfl
  have b3 : bits w 26 6 = 43 := at6 e f rfl
  have f0 : Sys2Proof.fld w 22 4 = x0 := fld_eq (at5 e f rfl)
  have f1 : srcAt w 13 = x1 := srcAt_eq (at3 e f rfl)
  have f2 : Sys2Proof.fld w 3 2 = x2 := fld_eq (at1 e f rfl)
  exact of_row hw (by rw [row2B b3]; simp [decode2B, b0, b1, b2, f0, f1, f2])
theorem vfsqrtF64 (x0 : BitVec 4) (x1 : Src) (x2 : BitVec 2) : Statement (.vfsqrtF64 x0 x1 x2) := by
  have f : Fit [(3, 2), (2, x2.toNat), (8, 0), (8, srcCode x1), (1, 0), (4, x0.toNat), (6, 43)] := ⟨by decide, x2.isLt, Nat.two_pow_pos 8, srcCode_lt x1, Nat.two_pow_pos 1, x0.isLt, by decide, trivial⟩
  obtain ⟨w, hw⟩ : ∃ w, w = encode (.vfsqrtF64 x0 x1 x2) := ⟨_, rfl⟩
  have e := toNat_pack hw f rfl (show 2885681154 + x0.toNat * 4194304 + srcCode x1 * 8192 + x2.toNat * 8 = 2 + 8 * (x2.toNat + 4 * (0 + 256 * (srcCode x1 + 256 * (0 + 2 * (x0.toNat + 16 * (43)))))) by omega)
  have b0 : bits w 0 3 = 2 := at0 e f rfl
  have b1 : bits w 5 8 = 0 := at2 e f rfl
  have b2 : bits w 21 1 = 0 := at4 e f rfl
  have b3 : bits w 26 6 = 43 := at6 e f rfl
  have f0 : Sys2Proof.fld w 22 4 = x0 := fld_eq (at5 e f rfl)
  have f1 : srcAt w 13 = x1 := srcAt_eq (at3 e f rfl)
  have f2 : Sys2Proof.fld w 3 2 = x2 := fld_eq (at1 e f rfl)
  exact of_row hw (by rw [row2B b3]; simp [decode2B, b0, b1, b2, f0, f1, f2])
theorem vfexp2F16 (x0 : BitVec 5) (x1 : Src) (x2 : BitVec 2) : Statement (.vfexp2F16 x0 x1 x2) := by
  have f : Fit [(3, 3), (2, x2.toNat), (8, 0), (8, srcCode x1), (5, x0.toNat), (6, 43)] := ⟨by decide, x2.isLt, Nat.two_pow_pos 8, srcCode_lt x1, x0.isLt, by decide, trivial⟩
  obtain ⟨w, hw⟩ : ∃ w, w = encode (.vfexp2F16 x0 x1 x2) := ⟨_, rfl⟩
  have e := toNat_pack hw f rfl (show 2885681155 + x0.toNat * 2097152 + srcCode x1 * 8192 + x2.toNat * 8 = 3 + 8 * (x2.toNat + 4 * (0 + 256 * (srcCode x1 + 256 * (x0.toNat + 32 * (43))))) by omega)
  have b0 : bits w 0 3 = 3 := at0 e f rfl
  have b1 : bits w 5 8 = 0 := at2 e f rfl
  have b2 : bits w 26 6 = 43 := at5 e f rfl
  have f0 : Sys2Proof.fld w 21 5 = x0 := fld_eq (at4 e f rfl)
  have f1 : srcAt w 13 = x1 := srcAt_eq (at3 e f rfl)
  have f2 : Sys2Proof.fld w 3 2 = x2 := fld_eq (at1 e f rfl)
  exact of_row hw (by rw [row2B b2]; simp [decode2B, b0, b1, f0, f1, f2])
theorem vflog2F16 (x0 : BitVec 5) (x1 : Src) (x2 : BitVec 2) : Statement (.vflog2F16 x0 x1 x2) := by
  have f : Fit [(3, 4), (2, x2.toNat), (8, 0), (8, srcCode x1), (5, x0.toNat), (6, 43)] := ⟨by decide, x2.isLt, Nat.two_pow_pos 8, srcCode_lt x1, x0.isLt, by decide, trivial⟩
  obtain ⟨w, hw⟩ : ∃ w, w = encode (.vflog2F16 x0 x1 x2) := ⟨_, rfl⟩
  have e := toNat_pack hw f rfl (show 2885681156 + x0.toNat * 2097152 + srcCode x1 * 8192 + x2.toNat * 8 = 4 + 8 * (x2.toNat + 4 * (0 + 256 * (srcCode x1 + 256 * (x0.toNat + 32 * (43))))) by omega)
  have b0 : bits w 0 3 = 4 := at0 e f rfl
  have b1 : bits w 5 8 = 0 := at2 e f rfl
  have b2 : bits w 26 6 = 43 := at5 e f rfl
  have f0 : Sys2Proof.fld w 21 5 = x0 := fld_eq (at4 e f rfl)
  have f1 : srcAt w 13 = x1 := srcAt_eq (at3 e f rfl)
  have f2 : Sys2Proof.fld w 3 2 = x2 := fld_eq (at1 e f rfl)
  exact of_row hw (by rw [row2B b2]; simp [decode2B, b0, b1, f0, f1, f2])
theorem vftanhF16 (x0 : BitVec 5) (x1 : Src) (x2 : BitVec 2) : Statement (.vftanhF16 x0 x1 x2) := by
  have f : Fit [(3, 5), (2, x2.toNat), (8, 0), (8, srcCode x1), (5, x0.toNat), (6, 43)] := ⟨by decide, x2.isLt, Nat.two_pow_pos 8, srcCode_lt x1, x0.isLt, by decide, trivial⟩
  obtain ⟨w, hw⟩ : ∃ w, w = encode (.vftanhF16 x0 x1 x2) := ⟨_, rfl⟩
  have e := toNat_pack hw f rfl (show 2885681157 + x0.toNat * 2097152 + srcCode x1 * 8192 + x2.toNat * 8 = 5 + 8 * (x2.toNat + 4 * (0 + 256 * (srcCode x1 + 256 * (x0.toNat + 32 * (43))))) by omega)
  have b0 : bits w 0 3 = 5 := at0 e f rfl
  have b1 : bits w 5 8 = 0 := at2 e f rfl
  have b2 : bits w 26 6 = 43 := at5 e f rfl
  have f0 : Sys2Proof.fld w 21 5 = x0 := fld_eq (at4 e f rfl)
  have f1 : srcAt w 13 = x1 := srcAt_eq (at3 e f rfl)
  have f2 : Sys2Proof.fld w 3 2 = x2 := fld_eq (at1 e f rfl)
  exact of_row hw (by rw [row2B b2]; simp [decode2B, b0, b1, f0, f1, f2])
theorem vshfl (x0 : BitVec 5) (x1 : Src) (x2 : Src) (x3 : BitVec 2) : Statement (.vshfl x0 x1 x2 x3) := by
  have f : Fit [(3, 0), (2, x3.toNat), (8, srcCode x2), (8, srcCode x1), (5, x0.toNat), (6, 44)] := ⟨Nat.two_pow_pos 3, x3.isLt, srcCode_lt x2, srcCode_lt x1, x0.isLt, by decide, trivial⟩
  obtain ⟨w, hw⟩ : ∃ w, w = encode (.vshfl x0 x1 x2 x3) := ⟨_, rfl⟩
  have e := toNat_pack hw f rfl (show 2952790016 + x0.toNat * 2097152 + srcCode x1 * 8192 + srcCode x2 * 32 + x3.toNat * 8 = 0 + 8 * (x3.toNat + 4 * (srcCode x2 + 256 * (srcCode x1 + 256 * (x0.toNat + 32 * (44))))) by omega)
  have b0 : bits w 0 3 = 0 := at0 e f rfl
  have b1 : bits w 26 6 = 44 := at5 e f rfl
  have f0 : Sys2Proof.fld w 21 5 = x0 := fld_eq (at4 e f rfl)
  have f1 : srcAt w 13 = x1 := srcAt_eq (at3 e f rfl)
  have f2 : srcAt w 5 = x2 := srcAt_eq (at2 e f rfl)
  have f3 : Sys2Proof.fld w 3 2 = x3 := fld_eq (at1 e f rfl)
  exact of_row hw (by rw [row2C b1]; simp [decode2C, b0, f0, f1, f2, f3])
theorem vperm (x0 : BitVec 5) (x1 : Src) (x2 : Src) (x3 : BitVec 2) : Statement (.vperm x0 x1 x2 x3) := by
  have f : Fit [(3, 1), (2, x3.toNat), (8, srcCode x2), (8, srcCode x1), (5, x0.toNat), (6, 44)] := ⟨by decide, x3.isLt, srcCode_lt x2, srcCode_lt x1, x0.isLt, by decide, trivial⟩
  obtain ⟨w, hw⟩ : ∃ w, w = encode (.vperm x0 x1 x2 x3) := ⟨_, rfl⟩
  have e := toNat_pack hw f rfl (show 2952790017 + x0.toNat * 2097152 + srcCode x1 * 8192 + srcCode x2 * 32 + x3.toNat * 8 = 1 + 8 * (x3.toNat + 4 * (srcCode x2 + 256 * (srcCode x1 + 256 * (x0.toNat + 32 * (44))))) by omega)
  have b0 : bits w 0 3 = 1 := at0 e f rfl
  have b1 : bits w 26 6 = 44 := at5 e f rfl
  have f0 : Sys2Proof.fld w 21 5 = x0 := fld_eq (at4 e f rfl)
  have f1 : srcAt w 13 = x1 := srcAt_eq (at3 e f rfl)
  have f2 : srcAt w 5 = x2 := srcAt_eq (at2 e f rfl)
  have f3 : Sys2Proof.fld w 3 2 = x3 := fld_eq (at1 e f rfl)
  exact of_row hw (by rw [row2C b1]; simp [decode2C, b0, f0, f1, f2, f3])
theorem vbcast (x0 : BitVec 5) (x1 : Src) (x2 : Src) (x3 : BitVec 2) : Statement (.vbcast x0 x1 x2 x3) := by
  have f : Fit [(3, 2), (2, x3.toNat), (8, srcCode x2), (8, srcCode x1), (5, x0.toNat), (6, 44)] := ⟨by decide, x3.isLt, srcCode_lt x2, srcCode_lt x1, x0.isLt, by decide, trivial⟩
  obtain ⟨w, hw⟩ : ∃ w, w = encode (.vbcast x0 x1 x2 x3) := ⟨_, rfl⟩
  have e := toNat_pack hw f rfl (show 2952790018 + x0.toNat * 2097152 + srcCode x1 * 8192 + srcCode x2 * 32 + x3.toNat * 8 = 2 + 8 * (x3.toNat + 4 * (srcCode x2 + 256 * (srcCode x1 + 256 * (x0.toNat + 32 * (44))))) by omega)
  have b0 : bits w 0 3 = 2 := at0 e f rfl
  have b1 : bits w 26 6 = 44 := at5 e f rfl
  have f0 : Sys2Proof.fld w 21 5 = x0 := fld_eq (at4 e f rfl)
  have f1 : srcAt w 13 = x1 := srcAt_eq (at3 e f rfl)
  have f2 : srcAt w 5 = x2 := srcAt_eq (at2 e f rfl)
  have f3 : Sys2Proof.fld w 3 2 = x3 := fld_eq (at1 e f rfl)
  exact of_row hw (by rw [row2C b1]; simp [decode2C, b0, f0, f1, f2, f3])
theorem qswapH (x0 : BitVec 5) (x1 : Src) (x2 : BitVec 2) : Statement (.qswapH x0 x1 x2) := by
  have f : Fit [(3, 3), (2, x2.toNat), (8, 0), (8, srcCode x1), (5, x0.toNat), (6, 44)] := ⟨by decide, x2.isLt, Nat.two_pow_pos 8, srcCode_lt x1, x0.isLt, by decide, trivial⟩
  obtain ⟨w, hw⟩ : ∃ w, w = encode (.qswapH x0 x1 x2) := ⟨_, rfl⟩
  have e := toNat_pack hw f rfl (show 2952790019 + x0.toNat * 2097152 + srcCode x1 * 8192 + x2.toNat * 8 = 3 + 8 * (x2.toNat + 4 * (0 + 256 * (srcCode x1 + 256 * (x0.toNat + 32 * (44))))) by omega)
  have b0 : bits w 0 3 = 3 := at0 e f rfl
  have b1 : bits w 5 8 = 0 := at2 e f rfl
  have b2 : bits w 26 6 = 44 := at5 e f rfl
  have f0 : Sys2Proof.fld w 21 5 = x0 := fld_eq (at4 e f rfl)
  have f1 : srcAt w 13 = x1 := srcAt_eq (at3 e f rfl)
  have f2 : Sys2Proof.fld w 3 2 = x2 := fld_eq (at1 e f rfl)
  exact of_row hw (by rw [row2C b2]; simp [decode2C, b0, b1, f0, f1, f2])
theorem qswapV (x0 : BitVec 5) (x1 : Src) (x2 : BitVec 2) : Statement (.qswapV x0 x1 x2) := by
  have f : Fit [(3, 4), (2, x2.toNat), (8, 0), (8, srcCode x1), (5, x0.toNat), (6, 44)] := ⟨by decide, x2.isLt, Nat.two_pow_pos 8, srcCode_lt x1, x0.isLt, by decide, trivial⟩
  obtain ⟨w, hw⟩ : ∃ w, w = encode (.qswapV x0 x1 x2) := ⟨_, rfl⟩
  have e := toNat_pack hw f rfl (show 2952790020 + x0.toNat * 2097152 + srcCode x1 * 8192 + x2.toNat * 8 = 4 + 8 * (x2.toNat + 4 * (0 + 256 * (srcCode x1 + 256 * (x0.toNat + 32 * (44))))) by omega)
  have b0 : bits w 0 3 = 4 := at0 e f rfl
  have b1 : bits w 5 8 = 0 := at2 e f rfl
  have b2 : bits w 26 6 = 44 := at5 e f rfl
  have f0 : Sys2Proof.fld w 21 5 = x0 := fld_eq (at4 e f rfl)
  have f1 : srcAt w 13 = x1 := srcAt_eq (at3 e f rfl)
  have f2 : Sys2Proof.fld w 3 2 = x2 := fld_eq (at1 e f rfl)
  exact of_row hw (by rw [row2C b2]; simp [decode2C, b0, b1, f0, f1, f2])
theorem qswapD (x0 : BitVec 5) (x1 : Src) (x2 : BitVec 2) : Statement (.qswapD x0 x1 x2) := by
  have f : Fit [(3, 5), (2, x2.toNat), (8, 0), (8, srcCode x1), (5, x0.toNat), (6, 44)] := ⟨by decide, x2.isLt, Nat.two_pow_pos 8, srcCode_lt x1, x0.isLt, by decide, trivial⟩
  obtain ⟨w, hw⟩ : ∃ w, w = encode (.qswapD x0 x1 x2) := ⟨_, rfl⟩
  have e := toNat_pack hw f rfl (show 2952790021 + x0.toNat * 2097152 + srcCode x1 * 8192 + x2.toNat * 8 = 5 + 8 * (x2.toNat + 4 * (0 + 256 * (srcCode x1 + 256 * (x0.toNat + 32 * (44))))) by omega)
  have b0 : bits w 0 3 = 5 := at0 e f rfl
  have b1 : bits w 5 8 = 0 := at2 e f rfl
  have b2 : bits w 26 6 = 44 := at5 e f rfl
  have f0 : Sys2Proof.fld w 21 5 = x0 := fld_eq (at4 e f rfl)
  have f1 : srcAt w 13 = x1 := srcAt_eq (at3 e f rfl)
  have f2 : Sys2Proof.fld w 3 2 = x2 := fld_eq (at1 e f rfl)
  exact of_row hw (by rw [row2C b2]; simp [decode2C, b0, b1, f0, f1, f2])
theorem qbcast (x0 : BitVec 5) (x1 : Src) (x2 : Src) (x3 : BitVec 2) : Statement (.qbcast x0 x1 x2 x3) := by
  have f : Fit [(3, 6), (2, x3.toNat), (8, srcCode x2), (8, srcCode x1), (5, x0.toNat), (6, 44)] := ⟨by decide, x3.isLt, srcCode_lt x2, srcCode_lt x1, x0.isLt, by decide, trivial⟩
  obtain ⟨w, hw⟩ : ∃ w, w = encode (.qbcast x0 x1 x2 x3) := ⟨_, rfl⟩
  have e := toNat_pack hw f rfl (show 2952790022 + x0.toNat * 2097152 + srcCode x1 * 8192 + srcCode x2 * 32 + x3.toNat * 8 = 6 + 8 * (x3.toNat + 4 * (srcCode x2 + 256 * (srcCode x1 + 256 * (x0.toNat + 32 * (44))))) by omega)
  have b0 : bits w 0 3 = 6 := at0 e f rfl
  have b1 : bits w 26 6 = 44 := at5 e f rfl
  have f0 : Sys2Proof.fld w 21 5 = x0 := fld_eq (at4 e f rfl)
  have f1 : srcAt w 13 = x1 := srcAt_eq (at3 e f rfl)
  have f2 : srcAt w 5 = x2 := srcAt_eq (at2 e f rfl)
  have f3 : Sys2Proof.fld w 3 2 = x3 := fld_eq (at1 e f rfl)
  exact of_row hw (by rw [row2C b1]; simp [decode2C, b0, f0, f1, f2, f3])
theorem qreduce (x0 : BitVec 5) (x1 : Src) (x2 : BitVec 3) (x3 : BitVec 2) : Statement (.qreduce x0 x1 x2 x3) := by
  have f : Fit [(3, 7), (2, x3.toNat), (3, x2.toNat), (5, 0), (8, srcCode x1), (5, x0.toNat), (6, 44)] := ⟨by decide, x3.isLt, x2.isLt, Nat.two_pow_pos 5, srcCode_lt x1, x0.isLt, by decide, trivial⟩
  obtain ⟨w, hw⟩ : ∃ w, w = encode (.qreduce x0 x1 x2 x3) := ⟨_, rfl⟩
  have e := toNat_pack hw f rfl (show 2952790023 + x0.toNat * 2097152 + srcCode x1 * 8192 + x2.toNat * 32 + x3.toNat * 8 = 7 + 8 * (x3.toNat + 4 * (x2.toNat + 8 * (0 + 32 * (srcCode x1 + 256 * (x0.toNat + 32 * (44)))))) by omega)
  have b0 : bits w 0 3 = 7 := at0 e f rfl
  have b1 : bits w 8 5 = 0 := at3 e f rfl
  have b2 : bits w 26 6 = 44 := at6 e f rfl
  have f0 : Sys2Proof.fld w 21 5 = x0 := fld_eq (at5 e f rfl)
  have f1 : srcAt w 13 = x1 := srcAt_eq (at4 e f rfl)
  have f2 : Sys2Proof.fld w 5 3 = x2 := fld_eq (at2 e f rfl)
  have f3 : Sys2Proof.fld w 3 2 = x3 := fld_eq (at1 e f rfl)
  exact of_row hw (by rw [row2C b2]; simp [decode2C, b0, b1, f0, f1, f2, f3])
theorem wreduceAdd (x0 : BitVec 5) (x1 : Src) (x2 : BitVec 2) : Statement (.wreduceAdd x0 x1 x2) := by
  have f : Fit [(3, 0), (2, x2.toNat), (8, 0), (8, srcCode x1), (5, x0.toNat), (6, 45)] := ⟨Nat.two_pow_pos 3, x2.isLt, Nat.two_pow_pos 8, srcCode_lt x1, x0.isLt, by decide, trivial⟩
  obtain ⟨w, hw⟩ : ∃ w, w = encode (.wreduceAdd x0 x1 x2) := ⟨_, rfl⟩
  have e := toNat_pack hw f rfl (show 3019898880 + x0.toNat * 2097152 + srcCode x1 * 8192 + x2.toNat * 8 = 0 + 8 * (x2.toNat + 4 * (0 + 256 * (srcCode x1 + 256 * (x0.toNat + 32 * (45))))) by omega)
  have b0 : bits w 0 3 = 0 := at0 e f rfl
  have b1 : bits w 5 8 = 0 := at2 e f rfl
  have b2 : bits w 26 6 = 45 := at5 e f rfl
  have f0 : Sys2Proof.fld w 21 5 = x0 := fld_eq (at4 e f rfl)
  have f1 : srcAt w 13 = x1 := srcAt_eq (at3 e f rfl)
  have f2 : Sys2Proof.fld w 3 2 = x2 := fld_eq (at1 e f rfl)
  exact of_row hw (by rw [row2D b2]; simp [decode2D, b0, b1, f0, f1, f2])
theorem wreduceMinS32 (x0 : BitVec 5) (x1 : Src) (x2 : BitVec 2) : Statement (.wreduceMinS32 x0 x1 x2) := by
  have f : Fit [(3, 1), (2, x2.toNat), (8, 0), (8, srcCode x1), (5, x0.toNat), (6, 45)] := ⟨by decide, x2.isLt, Nat.two_pow_pos 8, srcCode_lt x1, x0.isLt, by decide, trivial⟩
  obtain ⟨w, hw⟩ : ∃ w, w = encode (.wreduceMinS32 x0 x1 x2) := ⟨_, rfl⟩
  have e := toNat_pack hw f rfl (show 3019898881 + x0.toNat * 2097152 + srcCode x1 * 8192 + x2.toNat * 8 = 1 + 8 * (x2.toNat + 4 * (0 + 256 * (srcCode x1 + 256 * (x0.toNat + 32 * (45))))) by omega)
  have b0 : bits w 0 3 = 1 := at0 e f rfl
  have b1 : bits w 5 8 = 0 := at2 e f rfl
  have b2 : bits w 26 6 = 45 := at5 e f rfl
  have f0 : Sys2Proof.fld w 21 5 = x0 := fld_eq (at4 e f rfl)
  have f1 : srcAt w 13 = x1 := srcAt_eq (at3 e f rfl)
  have f2 : Sys2Proof.fld w 3 2 = x2 := fld_eq (at1 e f rfl)
  exact of_row hw (by rw [row2D b2]; simp [decode2D, b0, b1, f0, f1, f2])
theorem wreduceMinN32 (x0 : BitVec 5) (x1 : Src) (x2 : BitVec 2) : Statement (.wreduceMinN32 x0 x1 x2) := by
  have f : Fit [(3, 2), (2, x2.toNat), (8, 0), (8, srcCode x1), (5, x0.toNat), (6, 45)] := ⟨by decide, x2.isLt, Nat.two_pow_pos 8, srcCode_lt x1, x0.isLt, by decide, trivial⟩
  obtain ⟨w, hw⟩ : ∃ w, w = encode (.wreduceMinN32 x0 x1 x2) := ⟨_, rfl⟩
  have e := toNat_pack hw f rfl (show 3019898882 + x0.toNat * 2097152 + srcCode x1 * 8192 + x2.toNat * 8 = 2 + 8 * (x2.toNat + 4 * (0 + 256 * (srcCode x1 + 256 * (x0.toNat + 32 * (45))))) by omega)
  have b0 : bits w 0 3 = 2 := at0 e f rfl
  have b1 : bits w 5 8 = 0 := at2 e f rfl
  have b2 : bits w 26 6 = 45 := at5 e f rfl
  have f0 : Sys2Proof.fld w 21 5 = x0 := fld_eq (at4 e f rfl)
  have f1 : srcAt w 13 = x1 := srcAt_eq (at3 e f rfl)
  have f2 : Sys2Proof.fld w 3 2 = x2 := fld_eq (at1 e f rfl)
  exact of_row hw (by rw [row2D b2]; simp [decode2D, b0, b1, f0, f1, f2])
theorem wreduceMaxS32 (x0 : BitVec 5) (x1 : Src) (x2 : BitVec 2) : Statement (.wreduceMaxS32 x0 x1 x2) := by
  have f : Fit [(3, 3), (2, x2.toNat), (8, 0), (8, srcCode x1), (5, x0.toNat), (6, 45)] := ⟨by decide, x2.isLt, Nat.two_pow_pos 8, srcCode_lt x1, x0.isLt, by decide, trivial⟩
  obtain ⟨w, hw⟩ : ∃ w, w = encode (.wreduceMaxS32 x0 x1 x2) := ⟨_, rfl⟩
  have e := toNat_pack hw f rfl (show 3019898883 + x0.toNat * 2097152 + srcCode x1 * 8192 + x2.toNat * 8 = 3 + 8 * (x2.toNat + 4 * (0 + 256 * (srcCode x1 + 256 * (x0.toNat + 32 * (45))))) by omega)
  have b0 : bits w 0 3 = 3 := at0 e f rfl
  have b1 : bits w 5 8 = 0 := at2 e f rfl
  have b2 : bits w 26 6 = 45 := at5 e f rfl
  have f0 : Sys2Proof.fld w 21 5 = x0 := fld_eq (at4 e f rfl)
  have f1 : srcAt w 13 = x1 := srcAt_eq (at3 e f rfl)
  have f2 : Sys2Proof.fld w 3 2 = x2 := fld_eq (at1 e f rfl)
  exact of_row hw (by rw [row2D b2]; simp [decode2D, b0, b1, f0, f1, f2])
theorem wreduceMaxN32 (x0 : BitVec 5) (x1 : Src) (x2 : BitVec 2) : Statement (.wreduceMaxN32 x0 x1 x2) := by
  have f : Fit [(3, 4), (2, x2.toNat), (8, 0), (8, srcCode x1), (5, x0.toNat), (6, 45)] := ⟨by decide, x2.isLt, Nat.two_pow_pos 8, srcCode_lt x1, x0.isLt, by decide, trivial⟩
  obtain ⟨w, hw⟩ : ∃ w, w = encode (.wreduceMaxN32 x0 x1 x2) := ⟨_, rfl⟩
  have e := toNat_pack hw f rfl (show 3019898884 + x0.toNat * 2097152 + srcCode x1 * 8192 + x2.toNat * 8 = 4 + 8 * (x2.toNat + 4 * (0 + 256 * (srcCode x1 + 256 * (x0.toNat + 32 * (45))))) by omega)
  have b0 : bits w 0 3 = 4 := at0 e f rfl
  have b1 : bits w 5 8 = 0 := at2 e f rfl
  have b2 : bits w 26 6 = 45 := at5 e f rfl
  have f0 : Sys2Proof.fld w 21 5 = x0 := fld_eq (at4 e f rfl)
  have f1 : srcAt w 13 = x1 := srcAt_eq (at3 e f rfl)
  have f2 : Sys2Proof.fld w 3 2 = x2 := fld_eq (at1 e f rfl)
  exact of_row hw (by rw [row2D b2]; simp [decode2D, b0, b1, f0, f1, f2])
theorem wscan (x0 : BitVec 5) (x1 : Src) (x2 : BitVec 1) (x3 : BitVec 2) : Statement (.wscan x0 x1 x2 x3) := by
  have f : Fit [(3, 5), (2, x3.toNat), (1, x2.toNat), (7, 0), (8, srcCode x1), (5, x0.toNat), (6, 45)] := ⟨by decide, x3.isLt, x2.isLt, Nat.two_pow_pos 7, srcCode_lt x1, x0.isLt, by decide, trivial⟩
  obtain ⟨w, hw⟩ : ∃ w, w = encode (.wscan x0 x1 x2 x3) := ⟨_, rfl⟩
  have e := toNat_pack hw f rfl (show 3019898885 + x0.toNat * 2097152 + srcCode x1 * 8192 + x2.toNat * 32 + x3.toNat * 8 = 5 + 8 * (x3.toNat + 4 * (x2.toNat + 2 * (0 + 128 * (srcCode x1 + 256 * (x0.toNat + 32 * (45)))))) by omega)
  have b0 : bits w 0 3 = 5 := at0 e f rfl
  have b1 : bits w 6 7 = 0 := at3 e f rfl
  have b2 : bits w 26 6 = 45 := at6 e f rfl
  have f0 : Sys2Proof.fld w 21 5 = x0 := fld_eq (at5 e f rfl)
  have f1 : srcAt w 13 = x1 := srcAt_eq (at4 e f rfl)
  have f2 : Sys2Proof.fld w 5 1 = x2 := fld_eq (at2 e f rfl)
  have f3 : Sys2Proof.fld w 3 2 = x3 := fld_eq (at1 e f rfl)
  exact of_row hw (by rw [row2D b2]; simp [decode2D, b0, b1, f0, f1, f2, f3])
theorem vcompact (x0 : BitVec 5) (x1 : Src) (x2 : BitVec 4) (x3 : BitVec 2) : Statement (.vcompact x0 x1 x2 x3) := by
  have f : Fit [(3, 6), (2, x3.toNat), (4, x2.toNat), (4, 0), (8, srcCode x1), (5, x0.toNat), (6, 45)] := ⟨by decide, x3.isLt, x2.isLt, Nat.two_pow_pos 4, srcCode_lt x1, x0.isLt, by decide, trivial⟩
  obtain ⟨w, hw⟩ : ∃ w, w = encode (.vcompact x0 x1 x2 x3) := ⟨_, rfl⟩
  have e := toNat_pack hw f rfl (show 3019898886 + x0.toNat * 2097152 + srcCode x1 * 8192 + x2.toNat * 32 + x3.toNat * 8 = 6 + 8 * (x3.toNat + 4 * (x2.toNat + 16 * (0 + 16 * (srcCode x1 + 256 * (x0.toNat + 32 * (45)))))) by omega)
  have b0 : bits w 0 3 = 6 := at0 e f rfl
  have b1 : bits w 9 4 = 0 := at3 e f rfl
  have b2 : bits w 26 6 = 45 := at6 e f rfl
  have f0 : Sys2Proof.fld w 21 5 = x0 := fld_eq (at5 e f rfl)
  have f1 : srcAt w 13 = x1 := srcAt_eq (at4 e f rfl)
  have f2 : Sys2Proof.fld w 5 4 = x2 := fld_eq (at2 e f rfl)
  have f3 : Sys2Proof.fld w 3 2 = x3 := fld_eq (at1 e f rfl)
  exact of_row hw (by rw [row2D b2]; simp [decode2D, b0, b1, f0, f1, f2, f3])
theorem vexpand (x0 : BitVec 5) (x1 : Src) (x2 : BitVec 4) (x3 : BitVec 2) : Statement (.vexpand x0 x1 x2 x3) := by
  have f : Fit [(3, 7), (2, x3.toNat), (4, x2.toNat), (4, 0), (8, srcCode x1), (5, x0.toNat), (6, 45)] := ⟨by decide, x3.isLt, x2.isLt, Nat.two_pow_pos 4, srcCode_lt x1, x0.isLt, by decide, trivial⟩
  obtain ⟨w, hw⟩ : ∃ w, w = encode (.vexpand x0 x1 x2 x3) := ⟨_, rfl⟩
  have e := toNat_pack hw f rfl (show 3019898887 + x0.toNat * 2097152 + srcCode x1 * 8192 + x2.toNat * 32 + x3.toNat * 8 = 7 + 8 * (x3.toNat + 4 * (x2.toNat + 16 * (0 + 16 * (srcCode x1 + 256 * (x0.toNat + 32 * (45)))))) by omega)
  have b0 : bits w 0 3 = 7 := at0 e f rfl
  have b1 : bits w 9 4 = 0 := at3 e f rfl
  have b2 : bits w 26 6 = 45 := at6 e f rfl
  have f0 : Sys2Proof.fld w 21 5 = x0 := fld_eq (at5 e f rfl)
  have f1 : srcAt w 13 = x1 := srcAt_eq (at4 e f rfl)
  have f2 : Sys2Proof.fld w 5 4 = x2 := fld_eq (at2 e f rfl)
  have f3 : Sys2Proof.fld w 3 2 = x3 := fld_eq (at1 e f rfl)
  exact of_row hw (by rw [row2D b2]; simp [decode2D, b0, b1, f0, f1, f2, f3])
theorem reorder (x0 : BitVec 5) (x1 : BitVec 5) : Statement (.reorder x0 x1) := by
  have f : Fit [(5, 0), (5, x1.toNat), (3, 7), (5, x0.toNat), (8, 0), (6, 46)] := ⟨Nat.two_pow_pos 5, x1.isLt, by decide, x0.isLt, Nat.two_pow_pos 8, by decide, trivial⟩
  obtain ⟨w, hw⟩ : ∃ w, w = encode (.reorder x0 x1) := ⟨_, rfl⟩
  have e := toNat_pack hw f rfl (show 3087014912 + x0.toNat * 8192 + x1.toNat * 32 = 0 + 32 * (x1.toNat + 32 * (7 + 8 * (x0.toNat + 32 * (0 + 256 * (46))))) by omega)
  have b0 : bits w 0 5 = 0 := at0 e f rfl
  have b1 : bits w 10 3 = 7 := at2 e f rfl
  have b2 : bits w 18 8 = 0 := at4 e f rfl
  have b3 : bits w 26 6 = 46 := at5 e f rfl
  have f0 : Sys2Proof.fld w 13 5 = x0 := fld_eq (at3 e f rfl)
  have f1 : Sys2Proof.fld w 5 5 = x1 := fld_eq (at1 e f rfl)
  exact of_row hw (by rw [row2E b3]; simp [decode2E, b0, b1, b2, f0, f1])
theorem wreduceAddF32 (x0 : BitVec 5) (x1 : Src) (x2 : BitVec 2) : Statement (.wreduceAddF32 x0 x1 x2) := by
  have f : Fit [(3, 1), (2, x2.toNat), (5, 0), (3, 0), (8, srcCode x1), (5, x0.toNat), (6, 46)] := ⟨by decide, x2.isLt, Nat.two_pow_pos 5, Nat.two_pow_pos 3, srcCode_lt x1, x0.isLt, by decide, trivial⟩
  obtain ⟨w, hw⟩ : ∃ w, w = encode (.wreduceAddF32 x0 x1 x2) := ⟨_, rfl⟩
  have e := toNat_pack hw f rfl (show 3087007745 + x0.toNat * 2097152 + srcCode x1 * 8192 + x2.toNat * 8 = 1 + 8 * (x2.toNat + 4 * (0 + 32 * (0 + 8 * (srcCode x1 + 256 * (x0.toNat + 32 * (46)))))) by omega)
  have b0 : bits w 0 3 = 1 := at0 e f rfl
  have b1 : bits w 5 8 = 0 := bits_pack e f 2 2 rfl rfl rfl
  have b2 : bits w 10 3 = 0 := at3 e f rfl
  have b3 : bits w 26 6 = 46 := at6 e f rfl
  have f0 : Sys2Proof.fld w 21 5 = x0 := fld_eq (at5 e f rfl)
  have f1 : srcAt w 13 = x1 := srcAt_eq (at4 e f rfl)
  have f2 : Sys2Proof.fld w 3 2 = x2 := fld_eq (at1 e f rfl)
  exact of_row hw (by rw [row2E b3]; simp [decode2E, b0, b1, b2, f0, f1, f2])
theorem wreduceMinF32 (x0 : BitVec 5) (x1 : Src) (x2 : BitVec 2) : Statement (.wreduceMinF32 x0 x1 x2) := by
  have f : Fit [(3, 2), (2, x2.toNat), (5, 0), (3, 0), (8, srcCode x1), (5, x0.toNat), (6, 46)] := ⟨by decide, x2.isLt, Nat.two_pow_pos 5, Nat.two_pow_pos 3, srcCode_lt x1, x0.isLt, by decide, trivial⟩
  obtain ⟨w, hw⟩ : ∃ w, w = encode (.wreduceMinF32 x0 x1 x2) := ⟨_, rfl⟩
  have e := toNat_pack hw f rfl (show 3087007746 + x0.toNat * 2097152 + srcCode x1 * 8192 + x2.toNat * 8 = 2 + 8 * (x2.toNat + 4 * (0 + 32 * (0 + 8 * (srcCode x1 + 256 * (x0.toNat + 32 * (46)))))) by omega)
  have b0 : bits w 0 3 = 2 := at0 e f rfl
  have b1 : bits w 5 8 = 0 := bits_pack e f 2 2 rfl rfl rfl
  have b2 : bits w 10 3 = 0 := at3 e f rfl
  have b3 : bits w 26 6 = 46 := at6 e f rfl
  have f0 : Sys2Proof.fld w 21 5 = x0 := fld_eq (at5 e f rfl)
  have f1 : srcAt w 13 = x1 := srcAt_eq (at4 e f rfl)
  have f2 : Sys2Proof.fld w 3 2 = x2 := fld_eq (at1 e f rfl)
  exact of_row hw (by rw [row2E b3]; simp [decode2E, b0, b1, b2, f0, f1, f2])
theorem wreduceMaxF32 (x0 : BitVec 5) (x1 : Src) (x2 : BitVec 2) : Statement (.wreduceMaxF32 x0 x1 x2) := by
  have f : Fit [(3, 3), (2, x2.toNat), (5, 0), (3, 0), (8, srcCode x1), (5, x0.toNat), (6, 46)] := ⟨by decide, x2.isLt, Nat.two_pow_pos 5, Nat.two_pow_pos 3, srcCode_lt x1, x0.isLt, by decide, trivial⟩
  obtain ⟨w, hw⟩ : ∃ w, w = encode (.wreduceMaxF32 x0 x1 x2) := ⟨_, rfl⟩
  have e := toNat_pack hw f rfl (show 3087007747 + x0.toNat * 2097152 + srcCode x1 * 8192 + x2.toNat * 8 = 3 + 8 * (x2.toNat + 4 * (0 + 32 * (0 + 8 * (srcCode x1 + 256 * (x0.toNat + 32 * (46)))))) by omega)
  have b0 : bits w 0 3 = 3 := at0 e f rfl
  have b1 : bits w 5 8 = 0 := bits_pack e f 2 2 rfl rfl rfl
  have b2 : bits w 10 3 = 0 := at3 e f rfl
  have b3 : bits w 26 6 = 46 := at6 e f rfl
  have f0 : Sys2Proof.fld w 21 5 = x0 := fld_eq (at5 e f rfl)
  have f1 : srcAt w 13 = x1 := srcAt_eq (at4 e f rfl)
  have f2 : Sys2Proof.fld w 3 2 = x2 := fld_eq (at1 e f rfl)
  exact of_row hw (by rw [row2E b3]; simp [decode2E, b0, b1, b2, f0, f1, f2])
theorem wscanF32 (x0 : BitVec 5) (x1 : Src) (x2 : BitVec 1) (x3 : BitVec 2) : Statement (.wscanF32 x0 x1 x2 x3) := by
  have f : Fit [(3, 4), (2, x3.toNat), (1, x2.toNat), (4, 0), (3, 0), (8, srcCode x1), (5, x0.toNat), (6, 46)] := ⟨by decide, x3.isLt, x2.isLt, Nat.two_pow_pos 4, Nat.two_pow_pos 3, srcCode_lt x1, x0.isLt, by decide, trivial⟩
  obtain ⟨w, hw⟩ : ∃ w, w = encode (.wscanF32 x0 x1 x2 x3) := ⟨_, rfl⟩
  have e := toNat_pack hw f rfl (show 3087007748 + x0.toNat * 2097152 + srcCode x1 * 8192 + x2.toNat * 32 + x3.toNat * 8 = 4 + 8 * (x3.toNat + 4 * (x2.toNat + 2 * (0 + 16 * (0 + 8 * (srcCode x1 + 256 * (x0.toNat + 32 * (46))))))) by omega)
  have b0 : bits w 0 3 = 4 := at0 e f rfl
  have b1 : bits w 6 7 = 0 := bits_pack e f 3 2 rfl rfl rfl
  have b2 : bits w 10 3 = 0 := at4 e f rfl
  have b3 : bits w 26 6 = 46 := at7 e f rfl
  have f0 : Sys2Proof.fld w 21 5 = x0 := fld_eq (at6 e f rfl)
  have f1 : srcAt w 13 = x1 := srcAt_eq (at5 e f rfl)
  have f2 : Sys2Proof.fld w 5 1 = x2 := fld_eq (at2 e f rfl)
  have f3 : Sys2Proof.fld w 3 2 = x3 := fld_eq (at1 e f rfl)
  exact of_row hw (by rw [row2E b3]; simp [decode2E, b0, b1, b2, f0, f1, f2, f3])
theorem ld (x0 : BitVec 5) (x1 : BitVec 5) (x2 : BitVec 5) (x3 : BitVec 4) (x4 : BitVec 2) (x5 : BitVec 3) (x6 : BitVec 2) : Statement (.ld x0 x1 x2 x3 x4 x5 x6) := by
  have f : Fit [(2, x6.toNat), (3, x5.toNat), (2, x4.toNat), (4, x3.toNat), (5, x2.toNat), (5, x1.toNat), (5, x0.toNat), (6, 48)] := ⟨x6.isLt, x5.isLt, x4.isLt, x3.isLt, x2.isLt, x1.isLt, x0.isLt, by decide, trivial⟩
  obtain ⟨w, hw⟩ : ∃ w, w = encode (.ld x0 x1 x2 x3 x4 x5 x6) := ⟨_, rfl⟩
  have e := toNat_pack hw f rfl (show 3221225472 + x0.toNat * 2097152 + x1.toNat * 65536 + x2.toNat * 2048 + x3.toNat * 128 + x4.toNat * 32 + x5.toNat * 4 + x6.toNat = x6.toNat + 4 * (x5.toNat + 8 * (x4.toNat + 4 * (x3.toNat + 16 * (x2.toNat + 32 * (x1.toNat + 32 * (x0.toNat + 32 * (48))))))) by omega)
  have b0 : bits w 26 6 = 48 := at7 e f rfl
  have f0 : Sys2Proof.fld w 21 5 = x0 := fld_eq (at6 e f rfl)
  have f1 : Sys2Proof.fld w 16 5 = x1 := fld_eq (at5 e f rfl)
  have f2 : Sys2Proof.fld w 11 5 = x2 := fld_eq (at4 e f rfl)
  have f3 : Sys2Proof.fld w 7 4 = x3 := fld_eq (at3 e f rfl)
  have f4 : Sys2Proof.fld w 5 2 = x4 := fld_eq (at2 e f rfl)
  have f5 : Sys2Proof.fld w 2 3 = x5 := fld_eq (at1 e f rfl)
  have f6 : Sys2Proof.fld w 0 2 = x6 := fld_eq (at0 e f rfl)
  exact of_row hw (by rw [row30 b0]; simp [decode30, f0, f1, f2, f3, f4, f5, f6])
theorem ldAcq (x0 : BitVec 5) (x1 : BitVec 5) (x2 : BitVec 5) (x3 : BitVec 4) (x4 : BitVec 2) (x5 : BitVec 3) (x6 : BitVec 2) : Statement (.ldAcq x0 x1 x2 x3 x4 x5 x6) := by
  have f : Fit [(2, x6.toNat), (3, x5.toNat), (2, x4.toNat), (4, x3.toNat), (5, x2.toNat), (5, x1.toNat), (5, x0.toNat), (6, 49)] := ⟨x6.isLt, x5.isLt, x4.isLt, x3.isLt, x2.isLt, x1.isLt, x0.isLt, by decide, trivial⟩
  obtain ⟨w, hw⟩ : ∃ w, w = encode (.ldAcq x0 x1 x2 x3 x4 x5 x6) := ⟨_, rfl⟩
  have e := toNat_pack hw f rfl (show 3288334336 + x0.toNat * 2097152 + x1.toNat * 65536 + x2.toNat * 2048 + x3.toNat * 128 + x4.toNat * 32 + x5.toNat * 4 + x6.toNat = x6.toNat + 4 * (x5.toNat + 8 * (x4.toNat + 4 * (x3.toNat + 16 * (x2.toNat + 32 * (x1.toNat + 32 * (x0.toNat + 32 * (49))))))) by omega)
  have b0 : bits w 26 6 = 49 := at7 e f rfl
  have f0 : Sys2Proof.fld w 21 5 = x0 := fld_eq (at6 e f rfl)
  have f1 : Sys2Proof.fld w 16 5 = x1 := fld_eq (at5 e f rfl)
  have f2 : Sys2Proof.fld w 11 5 = x2 := fld_eq (at4 e f rfl)
  have f3 : Sys2Proof.fld w 7 4 = x3 := fld_eq (at3 e f rfl)
  have f4 : Sys2Proof.fld w 5 2 = x4 := fld_eq (at2 e f rfl)
  have f5 : Sys2Proof.fld w 2 3 = x5 := fld_eq (at1 e f rfl)
  have f6 : Sys2Proof.fld w 0 2 = x6 := fld_eq (at0 e f rfl)
  exact of_row hw (by rw [row31 b0]; simp [decode31, f0, f1, f2, f3, f4, f5, f6])
theorem ldRo (x0 : BitVec 5) (x1 : BitVec 5) (x2 : BitVec 5) (x3 : BitVec 4) (x4 : BitVec 2) (x5 : BitVec 3) (x6 : BitVec 1) : Statement (.ldRo x0 x1 x2 x3 x4 x5 x6) := by
  have f : Fit [(1, x6.toNat), (1, 0), (3, x5.toNat), (2, x4.toNat), (4, x3.toNat), (5, x2.toNat), (5, x1.toNat), (5, x0.toNat), (6, 50)] := ⟨x6.isLt, Nat.two_pow_pos 1, x5.isLt, x4.isLt, x3.isLt, x2.isLt, x1.isLt, x0.isLt, by decide, trivial⟩
  obtain ⟨w, hw⟩ : ∃ w, w = encode (.ldRo x0 x1 x2 x3 x4 x5 x6) := ⟨_, rfl⟩
  have e := toNat_pack hw f rfl (show 3355443200 + x0.toNat * 2097152 + x1.toNat * 65536 + x2.toNat * 2048 + x3.toNat * 128 + x4.toNat * 32 + x5.toNat * 4 + x6.toNat = x6.toNat + 2 * (0 + 2 * (x5.toNat + 8 * (x4.toNat + 4 * (x3.toNat + 16 * (x2.toNat + 32 * (x1.toNat + 32 * (x0.toNat + 32 * (50)))))))) by omega)
  have b0 : bits w 1 1 = 0 := at1 e f rfl
  have b1 : bits w 26 6 = 50 := at8 e f rfl
  have f0 : Sys2Proof.fld w 21 5 = x0 := fld_eq (at7 e f rfl)
  have f1 : Sys2Proof.fld w 16 5 = x1 := fld_eq (at6 e f rfl)
  have f2 : Sys2Proof.fld w 11 5 = x2 := fld_eq (at5 e f rfl)
  have f3 : Sys2Proof.fld w 7 4 = x3 := fld_eq (at4 e f rfl)
  have f4 : Sys2Proof.fld w 5 2 = x4 := fld_eq (at3 e f rfl)
  have f5 : Sys2Proof.fld w 2 3 = x5 := fld_eq (at2 e f rfl)
  have f6 : Sys2Proof.fld w 0 1 = x6 := fld_eq (at0 e f rfl)
  exact of_row hw (by rw [row32 b1]; simp [decode32, b0, f0, f1, f2, f3, f4, f5, f6])
theorem ldStream (x0 : BitVec 5) (x1 : BitVec 5) (x2 : BitVec 5) (x3 : BitVec 4) (x4 : BitVec 2) (x5 : BitVec 3) (x6 : BitVec 1) : Statement (.ldStream x0 x1 x2 x3 x4 x5 x6) := by
  have f : Fit [(1, x6.toNat), (1, 1), (3, x5.toNat), (2, x4.toNat), (4, x3.toNat), (5, x2.toNat), (5, x1.toNat), (5, x0.toNat), (6, 50)] := ⟨x6.isLt, by decide, x5.isLt, x4.isLt, x3.isLt, x2.isLt, x1.isLt, x0.isLt, by decide, trivial⟩
  obtain ⟨w, hw⟩ : ∃ w, w = encode (.ldStream x0 x1 x2 x3 x4 x5 x6) := ⟨_, rfl⟩
  have e := toNat_pack hw f rfl (show 3355443202 + x0.toNat * 2097152 + x1.toNat * 65536 + x2.toNat * 2048 + x3.toNat * 128 + x4.toNat * 32 + x5.toNat * 4 + x6.toNat = x6.toNat + 2 * (1 + 2 * (x5.toNat + 8 * (x4.toNat + 4 * (x3.toNat + 16 * (x2.toNat + 32 * (x1.toNat + 32 * (x0.toNat + 32 * (50)))))))) by omega)
  have b0 : bits w 1 1 = 1 := at1 e f rfl
  have b1 : bits w 26 6 = 50 := at8 e f rfl
  have f0 : Sys2Proof.fld w 21 5 = x0 := fld_eq (at7 e f rfl)
  have f1 : Sys2Proof.fld w 16 5 = x1 := fld_eq (at6 e f rfl)
  have f2 : Sys2Proof.fld w 11 5 = x2 := fld_eq (at5 e f rfl)
  have f3 : Sys2Proof.fld w 7 4 = x3 := fld_eq (at4 e f rfl)
  have f4 : Sys2Proof.fld w 5 2 = x4 := fld_eq (at3 e f rfl)
  have f5 : Sys2Proof.fld w 2 3 = x5 := fld_eq (at2 e f rfl)
  have f6 : Sys2Proof.fld w 0 1 = x6 := fld_eq (at0 e f rfl)
  exact of_row hw (by rw [row32 b1]; simp [decode32, b0, f0, f1, f2, f3, f4, f5, f6])
theorem ldSp (x0 : BitVec 5) (x1 : BitVec 5) (x2 : BitVec 5) (x3 : BitVec 4) (x4 : BitVec 2) (x5 : BitVec 3) (x6 : BitVec 1) : Statement (.ldSp x0 x1 x2 x3 x4 x5 x6) := by
  have f : Fit [(1, x6.toNat), (1, 0), (3, x5.toNat), (2, x4.toNat), (4, x3.toNat), (5, x2.toNat), (5, x1.toNat), (5, x0.toNat), (6, 51)] := ⟨x6.isLt, Nat.two_pow_pos 1, x5.isLt, x4.isLt, x3.isLt, x2.isLt, x1.isLt, x0.isLt, by decide, trivial⟩
  obtain ⟨w, hw⟩ : ∃ w, w = encode (.ldSp x0 x1 x2 x3 x4 x5 x6) := ⟨_, rfl⟩
  have e := toNat_pack hw f rfl (show 3422552064 + x0.toNat * 2097152 + x1.toNat * 65536 + x2.toNat * 2048 + x3.toNat * 128 + x4.toNat * 32 + x5.toNat * 4 + x6.toNat = x6.toNat + 2 * (0 + 2 * (x5.toNat + 8 * (x4.toNat + 4 * (x3.toNat + 16 * (x2.toNat + 32 * (x1.toNat + 32 * (x0.toNat + 32 * (51)))))))) by omega)
  have b0 : bits w 1 1 = 0 := at1 e f rfl
  have b1 : bits w 26 6 = 51 := at8 e f rfl
  have f0 : Sys2Proof.fld w 21 5 = x0 := fld_eq (at7 e f rfl)
  have f1 : Sys2Proof.fld w 16 5 = x1 := fld_eq (at6 e f rfl)
  have f2 : Sys2Proof.fld w 11 5 = x2 := fld_eq (at5 e f rfl)
  have f3 : Sys2Proof.fld w 7 4 = x3 := fld_eq (at4 e f rfl)
  have f4 : Sys2Proof.fld w 5 2 = x4 := fld_eq (at3 e f rfl)
  have f5 : Sys2Proof.fld w 2 3 = x5 := fld_eq (at2 e f rfl)
  have f6 : Sys2Proof.fld w 0 1 = x6 := fld_eq (at0 e f rfl)
  exact of_row hw (by rw [row33 b1]; simp [decode33, b0, f0, f1, f2, f3, f4, f5, f6])
theorem sld (x0 : BitVec 5) (x1 : BitVec 5) (x2 : BitVec 4) (x3 : BitVec 2) (x4 : BitVec 3) : Statement (.sld x0 x1 x2 x3 x4) := by
  have f : Fit [(1, 0), (1, 1), (3, x4.toNat), (2, x3.toNat), (4, x2.toNat), (5, 0), (5, x1.toNat), (5, x0.toNat), (6, 51)] := ⟨Nat.two_pow_pos 1, by decide, x4.isLt, x3.isLt, x2.isLt, Nat.two_pow_pos 5, x1.isLt, x0.isLt, by decide, trivial⟩
  obtain ⟨w, hw⟩ : ∃ w, w = encode (.sld x0 x1 x2 x3 x4) := ⟨_, rfl⟩
  have e := toNat_pack hw f rfl (show 3422552066 + x0.toNat * 2097152 + x1.toNat * 65536 + x2.toNat * 128 + x3.toNat * 32 + x4.toNat * 4 = 0 + 2 * (1 + 2 * (x4.toNat + 8 * (x3.toNat + 4 * (x2.toNat + 16 * (0 + 32 * (x1.toNat + 32 * (x0.toNat + 32 * (51)))))))) by omega)
  have b0 : bits w 0 2 = 2 := bits_pack e f 0 2 rfl rfl rfl
  have b1 : bits w 1 1 = 1 := at1 e f rfl
  have b2 : bits w 11 5 = 0 := at5 e f rfl
  have b3 : bits w 26 6 = 51 := at8 e f rfl
  have f0 : Sys2Proof.fld w 21 5 = x0 := fld_eq (at7 e f rfl)
  have f1 : Sys2Proof.fld w 16 5 = x1 := fld_eq (at6 e f rfl)
  have f2 : Sys2Proof.fld w 7 4 = x2 := fld_eq (at4 e f rfl)
  have f3 : Sys2Proof.fld w 5 2 = x3 := fld_eq (at3 e f rfl)
  have f4 : Sys2Proof.fld w 2 3 = x4 := fld_eq (at2 e f rfl)
  exact of_row hw (by rw [row33 b3]; simp [decode33, b0, b1, b2, f0, f1, f2, f3, f4])
theorem st (x0 : BitVec 5) (x1 : BitVec 5) (x2 : BitVec 5) (x3 : BitVec 2) (x4 : BitVec 3) (x5 : BitVec 1) : Statement (.st x0 x1 x2 x3 x4 x5) := by
  have f : Fit [(1, 0), (1, x5.toNat), (3, x4.toNat), (2, x3.toNat), (4, 0), (5, x2.toNat), (5, x1.toNat), (5, x0.toNat), (6, 52)] := ⟨Nat.two_pow_pos 1, x5.isLt, x4.isLt, x3.isLt, Nat.two_pow_pos 4, x2.isLt, x1.isLt, x0.isLt, by decide, trivial⟩
  obtain ⟨w, hw⟩ : ∃ w, w = encode (.st x0 x1 x2 x3 x4 x5) := ⟨_, rfl⟩
  have e := toNat_pack hw f rfl (show 3489660928 + x0.toNat * 2097152 + x1.toNat * 65536 + x2.toNat * 2048 + x3.toNat * 32 + x4.toNat * 4 + x5.toNat * 2 = 0 + 2 * (x5.toNat + 2 * (x4.toNat + 8 * (x3.toNat + 4 * (0 + 16 * (x2.toNat + 32 * (x1.toNat + 32 * (x0.toNat + 32 * (52)))))))) by omega)
  have b0 : bits w 0 1 = 0 := at0 e f rfl
  have b1 : bits w 7 4 = 0 := at4 e f rfl
  have b2 : bits w 26 6 = 52 := at8 e f rfl
  have f0 : Sys2Proof.fld w 21 5 = x0 := fld_eq (at7 e f rfl)
  have f1 : Sys2Proof.fld w 16 5 = x1 := fld_eq (at6 e f rfl)
  have f2 : Sys2Proof.fld w 11 5 = x2 := fld_eq (at5 e f rfl)
  have f3 : Sys2Proof.fld w 5 2 = x3 := fld_eq (at3 e f rfl)
  have f4 : Sys2Proof.fld w 2 3 = x4 := fld_eq (at2 e f rfl)
  have f5 : Sys2Proof.fld w 1 1 = x5 := fld_eq (at1 e f rfl)
  exact of_row hw (by rw [row34 b2]; simp [decode34, b0, b1, f0, f1, f2, f3, f4, f5])
theorem stRel (x0 : BitVec 5) (x1 : BitVec 5) (x2 : BitVec 5) (x3 : BitVec 2) (x4 : BitVec 3) (x5 : BitVec 1) : Statement (.stRel x0 x1 x2 x3 x4 x5) := by
  have f : Fit [(1, 0), (1, x5.toNat), (3, x4.toNat), (2, x3.toNat), (4, 0), (5, x2.toNat), (5, x1.toNat), (5, x0.toNat), (6, 53)] := ⟨Nat.two_pow_pos 1, x5.isLt, x4.isLt, x3.isLt, Nat.two_pow_pos 4, x2.isLt, x1.isLt, x0.isLt, by decide, trivial⟩
  obtain ⟨w, hw⟩ : ∃ w, w = encode (.stRel x0 x1 x2 x3 x4 x5) := ⟨_, rfl⟩
  have e := toNat_pack hw f rfl (show 3556769792 + x0.toNat * 2097152 + x1.toNat * 65536 + x2.toNat * 2048 + x3.toNat * 32 + x4.toNat * 4 + x5.toNat * 2 = 0 + 2 * (x5.toNat + 2 * (x4.toNat + 8 * (x3.toNat + 4 * (0 + 16 * (x2.toNat + 32 * (x1.toNat + 32 * (x0.toNat + 32 * (53)))))))) by omega)
  have b0 : bits w 0 1 = 0 := at0 e f rfl
  have b1 : bits w 7 4 = 0 := at4 e f rfl
  have b2 : bits w 26 6 = 53 := at8 e f rfl
  have f0 : Sys2Proof.fld w 21 5 = x0 := fld_eq (at7 e f rfl)
  have f1 : Sys2Proof.fld w 16 5 = x1 := fld_eq (at6 e f rfl)
  have f2 : Sys2Proof.fld w 11 5 = x2 := fld_eq (at5 e f rfl)
  have f3 : Sys2Proof.fld w 5 2 = x3 := fld_eq (at3 e f rfl)
  have f4 : Sys2Proof.fld w 2 3 = x4 := fld_eq (at2 e f rfl)
  have f5 : Sys2Proof.fld w 1 1 = x5 := fld_eq (at1 e f rfl)
  exact of_row hw (by rw [row35 b2]; simp [decode35, b0, b1, f0, f1, f2, f3, f4, f5])
theorem stSp (x0 : BitVec 5) (x1 : BitVec 5) (x2 : BitVec 5) (x3 : BitVec 2) (x4 : BitVec 3) : Statement (.stSp x0 x1 x2 x3 x4) := by
  have f : Fit [(1, 1), (1, 0), (3, x4.toNat), (2, x3.toNat), (4, 0), (5, x2.toNat), (5, x1.toNat), (5, x0.toNat), (6, 53)] := ⟨by decide, Nat.two_pow_pos 1, x4.isLt, x3.isLt, Nat.two_pow_pos 4, x2.isLt, x1.isLt, x0.isLt, by decide, trivial⟩
  obtain ⟨w, hw⟩ : ∃ w, w = encode (.stSp x0 x1 x2 x3 x4) := ⟨_, rfl⟩
  have e := toNat_pack hw f rfl (show 3556769793 + x0.toNat * 2097152 + x1.toNat * 65536 + x2.toNat * 2048 + x3.toNat * 32 + x4.toNat * 4 = 1 + 2 * (0 + 2 * (x4.toNat + 8 * (x3.toNat + 4 * (0 + 16 * (x2.toNat + 32 * (x1.toNat + 32 * (x0.toNat + 32 * (53)))))))) by omega)
  have b0 : bits w 0 1 = 1 := at0 e f rfl
  have b1 : bits w 0 2 = 1 := bits_pack e f 0 2 rfl rfl rfl
  have b2 : bits w 7 4 = 0 := at4 e f rfl
  have b3 : bits w 26 6 = 53 := at8 e f rfl
  have f0 : Sys2Proof.fld w 21 5 = x0 := fld_eq (at7 e f rfl)
  have f1 : Sys2Proof.fld w 16 5 = x1 := fld_eq (at6 e f rfl)
  have f2 : Sys2Proof.fld w 11 5 = x2 := fld_eq (at5 e f rfl)
  have f3 : Sys2Proof.fld w 5 2 = x3 := fld_eq (at3 e f rfl)
  have f4 : Sys2Proof.fld w 2 3 = x4 := fld_eq (at2 e f rfl)
  exact of_row hw (by rw [row35 b3]; simp [decode35, b0, b1, b2, f0, f1, f2, f3, f4])
theorem sst (x0 : BitVec 5) (x1 : BitVec 5) (x2 : BitVec 2) (x3 : BitVec 3) : Statement (.sst x0 x1 x2 x3) := by
  have f : Fit [(1, 1), (1, 1), (3, x3.toNat), (2, x2.toNat), (4, 0), (5, 0), (5, x1.toNat), (5, x0.toNat), (6, 53)] := ⟨by decide, by decide, x3.isLt, x2.isLt, Nat.two_pow_pos 4, Nat.two_pow_pos 5, x1.isLt, x0.isLt, by decide, trivial⟩
  obtain ⟨w, hw⟩ : ∃ w, w = encode (.sst x0 x1 x2 x3) := ⟨_, rfl⟩
  have e := toNat_pack hw f rfl (show 3556769795 + x0.toNat * 2097152 + x1.toNat * 65536 + x2.toNat * 32 + x3.toNat * 4 = 1 + 2 * (1 + 2 * (x3.toNat + 8 * (x2.toNat + 4 * (0 + 16 * (0 + 32 * (x1.toNat + 32 * (x0.toNat + 32 * (53)))))))) by omega)
  have b0 : bits w 0 1 = 1 := at0 e f rfl
  have b1 : bits w 0 2 = 3 := bits_pack e f 0 2 rfl rfl rfl
  have b2 : bits w 7 4 = 0 := at4 e f rfl
  have b3 : bits w 7 9 = 0 := bits_pack e f 4 2 rfl rfl rfl
  have b4 : bits w 26 6 = 53 := at8 e f rfl
  have f0 : Sys2Proof.fld w 21 5 = x0 := fld_eq (at7 e f rfl)
  have f1 : Sys2Proof.fld w 16 5 = x1 := fld_eq (at6 e f rfl)
  have f2 : Sys2Proof.fld w 5 2 = x2 := fld_eq (at3 e f rfl)
  have f3 : Sys2Proof.fld w 2 3 = x3 := fld_eq (at2 e f rfl)
  exact of_row hw (by rw [row35 b4]; simp [decode35, b0, b1, b2, b3, f0, f1, f2, f3])
theorem atomAdd32 (x0 : BitVec 5) (x1 : BitVec 5) (x2 : BitVec 5) (x3 : BitVec 5) (x4 : BitVec 2) : Statement (.atomAdd32 x0 x1 x2 x3 x4) := by
  have f : Fit [(2, x4.toNat), (4, 0), (5, x3.toNat), (5, x2.toNat), (5, x1.toNat), (5, x0.toNat), (6, 54)] := ⟨x4.isLt, Nat.two_pow_pos 4, x3.isLt, x2.isLt, x1.isLt, x0.isLt, by decide, trivial⟩
  obtain ⟨w, hw⟩ : ∃ w, w = encode (.atomAdd32 x0 x1 x2 x3 x4) := ⟨_, rfl⟩
  have e := toNat_pack hw f rfl (show 3623878656 + x0.toNat * 2097152 + x1.toNat * 65536 + x2.toNat * 2048 + x3.toNat * 64 + x4.toNat = x4.toNat + 4 * (0 + 16 * (x3.toNat + 32 * (x2.toNat + 32 * (x1.toNat + 32 * (x0.toNat + 32 * (54)))))) by omega)
  have b0 : bits w 2 4 = 0 := at1 e f rfl
  have b1 : bits w 26 6 = 54 := at6 e f rfl
  have f0 : Sys2Proof.fld w 21 5 = x0 := fld_eq (at5 e f rfl)
  have f1 : Sys2Proof.fld w 16 5 = x1 := fld_eq (at4 e f rfl)
  have f2 : Sys2Proof.fld w 11 5 = x2 := fld_eq (at3 e f rfl)
  have f3 : Sys2Proof.fld w 6 5 = x3 := fld_eq (at2 e f rfl)
  have f4 : Sys2Proof.fld w 0 2 = x4 := fld_eq (at0 e f rfl)
  exact of_row hw (by rw [row36 b1]; simp [decode36, b0, f0, f1, f2, f3, f4])
theorem atomAdd64 (x0 : BitVec 5) (x1 : BitVec 5) (x2 : BitVec 5) (x3 : BitVec 5) (x4 : BitVec 2) : Statement (.atomAdd64 x0 x1 x2 x3 x4) := by
  have f : Fit [(2, x4.toNat), (4, 1), (5, x3.toNat), (5, x2.toNat), (5, x1.toNat), (5, x0.toNat), (6, 54)] := ⟨x4.isLt, by decide, x3.isLt, x2.isLt, x1.isLt, x0.isLt, by decide, trivial⟩
  obtain ⟨w, hw⟩ : ∃ w, w = encode (.atomAdd64 x0 x1 x2 x3 x4) := ⟨_, rfl⟩
  have e := toNat_pack hw f rfl (show 3623878660 + x0.toNat * 2097152 + x1.toNat * 65536 + x2.toNat * 2048 + x3.toNat * 64 + x4.toNat = x4.toNat + 4 * (1 + 16 * (x3.toNat + 32 * (x2.toNat + 32 * (x1.toNat + 32 * (x0.toNat + 32 * (54)))))) by omega)
  have b0 : bits w 2 4 = 1 := at1 e f rfl
  have b1 : bits w 26 6 = 54 := at6 e f rfl
  have f0 : Sys2Proof.fld w 21 5 = x0 := fld_eq (at5 e f rfl)
  have f1 : Sys2Proof.fld w 16 5 = x1 := fld_eq (at4 e f rfl)
  have f2 : Sys2Proof.fld w 11 5 = x2 := fld_eq (at3 e f rfl)
  have f3 : Sys2Proof.fld w 6 5 = x3 := fld_eq (at2 e f rfl)
  have f4 : Sys2Proof.fld w 0 2 = x4 := fld_eq (at0 e f rfl)
  exact of_row hw (by rw [row36 b1]; simp [decode36, b0, f0, f1, f2, f3, f4])
theorem atomMinS32 (x0 : BitVec 5) (x1 : BitVec 5) (x2 : BitVec 5) (x3 : BitVec 5) (x4 : BitVec 2) : Statement (.atomMinS32 x0 x1 x2 x3 x4) := by
  have f : Fit [(2, x4.toNat), (4, 2), (5, x3.toNat), (5, x2.toNat), (5, x1.toNat), (5, x0.toNat), (6, 54)] := ⟨x4.isLt, by decide, x3.isLt, x2.isLt, x1.isLt, x0.isLt, by decide, trivial⟩
  obtain ⟨w, hw⟩ : ∃ w, w = encode (.atomMinS32 x0 x1 x2 x3 x4) := ⟨_, rfl⟩
  have e := toNat_pack hw f rfl (show 3623878664 + x0.toNat * 2097152 + x1.toNat * 65536 + x2.toNat * 2048 + x3.toNat * 64 + x4.toNat = x4.toNat + 4 * (2 + 16 * (x3.toNat + 32 * (x2.toNat + 32 * (x1.toNat + 32 * (x0.toNat + 32 * (54)))))) by omega)
  have b0 : bits w 2 4 = 2 := at1 e f rfl
  have b1 : bits w 26 6 = 54 := at6 e f rfl
  have f0 : Sys2Proof.fld w 21 5 = x0 := fld_eq (at5 e f rfl)
  have f1 : Sys2Proof.fld w 16 5 = x1 := fld_eq (at4 e f rfl)
  have f2 : Sys2Proof.fld w 11 5 = x2 := fld_eq (at3 e f rfl)
  have f3 : Sys2Proof.fld w 6 5 = x3 := fld_eq (at2 e f rfl)
  have f4 : Sys2Proof.fld w 0 2 = x4 := fld_eq (at0 e f rfl)
  exact of_row hw (by rw [row36 b1]; simp [decode36, b0, f0, f1, f2, f3, f4])
theorem atomMinN32 (x0 : BitVec 5) (x1 : BitVec 5) (x2 : BitVec 5) (x3 : BitVec 5) (x4 : BitVec 2) : Statement (.atomMinN32 x0 x1 x2 x3 x4) := by
  have f : Fit [(2, x4.toNat), (4, 3), (5, x3.toNat), (5, x2.toNat), (5, x1.toNat), (5, x0.toNat), (6, 54)] := ⟨x4.isLt, by decide, x3.isLt, x2.isLt, x1.isLt, x0.isLt, by decide, trivial⟩
  obtain ⟨w, hw⟩ : ∃ w, w = encode (.atomMinN32 x0 x1 x2 x3 x4) := ⟨_, rfl⟩
  have e := toNat_pack hw f rfl (show 3623878668 + x0.toNat * 2097152 + x1.toNat * 65536 + x2.toNat * 2048 + x3.toNat * 64 + x4.toNat = x4.toNat + 4 * (3 + 16 * (x3.toNat + 32 * (x2.toNat + 32 * (x1.toNat + 32 * (x0.toNat + 32 * (54)))))) by omega)
  have b0 : bits w 2 4 = 3 := at1 e f rfl
  have b1 : bits w 26 6 = 54 := at6 e f rfl
  have f0 : Sys2Proof.fld w 21 5 = x0 := fld_eq (at5 e f rfl)
  have f1 : Sys2Proof.fld w 16 5 = x1 := fld_eq (at4 e f rfl)
  have f2 : Sys2Proof.fld w 11 5 = x2 := fld_eq (at3 e f rfl)
  have f3 : Sys2Proof.fld w 6 5 = x3 := fld_eq (at2 e f rfl)
  have f4 : Sys2Proof.fld w 0 2 = x4 := fld_eq (at0 e f rfl)
  exact of_row hw (by rw [row36 b1]; simp [decode36, b0, f0, f1, f2, f3, f4])
theorem atomMaxS32 (x0 : BitVec 5) (x1 : BitVec 5) (x2 : BitVec 5) (x3 : BitVec 5) (x4 : BitVec 2) : Statement (.atomMaxS32 x0 x1 x2 x3 x4) := by
  have f : Fit [(2, x4.toNat), (4, 4), (5, x3.toNat), (5, x2.toNat), (5, x1.toNat), (5, x0.toNat), (6, 54)] := ⟨x4.isLt, by decide, x3.isLt, x2.isLt, x1.isLt, x0.isLt, by decide, trivial⟩
  obtain ⟨w, hw⟩ : ∃ w, w = encode (.atomMaxS32 x0 x1 x2 x3 x4) := ⟨_, rfl⟩
  have e := toNat_pack hw f rfl (show 3623878672 + x0.toNat * 2097152 + x1.toNat * 65536 + x2.toNat * 2048 + x3.toNat * 64 + x4.toNat = x4.toNat + 4 * (4 + 16 * (x3.toNat + 32 * (x2.toNat + 32 * (x1.toNat + 32 * (x0.toNat + 32 * (54)))))) by omega)
  have b0 : bits w 2 4 = 4 := at1 e f rfl
  have b1 : bits w 26 6 = 54 := at6 e f rfl
  have f0 : Sys2Proof.fld w 21 5 = x0 := fld_eq (at5 e f rfl)
  have f1 : Sys2Proof.fld w 16 5 = x1 := fld_eq (at4 e f rfl)
  have f2 : Sys2Proof.fld w 11 5 = x2 := fld_eq (at3 e f rfl)
  have f3 : Sys2Proof.fld w 6 5 = x3 := fld_eq (at2 e f rfl)
  have f4 : Sys2Proof.fld w 0 2 = x4 := fld_eq (at0 e f rfl)
  exact of_row hw (by rw [row36 b1]; simp [decode36, b0, f0, f1, f2, f3, f4])
theorem atomMaxN32 (x0 : BitVec 5) (x1 : BitVec 5) (x2 : BitVec 5) (x3 : BitVec 5) (x4 : BitVec 2) : Statement (.atomMaxN32 x0 x1 x2 x3 x4) := by
  have f : Fit [(2, x4.toNat), (4, 5), (5, x3.toNat), (5, x2.toNat), (5, x1.toNat), (5, x0.toNat), (6, 54)] := ⟨x4.isLt, by decide, x3.isLt, x2.isLt, x1.isLt, x0.isLt, by decide, trivial⟩
  obtain ⟨w, hw⟩ : ∃ w, w = encode (.atomMaxN32 x0 x1 x2 x3 x4) := ⟨_, rfl⟩
  have e := toNat_pack hw f rfl (show 3623878676 + x0.toNat * 2097152 + x1.toNat * 65536 + x2.toNat * 2048 + x3.toNat * 64 + x4.toNat = x4.toNat + 4 * (5 + 16 * (x3.toNat + 32 * (x2.toNat + 32 * (x1.toNat + 32 * (x0.toNat + 32 * (54)))))) by omega)
  have b0 : bits w 2 4 = 5 := at1 e f rfl
  have b1 : bits w 26 6 = 54 := at6 e f rfl
  have f0 : Sys2Proof.fld w 21 5 = x0 := fld_eq (at5 e f rfl)
  have f1 : Sys2Proof.fld w 16 5 = x1 := fld_eq (at4 e f rfl)
  have f2 : Sys2Proof.fld w 11 5 = x2 := fld_eq (at3 e f rfl)
  have f3 : Sys2Proof.fld w 6 5 = x3 := fld_eq (at2 e f rfl)
  have f4 : Sys2Proof.fld w 0 2 = x4 := fld_eq (at0 e f rfl)
  exact of_row hw (by rw [row36 b1]; simp [decode36, b0, f0, f1, f2, f3, f4])
theorem atomAnd (x0 : BitVec 5) (x1 : BitVec 5) (x2 : BitVec 5) (x3 : BitVec 5) (x4 : BitVec 2) : Statement (.atomAnd x0 x1 x2 x3 x4) := by
  have f : Fit [(2, x4.toNat), (4, 6), (5, x3.toNat), (5, x2.toNat), (5, x1.toNat), (5, x0.toNat), (6, 54)] := ⟨x4.isLt, by decide, x3.isLt, x2.isLt, x1.isLt, x0.isLt, by decide, trivial⟩
  obtain ⟨w, hw⟩ : ∃ w, w = encode (.atomAnd x0 x1 x2 x3 x4) := ⟨_, rfl⟩
  have e := toNat_pack hw f rfl (show 3623878680 + x0.toNat * 2097152 + x1.toNat * 65536 + x2.toNat * 2048 + x3.toNat * 64 + x4.toNat = x4.toNat + 4 * (6 + 16 * (x3.toNat + 32 * (x2.toNat + 32 * (x1.toNat + 32 * (x0.toNat + 32 * (54)))))) by omega)
  have b0 : bits w 2 4 = 6 := at1 e f rfl
  have b1 : bits w 26 6 = 54 := at6 e f rfl
  have f0 : Sys2Proof.fld w 21 5 = x0 := fld_eq (at5 e f rfl)
  have f1 : Sys2Proof.fld w 16 5 = x1 := fld_eq (at4 e f rfl)
  have f2 : Sys2Proof.fld w 11 5 = x2 := fld_eq (at3 e f rfl)
  have f3 : Sys2Proof.fld w 6 5 = x3 := fld_eq (at2 e f rfl)
  have f4 : Sys2Proof.fld w 0 2 = x4 := fld_eq (at0 e f rfl)
  exact of_row hw (by rw [row36 b1]; simp [decode36, b0, f0, f1, f2, f3, f4])
theorem atomOr (x0 : BitVec 5) (x1 : BitVec 5) (x2 : BitVec 5) (x3 : BitVec 5) (x4 : BitVec 2) : Statement (.atomOr x0 x1 x2 x3 x4) := by
  have f : Fit [(2, x4.toNat), (4, 7), (5, x3.toNat), (5, x2.toNat), (5, x1.toNat), (5, x0.toNat), (6, 54)] := ⟨x4.isLt, by decide, x3.isLt, x2.isLt, x1.isLt, x0.isLt, by decide, trivial⟩
  obtain ⟨w, hw⟩ : ∃ w, w = encode (.atomOr x0 x1 x2 x3 x4) := ⟨_, rfl⟩
  have e := toNat_pack hw f rfl (show 3623878684 + x0.toNat * 2097152 + x1.toNat * 65536 + x2.toNat * 2048 + x3.toNat * 64 + x4.toNat = x4.toNat + 4 * (7 + 16 * (x3.toNat + 32 * (x2.toNat + 32 * (x1.toNat + 32 * (x0.toNat + 32 * (54)))))) by omega)
  have b0 : bits w 2 4 = 7 := at1 e f rfl
  have b1 : bits w 26 6 = 54 := at6 e f rfl
  have f0 : Sys2Proof.fld w 21 5 = x0 := fld_eq (at5 e f rfl)
  have f1 : Sys2Proof.fld w 16 5 = x1 := fld_eq (at4 e f rfl)
  have f2 : Sys2Proof.fld w 11 5 = x2 := fld_eq (at3 e f rfl)
  have f3 : Sys2Proof.fld w 6 5 = x3 := fld_eq (at2 e f rfl)
  have f4 : Sys2Proof.fld w 0 2 = x4 := fld_eq (at0 e f rfl)
  exact of_row hw (by rw [row36 b1]; simp [decode36, b0, f0, f1, f2, f3, f4])
theorem atomXor (x0 : BitVec 5) (x1 : BitVec 5) (x2 : BitVec 5) (x3 : BitVec 5) (x4 : BitVec 2) : Statement (.atomXor x0 x1 x2 x3 x4) := by
  have f : Fit [(2, x4.toNat), (4, 8), (5, x3.toNat), (5, x2.toNat), (5, x1.toNat), (5, x0.toNat), (6, 54)] := ⟨x4.isLt, by decide, x3.isLt, x2.isLt, x1.isLt, x0.isLt, by decide, trivial⟩
  obtain ⟨w, hw⟩ : ∃ w, w = encode (.atomXor x0 x1 x2 x3 x4) := ⟨_, rfl⟩
  have e := toNat_pack hw f rfl (show 3623878688 + x0.toNat * 2097152 + x1.toNat * 65536 + x2.toNat * 2048 + x3.toNat * 64 + x4.toNat = x4.toNat + 4 * (8 + 16 * (x3.toNat + 32 * (x2.toNat + 32 * (x1.toNat + 32 * (x0.toNat + 32 * (54)))))) by omega)
  have b0 : bits w 2 4 = 8 := at1 e f rfl
  have b1 : bits w 26 6 = 54 := at6 e f rfl
  have f0 : Sys2Proof.fld w 21 5 = x0 := fld_eq (at5 e f rfl)
  have f1 : Sys2Proof.fld w 16 5 = x1 := fld_eq (at4 e f rfl)
  have f2 : Sys2Proof.fld w 11 5 = x2 := fld_eq (at3 e f rfl)
  have f3 : Sys2Proof.fld w 6 5 = x3 := fld_eq (at2 e f rfl)
  have f4 : Sys2Proof.fld w 0 2 = x4 := fld_eq (at0 e f rfl)
  exact of_row hw (by rw [row36 b1]; simp [decode36, b0, f0, f1, f2, f3, f4])
theorem atomXchg32 (x0 : BitVec 5) (x1 : BitVec 5) (x2 : BitVec 5) (x3 : BitVec 5) (x4 : BitVec 2) : Statement (.atomXchg32 x0 x1 x2 x3 x4) := by
  have f : Fit [(2, x4.toNat), (4, 9), (5, x3.toNat), (5, x2.toNat), (5, x1.toNat), (5, x0.toNat), (6, 54)] := ⟨x4.isLt, by decide, x3.isLt, x2.isLt, x1.isLt, x0.isLt, by decide, trivial⟩
  obtain ⟨w, hw⟩ : ∃ w, w = encode (.atomXchg32 x0 x1 x2 x3 x4) := ⟨_, rfl⟩
  have e := toNat_pack hw f rfl (show 3623878692 + x0.toNat * 2097152 + x1.toNat * 65536 + x2.toNat * 2048 + x3.toNat * 64 + x4.toNat = x4.toNat + 4 * (9 + 16 * (x3.toNat + 32 * (x2.toNat + 32 * (x1.toNat + 32 * (x0.toNat + 32 * (54)))))) by omega)
  have b0 : bits w 2 4 = 9 := at1 e f rfl
  have b1 : bits w 26 6 = 54 := at6 e f rfl
  have f0 : Sys2Proof.fld w 21 5 = x0 := fld_eq (at5 e f rfl)
  have f1 : Sys2Proof.fld w 16 5 = x1 := fld_eq (at4 e f rfl)
  have f2 : Sys2Proof.fld w 11 5 = x2 := fld_eq (at3 e f rfl)
  have f3 : Sys2Proof.fld w 6 5 = x3 := fld_eq (at2 e f rfl)
  have f4 : Sys2Proof.fld w 0 2 = x4 := fld_eq (at0 e f rfl)
  exact of_row hw (by rw [row36 b1]; simp [decode36, b0, f0, f1, f2, f3, f4])
theorem atomXchg64 (x0 : BitVec 5) (x1 : BitVec 5) (x2 : BitVec 5) (x3 : BitVec 5) (x4 : BitVec 2) : Statement (.atomXchg64 x0 x1 x2 x3 x4) := by
  have f : Fit [(2, x4.toNat), (4, 10), (5, x3.toNat), (5, x2.toNat), (5, x1.toNat), (5, x0.toNat), (6, 54)] := ⟨x4.isLt, by decide, x3.isLt, x2.isLt, x1.isLt, x0.isLt, by decide, trivial⟩
  obtain ⟨w, hw⟩ : ∃ w, w = encode (.atomXchg64 x0 x1 x2 x3 x4) := ⟨_, rfl⟩
  have e := toNat_pack hw f rfl (show 3623878696 + x0.toNat * 2097152 + x1.toNat * 65536 + x2.toNat * 2048 + x3.toNat * 64 + x4.toNat = x4.toNat + 4 * (10 + 16 * (x3.toNat + 32 * (x2.toNat + 32 * (x1.toNat + 32 * (x0.toNat + 32 * (54)))))) by omega)
  have b0 : bits w 2 4 = 10 := at1 e f rfl
  have b1 : bits w 26 6 = 54 := at6 e f rfl
  have f0 : Sys2Proof.fld w 21 5 = x0 := fld_eq (at5 e f rfl)
  have f1 : Sys2Proof.fld w 16 5 = x1 := fld_eq (at4 e f rfl)
  have f2 : Sys2Proof.fld w 11 5 = x2 := fld_eq (at3 e f rfl)
  have f3 : Sys2Proof.fld w 6 5 = x3 := fld_eq (at2 e f rfl)
  have f4 : Sys2Proof.fld w 0 2 = x4 := fld_eq (at0 e f rfl)
  exact of_row hw (by rw [row36 b1]; simp [decode36, b0, f0, f1, f2, f3, f4])
theorem atomCas32 (x0 : BitVec 5) (x1 : BitVec 5) (x2 : BitVec 5) (x3 : BitVec 4) (x4 : BitVec 2) : Statement (.atomCas32 x0 x1 x2 x3 x4) := by
  have f : Fit [(2, x4.toNat), (4, 11), (1, 0), (4, x3.toNat), (5, x2.toNat), (5, x1.toNat), (5, x0.toNat), (6, 54)] := ⟨x4.isLt, by decide, Nat.two_pow_pos 1, x3.isLt, x2.isLt, x1.isLt, x0.isLt, by decide, trivial⟩
  obtain ⟨w, hw⟩ : ∃ w, w = encode (.atomCas32 x0 x1 x2 x3 x4) := ⟨_, rfl⟩
  have e := toNat_pack hw f rfl (show 3623878700 + x0.toNat * 2097152 + x1.toNat * 65536 + x2.toNat * 2048 + x3.toNat * 128 + x4.toNat = x4.toNat + 4 * (11 + 16 * (0 + 2 * (x3.toNat + 16 * (x2.toNat + 32 * (x1.toNat + 32 * (x0.toNat + 32 * (54))))))) by omega)
  have b0 : bits w 2 4 = 11 := at1 e f rfl
  have b1 : bits w 2 5 = 11 := bits_pack e f 1 2 rfl rfl rfl
  have b2 : bits w 26 6 = 54 := at7 e f rfl
  have f0 : Sys2Proof.fld w 21 5 = x0 := fld_eq (at6 e f rfl)
  have f1 : Sys2Proof.fld w 16 5 = x1 := fld_eq (at5 e f rfl)
  have f2 : Sys2Proof.fld w 11 5 = x2 := fld_eq (at4 e f rfl)
  have f3 : Sys2Proof.fld w 7 4 = x3 := fld_eq (at3 e f rfl)
  have f4 : Sys2Proof.fld w 0 2 = x4 := fld_eq (at0 e f rfl)
  exact of_row hw (by rw [row36 b2]; simp [decode36, b0, b1, f0, f1, f2, f3, f4])
theorem atomCas64 (x0 : BitVec 5) (x1 : BitVec 5) (x2 : BitVec 5) (x3 : BitVec 3) (x4 : BitVec 2) : Statement (.atomCas64 x0 x1 x2 x3 x4) := by
  have f : Fit [(2, x4.toNat), (4, 12), (1, 0), (1, 0), (3, x3.toNat), (5, x2.toNat), (5, x1.toNat), (5, x0.toNat), (6, 54)] := ⟨x4.isLt, by decide, Nat.two_pow_pos 1, Nat.two_pow_pos 1, x3.isLt, x2.isLt, x1.isLt, x0.isLt, by decide, trivial⟩
  obtain ⟨w, hw⟩ : ∃ w, w = encode (.atomCas64 x0 x1 x2 x3 x4) := ⟨_, rfl⟩
  have e := toNat_pack hw f rfl (show 3623878704 + x0.toNat * 2097152 + x1.toNat * 65536 + x2.toNat * 2048 + x3.toNat * 256 + x4.toNat = x4.toNat + 4 * (12 + 16 * (0 + 2 * (0 + 2 * (x3.toNat + 8 * (x2.toNat + 32 * (x1.toNat + 32 * (x0.toNat + 32 * (54)))))))) by omega)
  have b0 : bits w 2 4 = 12 := at1 e f rfl
  have b1 : bits w 2 5 = 12 := bits_pack e f 1 2 rfl rfl rfl
  have b2 : bits w 2 6 = 12 := bits_pack e f 1 3 rfl rfl rfl
  have b3 : bits w 26 6 = 54 := at8 e f rfl
  have f0 : Sys2Proof.fld w 21 5 = x0 := fld_eq (at7 e f rfl)
  have f1 : Sys2Proof.fld w 16 5 = x1 := fld_eq (at6 e f rfl)
  have f2 : Sys2Proof.fld w 11 5 = x2 := fld_eq (at5 e f rfl)
  have f3 : Sys2Proof.fld w 8 3 = x3 := fld_eq (at4 e f rfl)
  have f4 : Sys2Proof.fld w 0 2 = x4 := fld_eq (at0 e f rfl)
  exact of_row hw (by rw [row36 b3]; simp [decode36, b0, b1, b2, f0, f1, f2, f3, f4])
theorem atomFaddF32 (x0 : BitVec 5) (x1 : BitVec 5) (x2 : BitVec 5) (x3 : BitVec 5) (x4 : BitVec 2) : Statement (.atomFaddF32 x0 x1 x2 x3 x4) := by
  have f : Fit [(2, x4.toNat), (4, 13), (5, x3.toNat), (5, x2.toNat), (5, x1.toNat), (5, x0.toNat), (6, 54)] := ⟨x4.isLt, by decide, x3.isLt, x2.isLt, x1.isLt, x0.isLt, by decide, trivial⟩
  obtain ⟨w, hw⟩ : ∃ w, w = encode (.atomFaddF32 x0 x1 x2 x3 x4) := ⟨_, rfl⟩
  have e := toNat_pack hw f rfl (show 3623878708 + x0.toNat * 2097152 + x1.toNat * 65536 + x2.toNat * 2048 + x3.toNat * 64 + x4.toNat = x4.toNat + 4 * (13 + 16 * (x3.toNat + 32 * (x2.toNat + 32 * (x1.toNat + 32 * (x0.toNat + 32 * (54)))))) by omega)
  have b0 : bits w 2 4 = 13 := at1 e f rfl
  have b1 : bits w 26 6 = 54 := at6 e f rfl
  have n0 : ¬bits w 2 5 = 11 := by intro h; unfold bits at h b0; omega
  have n1 : ¬bits w 2 6 = 12 := by intro h; unfold bits at h b0; omega
  have f0 : Sys2Proof.fld w 21 5 = x0 := fld_eq (at5 e f rfl)
  have f1 : Sys2Proof.fld w 16 5 = x1 := fld_eq (at4 e f rfl)
  have f2 : Sys2Proof.fld w 11 5 = x2 := fld_eq (at3 e f rfl)
  have f3 : Sys2Proof.fld w 6 5 = x3 := fld_eq (at2 e f rfl)
  have f4 : Sys2Proof.fld w 0 2 = x4 := fld_eq (at0 e f rfl)
  exact of_row hw (by rw [row36 b1]; simp [decode36, b0, n0, n1, f0, f1, f2, f3, f4])
theorem atomFaddF64 (x0 : BitVec 5) (x1 : BitVec 5) (x2 : BitVec 5) (x3 : BitVec 5) (x4 : BitVec 2) : Statement (.atomFaddF64 x0 x1 x2 x3 x4) := by
  have f : Fit [(2, x4.toNat), (4, 14), (5, x3.toNat), (5, x2.toNat), (5, x1.toNat), (5, x0.toNat), (6, 54)] := ⟨x4.isLt, by decide, x3.isLt, x2.isLt, x1.isLt, x0.isLt, by decide, trivial⟩
  obtain ⟨w, hw⟩ : ∃ w, w = encode (.atomFaddF64 x0 x1 x2 x3 x4) := ⟨_, rfl⟩
  have e := toNat_pack hw f rfl (show 3623878712 + x0.toNat * 2097152 + x1.toNat * 65536 + x2.toNat * 2048 + x3.toNat * 64 + x4.toNat = x4.toNat + 4 * (14 + 16 * (x3.toNat + 32 * (x2.toNat + 32 * (x1.toNat + 32 * (x0.toNat + 32 * (54)))))) by omega)
  have b0 : bits w 2 4 = 14 := at1 e f rfl
  have b1 : bits w 26 6 = 54 := at6 e f rfl
  have n0 : ¬bits w 2 5 = 11 := by intro h; unfold bits at h b0; omega
  have n1 : ¬bits w 2 6 = 12 := by intro h; unfold bits at h b0; omega
  have f0 : Sys2Proof.fld w 21 5 = x0 := fld_eq (at5 e f rfl)
  have f1 : Sys2Proof.fld w 16 5 = x1 := fld_eq (at4 e f rfl)
  have f2 : Sys2Proof.fld w 11 5 = x2 := fld_eq (at3 e f rfl)
  have f3 : Sys2Proof.fld w 6 5 = x3 := fld_eq (at2 e f rfl)
  have f4 : Sys2Proof.fld w 0 2 = x4 := fld_eq (at0 e f rfl)
  exact of_row hw (by rw [row36 b1]; simp [decode36, b0, n0, n1, f0, f1, f2, f3, f4])
theorem fence (x0 : BitVec 2) (x1 : BitVec 3) : Statement (.fence x0 x1) := by
  have f : Fit [(2, 0), (3, x1.toNat), (2, x0.toNat), (19, 0), (6, 55)] := ⟨Nat.two_pow_pos 2, x1.isLt, x0.isLt, Nat.two_pow_pos 19, by decide, trivial⟩
  obtain ⟨w, hw⟩ : ∃ w, w = encode (.fence x0 x1) := ⟨_, rfl⟩
  have e := toNat_pack hw f rfl (show 3690987520 + x0.toNat * 32 + x1.toNat * 4 = 0 + 4 * (x1.toNat + 8 * (x0.toNat + 4 * (0 + 524288 * (55)))) by omega)
  have b0 : bits w 0 2 = 0 := at0 e f rfl
  have b1 : bits w 7 19 = 0 := at3 e f rfl
  have b2 : bits w 26 6 = 55 := at4 e f rfl
  have f0 : Sys2Proof.fld w 5 2 = x0 := fld_eq (at2 e f rfl)
  have f1 : Sys2Proof.fld w 2 3 = x1 := fld_eq (at1 e f rfl)
  exact of_row hw (by rw [row37 b2]; simp [decode37, b0, b1, f0, f1])
theorem fencePath (x0 : BitVec 2) (x1 : BitVec 3) : Statement (.fencePath x0 x1) := by
  have f : Fit [(2, 1), (3, x1.toNat), (2, x0.toNat), (19, 0), (6, 55)] := ⟨by decide, x1.isLt, x0.isLt, Nat.two_pow_pos 19, by decide, trivial⟩
  obtain ⟨w, hw⟩ : ∃ w, w = encode (.fencePath x0 x1) := ⟨_, rfl⟩
  have e := toNat_pack hw f rfl (show 3690987521 + x0.toNat * 32 + x1.toNat * 4 = 1 + 4 * (x1.toNat + 8 * (x0.toNat + 4 * (0 + 524288 * (55)))) by omega)
  have b0 : bits w 0 2 = 1 := at0 e f rfl
  have b1 : bits w 7 19 = 0 := at3 e f rfl
  have b2 : bits w 26 6 = 55 := at4 e f rfl
  have f0 : Sys2Proof.fld w 5 2 = x0 := fld_eq (at2 e f rfl)
  have f1 : Sys2Proof.fld w 2 3 = x1 := fld_eq (at1 e f rfl)
  exact of_row hw (by rw [row37 b2]; simp [decode37, b0, b1, f0, f1])
theorem cctl (x0 : BitVec 5) (x1 : BitVec 5) (x2 : BitVec 2) (x3 : BitVec 2) : Statement (.cctl x0 x1 x2 x3) := by
  have f : Fit [(2, 2), (2, x3.toNat), (1, 0), (2, x2.toNat), (4, 0), (5, x1.toNat), (5, x0.toNat), (5, 0), (6, 55)] := ⟨by decide, x3.isLt, Nat.two_pow_pos 1, x2.isLt, Nat.two_pow_pos 4, x1.isLt, x0.isLt, Nat.two_pow_pos 5, by decide, trivial⟩
  obtain ⟨w, hw⟩ : ∃ w, w = encode (.cctl x0 x1 x2 x3) := ⟨_, rfl⟩
  have e := toNat_pack hw f rfl (show 3690987522 + x0.toNat * 65536 + x1.toNat * 2048 + x2.toNat * 32 + x3.toNat * 4 = 2 + 4 * (x3.toNat + 4 * (0 + 2 * (x2.toNat + 4 * (0 + 16 * (x1.toNat + 32 * (x0.toNat + 32 * (0 + 32 * (55)))))))) by omega)
  have b0 : bits w 0 2 = 2 := at0 e f rfl
  have b1 : bits w 4 1 = 0 := at2 e f rfl
  have b2 : bits w 7 4 = 0 := at4 e f rfl
  have b3 : bits w 21 5 = 0 := at7 e f rfl
  have b4 : bits w 26 6 = 55 := at8 e f rfl
  have f0 : Sys2Proof.fld w 16 5 = x0 := fld_eq (at6 e f rfl)
  have f1 : Sys2Proof.fld w 11 5 = x1 := fld_eq (at5 e f rfl)
  have f2 : Sys2Proof.fld w 5 2 = x2 := fld_eq (at3 e f rfl)
  have f3 : Sys2Proof.fld w 2 2 = x3 := fld_eq (at1 e f rfl)
  exact of_row hw (by rw [row37 b4]; simp [decode37, b0, b1, b2, b3, f0, f1, f2, f3])
theorem prefetch (x0 : BitVec 5) (x1 : BitVec 5) (x2 : BitVec 2) (x3 : BitVec 1) : Statement (.prefetch x0 x1 x2 x3) := by
  have f : Fit [(2, 3), (1, x3.toNat), (1, 0), (1, 0), (2, x2.toNat), (4, 0), (5, x1.toNat), (5, x0.toNat), (5, 0), (6, 55)] := ⟨by decide, x3.isLt, Nat.two_pow_pos 1, Nat.two_pow_pos 1, x2.isLt, Nat.two_pow_pos 4, x1.isLt, x0.isLt, Nat.two_pow_pos 5, by decide, trivial⟩
  obtain ⟨w, hw⟩ : ∃ w, w = encode (.prefetch x0 x1 x2 x3) := ⟨_, rfl⟩
  have e := toNat_pack hw f rfl (show 3690987523 + x0.toNat * 65536 + x1.toNat * 2048 + x2.toNat * 32 + x3.toNat * 4 = 3 + 4 * (x3.toNat + 2 * (0 + 2 * (0 + 2 * (x2.toNat + 4 * (0 + 16 * (x1.toNat + 32 * (x0.toNat + 32 * (0 + 32 * (55))))))))) by omega)
  have b0 : bits w 0 2 = 3 := at0 e f rfl
  have b1 : bits w 3 2 = 0 := bits_pack e f 2 2 rfl rfl rfl
  have b2 : bits w 4 1 = 0 := at3 e f rfl
  have b3 : bits w 7 4 = 0 := at5 e f rfl
  have b4 : bits w 21 5 = 0 := at8 e f rfl
  have b5 : bits w 26 6 = 55 := at9 e f rfl
  have f0 : Sys2Proof.fld w 16 5 = x0 := fld_eq (at7 e f rfl)
  have f1 : Sys2Proof.fld w 11 5 = x1 := fld_eq (at6 e f rfl)
  have f2 : Sys2Proof.fld w 5 2 = x2 := fld_eq (at4 e f rfl)
  have f3 : Sys2Proof.fld w 2 1 = x3 := fld_eq (at1 e f rfl)
  exact of_row hw (by rw [row37 b5]; simp [decode37, b0, b1, b2, b3, b4, f0, f1, f2, f3])
theorem cpAsync (x0 : BitVec 5) (x1 : BitVec 5) (x2 : BitVec 5) (x3 : BitVec 5) (x4 : BitVec 6) : Statement (.cpAsync x0 x1 x2 x3 x4) := by
  have f : Fit [(6, x4.toNat), (5, x3.toNat), (5, x2.toNat), (5, x1.toNat), (5, x0.toNat), (6, 56)] := ⟨x4.isLt, x3.isLt, x2.isLt, x1.isLt, x0.isLt, by decide, trivial⟩
  obtain ⟨w, hw⟩ : ∃ w, w = encode (.cpAsync x0 x1 x2 x3 x4) := ⟨_, rfl⟩
  have e := toNat_pack hw f rfl (show 3758096384 + x0.toNat * 2097152 + x1.toNat * 65536 + x2.toNat * 2048 + x3.toNat * 64 + x4.toNat = x4.toNat + 64 * (x3.toNat + 32 * (x2.toNat + 32 * (x1.toNat + 32 * (x0.toNat + 32 * (56))))) by omega)
  have b0 : bits w 26 6 = 56 := at5 e f rfl
  have f0 : Sys2Proof.fld w 21 5 = x0 := fld_eq (at4 e f rfl)
  have f1 : Sys2Proof.fld w 16 5 = x1 := fld_eq (at3 e f rfl)
  have f2 : Sys2Proof.fld w 11 5 = x2 := fld_eq (at2 e f rfl)
  have f3 : Sys2Proof.fld w 6 5 = x3 := fld_eq (at1 e f rfl)
  have f4 : Sys2Proof.fld w 0 6 = x4 := fld_eq (at0 e f rfl)
  exact of_row hw (by rw [row38 b0]; simp [decode38, f0, f1, f2, f3, f4])
theorem tagWaitAny (x0 : Src) (x1 : BitVec 2) : Statement (.tagWaitAny x0 x1) := by
  have f : Fit [(3, 0), (2, x1.toNat), (8, 0), (8, srcCode x0), (5, 0), (6, 57)] := ⟨Nat.two_pow_pos 3, x1.isLt, Nat.two_pow_pos 8, srcCode_lt x0, Nat.two_pow_pos 5, by decide, trivial⟩
  obtain ⟨w, hw⟩ : ∃ w, w = encode (.tagWaitAny x0 x1) := ⟨_, rfl⟩
  have e := toNat_pack hw f rfl (show 3825205248 + srcCode x0 * 8192 + x1.toNat * 8 = 0 + 8 * (x1.toNat + 4 * (0 + 256 * (srcCode x0 + 256 * (0 + 32 * (57))))) by omega)
  have b0 : bits w 0 3 = 0 := at0 e f rfl
  have b1 : bits w 5 8 = 0 := at2 e f rfl
  have b2 : bits w 21 5 = 0 := at4 e f rfl
  have b3 : bits w 26 6 = 57 := at5 e f rfl
  have f0 : srcAt w 13 = x0 := srcAt_eq (at3 e f rfl)
  have f1 : Sys2Proof.fld w 3 2 = x1 := fld_eq (at1 e f rfl)
  exact of_row hw (by rw [row39 b3]; simp [decode39, b0, b1, b2, f0, f1])
theorem tagWaitAll (x0 : Src) (x1 : BitVec 2) : Statement (.tagWaitAll x0 x1) := by
  have f : Fit [(3, 1), (2, x1.toNat), (8, 0), (8, srcCode x0), (5, 0), (6, 57)] := ⟨by decide, x1.isLt, Nat.two_pow_pos 8, srcCode_lt x0, Nat.two_pow_pos 5, by decide, trivial⟩
  obtain ⟨w, hw⟩ : ∃ w, w = encode (.tagWaitAll x0 x1) := ⟨_, rfl⟩
  have e := toNat_pack hw f rfl (show 3825205249 + srcCode x0 * 8192 + x1.toNat * 8 = 1 + 8 * (x1.toNat + 4 * (0 + 256 * (srcCode x0 + 256 * (0 + 32 * (57))))) by omega)
  have b0 : bits w 0 3 = 1 := at0 e f rfl
  have b1 : bits w 5 8 = 0 := at2 e f rfl
  have b2 : bits w 21 5 = 0 := at4 e f rfl
  have b3 : bits w 26 6 = 57 := at5 e f rfl
  have f0 : srcAt w 13 = x0 := srcAt_eq (at3 e f rfl)
  have f1 : Sys2Proof.fld w 3 2 = x1 := fld_eq (at1 e f rfl)
  exact of_row hw (by rw [row39 b3]; simp [decode39, b0, b1, b2, f0, f1])
theorem tagFirst (x0 : BitVec 5) (x1 : Src) (x2 : BitVec 2) : Statement (.tagFirst x0 x1 x2) := by
  have f : Fit [(3, 2), (2, x2.toNat), (8, 0), (8, srcCode x1), (5, x0.toNat), (6, 57)] := ⟨by decide, x2.isLt, Nat.two_pow_pos 8, srcCode_lt x1, x0.isLt, by decide, trivial⟩
  obtain ⟨w, hw⟩ : ∃ w, w = encode (.tagFirst x0 x1 x2) := ⟨_, rfl⟩
  have e := toNat_pack hw f rfl (show 3825205250 + x0.toNat * 2097152 + srcCode x1 * 8192 + x2.toNat * 8 = 2 + 8 * (x2.toNat + 4 * (0 + 256 * (srcCode x1 + 256 * (x0.toNat + 32 * (57))))) by omega)
  have b0 : bits w 0 3 = 2 := at0 e f rfl
  have b1 : bits w 5 8 = 0 := at2 e f rfl
  have b2 : bits w 26 6 = 57 := at5 e f rfl
  have f0 : Sys2Proof.fld w 21 5 = x0 := fld_eq (at4 e f rfl)
  have f1 : srcAt w 13 = x1 := srcAt_eq (at3 e f rfl)
  have f2 : Sys2Proof.fld w 3 2 = x2 := fld_eq (at1 e f rfl)
  exact of_row hw (by rw [row39 b2]; simp [decode39, b0, b1, f0, f1, f2])
theorem tagPoll (x0 : BitVec 4) (x1 : Src) (x2 : BitVec 2) : Statement (.tagPoll x0 x1 x2) := by
  have f : Fit [(3, 3), (2, x2.toNat), (8, 0), (8, srcCode x1), (4, x0.toNat), (1, 0), (6, 57)] := ⟨by decide, x2.isLt, Nat.two_pow_pos 8, srcCode_lt x1, x0.isLt, Nat.two_pow_pos 1, by decide, trivial⟩
  obtain ⟨w, hw⟩ : ∃ w, w = encode (.tagPoll x0 x1 x2) := ⟨_, rfl⟩
  have e := toNat_pack hw f rfl (show 3825205251 + x0.toNat * 2097152 + srcCode x1 * 8192 + x2.toNat * 8 = 3 + 8 * (x2.toNat + 4 * (0 + 256 * (srcCode x1 + 256 * (x0.toNat + 16 * (0 + 2 * (57)))))) by omega)
  have b0 : bits w 0 3 = 3 := at0 e f rfl
  have b1 : bits w 5 8 = 0 := at2 e f rfl
  have b2 : bits w 25 1 = 0 := at5 e f rfl
  have b3 : bits w 26 6 = 57 := at6 e f rfl
  have f0 : Sys2Proof.fld w 21 4 = x0 := fld_eq (at4 e f rfl)
  have f1 : srcAt w 13 = x1 := srcAt_eq (at3 e f rfl)
  have f2 : Sys2Proof.fld w 3 2 = x2 := fld_eq (at1 e f rfl)
  exact of_row hw (by rw [row39 b3]; simp [decode39, b0, b1, b2, f0, f1, f2])
theorem tagClear (x0 : Src) (x1 : BitVec 2) : Statement (.tagClear x0 x1) := by
  have f : Fit [(3, 4), (2, x1.toNat), (8, 0), (8, srcCode x0), (4, 0), (1, 0), (6, 57)] := ⟨by decide, x1.isLt, Nat.two_pow_pos 8, srcCode_lt x0, Nat.two_pow_pos 4, Nat.two_pow_pos 1, by decide, trivial⟩
  obtain ⟨w, hw⟩ : ∃ w, w = encode (.tagClear x0 x1) := ⟨_, rfl⟩
  have e := toNat_pack hw f rfl (show 3825205252 + srcCode x0 * 8192 + x1.toNat * 8 = 4 + 8 * (x1.toNat + 4 * (0 + 256 * (srcCode x0 + 256 * (0 + 16 * (0 + 2 * (57)))))) by omega)
  have b0 : bits w 0 3 = 4 := at0 e f rfl
  have b1 : bits w 5 8 = 0 := at2 e f rfl
  have b2 : bits w 21 5 = 0 := bits_pack e f 4 2 rfl rfl rfl
  have b3 : bits w 25 1 = 0 := at5 e f rfl
  have b4 : bits w 26 6 = 57 := at6 e f rfl
  have f0 : srcAt w 13 = x0 := srcAt_eq (at3 e f rfl)
  have f1 : Sys2Proof.fld w 3 2 = x1 := fld_eq (at1 e f rfl)
  exact of_row hw (by rw [row39 b4]; simp [decode39, b0, b1, b2, b3, f0, f1])
theorem bulkCopy (x0 : BitVec 5) (x1 : BitVec 2) : Statement (.bulkCopy x0 x1) := by
  have f : Fit [(3, 5), (2, x1.toNat), (8, 0), (5, x0.toNat), (3, 7), (4, 0), (1, 0), (6, 57)] := ⟨by decide, x1.isLt, Nat.two_pow_pos 8, x0.isLt, by decide, Nat.two_pow_pos 4, Nat.two_pow_pos 1, by decide, trivial⟩
  obtain ⟨w, hw⟩ : ∃ w, w = encode (.bulkCopy x0 x1) := ⟨_, rfl⟩
  have e := toNat_pack hw f rfl (show 3827040261 + x0.toNat * 8192 + x1.toNat * 8 = 5 + 8 * (x1.toNat + 4 * (0 + 256 * (x0.toNat + 32 * (7 + 8 * (0 + 16 * (0 + 2 * (57))))))) by omega)
  have b0 : bits w 0 3 = 5 := at0 e f rfl
  have b1 : bits w 5 8 = 0 := at2 e f rfl
  have b2 : bits w 18 8 = 7 := bits_pack e f 4 3 rfl rfl rfl
  have b3 : bits w 21 5 = 0 := bits_pack e f 5 2 rfl rfl rfl
  have b4 : bits w 25 1 = 0 := at6 e f rfl
  have b5 : bits w 26 6 = 57 := at7 e f rfl
  have f0 : Sys2Proof.fld w 13 5 = x0 := fld_eq (at3 e f rfl)
  have f1 : Sys2Proof.fld w 3 2 = x1 := fld_eq (at1 e f rfl)
  exact of_row hw (by rw [row39 b5]; simp [decode39, b0, b1, b2, b3, b4, f0, f1])
theorem bulkGather (x0 : BitVec 5) (x1 : BitVec 2) : Statement (.bulkGather x0 x1) := by
  have f : Fit [(3, 6), (2, x1.toNat), (8, 0), (5, x0.toNat), (3, 7), (4, 0), (1, 0), (6, 57)] := ⟨by decide, x1.isLt, Nat.two_pow_pos 8, x0.isLt, by decide, Nat.two_pow_pos 4, Nat.two_pow_pos 1, by decide, trivial⟩
  obtain ⟨w, hw⟩ : ∃ w, w = encode (.bulkGather x0 x1) := ⟨_, rfl⟩
  have e := toNat_pack hw f rfl (show 3827040262 + x0.toNat * 8192 + x1.toNat * 8 = 6 + 8 * (x1.toNat + 4 * (0 + 256 * (x0.toNat + 32 * (7 + 8 * (0 + 16 * (0 + 2 * (57))))))) by omega)
  have b0 : bits w 0 3 = 6 := at0 e f rfl
  have b1 : bits w 5 8 = 0 := at2 e f rfl
  have b2 : bits w 18 8 = 7 := bits_pack e f 4 3 rfl rfl rfl
  have b3 : bits w 21 5 = 0 := bits_pack e f 5 2 rfl rfl rfl
  have b4 : bits w 25 1 = 0 := at6 e f rfl
  have b5 : bits w 26 6 = 57 := at7 e f rfl
  have f0 : Sys2Proof.fld w 13 5 = x0 := fld_eq (at3 e f rfl)
  have f1 : Sys2Proof.fld w 3 2 = x1 := fld_eq (at1 e f rfl)
  exact of_row hw (by rw [row39 b5]; simp [decode39, b0, b1, b2, b3, b4, f0, f1])
theorem collReduce (x0 : BitVec 5) (x1 : BitVec 2) : Statement (.collReduce x0 x1) := by
  have f : Fit [(3, 7), (2, x1.toNat), (8, 0), (5, x0.toNat), (3, 7), (4, 0), (1, 0), (6, 57)] := ⟨by decide, x1.isLt, Nat.two_pow_pos 8, x0.isLt, by decide, Nat.two_pow_pos 4, Nat.two_pow_pos 1, by decide, trivial⟩
  obtain ⟨w, hw⟩ : ∃ w, w = encode (.collReduce x0 x1) := ⟨_, rfl⟩
  have e := toNat_pack hw f rfl (show 3827040263 + x0.toNat * 8192 + x1.toNat * 8 = 7 + 8 * (x1.toNat + 4 * (0 + 256 * (x0.toNat + 32 * (7 + 8 * (0 + 16 * (0 + 2 * (57))))))) by omega)
  have b0 : bits w 0 3 = 7 := at0 e f rfl
  have b1 : bits w 5 8 = 0 := at2 e f rfl
  have b2 : bits w 18 8 = 7 := bits_pack e f 4 3 rfl rfl rfl
  have b3 : bits w 21 5 = 0 := bits_pack e f 5 2 rfl rfl rfl
  have b4 : bits w 25 1 = 0 := at6 e f rfl
  have b5 : bits w 26 6 = 57 := at7 e f rfl
  have f0 : Sys2Proof.fld w 13 5 = x0 := fld_eq (at3 e f rfl)
  have f1 : Sys2Proof.fld w 3 2 = x1 := fld_eq (at1 e f rfl)
  exact of_row hw (by rw [row39 b5]; simp [decode39, b0, b1, b2, b3, b4, f0, f1])
theorem barInit (x0 : Src) (x1 : Src) (x2 : BitVec 2) : Statement (.barInit x0 x1 x2) := by
  have f : Fit [(3, 0), (2, x2.toNat), (8, srcCode x1), (8, srcCode x0), (5, 0), (6, 58)] := ⟨Nat.two_pow_pos 3, x2.isLt, srcCode_lt x1, srcCode_lt x0, Nat.two_pow_pos 5, by decide, trivial⟩
  obtain ⟨w, hw⟩ : ∃ w, w = encode (.barInit x0 x1 x2) := ⟨_, rfl⟩
  have e := toNat_pack hw f rfl (show 3892314112 + srcCode x0 * 8192 + srcCode x1 * 32 + x2.toNat * 8 = 0 + 8 * (x2.toNat + 4 * (srcCode x1 + 256 * (srcCode x0 + 256 * (0 + 32 * (58))))) by omega)
  have b0 : bits w 0 3 = 0 := at0 e f rfl
  have b1 : bits w 21 5 = 0 := at4 e f rfl
  have b2 : bits w 26 6 = 58 := at5 e f rfl
  have f0 : srcAt w 13 = x0 := srcAt_eq (at3 e f rfl)
  have f1 : srcAt w 5 = x1 := srcAt_eq (at2 e f rfl)
  have f2 : Sys2Proof.fld w 3 2 = x2 := fld_eq (at1 e f rfl)
  exact of_row hw (by rw [row3A b2]; simp [decode3A, b0, b1, f0, f1, f2])
theorem barExpect (x0 : BitVec 5) (x1 : Src) (x2 : Src) (x3 : BitVec 2) : Statement (.barExpect x0 x1 x2 x3) := by
  have f : Fit [(3, 1), (2, x3.toNat), (8, srcCode x2), (8, srcCode x1), (5, x0.toNat), (6, 58)] := ⟨by decide, x3.isLt, srcCode_lt x2, srcCode_lt x1, x0.isLt, by decide, trivial⟩
  obtain ⟨w, hw⟩ : ∃ w, w = encode (.barExpect x0 x1 x2 x3) := ⟨_, rfl⟩
  have e := toNat_pack hw f rfl (show 3892314113 + x0.toNat * 2097152 + srcCode x1 * 8192 + srcCode x2 * 32 + x3.toNat * 8 = 1 + 8 * (x3.toNat + 4 * (srcCode x2 + 256 * (srcCode x1 + 256 * (x0.toNat + 32 * (58))))) by omega)
  have b0 : bits w 0 3 = 1 := at0 e f rfl
  have b1 : bits w 26 6 = 58 := at5 e f rfl
  have f0 : Sys2Proof.fld w 21 5 = x0 := fld_eq (at4 e f rfl)
  have f1 : srcAt w 13 = x1 := srcAt_eq (at3 e f rfl)
  have f2 : srcAt w 5 = x2 := srcAt_eq (at2 e f rfl)
  have f3 : Sys2Proof.fld w 3 2 = x3 := fld_eq (at1 e f rfl)
  exact of_row hw (by rw [row3A b1]; simp [decode3A, b0, f0, f1, f2, f3])
theorem barArrive (x0 : BitVec 5) (x1 : Src) (x2 : BitVec 2) : Statement (.barArrive x0 x1 x2) := by
  have f : Fit [(3, 2), (2, x2.toNat), (8, 0), (8, srcCode x1), (5, x0.toNat), (6, 58)] := ⟨by decide, x2.isLt, Nat.two_pow_pos 8, srcCode_lt x1, x0.isLt, by decide, trivial⟩
  obtain ⟨w, hw⟩ : ∃ w, w = encode (.barArrive x0 x1 x2) := ⟨_, rfl⟩
  have e := toNat_pack hw f rfl (show 3892314114 + x0.toNat * 2097152 + srcCode x1 * 8192 + x2.toNat * 8 = 2 + 8 * (x2.toNat + 4 * (0 + 256 * (srcCode x1 + 256 * (x0.toNat + 32 * (58))))) by omega)
  have b0 : bits w 0 3 = 2 := at0 e f rfl
  have b1 : bits w 5 8 = 0 := at2 e f rfl
  have b2 : bits w 26 6 = 58 := at5 e f rfl
  have f0 : Sys2Proof.fld w 21 5 = x0 := fld_eq (at4 e f rfl)
  have f1 : srcAt w 13 = x1 := srcAt_eq (at3 e f rfl)
  have f2 : Sys2Proof.fld w 3 2 = x2 := fld_eq (at1 e f rfl)
  exact of_row hw (by rw [row3A b2]; simp [decode3A, b0, b1, f0, f1, f2])
theorem barWait (x0 : Src) (x1 : Src) (x2 : BitVec 2) : Statement (.barWait x0 x1 x2) := by
  have f : Fit [(3, 3), (2, x2.toNat), (8, srcCode x1), (8, srcCode x0), (5, 0), (6, 58)] := ⟨by decide, x2.isLt, srcCode_lt x1, srcCode_lt x0, Nat.two_pow_pos 5, by decide, trivial⟩
  obtain ⟨w, hw⟩ : ∃ w, w = encode (.barWait x0 x1 x2) := ⟨_, rfl⟩
  have e := toNat_pack hw f rfl (show 3892314115 + srcCode x0 * 8192 + srcCode x1 * 32 + x2.toNat * 8 = 3 + 8 * (x2.toNat + 4 * (srcCode x1 + 256 * (srcCode x0 + 256 * (0 + 32 * (58))))) by omega)
  have b0 : bits w 0 3 = 3 := at0 e f rfl
  have b1 : bits w 21 5 = 0 := at4 e f rfl
  have b2 : bits w 26 6 = 58 := at5 e f rfl
  have f0 : srcAt w 13 = x0 := srcAt_eq (at3 e f rfl)
  have f1 : srcAt w 5 = x1 := srcAt_eq (at2 e f rfl)
  have f2 : Sys2Proof.fld w 3 2 = x2 := fld_eq (at1 e f rfl)
  exact of_row hw (by rw [row3A b2]; simp [decode3A, b0, b1, f0, f1, f2])
theorem barTest (x0 : BitVec 4) (x1 : Src) (x2 : Src) (x3 : BitVec 2) : Statement (.barTest x0 x1 x2 x3) := by
  have f : Fit [(3, 4), (2, x3.toNat), (8, srcCode x2), (8, srcCode x1), (4, x0.toNat), (1, 0), (6, 58)] := ⟨by decide, x3.isLt, srcCode_lt x2, srcCode_lt x1, x0.isLt, Nat.two_pow_pos 1, by decide, trivial⟩
  obtain ⟨w, hw⟩ : ∃ w, w = encode (.barTest x0 x1 x2 x3) := ⟨_, rfl⟩
  have e := toNat_pack hw f rfl (show 3892314116 + x0.toNat * 2097152 + srcCode x1 * 8192 + srcCode x2 * 32 + x3.toNat * 8 = 4 + 8 * (x3.toNat + 4 * (srcCode x2 + 256 * (srcCode x1 + 256 * (x0.toNat + 16 * (0 + 2 * (58)))))) by omega)
  have b0 : bits w 0 3 = 4 := at0 e f rfl
  have b1 : bits w 25 1 = 0 := at5 e f rfl
  have b2 : bits w 26 6 = 58 := at6 e f rfl
  have f0 : Sys2Proof.fld w 21 4 = x0 := fld_eq (at4 e f rfl)
  have f1 : srcAt w 13 = x1 := srcAt_eq (at3 e f rfl)
  have f2 : srcAt w 5 = x2 := srcAt_eq (at2 e f rfl)
  have f3 : Sys2Proof.fld w 3 2 = x3 := fld_eq (at1 e f rfl)
  exact of_row hw (by rw [row3A b2]; simp [decode3A, b0, b1, f0, f1, f2, f3])
theorem barGroup : Statement (.barGroup) := by
  have f : Fit [(3, 5), (2, 0), (8, 0), (8, 0), (4, 0), (1, 0), (6, 58)] := ⟨by decide, Nat.two_pow_pos 2, Nat.two_pow_pos 8, Nat.two_pow_pos 8, Nat.two_pow_pos 4, Nat.two_pow_pos 1, by decide, trivial⟩
  obtain ⟨w, hw⟩ : ∃ w, w = encode (.barGroup) := ⟨_, rfl⟩
  have e := toNat_pack hw f rfl (show 3892314117 = 5 + 8 * (0 + 4 * (0 + 256 * (0 + 256 * (0 + 16 * (0 + 2 * (58)))))) by rfl)
  have b0 : bits w 0 3 = 5 := at0 e f rfl
  have b1 : bits w 0 26 = 5 := bits_pack e f 0 6 rfl rfl rfl
  have b2 : bits w 5 8 = 0 := at2 e f rfl
  have b3 : bits w 21 5 = 0 := bits_pack e f 4 2 rfl rfl rfl
  have b4 : bits w 25 1 = 0 := at5 e f rfl
  have b5 : bits w 26 6 = 58 := at6 e f rfl
  exact of_row hw (by rw [row3A b5]; simp [decode3A, b0, b1, b2, b3, b4])
theorem barCluster : Statement (.barCluster) := by
  have f : Fit [(3, 6), (2, 0), (8, 0), (8, 0), (4, 0), (1, 0), (6, 58)] := ⟨by decide, Nat.two_pow_pos 2, Nat.two_pow_pos 8, Nat.two_pow_pos 8, Nat.two_pow_pos 4, Nat.two_pow_pos 1, by decide, trivial⟩
  obtain ⟨w, hw⟩ : ∃ w, w = encode (.barCluster) := ⟨_, rfl⟩
  have e := toNat_pack hw f rfl (show 3892314118 = 6 + 8 * (0 + 4 * (0 + 256 * (0 + 256 * (0 + 16 * (0 + 2 * (58)))))) by rfl)
  have b0 : bits w 0 3 = 6 := at0 e f rfl
  have b1 : bits w 0 26 = 6 := bits_pack e f 0 6 rfl rfl rfl
  have b2 : bits w 5 8 = 0 := at2 e f rfl
  have b3 : bits w 21 5 = 0 := bits_pack e f 4 2 rfl rfl rfl
  have b4 : bits w 25 1 = 0 := at5 e f rfl
  have b5 : bits w 26 6 = 58 := at6 e f rfl
  exact of_row hw (by rw [row3A b5]; simp [decode3A, b0, b1, b2, b3, b4])
theorem collGather (x0 : BitVec 5) (x1 : BitVec 2) : Statement (.collGather x0 x1) := by
  have f : Fit [(3, 7), (2, x1.toNat), (8, 0), (5, x0.toNat), (3, 7), (4, 0), (1, 0), (6, 58)] := ⟨by decide, x1.isLt, Nat.two_pow_pos 8, x0.isLt, by decide, Nat.two_pow_pos 4, Nat.two_pow_pos 1, by decide, trivial⟩
  obtain ⟨w, hw⟩ : ∃ w, w = encode (.collGather x0 x1) := ⟨_, rfl⟩
  have e := toNat_pack hw f rfl (show 3894149127 + x0.toNat * 8192 + x1.toNat * 8 = 7 + 8 * (x1.toNat + 4 * (0 + 256 * (x0.toNat + 32 * (7 + 8 * (0 + 16 * (0 + 2 * (58))))))) by omega)
  have b0 : bits w 0 3 = 7 := at0 e f rfl
  have b1 : bits w 5 8 = 0 := at2 e f rfl
  have b2 : bits w 18 8 = 7 := bits_pack e f 4 3 rfl rfl rfl
  have b3 : bits w 21 5 = 0 := bits_pack e f 5 2 rfl rfl rfl
  have b4 : bits w 25 1 = 0 := at6 e f rfl
  have b5 : bits w 26 6 = 58 := at7 e f rfl
  have n0 : ¬bits w 0 26 = 5 := by intro h; unfold bits at h b0; omega
  have n1 : ¬bits w 0 26 = 6 := by intro h; unfold bits at h b0; omega
  have f0 : Sys2Proof.fld w 13 5 = x0 := fld_eq (at3 e f rfl)
  have f1 : Sys2Proof.fld w 3 2 = x1 := fld_eq (at1 e f rfl)
  exact of_row hw (by rw [row3A b5]; simp [decode3A, b0, b1, b2, b3, b4, n0, n1, f0, f1])
theorem binit (x0 : BitVec 5) (x1 : Src) (x2 : BitVec 6) : Statement (.binit x0 x1 x2) := by
  have f : Fit [(5, 0), (6, x2.toNat), (2, 0), (8, srcCode x1), (5, x0.toNat), (6, 59)] := ⟨Nat.two_pow_pos 5, x2.isLt, Nat.two_pow_pos 2, srcCode_lt x1, x0.isLt, by decide, trivial⟩
  obtain ⟨w, hw⟩ : ∃ w, w = encode (.binit x0 x1 x2) := ⟨_, rfl⟩
  have e := toNat_pack hw f rfl (show 3959422976 + x0.toNat * 2097152 + srcCode x1 * 8192 + x2.toNat * 32 = 0 + 32 * (x2.toNat + 64 * (0 + 4 * (srcCode x1 + 256 * (x0.toNat + 32 * (59))))) by omega)
  have b0 : bits w 0 5 = 0 := at0 e f rfl
  have b1 : bits w 11 2 = 0 := at2 e f rfl
  have b2 : bits w 26 6 = 59 := at5 e f rfl
  have f0 : Sys2Proof.fld w 21 5 = x0 := fld_eq (at4 e f rfl)
  have f1 : srcAt w 13 = x1 := srcAt_eq (at3 e f rfl)
  have f2 : Sys2Proof.fld w 5 6 = x2 := fld_eq (at1 e f rfl)
  exact of_row hw (by rw [row3B b2]; simp [decode3B, b0, b1, f0, f1, f2])
theorem susp (x0 : BitVec 5) (x1 : BitVec 6) : Statement (.susp x0 x1) := by
  have f : Fit [(5, 1), (6, x1.toNat), (2, 0), (8, 0), (5, x0.toNat), (6, 59)] := ⟨by decide, x1.isLt, Nat.two_pow_pos 2, Nat.two_pow_pos 8, x0.isLt, by decide, trivial⟩
  obtain ⟨w, hw⟩ : ∃ w, w = encode (.susp x0 x1) := ⟨_, rfl⟩
  have e := toNat_pack hw f rfl (show 3959422977 + x0.toNat * 2097152 + x1.toNat * 32 = 1 + 32 * (x1.toNat + 64 * (0 + 4 * (0 + 256 * (x0.toNat + 32 * (59))))) by omega)
  have b0 : bits w 0 5 = 1 := at0 e f rfl
  have b1 : bits w 11 2 = 0 := at2 e f rfl
  have b2 : bits w 11 10 = 0 := bits_pack e f 2 2 rfl rfl rfl
  have b3 : bits w 26 6 = 59 := at5 e f rfl
  have f0 : Sys2Proof.fld w 21 5 = x0 := fld_eq (at4 e f rfl)
  have f1 : Sys2Proof.fld w 5 6 = x1 := fld_eq (at1 e f rfl)
  exact of_row hw (by rw [row3B b3]; simp [decode3B, b0, b1, b2, f0, f1])
theorem suspTag (x0 : BitVec 5) (x1 : Src) (x2 : BitVec 6) : Statement (.suspTag x0 x1 x2) := by
  have f : Fit [(5, 1), (6, x2.toNat), (2, 1), (8, srcCode x1), (5, x0.toNat), (6, 59)] := ⟨by decide, x2.isLt, by decide, srcCode_lt x1, x0.isLt, by decide, trivial⟩
  obtain ⟨w, hw⟩ : ∃ w, w = encode (.suspTag x0 x1 x2) := ⟨_, rfl⟩
  have e := toNat_pack hw f rfl (show 3959425025 + x0.toNat * 2097152 + srcCode x1 * 8192 + x2.toNat * 32 = 1 + 32 * (x2.toNat + 64 * (1 + 4 * (srcCode x1 + 256 * (x0.toNat + 32 * (59))))) by omega)
  have b0 : bits w 0 5 = 1 := at0 e f rfl
  have b1 : bits w 11 2 = 1 := at2 e f rfl
  have b2 : bits w 26 6 = 59 := at5 e f rfl
  have n0 : ¬bits w 11 10 = 0 := by intro h; unfold bits at h b1; omega
  have f0 : Sys2Proof.fld w 21 5 = x0 := fld_eq (at4 e f rfl)
  have f1 : srcAt w 13 = x1 := srcAt_eq (at3 e f rfl)
  have f2 : Sys2Proof.fld w 5 6 = x2 := fld_eq (at1 e f rfl)
  exact of_row hw (by rw [row3B b2]; simp [decode3B, b0, b1, n0, f0, f1, f2])
theorem suspAddr (x0 : BitVec 5) (x1 : Src) (x2 : BitVec 6) : Statement (.suspAddr x0 x1 x2) := by
  have f : Fit [(5, 1), (6, x2.toNat), (2, 2), (8, srcCode x1), (5, x0.toNat), (6, 59)] := ⟨by decide, x2.isLt, by decide, srcCode_lt x1, x0.isLt, by decide, trivial⟩
  obtain ⟨w, hw⟩ : ∃ w, w = encode (.suspAddr x0 x1 x2) := ⟨_, rfl⟩
  have e := toNat_pack hw f rfl (show 3959427073 + x0.toNat * 2097152 + srcCode x1 * 8192 + x2.toNat * 32 = 1 + 32 * (x2.toNat + 64 * (2 + 4 * (srcCode x1 + 256 * (x0.toNat + 32 * (59))))) by omega)
  have b0 : bits w 0 5 = 1 := at0 e f rfl
  have b1 : bits w 11 2 = 2 := at2 e f rfl
  have b2 : bits w 26 6 = 59 := at5 e f rfl
  have n0 : ¬bits w 11 10 = 0 := by intro h; unfold bits at h b1; omega
  have f0 : Sys2Proof.fld w 21 5 = x0 := fld_eq (at4 e f rfl)
  have f1 : srcAt w 13 = x1 := srcAt_eq (at3 e f rfl)
  have f2 : Sys2Proof.fld w 5 6 = x2 := fld_eq (at1 e f rfl)
  exact of_row hw (by rw [row3B b2]; simp [decode3B, b0, b1, n0, f0, f1, f2])
theorem suspBar (x0 : BitVec 5) (x1 : Src) (x2 : BitVec 6) : Statement (.suspBar x0 x1 x2) := by
  have f : Fit [(5, 1), (6, x2.toNat), (2, 3), (8, srcCode x1), (5, x0.toNat), (6, 59)] := ⟨by decide, x2.isLt, by decide, srcCode_lt x1, x0.isLt, by decide, trivial⟩
  obtain ⟨w, hw⟩ : ∃ w, w = encode (.suspBar x0 x1 x2) := ⟨_, rfl⟩
  have e := toNat_pack hw f rfl (show 3959429121 + x0.toNat * 2097152 + srcCode x1 * 8192 + x2.toNat * 32 = 1 + 32 * (x2.toNat + 64 * (3 + 4 * (srcCode x1 + 256 * (x0.toNat + 32 * (59))))) by omega)
  have b0 : bits w 0 5 = 1 := at0 e f rfl
  have b1 : bits w 11 2 = 3 := at2 e f rfl
  have b2 : bits w 26 6 = 59 := at5 e f rfl
  have n0 : ¬bits w 11 10 = 0 := by intro h; unfold bits at h b1; omega
  have f0 : Sys2Proof.fld w 21 5 = x0 := fld_eq (at4 e f rfl)
  have f1 : srcAt w 13 = x1 := srcAt_eq (at3 e f rfl)
  have f2 : Sys2Proof.fld w 5 6 = x2 := fld_eq (at1 e f rfl)
  exact of_row hw (by rw [row3B b2]; simp [decode3B, b0, b1, n0, f0, f1, f2])
theorem wake (x0 : BitVec 5) (x1 : Src) (x2 : BitVec 6) : Statement (.wake x0 x1 x2) := by
  have f : Fit [(5, 2), (6, x2.toNat), (2, 0), (8, srcCode x1), (5, x0.toNat), (6, 59)] := ⟨by decide, x2.isLt, Nat.two_pow_pos 2, srcCode_lt x1, x0.isLt, by decide, trivial⟩
  obtain ⟨w, hw⟩ : ∃ w, w = encode (.wake x0 x1 x2) := ⟨_, rfl⟩
  have e := toNat_pack hw f rfl (show 3959422978 + x0.toNat * 2097152 + srcCode x1 * 8192 + x2.toNat * 32 = 2 + 32 * (x2.toNat + 64 * (0 + 4 * (srcCode x1 + 256 * (x0.toNat + 32 * (59))))) by omega)
  have b0 : bits w 0 5 = 2 := at0 e f rfl
  have b1 : bits w 11 2 = 0 := at2 e f rfl
  have b2 : bits w 26 6 = 59 := at5 e f rfl
  have f0 : Sys2Proof.fld w 21 5 = x0 := fld_eq (at4 e f rfl)
  have f1 : srcAt w 13 = x1 := srcAt_eq (at3 e f rfl)
  have f2 : Sys2Proof.fld w 5 6 = x2 := fld_eq (at1 e f rfl)
  exact of_row hw (by rw [row3B b2]; simp [decode3B, b0, b1, f0, f1, f2])
theorem wakePred (x0 : BitVec 5) (x1 : Src) (x2 : BitVec 2) (x3 : BitVec 6) : Statement (.wakePred x0 x1 x2 x3) := by
  have f : Fit [(5, 3), (6, x3.toNat), (2, x2.toNat), (8, srcCode x1), (5, x0.toNat), (6, 59)] := ⟨by decide, x3.isLt, x2.isLt, srcCode_lt x1, x0.isLt, by decide, trivial⟩
  obtain ⟨w, hw⟩ : ∃ w, w = encode (.wakePred x0 x1 x2 x3) := ⟨_, rfl⟩
  have e := toNat_pack hw f rfl (show 3959422979 + x0.toNat * 2097152 + srcCode x1 * 8192 + x2.toNat * 2048 + x3.toNat * 32 = 3 + 32 * (x3.toNat + 64 * (x2.toNat + 4 * (srcCode x1 + 256 * (x0.toNat + 32 * (59))))) by omega)
  have b0 : bits w 0 5 = 3 := at0 e f rfl
  have b1 : bits w 26 6 = 59 := at5 e f rfl
  have f0 : Sys2Proof.fld w 21 5 = x0 := fld_eq (at4 e f rfl)
  have f1 : srcAt w 13 = x1 := srcAt_eq (at3 e f rfl)
  have f2 : Sys2Proof.fld w 11 2 = x2 := fld_eq (at2 e f rfl)
  have f3 : Sys2Proof.fld w 5 6 = x3 := fld_eq (at1 e f rfl)
  exact of_row hw (by rw [row3B b1]; simp [decode3B, b0, f0, f1, f2, f3])
theorem wakeAddr (x0 : BitVec 5) (x1 : Src) (x2 : BitVec 1) (x3 : BitVec 6) : Statement (.wakeAddr x0 x1 x2 x3) := by
  have f : Fit [(5, 4), (6, x3.toNat), (1, x2.toNat), (1, 0), (8, srcCode x1), (5, x0.toNat), (6, 59)] := ⟨by decide, x3.isLt, x2.isLt, Nat.two_pow_pos 1, srcCode_lt x1, x0.isLt, by decide, trivial⟩
  obtain ⟨w, hw⟩ : ∃ w, w = encode (.wakeAddr x0 x1 x2 x3) := ⟨_, rfl⟩
  have e := toNat_pack hw f rfl (show 3959422980 + x0.toNat * 2097152 + srcCode x1 * 8192 + x2.toNat * 2048 + x3.toNat * 32 = 4 + 32 * (x3.toNat + 64 * (x2.toNat + 2 * (0 + 2 * (srcCode x1 + 256 * (x0.toNat + 32 * (59)))))) by omega)
  have b0 : bits w 0 5 = 4 := at0 e f rfl
  have b1 : bits w 12 1 = 0 := at3 e f rfl
  have b2 : bits w 26 6 = 59 := at6 e f rfl
  have f0 : Sys2Proof.fld w 21 5 = x0 := fld_eq (at5 e f rfl)
  have f1 : srcAt w 13 = x1 := srcAt_eq (at4 e f rfl)
  have f2 : Sys2Proof.fld w 11 1 = x2 := fld_eq (at2 e f rfl)
  have f3 : Sys2Proof.fld w 5 6 = x3 := fld_eq (at1 e f rfl)
  exact of_row hw (by rw [row3B b2]; simp [decode3B, b0, b1, f0, f1, f2, f3])
theorem fld (x0 : BitVec 5) (x1 : Src) (x2 : BitVec 6) : Statement (.fld x0 x1 x2) := by
  have f : Fit [(5, 5), (6, x2.toNat), (1, 0), (1, 0), (8, srcCode x1), (5, x0.toNat), (6, 59)] := ⟨by decide, x2.isLt, Nat.two_pow_pos 1, Nat.two_pow_pos 1, srcCode_lt x1, x0.isLt, by decide, trivial⟩
  obtain ⟨w, hw⟩ : ∃ w, w = encode (.fld x0 x1 x2) := ⟨_, rfl⟩
  have e := toNat_pack hw f rfl (show 3959422981 + x0.toNat * 2097152 + srcCode x1 * 8192 + x2.toNat * 32 = 5 + 32 * (x2.toNat + 64 * (0 + 2 * (0 + 2 * (srcCode x1 + 256 * (x0.toNat + 32 * (59)))))) by omega)
  have b0 : bits w 0 5 = 5 := at0 e f rfl
  have b1 : bits w 11 2 = 0 := bits_pack e f 2 2 rfl rfl rfl
  have b2 : bits w 12 1 = 0 := at3 e f rfl
  have b3 : bits w 26 6 = 59 := at6 e f rfl
  have f0 : Sys2Proof.fld w 21 5 = x0 := fld_eq (at5 e f rfl)
  have f1 : srcAt w 13 = x1 := srcAt_eq (at4 e f rfl)
  have f2 : Sys2Proof.fld w 5 6 = x2 := fld_eq (at1 e f rfl)
  exact of_row hw (by rw [row3B b3]; simp [decode3B, b0, b1, b2, f0, f1, f2])
theorem fst (x0 : BitVec 5) (x1 : Src) (x2 : BitVec 6) : Statement (.fst x0 x1 x2) := by
  have f : Fit [(5, 6), (6, x2.toNat), (1, 0), (1, 0), (8, srcCode x1), (5, x0.toNat), (6, 59)] := ⟨by decide, x2.isLt, Nat.two_pow_pos 1, Nat.two_pow_pos 1, srcCode_lt x1, x0.isLt, by decide, trivial⟩
  obtain ⟨w, hw⟩ : ∃ w, w = encode (.fst x0 x1 x2) := ⟨_, rfl⟩
  have e := toNat_pack hw f rfl (show 3959422982 + x0.toNat * 2097152 + srcCode x1 * 8192 + x2.toNat * 32 = 6 + 32 * (x2.toNat + 64 * (0 + 2 * (0 + 2 * (srcCode x1 + 256 * (x0.toNat + 32 * (59)))))) by omega)
  have b0 : bits w 0 5 = 6 := at0 e f rfl
  have b1 : bits w 11 2 = 0 := bits_pack e f 2 2 rfl rfl rfl
  have b2 : bits w 12 1 = 0 := at3 e f rfl
  have b3 : bits w 26 6 = 59 := at6 e f rfl
  have f0 : Sys2Proof.fld w 21 5 = x0 := fld_eq (at5 e f rfl)
  have f1 : srcAt w 13 = x1 := srcAt_eq (at4 e f rfl)
  have f2 : Sys2Proof.fld w 5 6 = x2 := fld_eq (at1 e f rfl)
  exact of_row hw (by rw [row3B b3]; simp [decode3B, b0, b1, b2, f0, f1, f2])
theorem fxform (x0 : BitVec 5) (x1 : Src) (x2 : BitVec 2) (x3 : BitVec 6) : Statement (.fxform x0 x1 x2 x3) := by
  have f : Fit [(5, 7), (6, x3.toNat), (2, x2.toNat), (8, srcCode x1), (5, x0.toNat), (6, 59)] := ⟨by decide, x3.isLt, x2.isLt, srcCode_lt x1, x0.isLt, by decide, trivial⟩
  obtain ⟨w, hw⟩ : ∃ w, w = encode (.fxform x0 x1 x2 x3) := ⟨_, rfl⟩
  have e := toNat_pack hw f rfl (show 3959422983 + x0.toNat * 2097152 + srcCode x1 * 8192 + x2.toNat * 2048 + x3.toNat * 32 = 7 + 32 * (x3.toNat + 64 * (x2.toNat + 4 * (srcCode x1 + 256 * (x0.toNat + 32 * (59))))) by omega)
  have b0 : bits w 0 5 = 7 := at0 e f rfl
  have b1 : bits w 26 6 = 59 := at5 e f rfl
  have f0 : Sys2Proof.fld w 21 5 = x0 := fld_eq (at4 e f rfl)
  have f1 : srcAt w 13 = x1 := srcAt_eq (at3 e f rfl)
  have f2 : Sys2Proof.fld w 11 2 = x2 := fld_eq (at2 e f rfl)
  have f3 : Sys2Proof.fld w 5 6 = x3 := fld_eq (at1 e f rfl)
  exact of_row hw (by rw [row3B b1]; simp [decode3B, b0, f0, f1, f2, f3])
theorem fcount (x0 : BitVec 5) (x1 : BitVec 6) : Statement (.fcount x0 x1) := by
  have f : Fit [(5, 8), (6, x1.toNat), (1, 0), (1, 0), (8, 0), (5, x0.toNat), (6, 59)] := ⟨by decide, x1.isLt, Nat.two_pow_pos 1, Nat.two_pow_pos 1, Nat.two_pow_pos 8, x0.isLt, by decide, trivial⟩
  obtain ⟨w, hw⟩ : ∃ w, w = encode (.fcount x0 x1) := ⟨_, rfl⟩
  have e := toNat_pack hw f rfl (show 3959422984 + x0.toNat * 2097152 + x1.toNat * 32 = 8 + 32 * (x1.toNat + 64 * (0 + 2 * (0 + 2 * (0 + 256 * (x0.toNat + 32 * (59)))))) by omega)
  have b0 : bits w 0 5 = 8 := at0 e f rfl
  have b1 : bits w 11 2 = 0 := bits_pack e f 2 2 rfl rfl rfl
  have b2 : bits w 11 10 = 0 := bits_pack e f 2 3 rfl rfl rfl
  have b3 : bits w 12 1 = 0 := at3 e f rfl
  have b4 : bits w 26 6 = 59 := at6 e f rfl
  have f0 : Sys2Proof.fld w 21 5 = x0 := fld_eq (at5 e f rfl)
  have f1 : Sys2Proof.fld w 5 6 = x1 := fld_eq (at1 e f rfl)
  exact of_row hw (by rw [row3B b4]; simp [decode3B, b0, b1, b2, b3, f0, f1])
theorem resume (x0 : BitVec 6) : Statement (.resume x0) := by
  have f : Fit [(5, 9), (6, x0.toNat), (1, 0), (1, 0), (8, 0), (5, 0), (6, 59)] := ⟨by decide, x0.isLt, Nat.two_pow_pos 1, Nat.two_pow_pos 1, Nat.two_pow_pos 8, Nat.two_pow_pos 5, by decide, trivial⟩
  obtain ⟨w, hw⟩ : ∃ w, w = encode (.resume x0) := ⟨_, rfl⟩
  have e := toNat_pack hw f rfl (show 3959422985 + x0.toNat * 32 = 9 + 32 * (x0.toNat + 64 * (0 + 2 * (0 + 2 * (0 + 256 * (0 + 32 * (59)))))) by omega)
  have b0 : bits w 0 5 = 9 := at0 e f rfl
  have b1 : bits w 11 2 = 0 := bits_pack e f 2 2 rfl rfl rfl
  have b2 : bits w 11 10 = 0 := bits_pack e f 2 3 rfl rfl rfl
  have b3 : bits w 11 15 = 0 := bits_pack e f 2 4 rfl rfl rfl
  have b4 : bits w 12 1 = 0 := at3 e f rfl
  have b5 : bits w 26 6 = 59 := at6 e f rfl
  have f0 : Sys2Proof.fld w 5 6 = x0 := fld_eq (at1 e f rfl)
  exact of_row hw (by rw [row3B b5]; simp [decode3B, b0, b1, b2, b3, b4, f0])
theorem svc (x0 : BitVec 5) (x1 : BitVec 5) (x2 : Src) (x3 : BitVec 2) : Statement (.svc x0 x1 x2 x3) := by
  have f : Fit [(3, 0), (2, x3.toNat), (8, srcCode x2), (5, x1.toNat), (3, 7), (5, x0.toNat), (6, 60)] := ⟨Nat.two_pow_pos 3, x3.isLt, srcCode_lt x2, x1.isLt, by decide, x0.isLt, by decide, trivial⟩
  obtain ⟨w, hw⟩ : ∃ w, w = encode (.svc x0 x1 x2 x3) := ⟨_, rfl⟩
  have e := toNat_pack hw f rfl (show 4028366848 + x0.toNat * 2097152 + x1.toNat * 8192 + srcCode x2 * 32 + x3.toNat * 8 = 0 + 8 * (x3.toNat + 4 * (srcCode x2 + 256 * (x1.toNat + 32 * (7 + 8 * (x0.toNat + 32 * (60)))))) by omega)
  have b0 : bits w 0 3 = 0 := at0 e f rfl
  have b1 : bits w 18 3 = 7 := at4 e f rfl
  have b2 : bits w 26 6 = 60 := at6 e f rfl
  have f0 : Sys2Proof.fld w 21 5 = x0 := fld_eq (at5 e f rfl)
  have f1 : Sys2Proof.fld w 13 5 = x1 := fld_eq (at3 e f rfl)
  have f2 : srcAt w 5 = x2 := srcAt_eq (at2 e f rfl)
  have f3 : Sys2Proof.fld w 3 2 = x3 := fld_eq (at1 e f rfl)
  exact of_row hw (by rw [row3C b2]; simp [decode3C, b0, b1, f0, f1, f2, f3])
theorem srecv (x0 : BitVec 4) (x1 : BitVec 5) (x2 : BitVec 2) : Statement (.srecv x0 x1 x2) := by
  have f : Fit [(3, 1), (2, x2.toNat), (8, 0), (5, x1.toNat), (3, 7), (1, 0), (4, x0.toNat), (6, 60)] := ⟨by decide, x2.isLt, Nat.two_pow_pos 8, x1.isLt, by decide, Nat.two_pow_pos 1, x0.isLt, by decide, trivial⟩
  obtain ⟨w, hw⟩ : ∃ w, w = encode (.srecv x0 x1 x2) := ⟨_, rfl⟩
  have e := toNat_pack hw f rfl (show 4028366849 + x0.toNat * 4194304 + x1.toNat * 8192 + x2.toNat * 8 = 1 + 8 * (x2.toNat + 4 * (0 + 256 * (x1.toNat + 32 * (7 + 8 * (0 + 2 * (x0.toNat + 16 * (60))))))) by omega)
  have b0 : bits w 0 3 = 1 := at0 e f rfl
  have b1 : bits w 5 8 = 0 := at2 e f rfl
  have b2 : bits w 18 3 = 7 := at4 e f rfl
  have b3 : bits w 18 4 = 7 := bits_pack e f 4 2 rfl rfl rfl
  have b4 : bits w 26 6 = 60 := at7 e f rfl
  have f0 : Sys2Proof.fld w 22 4 = x0 := fld_eq (at6 e f rfl)
  have f1 : Sys2Proof.fld w 13 5 = x1 := fld_eq (at3 e f rfl)
  have f2 : Sys2Proof.fld w 3 2 = x2 := fld_eq (at1 e f rfl)
  exact of_row hw (by rw [row3C b4]; simp [decode3C, b0, b1, b2, b3, f0, f1, f2])
theorem srep (x0 : BitVec 4) (x1 : BitVec 5) (x2 : Src) : Statement (.srep x0 x1 x2) := by
  have f : Fit [(3, 2), (2, 0), (8, srcCode x2), (5, x1.toNat), (3, 7), (4, x0.toNat), (1, 0), (6, 60)] := ⟨by decide, Nat.two_pow_pos 2, srcCode_lt x2, x1.isLt, by decide, x0.isLt, Nat.two_pow_pos 1, by decide, trivial⟩
  obtain ⟨w, hw⟩ : ∃ w, w = encode (.srep x0 x1 x2) := ⟨_, rfl⟩
  have e := toNat_pack hw f rfl (show 4028366850 + x0.toNat * 2097152 + x1.toNat * 8192 + srcCode x2 * 32 = 2 + 8 * (0 + 4 * (srcCode x2 + 256 * (x1.toNat + 32 * (7 + 8 * (x0.toNat + 16 * (0 + 2 * (60))))))) by omega)
  have b0 : bits w 0 3 = 2 := at0 e f rfl
  have b1 : bits w 0 5 = 2 := bits_pack e f 0 2 rfl rfl rfl
  have b2 : bits w 18 3 = 7 := at4 e f rfl
  have b3 : bits w 25 1 = 0 := at6 e f rfl
  have b4 : bits w 26 6 = 60 := at7 e f rfl
  have f0 : Sys2Proof.fld w 21 4 = x0 := fld_eq (at5 e f rfl)
  have f1 : Sys2Proof.fld w 13 5 = x1 := fld_eq (at3 e f rfl)
  have f2 : srcAt w 5 = x2 := srcAt_eq (at2 e f rfl)
  exact of_row hw (by rw [row3C b4]; simp [decode3C, b0, b1, b2, b3, f0, f1, f2])
theorem qpost (x0 : BitVec 5) (x1 : BitVec 5) (x2 : BitVec 2) : Statement (.qpost x0 x1 x2) := by
  have f : Fit [(3, 3), (2, x2.toNat), (5, x1.toNat), (3, 7), (5, x0.toNat), (3, 7), (1, 0), (3, 0), (1, 0), (6, 60)] := ⟨by decide, x2.isLt, x1.isLt, by decide, x0.isLt, by decide, Nat.two_pow_pos 1, Nat.two_pow_pos 3, Nat.two_pow_pos 1, by decide, trivial⟩
  obtain ⟨w, hw⟩ : ∃ w, w = encode (.qpost x0 x1 x2) := ⟨_, rfl⟩
  have e := toNat_pack hw f rfl (show 4028374019 + x0.toNat * 8192 + x1.toNat * 32 + x2.toNat * 8 = 3 + 8 * (x2.toNat + 4 * (x1.toNat + 32 * (7 + 8 * (x0.toNat + 32 * (7 + 8 * (0 + 2 * (0 + 8 * (0 + 2 * (60))))))))) by omega)
  have b0 : bits w 0 3 = 3 := at0 e f rfl
  have b1 : bits w 10 3 = 7 := at3 e f rfl
  have b2 : bits w 18 3 = 7 := at5 e f rfl
  have b3 : bits w 18 4 = 7 := bits_pack e f 5 2 rfl rfl rfl
  have b4 : bits w 18 8 = 7 := bits_pack e f 5 4 rfl rfl rfl
  have b5 : bits w 25 1 = 0 := at8 e f rfl
  have b6 : bits w 26 6 = 60 := at9 e f rfl
  have n0 : ¬bits w 0 5 = 2 := by intro h; unfold bits at h b0; omega
  have f0 : Sys2Proof.fld w 13 5 = x0 := fld_eq (at4 e f rfl)
  have f1 : Sys2Proof.fld w 5 5 = x1 := fld_eq (at2 e f rfl)
  have f2 : Sys2Proof.fld w 3 2 = x2 := fld_eq (at1 e f rfl)
  exact of_row hw (by rw [row3C b6]; simp [decode3C, b0, b1, b2, b3, b4, b5, n0, f0, f1, f2])
theorem launch (x0 : BitVec 5) (x1 : BitVec 5) (x2 : BitVec 2) : Statement (.launch x0 x1 x2) := by
  have f : Fit [(3, 4), (2, x2.toNat), (5, 0), (3, 0), (5, x1.toNat), (3, 7), (5, x0.toNat), (6, 60)] := ⟨by decide, x2.isLt, Nat.two_pow_pos 5, Nat.two_pow_pos 3, x1.isLt, by decide, x0.isLt, by decide, trivial⟩
  obtain ⟨w, hw⟩ : ∃ w, w = encode (.launch x0 x1 x2) := ⟨_, rfl⟩
  have e := toNat_pack hw f rfl (show 4028366852 + x0.toNat * 2097152 + x1.toNat * 8192 + x2.toNat * 8 = 4 + 8 * (x2.toNat + 4 * (0 + 32 * (0 + 8 * (x1.toNat + 32 * (7 + 8 * (x0.toNat + 32 * (60))))))) by omega)
  have b0 : bits w 0 3 = 4 := at0 e f rfl
  have b1 : bits w 5 8 = 0 := bits_pack e f 2 2 rfl rfl rfl
  have b2 : bits w 10 3 = 0 := at3 e f rfl
  have b3 : bits w 18 3 = 7 := at5 e f rfl
  have b4 : bits w 26 6 = 60 := at7 e f rfl
  have n0 : ¬bits w 0 5 = 2 := by intro h; unfold bits at h b0; omega
  have f0 : Sys2Proof.fld w 21 5 = x0 := fld_eq (at6 e f rfl)
  have f1 : Sys2Proof.fld w 13 5 = x1 := fld_eq (at4 e f rfl)
  have f2 : Sys2Proof.fld w 3 2 = x2 := fld_eq (at1 e f rfl)
  exact of_row hw (by rw [row3C b4]; simp [decode3C, b0, b1, b2, b3, n0, f0, f1, f2])
theorem verdict (x0 : Src) : Statement (.verdict x0) := by
  have f : Fit [(3, 5), (2, 0), (5, 0), (3, 0), (8, srcCode x0), (4, 0), (1, 0), (6, 60)] := ⟨by decide, Nat.two_pow_pos 2, Nat.two_pow_pos 5, Nat.two_pow_pos 3, srcCode_lt x0, Nat.two_pow_pos 4, Nat.two_pow_pos 1, by decide, trivial⟩
  obtain ⟨w, hw⟩ : ∃ w, w = encode (.verdict x0) := ⟨_, rfl⟩
  have e := toNat_pack hw f rfl (show 4026531845 + srcCode x0 * 8192 = 5 + 8 * (0 + 4 * (0 + 32 * (0 + 8 * (srcCode x0 + 256 * (0 + 16 * (0 + 2 * (60))))))) by omega)
  have b0 : bits w 0 3 = 5 := at0 e f rfl
  have b1 : bits w 0 5 = 5 := bits_pack e f 0 2 rfl rfl rfl
  have b2 : bits w 0 13 = 5 := bits_pack e f 0 4 rfl rfl rfl
  have b3 : bits w 5 8 = 0 := bits_pack e f 2 2 rfl rfl rfl
  have b4 : bits w 10 3 = 0 := at3 e f rfl
  have b5 : bits w 21 5 = 0 := bits_pack e f 5 2 rfl rfl rfl
  have b6 : bits w 25 1 = 0 := at6 e f rfl
  have b7 : bits w 26 6 = 60 := at7 e f rfl
  have f0 : srcAt w 13 = x0 := srcAt_eq (at4 e f rfl)
  exact of_row hw (by rw [row3C b7]; simp [decode3C, b0, b1, b2, b3, b4, b5, b6, f0])
theorem mreq (x0 : BitVec 5) (x1 : BitVec 5) (x2 : BitVec 2) : Statement (.mreq x0 x1 x2) := by
  have f : Fit [(3, 6), (2, x2.toNat), (5, 0), (3, 0), (5, x1.toNat), (3, 7), (5, x0.toNat), (6, 60)] := ⟨by decide, x2.isLt, Nat.two_pow_pos 5, Nat.two_pow_pos 3, x1.isLt, by decide, x0.isLt, by decide, trivial⟩
  obtain ⟨w, hw⟩ : ∃ w, w = encode (.mreq x0 x1 x2) := ⟨_, rfl⟩
  have e := toNat_pack hw f rfl (show 4028366854 + x0.toNat * 2097152 + x1.toNat * 8192 + x2.toNat * 8 = 6 + 8 * (x2.toNat + 4 * (0 + 32 * (0 + 8 * (x1.toNat + 32 * (7 + 8 * (x0.toNat + 32 * (60))))))) by omega)
  have b0 : bits w 0 3 = 6 := at0 e f rfl
  have b1 : bits w 5 8 = 0 := bits_pack e f 2 2 rfl rfl rfl
  have b2 : bits w 10 3 = 0 := at3 e f rfl
  have b3 : bits w 18 3 = 7 := at5 e f rfl
  have b4 : bits w 26 6 = 60 := at7 e f rfl
  have n0 : ¬bits w 0 5 = 2 := by intro h; unfold bits at h b0; omega
  have n1 : ¬bits w 0 13 = 5 := by intro h; unfold bits at h b0; omega
  have f0 : Sys2Proof.fld w 21 5 = x0 := fld_eq (at6 e f rfl)
  have f1 : Sys2Proof.fld w 13 5 = x1 := fld_eq (at4 e f rfl)
  have f2 : Sys2Proof.fld w 3 2 = x2 := fld_eq (at1 e f rfl)
  exact of_row hw (by rw [row3C b4]; simp [decode3C, b0, b1, b2, b3, n0, n1, f0, f1, f2])
theorem kadd (x0 : BitVec 5) (x1 : BitVec 5) (x2 : BitVec 5) (x3 : BitVec 6) : Statement (.kadd x0 x1 x2 x3) := by
  have f : Fit [(5, 0), (6, x3.toNat), (5, x2.toNat), (5, x1.toNat), (5, x0.toNat), (6, 61)] := ⟨Nat.two_pow_pos 5, x3.isLt, x2.isLt, x1.isLt, x0.isLt, by decide, trivial⟩
  obtain ⟨w, hw⟩ : ∃ w, w = encode (.kadd x0 x1 x2 x3) := ⟨_, rfl⟩
  have e := toNat_pack hw f rfl (show 4093640704 + x0.toNat * 2097152 + x1.toNat * 65536 + x2.toNat * 2048 + x3.toNat * 32 = 0 + 32 * (x3.toNat + 64 * (x2.toNat + 32 * (x1.toNat + 32 * (x0.toNat + 32 * (61))))) by omega)
  have b0 : bits w 0 5 = 0 := at0 e f rfl
  have b1 : bits w 26 6 = 61 := at5 e f rfl
  have f0 : Sys2Proof.fld w 21 5 = x0 := fld_eq (at4 e f rfl)
  have f1 : Sys2Proof.fld w 16 5 = x1 := fld_eq (at3 e f rfl)
  have f2 : Sys2Proof.fld w 11 5 = x2 := fld_eq (at2 e f rfl)
  have f3 : Sys2Proof.fld w 5 6 = x3 := fld_eq (at1 e f rfl)
  exact of_row hw (by rw [row3D b1]; simp [decode3D, b0, f0, f1, f2, f3])
theorem ksub (x0 : BitVec 5) (x1 : BitVec 5) (x2 : BitVec 5) (x3 : BitVec 6) : Statement (.ksub x0 x1 x2 x3) := by
  have f : Fit [(5, 1), (6, x3.toNat), (5, x2.toNat), (5, x1.toNat), (5, x0.toNat), (6, 61)] := ⟨by decide, x3.isLt, x2.isLt, x1.isLt, x0.isLt, by decide, trivial⟩
  obtain ⟨w, hw⟩ : ∃ w, w = encode (.ksub x0 x1 x2 x3) := ⟨_, rfl⟩
  have e := toNat_pack hw f rfl (show 4093640705 + x0.toNat * 2097152 + x1.toNat * 65536 + x2.toNat * 2048 + x3.toNat * 32 = 1 + 32 * (x3.toNat + 64 * (x2.toNat + 32 * (x1.toNat + 32 * (x0.toNat + 32 * (61))))) by omega)
  have b0 : bits w 0 5 = 1 := at0 e f rfl
  have b1 : bits w 26 6 = 61 := at5 e f rfl
  have f0 : Sys2Proof.fld w 21 5 = x0 := fld_eq (at4 e f rfl)
  have f1 : Sys2Proof.fld w 16 5 = x1 := fld_eq (at3 e f rfl)
  have f2 : Sys2Proof.fld w 11 5 = x2 := fld_eq (at2 e f rfl)
  have f3 : Sys2Proof.fld w 5 6 = x3 := fld_eq (at1 e f rfl)
  exact of_row hw (by rw [row3D b1]; simp [decode3D, b0, f0, f1, f2, f3])
theorem kmul (x0 : BitVec 5) (x1 : BitVec 5) (x2 : BitVec 5) (x3 : BitVec 6) : Statement (.kmul x0 x1 x2 x3) := by
  have f : Fit [(5, 2), (6, x3.toNat), (5, x2.toNat), (5, x1.toNat), (5, x0.toNat), (6, 61)] := ⟨by decide, x3.isLt, x2.isLt, x1.isLt, x0.isLt, by decide, trivial⟩
  obtain ⟨w, hw⟩ : ∃ w, w = encode (.kmul x0 x1 x2 x3) := ⟨_, rfl⟩
  have e := toNat_pack hw f rfl (show 4093640706 + x0.toNat * 2097152 + x1.toNat * 65536 + x2.toNat * 2048 + x3.toNat * 32 = 2 + 32 * (x3.toNat + 64 * (x2.toNat + 32 * (x1.toNat + 32 * (x0.toNat + 32 * (61))))) by omega)
  have b0 : bits w 0 5 = 2 := at0 e f rfl
  have b1 : bits w 26 6 = 61 := at5 e f rfl
  have f0 : Sys2Proof.fld w 21 5 = x0 := fld_eq (at4 e f rfl)
  have f1 : Sys2Proof.fld w 16 5 = x1 := fld_eq (at3 e f rfl)
  have f2 : Sys2Proof.fld w 11 5 = x2 := fld_eq (at2 e f rfl)
  have f3 : Sys2Proof.fld w 5 6 = x3 := fld_eq (at1 e f rfl)
  exact of_row hw (by rw [row3D b1]; simp [decode3D, b0, f0, f1, f2, f3])
theorem kand (x0 : BitVec 5) (x1 : BitVec 5) (x2 : BitVec 5) (x3 : BitVec 6) : Statement (.kand x0 x1 x2 x3) := by
  have f : Fit [(5, 3), (6, x3.toNat), (5, x2.toNat), (5, x1.toNat), (5, x0.toNat), (6, 61)] := ⟨by decide, x3.isLt, x2.isLt, x1.isLt, x0.isLt, by decide, trivial⟩
  obtain ⟨w, hw⟩ : ∃ w, w = encode (.kand x0 x1 x2 x3) := ⟨_, rfl⟩
  have e := toNat_pack hw f rfl (show 4093640707 + x0.toNat * 2097152 + x1.toNat * 65536 + x2.toNat * 2048 + x3.toNat * 32 = 3 + 32 * (x3.toNat + 64 * (x2.toNat + 32 * (x1.toNat + 32 * (x0.toNat + 32 * (61))))) by omega)
  have b0 : bits w 0 5 = 3 := at0 e f rfl
  have b1 : bits w 26 6 = 61 := at5 e f rfl
  have f0 : Sys2Proof.fld w 21 5 = x0 := fld_eq (at4 e f rfl)
  have f1 : Sys2Proof.fld w 16 5 = x1 := fld_eq (at3 e f rfl)
  have f2 : Sys2Proof.fld w 11 5 = x2 := fld_eq (at2 e f rfl)
  have f3 : Sys2Proof.fld w 5 6 = x3 := fld_eq (at1 e f rfl)
  exact of_row hw (by rw [row3D b1]; simp [decode3D, b0, f0, f1, f2, f3])
theorem kor (x0 : BitVec 5) (x1 : BitVec 5) (x2 : BitVec 5) (x3 : BitVec 6) : Statement (.kor x0 x1 x2 x3) := by
  have f : Fit [(5, 4), (6, x3.toNat), (5, x2.toNat), (5, x1.toNat), (5, x0.toNat), (6, 61)] := ⟨by decide, x3.isLt, x2.isLt, x1.isLt, x0.isLt, by decide, trivial⟩
  obtain ⟨w, hw⟩ : ∃ w, w = encode (.kor x0 x1 x2 x3) := ⟨_, rfl⟩
  have e := toNat_pack hw f rfl (show 4093640708 + x0.toNat * 2097152 + x1.toNat * 65536 + x2.toNat * 2048 + x3.toNat * 32 = 4 + 32 * (x3.toNat + 64 * (x2.toNat + 32 * (x1.toNat + 32 * (x0.toNat + 32 * (61))))) by omega)
  have b0 : bits w 0 5 = 4 := at0 e f rfl
  have b1 : bits w 26 6 = 61 := at5 e f rfl
  have f0 : Sys2Proof.fld w 21 5 = x0 := fld_eq (at4 e f rfl)
  have f1 : Sys2Proof.fld w 16 5 = x1 := fld_eq (at3 e f rfl)
  have f2 : Sys2Proof.fld w 11 5 = x2 := fld_eq (at2 e f rfl)
  have f3 : Sys2Proof.fld w 5 6 = x3 := fld_eq (at1 e f rfl)
  exact of_row hw (by rw [row3D b1]; simp [decode3D, b0, f0, f1, f2, f3])
theorem kxor (x0 : BitVec 5) (x1 : BitVec 5) (x2 : BitVec 5) (x3 : BitVec 6) : Statement (.kxor x0 x1 x2 x3) := by
  have f : Fit [(5, 5), (6, x3.toNat), (5, x2.toNat), (5, x1.toNat), (5, x0.toNat), (6, 61)] := ⟨by decide, x3.isLt, x2.isLt, x1.isLt, x0.isLt, by decide, trivial⟩
  obtain ⟨w, hw⟩ : ∃ w, w = encode (.kxor x0 x1 x2 x3) := ⟨_, rfl⟩
  have e := toNat_pack hw f rfl (show 4093640709 + x0.toNat * 2097152 + x1.toNat * 65536 + x2.toNat * 2048 + x3.toNat * 32 = 5 + 32 * (x3.toNat + 64 * (x2.toNat + 32 * (x1.toNat + 32 * (x0.toNat + 32 * (61))))) by omega)
  have b0 : bits w 0 5 = 5 := at0 e f rfl
  have b1 : bits w 26 6 = 61 := at5 e f rfl
  have f0 : Sys2Proof.fld w 21 5 = x0 := fld_eq (at4 e f rfl)
  have f1 : Sys2Proof.fld w 16 5 = x1 := fld_eq (at3 e f rfl)
  have f2 : Sys2Proof.fld w 11 5 = x2 := fld_eq (at2 e f rfl)
  have f3 : Sys2Proof.fld w 5 6 = x3 := fld_eq (at1 e f rfl)
  exact of_row hw (by rw [row3D b1]; simp [decode3D, b0, f0, f1, f2, f3])
theorem kshl (x0 : BitVec 5) (x1 : BitVec 5) (x2 : BitVec 5) (x3 : BitVec 6) : Statement (.kshl x0 x1 x2 x3) := by
  have f : Fit [(5, 6), (6, x3.toNat), (5, x2.toNat), (5, x1.toNat), (5, x0.toNat), (6, 61)] := ⟨by decide, x3.isLt, x2.isLt, x1.isLt, x0.isLt, by decide, trivial⟩
  obtain ⟨w, hw⟩ : ∃ w, w = encode (.kshl x0 x1 x2 x3) := ⟨_, rfl⟩
  have e := toNat_pack hw f rfl (show 4093640710 + x0.toNat * 2097152 + x1.toNat * 65536 + x2.toNat * 2048 + x3.toNat * 32 = 6 + 32 * (x3.toNat + 64 * (x2.toNat + 32 * (x1.toNat + 32 * (x0.toNat + 32 * (61))))) by omega)
  have b0 : bits w 0 5 = 6 := at0 e f rfl
  have b1 : bits w 26 6 = 61 := at5 e f rfl
  have f0 : Sys2Proof.fld w 21 5 = x0 := fld_eq (at4 e f rfl)
  have f1 : Sys2Proof.fld w 16 5 = x1 := fld_eq (at3 e f rfl)
  have f2 : Sys2Proof.fld w 11 5 = x2 := fld_eq (at2 e f rfl)
  have f3 : Sys2Proof.fld w 5 6 = x3 := fld_eq (at1 e f rfl)
  exact of_row hw (by rw [row3D b1]; simp [decode3D, b0, f0, f1, f2, f3])
theorem kshr (x0 : BitVec 5) (x1 : BitVec 5) (x2 : BitVec 5) (x3 : BitVec 6) : Statement (.kshr x0 x1 x2 x3) := by
  have f : Fit [(5, 7), (6, x3.toNat), (5, x2.toNat), (5, x1.toNat), (5, x0.toNat), (6, 61)] := ⟨by decide, x3.isLt, x2.isLt, x1.isLt, x0.isLt, by decide, trivial⟩
  obtain ⟨w, hw⟩ : ∃ w, w = encode (.kshr x0 x1 x2 x3) := ⟨_, rfl⟩
  have e := toNat_pack hw f rfl (show 4093640711 + x0.toNat * 2097152 + x1.toNat * 65536 + x2.toNat * 2048 + x3.toNat * 32 = 7 + 32 * (x3.toNat + 64 * (x2.toNat + 32 * (x1.toNat + 32 * (x0.toNat + 32 * (61))))) by omega)
  have b0 : bits w 0 5 = 7 := at0 e f rfl
  have b1 : bits w 26 6 = 61 := at5 e f rfl
  have f0 : Sys2Proof.fld w 21 5 = x0 := fld_eq (at4 e f rfl)
  have f1 : Sys2Proof.fld w 16 5 = x1 := fld_eq (at3 e f rfl)
  have f2 : Sys2Proof.fld w 11 5 = x2 := fld_eq (at2 e f rfl)
  have f3 : Sys2Proof.fld w 5 6 = x3 := fld_eq (at1 e f rfl)
  exact of_row hw (by rw [row3D b1]; simp [decode3D, b0, f0, f1, f2, f3])
theorem kmov (x0 : BitVec 5) (x1 : BitVec 5) : Statement (.kmov x0 x1) := by
  have f : Fit [(5, 8), (11, 0), (5, x1.toNat), (5, x0.toNat), (6, 61)] := ⟨by decide, Nat.two_pow_pos 11, x1.isLt, x0.isLt, by decide, trivial⟩
  obtain ⟨w, hw⟩ : ∃ w, w = encode (.kmov x0 x1) := ⟨_, rfl⟩
  have e := toNat_pack hw f rfl (show 4093640712 + x0.toNat * 2097152 + x1.toNat * 65536 = 8 + 32 * (0 + 2048 * (x1.toNat + 32 * (x0.toNat + 32 * (61)))) by omega)
  have b0 : bits w 0 5 = 8 := at0 e f rfl
  have b1 : bits w 0 16 = 8 := bits_pack e f 0 2 rfl rfl rfl
  have b2 : bits w 26 6 = 61 := at4 e f rfl
  have f0 : Sys2Proof.fld w 21 5 = x0 := fld_eq (at3 e f rfl)
  have f1 : Sys2Proof.fld w 16 5 = x1 := fld_eq (at2 e f rfl)
  exact of_row hw (by rw [row3D b2]; simp [decode3D, b0, b1, f0, f1])
theorem kmovi (x0 : BitVec 5) (x1 : BitVec 16) : Statement (.kmovi x0 x1) := by
  have f : Fit [(5, 9), (16, x1.toNat), (5, x0.toNat), (6, 61)] := ⟨by decide, x1.isLt, x0.isLt, by decide, trivial⟩
  obtain ⟨w, hw⟩ : ∃ w, w = encode (.kmovi x0 x1) := ⟨_, rfl⟩
  have e := toNat_pack hw f rfl (show 4093640713 + x0.toNat * 2097152 + x1.toNat * 32 = 9 + 32 * (x1.toNat + 65536 * (x0.toNat + 32 * (61))) by omega)
  have b0 : bits w 0 5 = 9 := at0 e f rfl
  have b1 : bits w 26 6 = 61 := at3 e f rfl
  have n0 : ¬bits w 0 16 = 8 := by intro h; unfold bits at h b0; omega
  have f0 : Sys2Proof.fld w 21 5 = x0 := fld_eq (at2 e f rfl)
  have f1 : Sys2Proof.fld w 5 16 = x1 := fld_eq (at1 e f rfl)
  exact of_row hw (by rw [row3D b1]; simp [decode3D, b0, n0, f0, f1])
theorem kcmp (x0 : BitVec 5) (x1 : BitVec 5) (x2 : BitVec 5) (x3 : BitVec 6) : Statement (.kcmp x0 x1 x2 x3) := by
  have f : Fit [(5, 10), (6, x3.toNat), (5, x2.toNat), (5, x1.toNat), (5, x0.toNat), (6, 61)] := ⟨by decide, x3.isLt, x2.isLt, x1.isLt, x0.isLt, by decide, trivial⟩
  obtain ⟨w, hw⟩ : ∃ w, w = encode (.kcmp x0 x1 x2 x3) := ⟨_, rfl⟩
  have e := toNat_pack hw f rfl (show 4093640714 + x0.toNat * 2097152 + x1.toNat * 65536 + x2.toNat * 2048 + x3.toNat * 32 = 10 + 32 * (x3.toNat + 64 * (x2.toNat + 32 * (x1.toNat + 32 * (x0.toNat + 32 * (61))))) by omega)
  have b0 : bits w 0 5 = 10 := at0 e f rfl
  have b1 : bits w 26 6 = 61 := at5 e f rfl
  have n0 : ¬bits w 0 16 = 8 := by intro h; unfold bits at h b0; omega
  have f0 : Sys2Proof.fld w 21 5 = x0 := fld_eq (at4 e f rfl)
  have f1 : Sys2Proof.fld w 16 5 = x1 := fld_eq (at3 e f rfl)
  have f2 : Sys2Proof.fld w 11 5 = x2 := fld_eq (at2 e f rfl)
  have f3 : Sys2Proof.fld w 5 6 = x3 := fld_eq (at1 e f rfl)
  exact of_row hw (by rw [row3D b1]; simp [decode3D, b0, n0, f0, f1, f2, f3])
theorem kbra (x0 : BitVec 5) (x1 : BitVec 16) : Statement (.kbra x0 x1) := by
  have f : Fit [(5, 11), (16, x1.toNat), (5, x0.toNat), (6, 61)] := ⟨by decide, x1.isLt, x0.isLt, by decide, trivial⟩
  obtain ⟨w, hw⟩ : ∃ w, w = encode (.kbra x0 x1) := ⟨_, rfl⟩
  have e := toNat_pack hw f rfl (show 4093640715 + x0.toNat * 2097152 + x1.toNat * 32 = 11 + 32 * (x1.toNat + 65536 * (x0.toNat + 32 * (61))) by omega)
  have b0 : bits w 0 5 = 11 := at0 e f rfl
  have b1 : bits w 26 6 = 61 := at3 e f rfl
  have n0 : ¬bits w 0 16 = 8 := by intro h; unfold bits at h b0; omega
  have f0 : Sys2Proof.fld w 21 5 = x0 := fld_eq (at2 e f rfl)
  have f1 : Sys2Proof.fld w 5 16 = x1 := fld_eq (at1 e f rfl)
  exact of_row hw (by rw [row3D b1]; simp [decode3D, b0, n0, f0, f1])
theorem kld (x0 : BitVec 5) (x1 : BitVec 5) (x2 : BitVec 1) (x3 : BitVec 6) : Statement (.kld x0 x1 x2 x3) := by
  have f : Fit [(5, 12), (6, x3.toNat), (1, x2.toNat), (4, 1), (5, x1.toNat), (5, x0.toNat), (6, 61)] := ⟨by decide, x3.isLt, x2.isLt, by decide, x1.isLt, x0.isLt, by decide, trivial⟩
  obtain ⟨w, hw⟩ : ∃ w, w = encode (.kld x0 x1 x2 x3) := ⟨_, rfl⟩
  have e := toNat_pack hw f rfl (show 4093644812 + x0.toNat * 2097152 + x1.toNat * 65536 + x2.toNat * 2048 + x3.toNat * 32 = 12 + 32 * (x3.toNat + 64 * (x2.toNat + 2 * (1 + 16 * (x1.toNat + 32 * (x0.toNat + 32 * (61)))))) by omega)
  have b0 : bits w 0 5 = 12 := at0 e f rfl
  have b1 : bits w 12 4 = 1 := at3 e f rfl
  have b2 : bits w 26 6 = 61 := at6 e f rfl
  have n0 : ¬bits w 0 16 = 8 := by intro h; unfold bits at h b0; omega
  have f0 : Sys2Proof.fld w 21 5 = x0 := fld_eq (at5 e f rfl)
  have f1 : Sys2Proof.fld w 16 5 = x1 := fld_eq (at4 e f rfl)
  have f2 : Sys2Proof.fld w 11 1 = x2 := fld_eq (at2 e f rfl)
  have f3 : Sys2Proof.fld w 5 6 = x3 := fld_eq (at1 e f rfl)
  exact of_row hw (by rw [row3D b2]; simp [decode3D, b0, b1, n0, f0, f1, f2, f3])
theorem kst (x0 : BitVec 5) (x1 : BitVec 5) (x2 : BitVec 1) (x3 : BitVec 6) : Statement (.kst x0 x1 x2 x3) := by
  have f : Fit [(5, 13), (6, x3.toNat), (1, x2.toNat), (4, 1), (5, x1.toNat), (5, x0.toNat), (6, 61)] := ⟨by decide, x3.isLt, x2.isLt, by decide, x1.isLt, x0.isLt, by decide, trivial⟩
  obtain ⟨w, hw⟩ : ∃ w, w = encode (.kst x0 x1 x2 x3) := ⟨_, rfl⟩
  have e := toNat_pack hw f rfl (show 4093644813 + x0.toNat * 2097152 + x1.toNat * 65536 + x2.toNat * 2048 + x3.toNat * 32 = 13 + 32 * (x3.toNat + 64 * (x2.toNat + 2 * (1 + 16 * (x1.toNat + 32 * (x0.toNat + 32 * (61)))))) by omega)
  have b0 : bits w 0 5 = 13 := at0 e f rfl
  have b1 : bits w 12 4 = 1 := at3 e f rfl
  have b2 : bits w 26 6 = 61 := at6 e f rfl
  have n0 : ¬bits w 0 16 = 8 := by intro h; unfold bits at h b0; omega
  have f0 : Sys2Proof.fld w 21 5 = x0 := fld_eq (at5 e f rfl)
  have f1 : Sys2Proof.fld w 16 5 = x1 := fld_eq (at4 e f rfl)
  have f2 : Sys2Proof.fld w 11 1 = x2 := fld_eq (at2 e f rfl)
  have f3 : Sys2Proof.fld w 5 6 = x3 := fld_eq (at1 e f rfl)
  exact of_row hw (by rw [row3D b2]; simp [decode3D, b0, b1, n0, f0, f1, f2, f3])
theorem kwait (x0 : BitVec 5) (x1 : BitVec 5) : Statement (.kwait x0 x1) := by
  have f : Fit [(5, 14), (6, 0), (5, x1.toNat), (5, x0.toNat), (5, 0), (6, 61)] := ⟨by decide, Nat.two_pow_pos 6, x1.isLt, x0.isLt, Nat.two_pow_pos 5, by decide, trivial⟩
  obtain ⟨w, hw⟩ : ∃ w, w = encode (.kwait x0 x1) := ⟨_, rfl⟩
  have e := toNat_pack hw f rfl (show 4093640718 + x0.toNat * 65536 + x1.toNat * 2048 = 14 + 32 * (0 + 64 * (x1.toNat + 32 * (x0.toNat + 32 * (0 + 32 * (61))))) by omega)
  have b0 : bits w 0 5 = 14 := at0 e f rfl
  have b1 : bits w 0 11 = 14 := bits_pack e f 0 2 rfl rfl rfl
  have b2 : bits w 21 5 = 0 := at4 e f rfl
  have b3 : bits w 26 6 = 61 := at5 e f rfl
  have n0 : ¬bits w 0 16 = 8 := by intro h; unfold bits at h b1; omega
  have f0 : Sys2Proof.fld w 16 5 = x0 := fld_eq (at3 e f rfl)
  have f1 : Sys2Proof.fld w 11 5 = x1 := fld_eq (at2 e f rfl)
  exact of_row hw (by rw [row3D b3]; simp [decode3D, b0, b1, b2, n0, f0, f1])
theorem dset (x0 : BitVec 5) (x1 : BitVec 5) (x2 : BitVec 6) : Statement (.dset x0 x1 x2) := by
  have f : Fit [(5, 15), (6, x2.toNat), (1, 0), (4, 0), (5, x1.toNat), (5, x0.toNat), (6, 61)] := ⟨by decide, x2.isLt, Nat.two_pow_pos 1, Nat.two_pow_pos 4, x1.isLt, x0.isLt, by decide, trivial⟩
  obtain ⟨w, hw⟩ : ∃ w, w = encode (.dset x0 x1 x2) := ⟨_, rfl⟩
  have e := toNat_pack hw f rfl (show 4093640719 + x0.toNat * 2097152 + x1.toNat * 65536 + x2.toNat * 32 = 15 + 32 * (x2.toNat + 64 * (0 + 2 * (0 + 16 * (x1.toNat + 32 * (x0.toNat + 32 * (61)))))) by omega)
  have b0 : bits w 0 5 = 15 := at0 e f rfl
  have b1 : bits w 11 5 = 0 := bits_pack e f 2 2 rfl rfl rfl
  have b2 : bits w 12 4 = 0 := at3 e f rfl
  have b3 : bits w 26 6 = 61 := at6 e f rfl
  have n0 : ¬bits w 0 16 = 8 := by intro h; unfold bits at h b0; omega
  have n1 : ¬bits w 0 11 = 14 := by intro h; unfold bits at h b0; omega
  have f0 : Sys2Proof.fld w 21 5 = x0 := fld_eq (at5 e f rfl)
  have f1 : Sys2Proof.fld w 16 5 = x1 := fld_eq (at4 e f rfl)
  have f2 : Sys2Proof.fld w 5 6 = x2 := fld_eq (at1 e f rfl)
  exact of_row hw (by rw [row3D b3]; simp [decode3D, b0, b1, b2, n0, n1, f0, f1, f2])
theorem dmov (x0 : BitVec 5) (x1 : BitVec 5) : Statement (.dmov x0 x1) := by
  have f : Fit [(5, 16), (6, 0), (1, 0), (4, 0), (5, x1.toNat), (5, x0.toNat), (6, 61)] := ⟨by decide, Nat.two_pow_pos 6, Nat.two_pow_pos 1, Nat.two_pow_pos 4, x1.isLt, x0.isLt, by decide, trivial⟩
  obtain ⟨w, hw⟩ : ∃ w, w = encode (.dmov x0 x1) := ⟨_, rfl⟩
  have e := toNat_pack hw f rfl (show 4093640720 + x0.toNat * 2097152 + x1.toNat * 65536 = 16 + 32 * (0 + 64 * (0 + 2 * (0 + 16 * (x1.toNat + 32 * (x0.toNat + 32 * (61)))))) by omega)
  have b0 : bits w 0 5 = 16 := at0 e f rfl
  have b1 : bits w 0 11 = 16 := bits_pack e f 0 2 rfl rfl rfl
  have b2 : bits w 0 16 = 16 := bits_pack e f 0 4 rfl rfl rfl
  have b3 : bits w 11 5 = 0 := bits_pack e f 2 2 rfl rfl rfl
  have b4 : bits w 12 4 = 0 := at3 e f rfl
  have b5 : bits w 26 6 = 61 := at6 e f rfl
  have f0 : Sys2Proof.fld w 21 5 = x0 := fld_eq (at5 e f rfl)
  have f1 : Sys2Proof.fld w 16 5 = x1 := fld_eq (at4 e f rfl)
  exact of_row hw (by rw [row3D b5]; simp [decode3D, b0, b1, b2, b3, b4, f0, f1])
theorem mtake (x0 : BitVec 4) : Statement (.mtake x0) := by
  have f : Fit [(5, 17), (6, 0), (1, 0), (4, 0), (6, 0), (4, x0.toNat), (6, 61)] := ⟨by decide, Nat.two_pow_pos 6, Nat.two_pow_pos 1, Nat.two_pow_pos 4, Nat.two_pow_pos 6, x0.isLt, by decide, trivial⟩
  obtain ⟨w, hw⟩ : ∃ w, w = encode (.mtake x0) := ⟨_, rfl⟩
  have e := toNat_pack hw f rfl (show 4093640721 + x0.toNat * 4194304 = 17 + 32 * (0 + 64 * (0 + 2 * (0 + 16 * (0 + 64 * (x0.toNat + 16 * (61)))))) by omega)
  have b0 : bits w 0 5 = 17 := at0 e f rfl
  have b1 : bits w 0 11 = 17 := bits_pack e f 0 2 rfl rfl rfl
  have b2 : bits w 0 16 = 17 := bits_pack e f 0 4 rfl rfl rfl
  have b3 : bits w 0 22 = 17 := bits_pack e f 0 5 rfl rfl rfl
  have b4 : bits w 11 5 = 0 := bits_pack e f 2 2 rfl rfl rfl
  have b5 : bits w 12 4 = 0 := at3 e f rfl
  have b6 : bits w 26 6 = 61 := at6 e f rfl
  have f0 : Sys2Proof.fld w 22 4 = x0 := fld_eq (at5 e f rfl)
  exact of_row hw (by rw [row3D b6]; simp [decode3D, b0, b1, b2, b3, b4, b5, f0])
theorem mtakeNw (x0 : BitVec 4) : Statement (.mtakeNw x0) := by
  have f : Fit [(5, 17), (6, 1), (1, 0), (4, 0), (6, 0), (4, x0.toNat), (6, 61)] := ⟨by decide, by decide, Nat.two_pow_pos 1, Nat.two_pow_pos 4, Nat.two_pow_pos 6, x0.isLt, by decide, trivial⟩
  obtain ⟨w, hw⟩ : ∃ w, w = encode (.mtakeNw x0) := ⟨_, rfl⟩
  have e := toNat_pack hw f rfl (show 4093640753 + x0.toNat * 4194304 = 17 + 32 * (1 + 64 * (0 + 2 * (0 + 16 * (0 + 64 * (x0.toNat + 16 * (61)))))) by omega)
  have b0 : bits w 0 5 = 17 := at0 e f rfl
  have b1 : bits w 0 11 = 49 := bits_pack e f 0 2 rfl rfl rfl
  have b2 : bits w 0 16 = 49 := bits_pack e f 0 4 rfl rfl rfl
  have b3 : bits w 0 22 = 49 := bits_pack e f 0 5 rfl rfl rfl
  have b4 : bits w 11 5 = 0 := bits_pack e f 2 2 rfl rfl rfl
  have b5 : bits w 12 4 = 0 := at3 e f rfl
  have b6 : bits w 26 6 = 61 := at6 e f rfl
  have f0 : Sys2Proof.fld w 22 4 = x0 := fld_eq (at5 e f rfl)
  exact of_row hw (by rw [row3D b6]; simp [decode3D, b0, b1, b2, b3, b4, b5, f0])
theorem mdone (x0 : BitVec 5) : Statement (.mdone x0) := by
  have f : Fit [(5, 18), (6, 0), (1, 0), (4, 0), (5, x0.toNat), (5, 0), (6, 61)] := ⟨by decide, Nat.two_pow_pos 6, Nat.two_pow_pos 1, Nat.two_pow_pos 4, x0.isLt, Nat.two_pow_pos 5, by decide, trivial⟩
  obtain ⟨w, hw⟩ : ∃ w, w = encode (.mdone x0) := ⟨_, rfl⟩
  have e := toNat_pack hw f rfl (show 4093640722 + x0.toNat * 65536 = 18 + 32 * (0 + 64 * (0 + 2 * (0 + 16 * (x0.toNat + 32 * (0 + 32 * (61)))))) by omega)
  have b0 : bits w 0 5 = 18 := at0 e f rfl
  have b1 : bits w 0 11 = 18 := bits_pack e f 0 2 rfl rfl rfl
  have b2 : bits w 0 16 = 18 := bits_pack e f 0 4 rfl rfl rfl
  have b3 : bits w 11 5 = 0 := bits_pack e f 2 2 rfl rfl rfl
  have b4 : bits w 12 4 = 0 := at3 e f rfl
  have b5 : bits w 21 5 = 0 := at5 e f rfl
  have b6 : bits w 26 6 = 61 := at6 e f rfl
  have n0 : ¬bits w 0 22 = 17 := by intro h; unfold bits at h b2; omega
  have n1 : ¬bits w 0 22 = 49 := by intro h; unfold bits at h b2; omega
  have f0 : Sys2Proof.fld w 16 5 = x0 := fld_eq (at4 e f rfl)
  exact of_row hw (by rw [row3D b6]; simp [decode3D, b0, b1, b2, b3, b4, b5, n0, n1, f0])
theorem mma (x0 : BitVec 5) (x1 : BitVec 5) (x2 : BitVec 5) (x3 : BitVec 6) : Statement (.mma x0 x1 x2 x3) := by
  have f : Fit [(5, 0), (6, x3.toNat), (5, x2.toNat), (5, x1.toNat), (5, x0.toNat), (6, 62)] := ⟨Nat.two_pow_pos 5, x3.isLt, x2.isLt, x1.isLt, x0.isLt, by decide, trivial⟩
  obtain ⟨w, hw⟩ : ∃ w, w = encode (.mma x0 x1 x2 x3) := ⟨_, rfl⟩
  have e := toNat_pack hw f rfl (show 4160749568 + x0.toNat * 2097152 + x1.toNat * 65536 + x2.toNat * 2048 + x3.toNat * 32 = 0 + 32 * (x3.toNat + 64 * (x2.toNat + 32 * (x1.toNat + 32 * (x0.toNat + 32 * (62))))) by omega)
  have b0 : bits w 0 5 = 0 := at0 e f rfl
  have b1 : bits w 26 6 = 62 := at5 e f rfl
  have f0 : Sys2Proof.fld w 21 5 = x0 := fld_eq (at4 e f rfl)
  have f1 : Sys2Proof.fld w 16 5 = x1 := fld_eq (at3 e f rfl)
  have f2 : Sys2Proof.fld w 11 5 = x2 := fld_eq (at2 e f rfl)
  have f3 : Sys2Proof.fld w 5 6 = x3 := fld_eq (at1 e f rfl)
  exact of_row hw (by rw [row3E b1]; simp [decode3E, b0, f0, f1, f2, f3])
theorem mmaSp (x0 : BitVec 5) (x1 : BitVec 5) (x2 : BitVec 5) (x3 : BitVec 6) : Statement (.mmaSp x0 x1 x2 x3) := by
  have f : Fit [(5, 1), (6, x3.toNat), (5, x2.toNat), (5, x1.toNat), (5, x0.toNat), (6, 62)] := ⟨by decide, x3.isLt, x2.isLt, x1.isLt, x0.isLt, by decide, trivial⟩
  obtain ⟨w, hw⟩ : ∃ w, w = encode (.mmaSp x0 x1 x2 x3) := ⟨_, rfl⟩
  have e := toNat_pack hw f rfl (show 4160749569 + x0.toNat * 2097152 + x1.toNat * 65536 + x2.toNat * 2048 + x3.toNat * 32 = 1 + 32 * (x3.toNat + 64 * (x2.toNat + 32 * (x1.toNat + 32 * (x0.toNat + 32 * (62))))) by omega)
  have b0 : bits w 0 5 = 1 := at0 e f rfl
  have b1 : bits w 26 6 = 62 := at5 e f rfl
  have f0 : Sys2Proof.fld w 21 5 = x0 := fld_eq (at4 e f rfl)
  have f1 : Sys2Proof.fld w 16 5 = x1 := fld_eq (at3 e f rfl)
  have f2 : Sys2Proof.fld w 11 5 = x2 := fld_eq (at2 e f rfl)
  have f3 : Sys2Proof.fld w 5 6 = x3 := fld_eq (at1 e f rfl)
  exact of_row hw (by rw [row3E b1]; simp [decode3E, b0, f0, f1, f2, f3])
theorem mmaGx (x0 : BitVec 5) (x1 : BitVec 5) (x2 : BitVec 5) (x3 : BitVec 6) : Statement (.mmaGx x0 x1 x2 x3) := by
  have f : Fit [(5, 2), (6, x3.toNat), (5, x2.toNat), (5, x1.toNat), (5, x0.toNat), (6, 62)] := ⟨by decide, x3.isLt, x2.isLt, x1.isLt, x0.isLt, by decide, trivial⟩
  obtain ⟨w, hw⟩ : ∃ w, w = encode (.mmaGx x0 x1 x2 x3) := ⟨_, rfl⟩
  have e := toNat_pack hw f rfl (show 4160749570 + x0.toNat * 2097152 + x1.toNat * 65536 + x2.toNat * 2048 + x3.toNat * 32 = 2 + 32 * (x3.toNat + 64 * (x2.toNat + 32 * (x1.toNat + 32 * (x0.toNat + 32 * (62))))) by omega)
  have b0 : bits w 0 5 = 2 := at0 e f rfl
  have b1 : bits w 26 6 = 62 := at5 e f rfl
  have f0 : Sys2Proof.fld w 21 5 = x0 := fld_eq (at4 e f rfl)
  have f1 : Sys2Proof.fld w 16 5 = x1 := fld_eq (at3 e f rfl)
  have f2 : Sys2Proof.fld w 11 5 = x2 := fld_eq (at2 e f rfl)
  have f3 : Sys2Proof.fld w 5 6 = x3 := fld_eq (at1 e f rfl)
  exact of_row hw (by rw [row3E b1]; simp [decode3E, b0, f0, f1, f2, f3])
theorem mmaF64 (x0 : BitVec 4) (x1 : BitVec 5) (x2 : BitVec 5) (x3 : BitVec 6) : Statement (.mmaF64 x0 x1 x2 x3) := by
  have f : Fit [(5, 3), (6, x3.toNat), (5, x2.toNat), (5, x1.toNat), (1, 0), (4, x0.toNat), (6, 62)] := ⟨by decide, x3.isLt, x2.isLt, x1.isLt, Nat.two_pow_pos 1, x0.isLt, by decide, trivial⟩
  obtain ⟨w, hw⟩ : ∃ w, w = encode (.mmaF64 x0 x1 x2 x3) := ⟨_, rfl⟩
  have e := toNat_pack hw f rfl (show 4160749571 + x0.toNat * 4194304 + x1.toNat * 65536 + x2.toNat * 2048 + x3.toNat * 32 = 3 + 32 * (x3.toNat + 64 * (x2.toNat + 32 * (x1.toNat + 32 * (0 + 2 * (x0.toNat + 16 * (62)))))) by omega)
  have b0 : bits w 0 5 = 3 := at0 e f rfl
  have b1 : bits w 21 1 = 0 := at4 e f rfl
  have b2 : bits w 26 6 = 62 := at6 e f rfl
  have f0 : Sys2Proof.fld w 22 4 = x0 := fld_eq (at5 e f rfl)
  have f1 : Sys2Proof.fld w 16 5 = x1 := fld_eq (at3 e f rfl)
  have f2 : Sys2Proof.fld w 11 5 = x2 := fld_eq (at2 e f rfl)
  have f3 : Sys2Proof.fld w 5 6 = x3 := fld_eq (at1 e f rfl)
  exact of_row hw (by rw [row3E b2]; simp [decode3E, b0, b1, f0, f1, f2, f3])
theorem accZero (x0 : BitVec 5) : Statement (.accZero x0) := by
  have f : Fit [(5, 4), (16, 0), (5, x0.toNat), (6, 62)] := ⟨by decide, Nat.two_pow_pos 16, x0.isLt, by decide, trivial⟩
  obtain ⟨w, hw⟩ : ∃ w, w = encode (.accZero x0) := ⟨_, rfl⟩
  have e := toNat_pack hw f rfl (show 4160749572 + x0.toNat * 2097152 = 4 + 32 * (0 + 65536 * (x0.toNat + 32 * (62))) by omega)
  have b0 : bits w 0 5 = 4 := at0 e f rfl
  have b1 : bits w 0 21 = 4 := bits_pack e f 0 2 rfl rfl rfl
  have b2 : bits w 26 6 = 62 := at3 e f rfl
  have f0 : Sys2Proof.fld w 21 5 = x0 := fld_eq (at2 e f rfl)
  exact of_row hw (by rw [row3E b2]; simp [decode3E, b0, b1, f0])
theorem accLoad (x0 : BitVec 5) (x1 : BitVec 5) : Statement (.accLoad x0 x1) := by
  have f : Fit [(5, 5), (11, 0), (5, x1.toNat), (5, x0.toNat), (6, 62)] := ⟨by decide, Nat.two_pow_pos 11, x1.isLt, x0.isLt, by decide, trivial⟩
  obtain ⟨w, hw⟩ : ∃ w, w = encode (.accLoad x0 x1) := ⟨_, rfl⟩
  have e := toNat_pack hw f rfl (show 4160749573 + x0.toNat * 2097152 + x1.toNat * 65536 = 5 + 32 * (0 + 2048 * (x1.toNat + 32 * (x0.toNat + 32 * (62)))) by omega)
  have b0 : bits w 0 5 = 5 := at0 e f rfl
  have b1 : bits w 0 16 = 5 := bits_pack e f 0 2 rfl rfl rfl
  have b2 : bits w 26 6 = 62 := at4 e f rfl
  have n0 : ¬bits w 0 21 = 4 := by intro h; unfold bits at h b1; omega
  have f0 : Sys2Proof.fld w 21 5 = x0 := fld_eq (at3 e f rfl)
  have f1 : Sys2Proof.fld w 16 5 = x1 := fld_eq (at2 e f rfl)
  exact of_row hw (by rw [row3E b2]; simp [decode3E, b0, b1, n0, f0, f1])
theorem accStore (x0 : BitVec 5) (x1 : BitVec 5) (x2 : BitVec 5) : Statement (.accStore x0 x1 x2) := by
  have f : Fit [(5, 6), (6, 0), (5, x2.toNat), (5, x1.toNat), (5, x0.toNat), (6, 62)] := ⟨by decide, Nat.two_pow_pos 6, x2.isLt, x1.isLt, x0.isLt, by decide, trivial⟩
  obtain ⟨w, hw⟩ : ∃ w, w = encode (.accStore x0 x1 x2) := ⟨_, rfl⟩
  have e := toNat_pack hw f rfl (show 4160749574 + x0.toNat * 2097152 + x1.toNat * 65536 + x2.toNat * 2048 = 6 + 32 * (0 + 64 * (x2.toNat + 32 * (x1.toNat + 32 * (x0.toNat + 32 * (62))))) by omega)
  have b0 : bits w 0 5 = 6 := at0 e f rfl
  have b1 : bits w 0 11 = 6 := bits_pack e f 0 2 rfl rfl rfl
  have b2 : bits w 26 6 = 62 := at5 e f rfl
  have n0 : ¬bits w 0 21 = 4 := by intro h; unfold bits at h b1; omega
  have n1 : ¬bits w 0 16 = 5 := by intro h; unfold bits at h b1; omega
  have f0 : Sys2Proof.fld w 21 5 = x0 := fld_eq (at4 e f rfl)
  have f1 : Sys2Proof.fld w 16 5 = x1 := fld_eq (at3 e f rfl)
  have f2 : Sys2Proof.fld w 11 5 = x2 := fld_eq (at2 e f rfl)
  exact of_row hw (by rw [row3E b2]; simp [decode3E, b0, b1, n0, n1, f0, f1, f2])
theorem bundleReformationTimer (x0 : Nat) : Statement (.bundleReformationTimer x0) := event rfl
theorem bundlePassedOver (x0 : Nat) (x1 : Nat) : Statement (.bundlePassedOver x0 x1) := event rfl
theorem spinGovernorDemotion (x0 : Nat) : Statement (.spinGovernorDemotion x0) := event rfl
theorem governorTimeoutWake (x0 : Nat) : Statement (.governorTimeoutWake x0) := event rfl
theorem registerFileMove (x0 : Nat) : Statement (.registerFileMove x0) := event rfl
theorem groupEviction (x0 : Nat) : Statement (.groupEviction x0) := event rfl
theorem longLatencyResult (x0 : Nat) : Statement (.longLatencyResult x0) := event rfl
theorem waitAddrReread (x0 : Nat) : Statement (.waitAddrReread x0) := event rfl
theorem groupRetirement (x0 : Nat) : Statement (.groupRetirement x0) := event rfl
theorem gangStart (x0 : Nat) : Statement (.gangStart x0) := event rfl
theorem localTrapEntry (x0 : Nat) : Statement (.localTrapEntry x0) := event rfl
theorem systemDelivery (x0 : Nat) : Statement (.systemDelivery x0) := event rfl
theorem ringmasterFile (x0 : Nat) : Statement (.ringmasterFile x0) := event rfl
theorem handlerWarpFormation (x0 : Nat) (x1 : Nat) : Statement (.handlerWarpFormation x0 x1) := event rfl
theorem gatherWindowExpiry (x0 : Nat) (x1 : Nat) : Statement (.gatherWindowExpiry x0 x1) := event rfl
theorem rowReattach (x0 : Nat) : Statement (.rowReattach x0) := event rfl
theorem whitAddrWrite (x0 : Nat) (x1 : DWord) : Statement (.whitAddrWrite x0 x1) := event rfl
theorem regionCheckpoint (x0 : Nat) : Statement (.regionCheckpoint x0) := event rfl
theorem lateStoreCheck (x0 : Nat) : Statement (.lateStoreCheck x0) := event rfl
theorem operandLogReplay (x0 : Nat) : Statement (.operandLogReplay x0) := event rfl
theorem preemptionRequest (x0 : PreemptTarget) (x1 : DWord) (x2 : Nat) : Statement (.preemptionRequest x0 x1 x2) := event rfl
theorem preemptionComplete (x0 : Nat) : Statement (.preemptionComplete x0) := event rfl
theorem cooperativeGraceExpiry (x0 : Nat) : Statement (.cooperativeGraceExpiry x0) := event rfl
theorem warpRestore (x0 : Nat) (x1 : Bool) : Statement (.warpRestore x0 x1) := event rfl
theorem cpAsyncRequestComplete (x0 : Nat) (x1 : Nat) : Statement (.cpAsyncRequestComplete x0 x1) := event rfl
theorem bulkChunkLand (x0 : Nat) (x1 : Nat) : Statement (.bulkChunkLand x0 x1) := event rfl
theorem collectiveStep (x0 : Nat) (x1 : Nat) (x2 : CollStep) : Statement (.collectiveStep x0 x1 x2) := event rfl
theorem barWaitReread (x0 : Nat) : Statement (.barWaitReread x0) := event rfl
theorem matrixPassStart (x0 : Nat) (x1 : Nat) : Statement (.matrixPassStart x0 x1) := event rfl
theorem indexGather (x0 : Nat) (x1 : Nat) : Statement (.indexGather x0 x1) := event rfl
theorem matrixPassEnd (x0 : Nat) (x1 : Nat) : Statement (.matrixPassEnd x0 x1) := event rfl
theorem accOperationComplete (x0 : Nat) (x1 : Nat) : Statement (.accOperationComplete x0 x1) := event rfl
theorem carouselWindowExpiry (x0 : Nat) (x1 : Nat) (x2 : Nat) : Statement (.carouselWindowExpiry x0 x1 x2) := event rfl
theorem carouselResume (x0 : Nat) (x1 : Nat) (x2 : Nat) : Statement (.carouselResume x0 x1 x2) := event rfl
theorem qbindWrite (x0 : BitVec 5) (x1 : DWord) : Statement (.qbindWrite x0 x1) := event rfl
theorem sysrootWrite (x0 : DWord) : Statement (.sysrootWrite x0) := event rfl
theorem packetNop (x0 : BitVec 5) : Statement (.packetNop x0) := event rfl
theorem packetLaunch (x0 : BitVec 5) : Statement (.packetLaunch x0) := event rfl
theorem packetWait (x0 : BitVec 5) : Statement (.packetWait x0) := event rfl
theorem waitPacketSatisfied (x0 : BitVec 5) : Statement (.waitPacketSatisfied x0) := event rfl
theorem packetGraph (x0 : BitVec 5) : Statement (.packetGraph x0) := event rfl
theorem packetWrite (x0 : BitVec 5) : Statement (.packetWrite x0) := event rfl
theorem hartRereadTimer (x0 : BitVec 5) : Statement (.hartRereadTimer x0) := event rfl
theorem doorbellRereadTimer (x0 : BitVec 5) : Statement (.doorbellRereadTimer x0) := event rfl
theorem dispatch (x0 : Nat) (x1 : Option SealedBlob) : Statement (.dispatch x0 x1) := event rfl
theorem groupAdmission (x0 : Nat) (x1 : Nat) : Statement (.groupAdmission x0 x1) := event rfl
theorem homeWaitExpiry (x0 : Nat) : Statement (.homeWaitExpiry x0) := event rfl
theorem gangReserveExpiry (x0 : Nat) : Statement (.gangReserveExpiry x0) := event rfl
theorem gridCompletion (x0 : Nat) : Statement (.gridCompletion x0) := event rfl
theorem worldRetirement (x0 : BitVec 10) : Statement (.worldRetirement x0) := event rfl
theorem exactGroupDispatch (x0 : Nat) : Statement (.exactGroupDispatch x0) := event rfl
theorem pageWalk (x0 : Nat) (x1 : DWord) (x2 : DWord) (x3 : BitVec 10) : Statement (.pageWalk x0 x1 x2 x3) := event rfl
theorem faultRecord (x0 : Nat) : Statement (.faultRecord x0) := event rfl
theorem faultReply (x0 : Nat) (x1 : FaultOutcome) : Statement (.faultReply x0 x1) := event rfl
theorem serviceRecordFile (x0 : Nat) : Statement (.serviceRecordFile x0) := event rfl
theorem ringWriteRetry (x0 : Nat) : Statement (.ringWriteRetry x0) := event rfl
theorem replyDelivery (x0 : Nat) : Statement (.replyDelivery x0) := event rfl
theorem svccfgWrite (x0 : BitVec 2) (x1 : Bool) (x2 : DWord) : Statement (.svccfgWrite x0 x1 x2) := event rfl
theorem ioLoadCompletion (x0 : Nat) (x1 : IoCompletion) : Statement (.ioLoadCompletion x0 x1) := event rfl
theorem ioCompletionTimeout (x0 : Nat) : Statement (.ioCompletionTimeout x0) := event rfl
theorem inboundRead (x0 : BitVec 2) (x1 : BitVec 16) (x2 : DWord) (x3 : Nat) : Statement (.inboundRead x0 x1 x2 x3) := event rfl
theorem inboundWrite (x0 : BitVec 2) (x1 : BitVec 16) (x2 : DWord) (x3 : List Byte) (x4 : Bool) : Statement (.inboundWrite x0 x1 x2 x3 x4) := event rfl
theorem inboundHoldTimeout (x0 : Nat) : Statement (.inboundHoldTimeout x0) := event rfl
theorem inboundContextWrite (x0 : BitVec 2) (x1 : BitVec 6) (x2 : Bool) (x3 : DWord) (x4 : Bool) : Statement (.inboundContextWrite x0 x1 x2 x3 x4) := event rfl
theorem errstatWrite (x0 : Nat) (x1 : DWord) : Statement (.errstatWrite x0 x1) := event rfl
theorem eccError (x0 : Nat) (x1 : BitVec 4) (x2 : Bool) (x3 : DWord) : Statement (.eccError x0 x1 x2 x3) := event rfl
theorem flitIdle (x0 : Nat) (x1 : Flit) : Statement (.flitIdle x0 x1) := event rfl
theorem flitData (x0 : Nat) (x1 : Flit) : Statement (.flitData x0 x1) := event rfl
theorem flitKeyMarker (x0 : Nat) (x1 : Flit) : Statement (.flitKeyMarker x0 x1) := event rfl
theorem flitRetryRequest (x0 : Nat) (x1 : Nat) (x2 : Nat) : Statement (.flitRetryRequest x0 x1 x2) := event rfl
theorem keyAgreement (x0 : Nat) : Statement (.keyAgreement x0) := event rfl
theorem keyRotationThreshold (x0 : Nat) : Statement (.keyRotationThreshold x0) := event rfl
theorem keyStallThreshold (x0 : Nat) : Statement (.keyStallThreshold x0) := event rfl
theorem keyStallTimeout (x0 : Nat) : Statement (.keyStallTimeout x0) := event rfl
theorem portDown (x0 : Nat) (x1 : Byte) : Statement (.portDown x0 x1) := event rfl
theorem portUp (x0 : Nat) (x1 : BitVec 9) : Statement (.portUp x0 x1) := event rfl
theorem linkRequestTimeout (x0 : Nat) : Statement (.linkRequestTimeout x0) := event rfl
theorem holdResponse (x0 : Nat) : Statement (.holdResponse x0) := event rfl
theorem ulstatWrite (x0 : Nat) (x1 : DWord) : Statement (.ulstatWrite x0 x1) := event rfl
theorem powerOn : Statement (.powerOn) := event rfl
theorem coldStart (x0 : StartChecks) : Statement (.coldStart x0) := event rfl
theorem warmStart (x0 : StartChecks) : Statement (.warmStart x0) := event rfl
theorem startTimeout : Statement (.startTimeout) := event rfl
theorem startrecWrite (x0 : DWord) : Statement (.startrecWrite x0) := event rfl
theorem getVersion : Statement (.getVersion) := event rfl
theorem getCapabilities : Statement (.getCapabilities) := event rfl
theorem negotiateAlgorithms (x0 : Bool) : Statement (.negotiateAlgorithms x0) := event rfl
theorem getDigests : Statement (.getDigests) := event rfl
theorem getCertificate : Statement (.getCertificate) := event rfl
theorem challenge (x0 : DWord) : Statement (.challenge x0) := event rfl
theorem getMeasurements (x0 : Byte) : Statement (.getMeasurements x0) := event rfl
theorem spdmUnsupportedRequest (x0 : Byte) : Statement (.spdmUnsupportedRequest x0) := event rfl
theorem resetReq (x0 : BitVec 16) : Statement (.resetReq x0) := event rfl
theorem resetGraceExpiry : Statement (.resetGraceExpiry) := event rfl
theorem rootevtWrite (x0 : DWord) : Statement (.rootevtWrite x0) := event rfl
theorem migrationStart (x0 : BitVec 10) (x1 : BitVec 9) (x2 : DWord) : Statement (.migrationStart x0 x1 x2) := event rfl
theorem migrationSealedState (x0 : BitVec 10) (x1 : BitVec 9) (x2 : DWord) (x3 : DWord) (x4 : SealedBlob) : Statement (.migrationSealedState x0 x1 x2 x3 x4) := event rfl
theorem migrationReceipt (x0 : DWord) (x1 : Bool) : Statement (.migrationReceipt x0 x1) := event rfl
theorem migrationConfirmation (x0 : DWord) : Statement (.migrationConfirmation x0) := event rfl
theorem migrationAbort (x0 : DWord) : Statement (.migrationAbort x0) := event rfl
theorem migrationArmTimeout (x0 : DWord) : Statement (.migrationArmTimeout x0) := event rfl
theorem migrationReceiptTimeout (x0 : DWord) : Statement (.migrationReceiptTimeout x0) := event rfl
theorem powerAverageWindow (x0 : Nat) (x1 : Nat) : Statement (.powerAverageWindow x0 x1) := event rfl
theorem thermalTrip (x0 : Nat) : Statement (.thermalTrip x0) := event rfl
theorem pwrstatWrite (x0 : DWord) : Statement (.pwrstatWrite x0) := event rfl
theorem registerWrite (x0 : DWord) (x1 : DWord) : Statement (.registerWrite x0 x1) := event rfl
theorem unassignedEncoding (x0 : Word) : Statement (.unassignedEncoding x0) := event rfl
theorem packetReservedType (x0 : BitVec 5) : Statement (.packetReservedType x0) := event rfl
theorem flitTagFailure (x0 : Nat) (x1 : Flit) : Statement (.flitTagFailure x0 x1) := event rfl
theorem rootPortLinkTraining (x0 : BitVec 2) (x1 : BitVec 4) : Statement (.rootPortLinkTraining x0 x1) := event rfl

end Sys2Proof.Laws.RoundTrip
end

