-- ==== Sys2Proof/Tests/Slice0.lean ====
section
/-! SUPPORT. Tests of the decoder and of single steps, and states that meet the hypotheses of each statement. Expected words and results
are the spec's own examples, or worked out from its rules by hand. -/

set_option maxRecDepth 20000

namespace Sys2Proof.Tests
open Sys2Proof.Machine

/-! ### States to test with -/

/-- A warp in kernel mode whose lanes all live, with n + i in lane i of v-register n. -/
def tWarp : Warp := { Warp.empty with
  group := 7
  real := ~~~0#32
  kern := true
  place := .running
  segSp := (defaultSegs 4096#32 0#32 0#32).1
  segCl := (defaultSegs 4096#32 0#32 0#32).2.1
  segStk := (defaultSegs 4096#32 0#32 0#32).2.2.1
  segFr := (defaultSegs 4096#32 0#32 0#32).2.2.2
  v := Vector.ofFn (fun (r : Fin 32) => ⟨.general (perLane (fun i => BitVec.ofNat 32 (r.val + i.val))), 0#4, false⟩) }
/-- Its group, with 16n in s-register n. -/
def tGroup : Group := { Group.empty with
  grid := 3
  warps := [0]
  status := .running
  spSize := 4096
  spLive := true
  s := Vector.ofFn (fun (r : Fin 128) => BitVec.ofNat 64 (16 * r.val)) }
/-- A launch of 32 v- and 128 s-registers. -/
def tGrid : Grid := { Grid.empty with
  record := { LaunchRec.empty with regs := 32, scalars := 128, codelen := 4096#32, scratch := 4096#32, groupw := 1, gang := 1 }
  status := .dispatched
  groups := 1 }
/-- The device in which that warp issues a packet. -/
def tState : State := { State.reset with
  warps := [(0, tWarp)], groups := [(7, tGroup)], grids := [(3, tGrid)], bundle := ~~~0#32, unit := 9 }
/-- The same with another warp. -/
def withWarp (f : Warp → Warp) : State := { tState with warps := [(0, f tWarp)] }
/-- The same with a handler warp, which has every special register. -/
def hState : State := withWarp (fun w => { w with handler := true })
/-- The same with another group. -/
def withGroup (f : Group → Group) : State := { tState with groups := [(7, f tGroup)] }
/-- The state with x in s-register n. -/
def withS (n : Fin 128) (x : DWord) : State := withGroup (fun g => { g with s := g.s.set n.val x })
/-- The same with another launch record. -/
def withRecord (f : LaunchRec → LaunchRec) : State := { tState with grids := [(3, { tGrid with record := f tGrid.record })] }

/-- The state that an outcome answers. -/
def next (o : Host.Outcome State Fault Refusal) : State := match o with | .next t => t | _ => State.reset

/-- Does i issue here and pass its decode checks? -/
def ok (s : State) (i : Instr) : Bool :=
  s.issuer == .vector && match s.useOf i with | some u => s.decodeCheck u == none | none => false
theorem runs_of {s : State} {i : Instr} (h : ok s i = true) : s.runs i := by
  simp only [ok, Bool.and_eq_true, beq_iff_eq] at h
  refine ⟨h.1, ?_⟩
  revert h
  cases e : s.useOf i with
  | none => simp
  | some u => simp only [beq_iff_eq]; exact fun h => ⟨u, rfl, h.2⟩
/-- The same of every instruction of a list. -/
theorem runs_all {α : Type} {s : State} (l : List α) (f : α → Instr) (h : l.all (fun e => ok s (f e)) = true) :
    ∀ e ∈ l, s.runs (f e) :=
  fun e m => runs_of (List.all_eq_true.1 h e m)

theorem untiled_of {s : State} (h : ∀ i, s.tileOf s.me i = none) : s.untiled := h

theorem unwatched_of {s : State} (h : s.dies = []) : s.unwatched := by
  intro d
  have e : s.die d = Die.empty := by rw [State.die, h]; rfl
  rw [e]
  intro t m
  have m : t ∈ List.replicate 16 ((0#64, 0#64, 0#64) : DWord × DWord × DWord) := by
    simpa only [Die.empty, Vector.toList_replicate] using m
  rw [List.eq_of_mem_replicate m]
  rfl

abbrev A : Src := ⟨.direct, 2#5⟩
abbrev B : Src := ⟨.rotate, 4#5⟩

/-- A state in which step fetches a word: 5 pages mapped, one warp at the first word of its image. -/
def fetched (w : Nat) : State := State.reset.withFetchWord 32 w

abbrev S9 : Src := ⟨.scalar, 9#5⟩

/-- The device with one page of 64 KiB mapped at 0x10000, x in every lane of every v-register, and the s-registers of l. -/
def pState (x : Word) (l : List (Nat × DWord)) : State :=
  let r := tGrid.record
  { withWarp (fun w => { w with v := Vector.replicate 32 ⟨.uniform x, 0#4, false⟩ }) with
    mem := placedTables Mem.reset
    front := { State.reset.front with sysroot := 0x1000 }
    grids := [(3, { tGrid with record := { r with ptroot := 0x1000#64 } })]
    groups := [(7, { tGroup with s := Vector.ofFn (fun (n : Fin 128) => (l.lookup n.val).getD 0#64) })] }
/-- A ring of die 0 at 0x10000, whose server is launch 3, with these slots and calls. -/
def ringState (on : Bool) (slots : Map Slot) (calls : Map Call) (l : List (Nat × DWord)) : State :=
  let s := pState 0#32 l
  { s with
    rings := [(0, ⟨if on then 0x8000000000010000#64 else 0#64, 3#64, 0, 1, slots, calls, []⟩)]
    mem := s.mem.setNum 0x10000 1 1 }

/-- The control core of cluster 0, with the k-registers of l, whose stream serves gang 0 of launch 3, changed by f. -/
def kState (l : List (Nat × DWord)) (f : Cluster → Cluster) : State :=
  { pState 0#32 [] with
    issuer := .control 0
    clusters := [(0, f { Cluster.empty with
      gang := some (3, 0#32), agent := 12, k := Vector.ofFn (fun (n : Fin 32) => (l.lookup n.val).getD 0#64) })] }
/-- Does i issue on the control core of cluster 0 and pass its checks? -/
def kok (s : State) (i : Instr) : Bool :=
  s.issuer == .control 0 && match controlUse (s.cluster 0).hints i with
    | some (imm, false) => !controlMisuse (s.cluster 0).hints imm
    | _ => false
theorem controls_of {s : State} {i : Instr} (h : kok s i = true) : s.controls 0 i := by
  simp only [kok, Bool.and_eq_true, beq_iff_eq] at h
  refine ⟨h.1, ?_⟩
  revert h
  cases e : controlUse (s.cluster 0).hints i with
  | none => simp
  | some u =>
    obtain ⟨m, b⟩ := u
    cases b with
    | true => simp
    | false => exact fun h => ⟨m, rfl, by simpa using h.2⟩
theorem controls_all {α : Type} {s : State} (l : List α) (f : α → Instr) (h : l.all (fun e => kok s (f e)) = true) :
    ∀ e ∈ l, s.controls 0 (f e) :=
  fun e m => controls_of (List.all_eq_true.1 h e m)
/-- A result that is still to land in v5. -/
def tPend : Pend :=
  { id := 4, pc := 0#32, hints := Hints.empty, dests := [(5, 0#4, ~~~0#32)], sdest := none, vals := [allLanesOf 6#32]
    uniform := false, lanes := ~~~0#32, got := ~~~0#32, logged := 0#32, remote := 0#32, left := allLanesOf 0, la := 0
    done := allLanesOf 0#15, acc := Access.empty }
/-- A plain access to an address. -/
def tAccess (k : AccKind) (size : Nat) (off : Bool) (a : DWord) : Access :=
  ⟨k, size, false, off, allLanesOf a, allLanesOf 0#128, 0#3, 0#3, 0#3, false⟩
/-- A record of a trap that stopped warp 1, and that warp's save area. -/
def tRecord : DevRec := ⟨0, [], some 1, none⟩
def tImage (c : Word) : List Byte := List.replicate 384 0#8 ++ (bytesOfNat 4 c.toNat ++ List.replicate 1660 0#8)
def sysWarp : Warp := { tWarp with place := .system, slot := 1, sysmask := 1#32 }
def savedMem : Mem := Mem.reset.setBytes (saveAddr 1) (tImage (Config.checkValue 1))
theorem zeros_tImage (c : Word) (o n : Nat) (h : o + n ≤ 384) : natOfBytes (((tImage c).drop o).take n) = 0 := by
  have z : ∀ n, natOfBytes (List.replicate n (0#8 : Byte)) = 0 := by
    intro n
    induction n with
    | zero => rfl
    | succ n ih => rw [List.replicate_succ, natOfBytes, ih]; rfl
  rw [tImage, List.drop_append_of_le_length (by rw [List.length_replicate]; omega), List.drop_replicate,
    List.take_append_of_le_length (by rw [List.length_replicate]; omega), List.take_replicate, z]
theorem restore_tImage (w : Warp) (c : Word) : ∃ x, w.restore 0 c (tImage c) = some x ∧ x.waiting = w.waiting ∧
    x.returned = w.returned ∧ x.trap = false ∧ x.killed = w.killed := by
  have h : BitVec.ofNat 32 (natOfBytes (((tImage c).drop 384).take 4)) = c := by
    rw [tImage, List.drop_left' (by simp), List.take_left' (by rfl), natOfBytes_bytesOfNat]
    exact BitVec.eq_of_toNat_eq (by have := c.isLt; rw [BitVec.toNat_ofNat]; omega)
  have ht := zeros_tImage c 360 24 (by decide)
  have hf := zeros_tImage c 356 4 (by decide)
  have ho : (List.range 32).all (fun k => tagOk (0 / 64 ^ k % 64)) = true := by decide
  simp only [Warp.restore, h, ht, hf, ho, bne_self_eq_false, Bool.not_true, Bool.or_false, Bool.false_eq_true, if_false, Warp.loadRegs]
  exact ⟨_, rfl, rfl, rfl, rfl, rfl⟩
theorem bytes_tImage (m : Mem) (a : Nat) (c : Word) : (m.setBytes a (tImage c)).bytes a 2048 = tImage c := by
  have h : (tImage c).length = 2048 := by simp [tImage, bytesOfNat]
  have := Mem.bytes_setBytes m a (tImage c)
  rwa [h] at this
/-- A warp 1 whose save area holds that image, in world 0 and with no register declared, is read back. -/
theorem readBack_image (w : Warp) : ∃ x, (∀ (s : State) (b : Bool), s.mem = savedMem → s.declared (s.warp 1) = 0 → s.warp 1 = w →
    (s.grid (s.group (s.warp 1).group).grid).world = 0#10 → s.readBack 1 b = some x) ∧ x.waiting = w.waiting ∧
    x.returned = w.returned ∧ x.trap = false ∧ x.killed = w.killed := by
  obtain ⟨x, e, h⟩ := restore_tImage w (Config.checkValue 1)
  refine ⟨x, fun s b e' d e'' z => ?_, h⟩
  simp only [State.readBack]
  rw [if_neg (by simp [z]), d, e'', e', savedMem, bytes_tImage, e]
/-- A row that stores v0 and v1, and a bin of one such row in a chain of two tiles. -/
def tRow (kind : BitVec 2) (a : DWord) (awake : Bool) (woken : Nat) : Row :=
  ⟨0x40#32, 3#32, false, kind, 5#10, 0#32, [7#32, 8#32], [0#4, 0#4], a, 7, 0#6, awake, woken, 0, (0, 0), [], 7, []⟩
def frState (x : Word) (l : List (Nat × DWord)) (rows : Map Row) : State :=
  { pState x l with frames := [(12, ⟨2, [(63, { Bin.empty with declared := true, rows := rows, chain := [0, 1], cap := 2, window := 64 })]⟩)] }
/-- A copy of 16 bytes within the scratchpad of group 7, counted at its foot. -/
def tBulk : BulkOp :=
  ⟨.copy, 7, tWarp.segSp, tWarp.segCl, tWarp.segStk, tWarp.segFr, true, tWarp.segSp.base + 0x200#64, tWarp.segSp.base + 0x100#64, 16, [0], 16, 7, 0, 9, 0, []⟩
/-- Did the front end read the bytes b? -/
def isBytes (g : Got) (b : List Byte) : Bool := match g with | .bytes c => c == b | _ => false
theorem got_of {g : Got} {b : List Byte} (h : isBytes g b = true) : g = .bytes b := by
  cases g with
  | bytes c => simp only [isBytes, beq_iff_eq] at h; rw [h]
  | wait t => simp [isBytes] at h
  | lost => simp [isBytes] at h
/-! ### Witnesses: decoding, control, special registers -/

/-- Hypotheses of FailedChecks: a register at the declared count, a vector instruction on a control core, a word that is none. -/
theorem witness_FailedChecks :
    (∃ u c, (withRecord (fun r => { r with regs := 8 })).useOf (.vadd 8#5 A B 0#2) = some u ∧
      (withRecord (fun r => { r with regs := 8 })).decodeCheck u = some c) ∧
    (∃ u, { tState with issuer := .control 0 }.useOf (.vadd 3#5 A B 0#2) = some u) ∧
    controlUse ({ tState with issuer := .control 0 }.cluster 0).hints (.vadd 3#5 A B 0#2) = none ∧
    tState.issuer = .vector ∧ isHint 0#32 = false :=
  ⟨⟨_, _, rfl, rfl⟩, ⟨_, rfl⟩, rfl, rfl, rfl⟩

/-- Hypotheses of StepRunsDecoded: a packet that a slot begins, with a word that does not end the region and one that does. -/
theorem witness_StepRunsDecoded :
    ∃ u w i, (fetched 0x60804064).issues u ∧ u.fetch (u.ctx u.me) (u.grid u.myGroup.grid).record u.pc = .word w ∧ reads w i ∧
      u.codeBad (u.ctx u.me) (u.grid u.myGroup.grid).record u.pc = none ∧ endsRegion i = false ∧ i = .vaddImm 4#5 A 100#13 :=
  ⟨_, 0x60804064#32, _, .inr ⟨rfl, 0, 0, [], _, _, _, rfl, rfl, rfl, rfl⟩, rfl, .inl rfl, by decide +kernel, rfl, rfl⟩
theorem witness_StepRunsDecoded_region :
    ∃ u w i, (fetched 0xE8BCC002).issues u ∧ u.fetch (u.ctx u.me) (u.grid u.myGroup.grid).record u.pc = .word w ∧ reads w i ∧
      u.codeBad (u.ctx u.me) (u.grid u.myGroup.grid).record u.pc = none ∧ endsRegion i = true ∧ u.storesOut u.cur = false :=
  ⟨_, 0xE8BCC002#32, _, .inr ⟨rfl, 0, 0, [], _, _, _, rfl, rfl, rfl, rfl⟩, rfl, .inl rfl, by decide +kernel, rfl, by decide +kernel⟩
/-- The same of a control core's word. -/
theorem witness_StepRunsDecoded_control :
    ∃ u w i cl g lo, (fetched 0xF4E02589).controlIssues u cl ∧ (u.cluster cl).gang = some (g, lo) ∧ (u.cluster cl).stopped = false ∧
      (u.cluster cl).saved = false ∧
      u.fetch ⟨cl / 32, 4 * (cl % 32), (u.grid g).record.ptroot, (u.grid g).world, true⟩ (u.grid g).record (u.cluster cl).pc = .word w ∧
      u.codeBad ⟨cl / 32, 4 * (cl % 32), (u.grid g).record.ptroot, (u.grid g).world, true⟩ (u.grid g).record (u.cluster cl).pc = none ∧
      reads w i ∧ i = .kmovi 7#5 300#16 :=
  ⟨_, 0xF4E02589#32, _, 0, _, _, .inr ⟨rfl, [], rfl, rfl⟩, rfl, rfl, rfl, rfl, by decide +kernel, .inl rfl, rfl⟩
/-- The same of an event, and of the last word of an image. -/
theorem witness_StepRunsDecoded_event :
    (let s := { tState with agenda := [.event .getVersion] }; s.inPacket = false ∧ s.agenda = .event .getVersion :: []) ∧
    (let s := pState 0#32 []; let c : Ctx := ⟨0, 0, 0x1000#64, 0#10, false⟩; let r := { LaunchRec.empty with code := 0x10000#64, codelen := 0x1000#32 };
      (0xFFC#32 : Word).toNat < r.codelen.toNat ∧
      s.physical { c with kern := true } false ((r.code.toNat + (0xFFC#32 : Word).toNat) % 2 ^ 57) = some 0x10FFC) :=
  ⟨⟨rfl, rfl⟩, by decide, by decide⟩

/-- Hypothesis of EncodingsDecode. -/
theorem witness_EncodingsDecode : (Instr.vaddImm 31#5 ⟨.quadButterfly, 31#5⟩ 0x1FFF#13).wf = true ∧
    (Instr.vaddImm 31#5 ⟨.quadButterfly, 31#5⟩ 0x1FFF#13).isWord = true := by decide
/-- Hypothesis of StepKeepsMemoryForm. -/
theorem witness_StepKeepsMemoryForm : (fetched 0x60804064).mem.wf = true := by rfl

/-- Hypotheses of DirectBranches. -/
theorem witness_DirectBranches : tState.runs (.bra 0x3FFF8#18) ∧ (∀ e ∈ maskBranches, tState.runs (e.1 15#4 3#18)) ∧
    tState.runs (.brz 31#5 1#18) ∧ tState.runs (.brnz 31#5 1#18) :=
  ⟨runs_of rfl, runs_all maskBranches (fun e => e.1 15#4 3#18) rfl, runs_of rfl, runs_of rfl⟩
/-- Hypotheses of JumpsAndCalls. -/
theorem witness_JumpsAndCalls : tState.runs (.park 15#4 3#18) ∧ tState.runs (.call 31#5 20#18) ∧ tState.runs (.callx 31#5) ∧
    tState.runs (.ret 0#5) ∧ tState.runs (.bix 31#5) :=
  ⟨runs_of rfl, runs_of rfl, runs_of rfl, runs_of rfl, runs_of rfl⟩
/-- Hypotheses of MasksAndVotes. -/
theorem witness_MasksAndVotes : (∀ e ∈ maskPairs, tState.runs (e.1 15#4 1#4 0#4 0#2)) ∧ tState.runs (.mnot 15#4 0#4 0#2) ∧
    tState.runs (.enrol 0#4 0#2) ∧ tState.runs (.strike 15#4 0#2) ∧ tState.runs (.mpop 31#5 0#4 0#2) ∧
    tState.runs (.mfirst 0#5 15#4 0#2) ∧ tState.runs (.voteAny 15#4 A 0#2) ∧ tState.runs (.voteAll 0#4 A 0#2) ∧
    tState.runs (.voteBallot 31#5 A 0#2) :=
  ⟨runs_all maskPairs (fun e => e.1 15#4 1#4 0#4 0#2) rfl, runs_of rfl, runs_of rfl, runs_of rfl, runs_of rfl, runs_of rfl,
    runs_of rfl, runs_of rfl, runs_of rfl⟩
/-- Hypotheses of EndsAndMarkers: the whole warp and a part of it exit; with a result pending and with none. -/
theorem witness_EndsAndMarkers : tState.runs (.exit 0#2) ∧
    (let s := { tState with bundle := 1#32 }; s.runs (.exit 0#2) ∧ s.me.live &&& ~~~s.real (s.on (.exit 0#2)) ≠ 0#32) ∧
    tState.runs (.yield 3#2) ∧ tState.runs .region ∧ tState.me.pend = [] ∧
    (let s := withWarp (fun w => { w with trap := true, entry := 5, pend := [tPend] });
      s.runs .region ∧ s.me.pend ≠ [] ∧ ∀ p ∈ s.me.pend, s.me.frozen p = true) ∧
    (withWarp (fun w => { w with pend := [tPend] })).runs .region ∧ (∃ p ∈ (withWarp (fun w => { w with pend := [tPend] })).me.pend, (withWarp (fun w => { w with pend := [tPend] })).me.frozen p = false) ∧
    isHint 0x23FFFFFF#32 = true :=
  ⟨runs_of rfl, ⟨runs_of rfl, by decide⟩, runs_of rfl, runs_of rfl, rfl, ⟨runs_of rfl, by decide, by decide⟩, runs_of rfl, by decide, rfl⟩

/-- Hypotheses of ReadSpecials. -/
theorem witness_ReadSpecials : (∀ e ∈ wholeSpecials, hState.runs (.rds 127#7 e.1 0#1)) ∧
    (∀ e ∈ wholeSpecials, hState.runs (.rds 30#7 e.1 1#1)) ∧ (∀ e ∈ laneSpecials, hState.runs (.rds 31#7 e.1 1#1)) ∧
    hState.runs (.rds 31#7 0x003#12 1#1) ∧ hState.runs (.rds 30#7 0x103#12 1#1) ∧
    (∀ e ∈ counters, hState.runs (.rds 127#7 e.1 0#1)) ∧ (∀ e ∈ counters, hState.runs (.rds 30#7 e.1 1#1)) ∧ hState.schedLa = 0 :=
  ⟨runs_all wholeSpecials (fun e => .rds 127#7 e.1 0#1) rfl, runs_all wholeSpecials (fun e => .rds 30#7 e.1 1#1) rfl,
    runs_all laneSpecials (fun e => .rds 31#7 e.1 1#1) rfl, runs_of rfl, runs_of rfl, runs_all counters (fun e => .rds 127#7 e.1 0#1) rfl,
    runs_all counters (fun e => .rds 30#7 e.1 1#1) rfl, rfl⟩
/-- Hypotheses of WriteSpecials: values at the edges of their fields, and one that sets a reserved bit. -/
theorem witness_WriteSpecials :
    ((withS 9 0x3C1F1F#64).runs (.wrs 9#7 0x040#12 0#1) ∧ (let x := ((withS 9 0x3C1F1F#64).sreg 9).toNat % 2 ^ 32;
      x / 2 ^ 22 = 0 ∧ x / 2 ^ 13 % 8 = 0 ∧ x / 2 ^ 5 % 8 = 0 ∧ x / 2 ^ 16 % 8 ≤ 4)) ∧
    ((withS 9 0x400000#64).runs (.wrs 9#7 0x040#12 0#1) ∧ ((withS 9 0x400000#64).sreg 9).toNat % 2 ^ 32 / 2 ^ 22 ≠ 0) ∧
    ((withS 9 128#64).runs (.wrs 9#7 0x088#12 0#1) ∧ ((withS 9 128#64).sreg 9).toNat % 128 = 0) ∧
    (hState.runs (.wrs 0#7 0x108#12 0#1) ∧ (hState.sreg 0).toNat % 2 ^ 32 < 2) ∧
    tState.runs (.wrs 9#7 0x0C1#12 0#1) ∧
    (tState.runs (.wrs 9#7 0x13E#12 0#1) ∧ (tState.sreg 9).toNat % 4 = 0) ∧
    (tState.runs (.wrs 9#7 0x16F#12 0#1) ∧ (tState.sreg 9).toNat / 2 ^ 42 % 2 ^ 17 = 0) ∧
    (let s := withWarp (fun w => { w with handler := true, v := Vector.replicate 32 ⟨.uniform 4092#32, 0#4, false⟩ });
      (s.runs (.wrs 5#7 0x101#12 1#1) ∧ ∀ i, (s.me.lane 5 i).toNat % 4 = 0) ∧
      s.runs (.wrs 5#7 0x105#12 1#1) ∧ ∀ i, (s.me.lane 5 i).toNat < 2 ^ 16 ∧ (s.me.lane 5 i).toNat % 2 = 0) :=
  ⟨⟨runs_of rfl, by decide⟩, ⟨runs_of rfl, by decide⟩, ⟨runs_of rfl, by decide⟩, ⟨runs_of rfl, by decide⟩, runs_of rfl,
    ⟨runs_of rfl, by decide⟩, ⟨runs_of rfl, by decide⟩, ⟨runs_of rfl, by decide⟩, runs_of rfl, by decide⟩

/-- Hypotheses of SoftwareTraps. -/
theorem witness_SoftwareTraps : tState.runs (.trap 0xFFF#12) ∧ tState.runs .brk ∧
    ∃ x, trapOf (trapAll (~~~0#32) ⟨.swtrap, 0#64, 7#12, false, false⟩) 31 = some x := ⟨runs_of rfl, runs_of rfl, _, rfl⟩
/-- A trap of lane 5, and a launch that handles its cause in the given mode at 0x40. -/
def tTraps (c : Cause) : List (Lane × Trap) := [(5, Trap.plain c)]
def handling (c : Cause) (mode : Nat) : State := withRecord (fun r => { r with
  traps := r.traps.set! c.code.toNat (BitVec.ofNat 64 (0x40 * 2 ^ 32 + mode)) })
/-- Hypotheses of TrapEntries: local, system and gather mode, with a reserve slot and without. -/
theorem witness_TrapEntries :
    (let s := handling .idiv0 1;
      s.takes (tTraps .idiv0) ∧ s.me.trap = false ∧ s.me.handler = false ∧
      (∀ x ∈ tTraps .idiv0, x.2.cause ≠ .quota ∧ x.2.cause ≠ .fmtx ∧ s.table s.me x.2.cause = (1, 0x40#32)) ∧
      s.reserveFree s.me.die s.me.core = true) ∧
    (let s := { handling .idiv0 1 with warps := (List.range 17).map (fun k => (k, { tWarp with trap := decide (0 < k) })) };
      s.takes (tTraps .idiv0) ∧ s.me.trap = false ∧ s.me.handler = false ∧
      (∀ x ∈ tTraps .idiv0, x.2.cause ≠ .quota ∧ x.2.cause ≠ .fmtx ∧ s.table s.me x.2.cause = (1, 0x40#32)) ∧
      s.reserveFree s.me.die s.me.core = false) ∧
    (let s := tState;
      s.takes (tTraps .idiv0) ∧ ∀ x ∈ tTraps .idiv0, x.2.cause = .quota ∨ x.2.cause = .fmtx ∨ (s.table s.me x.2.cause).1 = 0) ∧
    (hState.takes (tTraps .idiv0) ∧ hState.me.handler = true ∧
      (withWarp (fun w => { w with trap := true })).takes (tTraps .idiv0) ∧ (withWarp (fun w => { w with trap := true })).me.trap = true) ∧
    (let s := handling .idiv0 2;
      s.takes (tTraps .idiv0) ∧ s.me.trap = false ∧ s.me.handler = false ∧
      ∀ x ∈ tTraps .idiv0, x.2.cause ≠ .quota ∧ x.2.cause ≠ .fmtx ∧ (s.table s.me x.2.cause).1 = 2) ∧
    tState.me.pend = [] ∧ tTraps .idiv0 ≠ [] ∧
    (let s := withWarp (fun w => { w with pend := [{ tPend with logged := 0x80000000#32 }] });
      s.me.loggedLanes = 0x80000000#32 ∧ s.me.loggedLanes &&& trapLanes (tTraps .idiv0) = 0#32) := by
  refine ⟨⟨⟨by decide, rfl, by decide, by decide⟩, rfl, rfl, by decide, by decide⟩,
    ⟨⟨by decide, rfl, by decide, by decide⟩, rfl, rfl, by decide, by decide⟩,
    ⟨⟨by decide, rfl, by decide, by decide⟩, by decide⟩,
    ⟨⟨by decide, rfl, by decide, by decide⟩, rfl, ⟨by decide, rfl, by decide, by decide⟩, rfl⟩,
    ⟨⟨by decide, rfl, by decide, by decide⟩, rfl, rfl, by decide⟩, rfl, by decide, by decide, by decide⟩

/-! ### Witnesses: trap returns, system instructions, floating point, lane exchange -/

/-- A handler warp that works for lane 3 of warp 1, whose lanes are detached. -/
def tHandler : State := { withWarp (fun w => { w with
    handler := true, origin := allLanesOf ⟨1, 0#2, 0#7, 1#6, 3#5, 5#10⟩ }) with
  warps := [(0, { tWarp with handler := true, origin := allLanesOf ⟨1, 0#2, 0#7, 1#6, 3#5, 5#10⟩ }),
    (1, { tWarp with slot := 1, detached := ~~~0#32 })] }
theorem tHandler_wait (k : Nat) : (tHandler.warp k).wait = allLanesOf .none := by
  match k with
  | 0 => rfl
  | 1 => rfl
  | _ + 2 => rfl
/-- A warp in trap mode, with a bundle of all its lanes or of one. -/
def inTrap (b : Mask) : State := { withWarp (fun w => { w with trap := true, entered := ~~~0#32 }) with bundle := b }
/-- Hypotheses of TrapReturns: rte of a part of the warp and of all of it; the forms of gret; gkill. -/
theorem witness_TrapReturns :
    ((inTrap 1#32).runs .rte ∧
      (inTrap 1#32).me.live &&& ~~~maskOf (fun i => Mask.has ((inTrap 1#32).real ((inTrap 1#32).on .rte)) i) ≠ 0#32) ∧
    (let s := inTrap (~~~0#32); let inn := s.me.entered &&& s.me.live &&& ~~~s.me.detached;
      s.runs .rte ∧ inn &&& ~~~maskOf (fun i => Mask.has (s.real (s.on .rte)) i || Lanes.at s.me.wait i == Wait.rte) = 0#32 ∧
      s.strays inn (fun i => Lanes.at s.me.tpc i) = 0#32) ∧
    (tHandler.runs .gret ∧ tHandler.strays (tHandler.real (tHandler.on .gret)) (fun l => Lanes.at tHandler.me.tpc l + 4#32) = 0#32) ∧
    tHandler.runs .gretSame ∧ (tHandler.runs (.gretPc 23#5) ∧ tHandler.strays 1#32 (fun _ => 4092#32) = 0#32) ∧
    (tHandler.runs .gkill ∧ Mask.has (tHandler.real (tHandler.on .gkill)) 31 = true ∧ (∀ k i a b, Lanes.at (tHandler.warp k).wait i ≠ .reorder a b) ∧
      (Lanes.at tHandler.me.origin 31).warp ≠ tHandler.cur ∧
      Mask.has ((tHandler.warp 1).live &&& (tHandler.warp 1).detached) 3 = true) := by
  refine ⟨⟨runs_of rfl, by decide⟩, ⟨runs_of rfl, by decide, by decide⟩, ⟨runs_of rfl, by decide⟩, runs_of rfl,
    ⟨runs_of rfl, by decide⟩, runs_of rfl, by decide, fun k i a b h => ?_, by decide, by decide⟩
  rw [tHandler_wait] at h
  exact Wait.noConfusion ((replicate_at (.none : Wait) i).symm.trans h)

/-- Hypotheses of SystemInstructions. -/
theorem witness_SystemInstructions :
    (let s := withS 9 0x00000FF000080000#64;
      s.runs (.segset 9#7 0#2) ∧ s.untiled ∧ (s.sreg 10).toNat < 2 ^ 32 ∧ s.segBad s.me 0 (s.sreg 9) (s.sreg 10).toNat = none) ∧
    (tState.runs .tlbinvAll ∧ tState.untiled ∧ tState.storesOut 0 = false) ∧
    ((withS 9 4096#64).runs (.tlbinvRoot 9#7) ∧ ((withS 9 4096#64).sreg 9).toNat % 4096 = 0) ∧
    (let s := withS 10 4096#64;
      s.runs (.tlbinvVa 9#7) ∧ (s.sreg 9).toNat / 2 ^ 57 % 8 = 0 ∧ (s.sreg 9).toNat / 2 ^ 60 < 4 ∧ (s.sreg 10).toNat % 4096 = 0) ∧
    (let s := { tHandler with groups := [(7, { tGroup with s := tGroup.s.set 9 (BitVec.twoPow 64 63 + 1#64) })] };
      s.runs (.dbgStep 9#7) ∧ (s.sreg 9).toNat / 2 ^ 13 % 2 ^ 50 = 0 ∧ mapHas s.warps 1 = true ∧ (s.warp 1).slot = 1) ∧
    (tState.runs .preack ∧ tState.myGroup.preq = false) ∧
    (let s := withGroup (fun g => { g with preq := true });
      s.runs .preack ∧ s.myGroup.preq = true ∧ s.myGroup.status = .running) := by
  refine ⟨⟨runs_of rfl, untiled_of (by decide), by decide, by decide⟩, ⟨runs_of rfl, untiled_of (by decide), rfl⟩,
    ⟨runs_of rfl, by decide⟩,
    ⟨runs_of rfl, by decide⟩, ⟨runs_of rfl, by decide⟩, ⟨runs_of rfl, rfl⟩, runs_of rfl, rfl, rfl⟩

/-- Hypotheses of FlagTraps and RoundExact: an enabled flag; 1.0 in f32. -/
theorem witness_FlagTraps : (∃ x, trapOf ((withWarp (fun w => { w with fcsr := 0x1F00#32 })).flagTraps 1#32 (fun _ => 0x1F#5)) 0 = some x) :=
  ⟨_, rfl⟩
theorem witness_RoundExact : 0x3F800000 < 2 ^ f32.width ∧ (∃ m e, f32.val 0x3F800000 = .num false m e) ∧
    (true && f32.flushes && f32.subnormal 0x3F800000) = false := ⟨by decide, ⟨_, _, rfl⟩, by decide⟩
/-- Hypotheses of FloatResults. -/
theorem witness_FloatResults : (∀ e ∈ floatTwo, tState.runs (e.1 31#5 A B 0#2)) ∧ (∀ e ∈ floatThree, tState.runs (e.1 31#5 A B 0#2)) ∧
    (∀ e ∈ floatOne, tState.runs (e.1 31#5 A 0#2)) ∧ (∀ e ∈ floatWide, tState.runs (e.1 15#4 A B 0#2)) ∧
    tState.runs (.vfmaF64 15#4 A B 0#2) ∧ tState.runs (.vfabsF64 15#4 A 0#2) ∧ tState.runs (.vfnegF64 15#4 A 0#2) ∧
    tState.runs (.vfclassF64 31#5 A 0#2) ∧ (∀ e ∈ floatClasses, tState.runs (e.1 31#5 A 0#2)) :=
  ⟨runs_all floatTwo (fun e => e.1 31#5 A B 0#2) rfl, runs_all floatThree (fun e => e.1 31#5 A B 0#2) rfl,
    runs_all floatOne (fun e => e.1 31#5 A 0#2) rfl, runs_all floatWide (fun e => e.1 15#4 A B 0#2) rfl, runs_of rfl, runs_of rfl,
    runs_of rfl, runs_of rfl, runs_all floatClasses (fun e => e.1 31#5 A 0#2) rfl⟩
/-- Hypotheses of Comparisons: with a NaN and without. -/
theorem witness_Comparisons : (∀ e ∈ floatCompares, tState.runs (e.1 15#4 A B 0#2)) ∧
    (∀ e ∈ floatCompares64, tState.runs (e.1 15#4 A B 0#2)) ∧ (∀ e ∈ compares, tState.runs (e.1 15#4 A B 0#2)) ∧
    (∀ e ∈ wideCompares, tState.runs (e.1 0#4 A B 0#2)) ∧ (f32.src false 0x7FC00000).isNan = true ∧
    (f32.src false 0x3F800000).isNan = false :=
  ⟨runs_all floatCompares (fun e => e.1 15#4 A B 0#2) rfl, runs_all floatCompares64 (fun e => e.1 15#4 A B 0#2) rfl,
    runs_all compares (fun e => e.1 15#4 A B 0#2) rfl, runs_all wideCompares (fun e => e.1 0#4 A B 0#2) rfl, by decide, by decide⟩
/-- The state with v-registers of a format. -/
def withFmt (n : Fin 32) (f : BitVec 4) : State := withWarp (fun w => { w with v := w.v.set n.val ⟨.uniform 5#32, f, false⟩ })
/-- Hypotheses of Conversions: to f64 and to a narrow format, to and from packed and other registers. -/
theorem witness_Conversions :
    ((Instr.vfcvt 30#5 A 8#4 1#4 0#2).wf = true ∧ tState.runs (.vfcvt 30#5 A 8#4 1#4 0#2)) ∧
    ((Instr.vfcvtRz 31#5 A 1#4 8#4 0#2).wf = true ∧ tState.runs (.vfcvtRz 31#5 A 1#4 8#4 0#2)) ∧
    ((withFmt 31 4#4).runs (.vfpack 31#5 A B 0#2) ∧ (∃ k, packedOf (((withFmt 31 4#4).me.reg 31).fmt) = some k)) ∧
    (tState.runs (.vfpackRz 31#5 A B 0#2) ∧ packedOf ((tState.me.reg 31).fmt) = none) ∧
    ((withFmt 2 4#4).runs (.vfunpack 31#5 A B 0#2) ∧ (∃ k, packedOf ((withFmt 2 4#4).srcFormat A) = some k)) ∧
    (tState.runs (.vfunpack 31#5 A B 0#2) ∧ packedOf (tState.srcFormat A) = none) ∧ tState.runs (.vfscale 31#5 A B 0#2) ∧
    ((Instr.vfround 30#5 A 8#4 0#2).wf = true ∧ tState.runs (.vfround 30#5 A 8#4 0#2)) ∧
    ((Instr.vfround 31#5 A 1#4 0#2).wf = true ∧ tState.runs (.vfround 31#5 A 1#4 0#2)) ∧
    tState.runs (.vftoiS32 31#5 A 1#1 0#2) ∧ tState.runs (.vftoiN32 31#5 A 0#1 0#2) :=
  ⟨⟨rfl, runs_of rfl⟩, ⟨rfl, runs_of rfl⟩, ⟨runs_of rfl, _, rfl⟩, ⟨runs_of rfl, rfl⟩, ⟨runs_of rfl, _, rfl⟩, ⟨runs_of rfl, rfl⟩,
    runs_of rfl, ⟨rfl, runs_of rfl⟩, ⟨rfl, runs_of rfl⟩, runs_of rfl, runs_of rfl⟩
/-- The state whose packet asks for a lookahead. -/
def ahead (l : BitVec 4) : State := { tState with hints := { Hints.empty with sched := some (0#2, l) } }
/-- Hypotheses of Transcendentals: without lookahead and with it. -/
theorem witness_Transcendentals : (∀ e ∈ transcendentals, tState.runs (e.1 31#5 A 0#2)) ∧ tState.schedLa = 0 ∧
    (∀ e ∈ transcendentals, (ahead 15#4).runs (e.1 31#5 A 0#2)) ∧ (ahead 15#4).schedLa ≠ 0 ∧
    (ahead 15#4).on (.vfsqrtF32 31#5 A 0#2) ≠ 0#32 ∧ (∀ f : Flags, tState.trapping f = 0#5 ∧ (ahead 15#4).trapping f = 0#5) ∧
    (∀ e ∈ transcendentals64, tState.runs (e.1 15#4 A 0#2)) ∧ ∀ e ∈ transcendentals64, (ahead 15#4).runs (e.1 15#4 A 0#2) :=
  ⟨runs_all transcendentals (fun e => e.1 31#5 A 0#2) rfl, rfl, runs_all transcendentals (fun e => e.1 31#5 A 0#2) rfl, by decide,
    by decide, by decide, runs_all transcendentals64 (fun e => e.1 15#4 A 0#2) rfl, runs_all transcendentals64 (fun e => e.1 15#4 A 0#2) rfl⟩

/-- Hypotheses of LaneMoves. -/
theorem witness_LaneMoves : (∀ e ∈ quadSwaps, tState.runs (e.1 31#5 A 0#2)) ∧ tState.runs (.vshfl 31#5 A B 0#2) ∧
    tState.runs (.qbcast 31#5 A B 0#2) ∧ tState.runs (.vperm 31#5 A B 0#2) ∧ tState.runs (.vbcast 31#5 A B 0#2) ∧
    tState.first (tState.on (.vbcast 31#5 A B 0#2)) = some 0 :=
  ⟨runs_all quadSwaps (fun e => e.1 31#5 A 0#2) rfl, runs_of rfl, runs_of rfl, runs_of rfl, runs_of rfl, by decide⟩
/-- Hypotheses of Reductions. -/
theorem witness_Reductions : tState.runs (.qreduce 31#5 A 3#3 0#2) ∧ (∀ e ∈ intReductions, tState.runs (e.1 31#5 A 0#2)) ∧
    (∀ e ∈ floatReductions, tState.runs (e.1 31#5 A 0#2)) ∧ tState.runs (.wscan 31#5 A 1#1 0#2) ∧ tState.runs (.wscanF32 31#5 A 0#1 0#2) :=
  ⟨runs_of rfl, runs_all intReductions (fun e => e.1 31#5 A 0#2) rfl, runs_all floatReductions (fun e => e.1 31#5 A 0#2) rfl,
    runs_of rfl, runs_of rfl⟩
/-- Hypotheses of CompactionAndReorder: with a result pending, with another member of the group not there, and with all there. -/
theorem witness_CompactionAndReorder : tState.runs (.vcompact 31#5 A 15#4 0#2) ∧ tState.runs (.vexpand 31#5 A 15#4 0#2) ∧
    (let s := withWarp (fun w => { w with pend := [tPend] });
      s.runs (.reorder 31#5 5#5) ∧ (s.me.pend.any (fun p => (p.lanes &&& s.bundle) != 0#32)) = true) ∧
    (let s := { tState with bundle := 1#32 };
      s.runs (.reorder 31#5 5#5) ∧ (s.me.pend.any (fun p => (p.lanes &&& s.bundle) != 0#32)) = false ∧ (0, (31 : Lane)) ∈ s.members s.me.group ∧ Mask.has s.bundle 31 = false ∧
      Lanes.at s.me.wait 31 = .none) ∧
    (tState.runs (.reorder 31#5 0#5) ∧ tState.me.pend = [] ∧ tState.myGroup.warps = [tState.cur] ∧ tState.me.place ≠ .gone ∧
      tState.me.live ≠ 0#32 ∧ tState.real (tState.on (.reorder 31#5 0#5)) = tState.me.live ∧
      (∀ i j, Lanes.at tState.me.pc i = Lanes.at tState.me.pc j) ∧
      ((tState.sreg 0).setWidth 32 : Word).toNat / 2 ^ tState.myGrid.record.regs = 0) :=
  ⟨runs_of rfl, runs_of rfl, ⟨runs_of rfl, by decide⟩, ⟨runs_of rfl, rfl, by decide⟩, runs_of rfl, rfl, rfl, by decide, by decide, by decide,
    by decide, by decide⟩

/-! ### Witnesses: memory -/

/-- The device whose warp holds 16i in lane i of every v-register; s9 is the base of the scratchpad window. -/
def mState : State := { withWarp (fun w => { w with v := Vector.replicate 32 ⟨.general (perLane (fun i => BitVec.ofNat 32 (16 * i.val))), 0#4, false⟩ }) with
  groups := [(7, { tGroup with s := tGroup.s.set 9 tWarp.segSp.base })] }
/-- The spot of lane l's 16 bytes in the scratchpad. -/
def tSpot (n : Nat) (l : Lane) : List Spot := [.scratch 7 (16 * l.val) n]

/-- Hypotheses of AccessChecks: the offset form at, under and past its limit; a path or a reserved bit out of range; a window on a path;
the window's edges; and a load whose lanes fail. -/
theorem witness_AccessChecks :
    (let x := tAccess .load 4 true; let a (n : DWord) := (Lanes.at (x n).addr 0).toNat;
      a 2#64 % 4 ≠ 0 ∧ (a 4096#64 % 4 = 0 ∧ tWarp.segSp.lim.toNat < a 4096#64 + 4) ∧
      (a 4092#64 % 4 = 0 ∧ a 4092#64 + 4 ≤ tWarp.segSp.lim.toNat)) ∧
    (let x := tAccess .store 16 false; let a (n : DWord) := (Lanes.at (x n).addr 0).toNat;
      (x 0#64).offset = false ∧ (x 0#64).kind ≠ .readOnly ∧ (x 0#64).kind ≠ .streamLoad ∧ 4 ≤ a 0x4000000000000000#64 / 2 ^ 60 ∧
      a 0x0200000000000000#64 / 2 ^ 57 % 8 ≠ 0 ∧
      (tWarp.window (a (0x1000000000000000#64 + tWarp.segSp.base) % 2 ^ 57) ≠ none ∧
        a (0x1000000000000000#64 + tWarp.segSp.base) / 2 ^ 60 ≠ 0) ∧
      (tWarp.window 8 = none ∧ a 8#64 % 16 ≠ 0) ∧
      (tWarp.window 0 = none ∧ a 0x1000000000000000#64 % 16 = 0 ∧ a 0x1000000000000000#64 / 2 ^ 60 = 1 ∧ (x 0#64).writes = true) ∧
      (a 0x3000000000000000#64 / 2 ^ 60 = 3) ∧ (x 0#64).isAtomic = false ∧
      tWarp.window (a tWarp.segSp.base % 2 ^ 57) = some .scratch) ∧
    (let s := { tState with bundle := 1#32 }; let i : Instr := .ldSp 5#5 0#5 1#5 0#4 0#2 2#3 0#1;
      ∃ x, s.accessOf i = some x ∧ s.runs i ∧ s.me.logFull = false ∧ s.me.ioWaits x (s.on i) = false ∧
        ∀ l, Mask.has (s.on i) l = true → Mask.has s.me.live l = true ∧ Cause.align ≠ .race ∧ Cause.align ≠ .watch ∧
          (s.touched (s.accessLanes i)).judge s.cur (s.instrNo s.cur) s.pc x l = .fails .align) :=
  ⟨by decide, by decide, _, rfl, runs_of rfl, rfl, by decide, by decide⟩

theorem free_mState (x : Access) (m : Mask) : mState.free_ x m :=
  ⟨rfl, untiled_of (by decide), by simp [Warp.ioWaits, show mState.me.pend = [] from rfl], rfl, by decide⟩
theorem fresh_tSpot (s : State) (n : Nat) (h : n ≤ 16) (l : Lane) : s.freshSpots (tSpot n l) := by
  simp only [State.freshSpots, tSpot, List.mem_singleton, forall_eq]; omega
theorem home_tSpot (n : Nat) (h : n ≤ 16) (l : Lane) : homeSpots 0 (tSpot n l) := by
  simp only [homeSpots, tSpot, List.mem_singleton, forall_eq]; omega
theorem sound_tSpot (s : State) (n : Nat) (m : Mask) : s.sound m (tSpot n) := by
  simp [State.sound, tSpot]
/-- Hypotheses of LoadResults: a scratchpad offset, the scratchpad window, lookahead 0 and 15. -/
theorem witness_LoadResults :
    (let i : Instr := .ldSp 28#5 0#5 1#5 0#4 0#2 4#3 0#1;
      ∃ x, mState.loadOf i = some x ∧ mState.runs i ∧ i.wf = true ∧ mState.free_ x.1 (mState.on i) ∧ loadLa i = 0 ∧
        ∀ l, Mask.has (mState.on i) l = true → mState.allows i x.1 l (tSpot 16 l) ∧ mState.freshSpots (tSpot 16 l)) ∧
    (let i : Instr := .ld 31#5 9#5 1#5 0#4 0#2 0#3 1#2;
      ∃ x, mState.loadOf i = some x ∧ mState.runs i ∧ i.wf = true ∧ mState.free_ x.1 (mState.on i) ∧ loadLa i = 0 ∧
        ∀ l, Mask.has (mState.on i) l = true → mState.allows i x.1 l (tSpot 1 l) ∧ mState.freshSpots (tSpot 1 l)) ∧
    (let i : Instr := .ld 30#5 9#5 1#5 15#4 0#2 3#3 0#2;
      ∃ x, mState.loadOf i = some x ∧ mState.runs i ∧ i.wf = true ∧ mState.free_ x.1 (mState.on i) ∧ loadLa i ≠ 0 ∧ mState.on i ≠ 0#32 ∧
        ∀ l, Mask.has (mState.on i) l = true → mState.allows i x.1 l (tSpot 8 l) ∧ mState.freshSpots (tSpot 8 l)) :=
  ⟨⟨_, rfl, runs_of rfl, rfl, free_mState _ _, rfl,
      fun l _ => ⟨by revert l; simp only [State.allows]; decide, fresh_tSpot _ _ (by decide) l⟩⟩,
    ⟨_, rfl, runs_of rfl, rfl, free_mState _ _, rfl, fun l _ => ⟨by revert l; simp only [State.allows]; decide, fresh_tSpot _ _ (by decide) l⟩⟩,
    ⟨_, rfl, runs_of rfl, rfl, free_mState _ _, by decide, by decide,
      fun l _ => ⟨by revert l; simp only [State.allows]; decide, fresh_tSpot _ _ (by decide) l⟩⟩⟩
/-- Hypotheses of StoreResults: a scratchpad offset and the scratchpad window. -/
theorem witness_StoreResults :
    (let i : Instr := .stSp 28#5 0#5 1#5 0#2 4#3; let m := mState.real (mState.on i);
      ∃ x, mState.storeOf i = some x ∧ mState.runs i ∧ mState.free_ x (mState.on i) ∧
        (∀ l, Mask.has m l = true → mState.allows i x l (tSpot 16 l) ∧ homeSpots 0 (tSpot 16 l)) ∧ mState.sound m (tSpot 16)) ∧
    (let i : Instr := .st 31#5 9#5 1#5 0#2 2#3 0#1; let m := mState.real (mState.on i);
      ∃ x, mState.storeOf i = some x ∧ mState.runs i ∧ mState.free_ x (mState.on i) ∧
        (∀ l, Mask.has m l = true → mState.allows i x l (tSpot 4 l) ∧ homeSpots 0 (tSpot 4 l)) ∧ mState.sound m (tSpot 4)) :=
  ⟨⟨_, rfl, runs_of rfl, free_mState _ _,
      fun l _ => ⟨by revert l; simp only [State.allows]; decide, home_tSpot _ (by decide) l⟩, sound_tSpot _ _ _⟩,
    ⟨_, rfl, runs_of rfl, free_mState _ _, fun l _ => ⟨by revert l; simp only [State.allows]; decide, home_tSpot _ (by decide) l⟩, sound_tSpot _ _ _⟩⟩
/-- Hypotheses of AtomicResults: 4 and 8 bytes, with one operand and two. -/
theorem witness_AtomicResults :
    (let i : Instr := .atomAdd32 31#5 9#5 1#5 31#5 3#2; let m := mState.real (mState.on i);
      ∃ x op ds, mState.atomicOf i = some (x, op, ds) ∧ mState.runs i ∧ i.wf = true ∧ mState.free_ x (mState.on i) ∧ mState.schedLa = 0 ∧
        ∀ l, Mask.has m l = true → mState.allows i x l (tSpot 4 l) ∧ homeSpots 0 (tSpot 4 l) ∧ (tSpot 4 l).length ≤ 1) ∧
    (let i : Instr := .atomCas64 30#5 9#5 1#5 7#3 0#2; let m := mState.real (mState.on i);
      ∃ x op ds, mState.atomicOf i = some (x, op, ds) ∧ mState.runs i ∧ i.wf = true ∧ mState.free_ x (mState.on i) ∧
        ∀ l, Mask.has m l = true → mState.allows i x l (tSpot 8 l) ∧ homeSpots 0 (tSpot 8 l) ∧ (tSpot 8 l).length ≤ 1) :=
  ⟨⟨_, _, _, rfl, runs_of rfl, rfl, free_mState _ _, rfl,
      fun l _ => ⟨by revert l; simp only [State.allows]; decide, home_tSpot _ (by decide) l, Nat.le_refl 1⟩⟩,
    ⟨_, _, _, rfl, runs_of rfl, rfl, free_mState _ _,
      fun l _ => ⟨by revert l; simp only [State.allows]; decide, home_tSpot _ (by decide) l, Nat.le_refl 1⟩⟩⟩
/-- Hypotheses of ScalarAccesses: with a lane active and with none. -/
theorem witness_ScalarAccesses :
    (let i : Instr := .sld 31#5 9#5 0#4 0#2 3#3; let x := { tAccess .load 8 false tWarp.segSp.base with scalar := true };
      mState.runs i ∧ mState.free_ x (laneBit 0) ∧ mState.first (mState.on i) = some 0 ∧
        (mState.touched (laneBit 0)).judge mState.cur (mState.instrNo mState.cur) mState.pc x 0 = .go (tSpot 8 0) ∧
        mState.freshSpots (tSpot 8 0)) ∧
    (let i : Instr := .sst 9#5 9#5 0#2 0#3;
      let x := { tAccess .store 1 false tWarp.segSp.base with data := allLanesOf (tWarp.segSp.base.setWidth 128), scalar := true };
      mState.runs i ∧ mState.free_ x (laneBit 0) ∧ mState.first (mState.on i) = some 0 ∧
        (mState.touched (laneBit 0)).judge mState.cur (mState.instrNo mState.cur) mState.pc x 0 = .go (tSpot 1 0) ∧
        homeSpots 0 (tSpot 1 0) ∧ mState.sound (laneBit 0) (fun _ => tSpot 1 0)) ∧
    (mState.runs (.sld 31#5 9#5 0#4 1#2 3#3) ∧ mState.me.logFull = false ∧ mState.first (mState.on (.sld 31#5 9#5 0#4 1#2 3#3)) = none) :=
  ⟨⟨runs_of rfl, free_mState _ _, by decide, by decide, fresh_tSpot _ _ (by decide) 0⟩,
    ⟨runs_of rfl, free_mState _ _, by decide, by decide, home_tSpot _ (by decide) 0, by simp [State.sound, tSpot]⟩,
    runs_of rfl, rfl, by decide⟩

/-- Hypotheses of CacheControlAndAddressWaits: scopes, the codes of cctl on a mapped line, a wait.addr of a word. -/
theorem witness_CacheControlAndAddressWaits :
    tState.runs (.fence 0#2 1#3) ∧ tState.runs (.fencePath 0#2 5#3) ∧ tState.runs (.prefetch 31#5 31#5 0#2 1#1) ∧
    (let s := { pState 0#32 [(9, 0x10000#64)] with bundle := 1#32 };
      ∀ c : BitVec 2, s.runs (.cctl 9#5 1#5 0#2 c) ∧ s.me.logFull = false ∧
        s.me.ioWaits ⟨.cctl c, 1, false, false, perLane (s.address 9#5 1#5 false), allLanesOf 0#128, 0#3, 0#3, 0#3, false⟩
          (s.real (s.on (.cctl 9#5 1#5 0#2 c))) = false ∧
        (∀ l, Mask.has (s.real (s.on (.cctl 9#5 1#5 0#2 c))) l = true →
          (s.touched (s.real (s.on (.cctl 9#5 1#5 0#2 c)))).judge s.cur (s.instrNo s.cur) s.pc
            ⟨.cctl c, 1, false, false, perLane (s.address 9#5 1#5 false), allLanesOf 0#128, 0#3, 0#3, 0#3, false⟩ l =
              .go [.memory 0x10000 1 0 0] ∧
          homeSpots 0 [.memory 0x10000 1 0 0]) ∧
        ∀ r ∈ storedRanges (s.real (s.on (.cctl 9#5 1#5 0#2 c))) (fun _ => [.memory 0x10000 1 0 0]),
          s.lineAway (s.ctx s.me).world 0 r.1 = false) ∧
    (let s := { pState 0#32 [(9, 0x1FFFC#64)] with bundle := 1#32 };
      s.runs (.waitAddr S9 A 0#2) ∧ ∀ l, Mask.has (s.real (s.on (.waitAddr S9 A 0#2))) l = true →
        s.waitRead s.cur l (Lanes.at (s.src64 false S9).lanes l) = .word 0#32) ∧
    (let s := pState 0#32 [(9, tWarp.segSp.base + 4092#64)]; let at_ (l : Lane) : DWord := Lanes.at (s.src64 false S9).lanes l;
      s.runs (.waitAddr S9 A 0#2) ∧ (∀ l, (at_ l).toNat = s.me.segSp.base.toNat + 4092 ∧ (at_ l).toNat < 2 ^ 57 ∧ (at_ l).toNat % 4 = 0 ∧
        4092 < 2 ^ 19 ∧ 4092 + 4 ≤ s.me.segSp.lim.toNat) ∧ s.myGroup.spPoison = []) :=
  ⟨runs_of rfl, runs_of rfl, runs_of rfl,
    fun c => ⟨runs_of (by revert c; decide), rfl, by revert c; decide,
      fun l h => ⟨by revert h; revert l; revert c; decide, by simp [homeSpots]⟩, by revert c; decide⟩,
    ⟨runs_of rfl, by decide⟩, runs_of rfl, by decide, rfl⟩

/-! ### Witnesses: copies, bulk operations, barriers -/

theorem clean_of (s : State) (h : s.myGroup.tagfault = 0#64) (h' : s.myGroup.tagDone = []) (j : Nat) : s.tagClean j := by
  refine ⟨by rw [h]; simp, ?_⟩
  rw [h']
  intro e m
  cases m
/-- Hypotheses of AsyncCopiesAndTags: room for the copies and none; sets that are ready and not. -/
theorem witness_AsyncCopiesAndTags :
    (let s := pState 32#32 [(10, 0x10000#64)];
      let i : Instr := .cpAsync 4#5 10#5 5#5 6#5 63#6;
      let m := s.real (s.on i);
      s.runs i ∧ s.me.logFull = false ∧ s.tagCount 63 + (among m).length ≤ 65535 ∧
        s.copiesHeld s.coreNo + (among m).length ≤ 512 ∧
        ∀ l, Mask.has m l = true → s.copyCheck s.me (s.me.lane 4 l).toNat (s.address 10#5 5#5 false l)
          (min ((s.me.lane 6 l).toNat % 64) 32) = .spots []) ∧
    (let s := withGroup (fun g => { g with tags := [(63, 65535)] });
      let i : Instr := .cpAsync 4#5 10#5 5#5 6#5 63#6;
      s.runs i ∧ 65535 < s.tagCount 63 + (among (s.real (s.on i))).length) ∧
    (let i : Instr := .cpAsync 4#5 10#5 5#5 6#5 63#6;
      let s := withWarp (fun w => { w with pend := List.replicate 4 { tPend with logged := 1#32, got := ~~~1#32 } });
      s.runs i ∧ s.me.logFull = true ∧
      (let s := { tState with cores := [(0, { State.reset.core 0 with reqs := (List.range 481).map (fun k => (k, ⟨7, true, 0, 0#64, 1, 63, 9, false, []⟩)) })] };
        s.runs i ∧ 512 < s.copiesHeld s.coreNo + (among (s.real (s.on i))).length)) ∧
    (let s := withGroup (fun g => { g with tags := [(5, 1)], s := g.s.set 9 0x30#64 });
      s.runs (.tagWaitAny S9 0#2) ∧ s.runs (.tagWaitAll S9 0#2) ∧ s.runs (.tagFirst 31#5 S9 0#2) ∧ s.runs (.tagPoll 15#4 S9 0#2) ∧
        s.runs (.tagClear S9 0#2) ∧ (∀ j, s.tagClean j) ∧ s.tagCount 5 ≠ 0 ∧ s.tagCount 4 = 0 ∧ (s.sreg 9).getLsbD 5 = true) :=
  ⟨⟨runs_of rfl, rfl, by decide, by decide, by decide⟩, ⟨runs_of rfl, by decide⟩, ⟨runs_of rfl, by decide, runs_of rfl, by decide⟩, runs_of rfl, runs_of rfl, runs_of rfl, runs_of rfl,
    runs_of rfl, clean_of _ rfl rfl, by decide, by decide, by decide⟩

/-- A copy of 16 bytes, its object at the foot of the scratchpad window. -/
def copyState : State := pState 0#32 [(4, 0x10000#64), (5, 0x1FFF0#64), (6, 16#64), (7, tWarp.segSp.base)]
/-- A gather of one row of 16 bytes under index 0, and the greatest row and fewest bytes besides. -/
def gatherState : State := pState 0#32
  [(4, 0x10000#64), (5, 0x1FFF0#64), (6, tWarp.segSp.base + 16#64), (7, tWarp.segSp.base), (8, 0x10010#64), (9, 16#64)]
/-- Hypotheses of BulkOperations. -/
theorem witness_BulkOperations :
    (copyState.runs (.bulkCopy 4#5 1#2) ∧ copyState.first (copyState.on (.bulkCopy 4#5 1#2)) = none) ∧
    (copyState.runs (.bulkCopy 5#5 0#2) ∧ copyState.first (copyState.on (.bulkCopy 5#5 0#2)) ≠ none ∧
      ¬(copyState.block 5#5 2).toNat ≤ 2 ^ 24) ∧
    (let s := { copyState with cores := [(0, { State.reset.core 0 with bulk := (List.range 16).map (fun k => (k, tBulk)) })] };
      s.runs (.bulkCopy 4#5 0#2) ∧ s.first (s.on (.bulkCopy 4#5 0#2)) ≠ none ∧ 16 ≤ s.bulkHeld s.coreNo) ∧
    (let s := copyState;
      s.runs (.bulkCopy 4#5 0#2) ∧ s.first (s.on (.bulkCopy 4#5 0#2)) ≠ none ∧ (s.block 4#5 0).toNat % 16 = 0 ∧
        (s.block 4#5 1).toNat % 16 = 0 ∧ (s.block 4#5 2).toNat = 16 ∧ s.bulkHeld s.coreNo < 16 ∧
        s.objAt s.me (s.block 4#5 3) = .inr (7, 0) ∧ s.bulkRange s.me false (s.block 4#5 1) 16 = none ∧
        s.bulkRange s.me true (s.block 4#5 0) 16 = none) ∧
    (gatherState.runs (.bulkGather 4#5 1#2) ∧ gatherState.first (gatherState.on (.bulkGather 4#5 1#2)) = none) ∧
    (gatherState.runs (.bulkGather 5#5 0#2) ∧ gatherState.first (gatherState.on (.bulkGather 5#5 0#2)) ≠ none ∧
      ¬(gatherState.block 5#5 4).toNat / 65536 ≥ 1) ∧
    (let s := gatherState;
      s.runs (.bulkGather 4#5 0#2) ∧ s.first (s.on (.bulkGather 4#5 0#2)) = some 0 ∧
        ((s.block 4#5 0).toNat % 16 = 0 ∧ (s.block 4#5 1).toNat % 16 = 0 ∧ (s.block 4#5 2).toNat % 4 = 0 ∧
          (s.block 4#5 4).toNat % 65536 = 16 ∧ (s.block 4#5 4).toNat / 65536 = 1 ∧ (s.block 4#5 5).toNat % 16 = 0) ∧
        s.bulkHeld s.coreNo < 16 ∧ s.objAt s.me (s.block 4#5 3) = .inr (7, 0) ∧
        s.indexList s.me (s.block 4#5 2) 1 = some ([0], 7, 16) ∧ s.bulkRange s.me false (s.block 4#5 1) 1 = none ∧
        s.bulkRange s.me false (s.block 4#5 1) 16 = none ∧ s.bulkRange s.me true (s.block 4#5 0) 16 = none ∧
        (s.touched (laneBit 0)).racy (threadAgent s.me 0) 4 (s.instrNo s.cur) false (objLoc (7, 16)) 4 = false ∧
        (s.group 7).sectorBad 16 4 = false) :=
  ⟨⟨runs_of rfl, by decide⟩, ⟨runs_of rfl, by decide, by decide⟩, ⟨runs_of rfl, by decide, by decide⟩,
    ⟨runs_of rfl, by decide, by decide, by decide, by decide, by decide, by decide, by decide, by decide⟩,
    ⟨runs_of rfl, by decide⟩, ⟨runs_of rfl, by decide, by decide⟩,
    runs_of rfl, by decide, by decide, by decide, by decide, by decide, by decide, by decide, by decide, by decide, by decide⟩

/-- A reduction of 4 elements, or a gather of 16 bytes, in a communicator of n devices, each 3, behind port 2. -/
def collState (n : Nat) (q : DWord) : State :=
  let s := pState 0#32 [(4, 0x10000#64), (5, 0x11000#64), (6, q), (7, tWarp.segSp.base), (8, 0x1FFC0#64)]
  { s with
    mem := (s.mem.setNum 0x1FFC8 2 n).setNum 0x1FFD0 4 0x30003
    routes := [(3, 2)]
    links := [(2, { State.reset.link 2 with up := true })] }
/-- What the last clause of Collectives asks of a collective over n devices, whose source has size bytes and destination total. -/
def collective_ (s : State) (n size total : Nat) : Prop :=
  s.bulkHeld s.coreNo < 16 ∧ s.tileOf s.me 0 = none ∧ s.groupTile s.me.group = none ∧ s.unwatched ∧
    s.objAt s.me (s.block 4#5 3) = .inr (7, 0) ∧ s.mem.num (0x1FFC0 + 8) 2 = n ∧
    s.commCount (s.engineCtx s.me.group s.me.kern) (s.block 4#5 4) = n ∧ s.bulkRange s.me false (s.block 4#5 1) size = none ∧
    s.bulkRange s.me true (s.block 4#5 0) total = none ∧ s.readsAt (s.engineCtx s.me.group s.me.kern) (s.block 4#5 4) 16 0x1FFC0 ∧
    pieces 0 (2 * n) = [(0, 2 * n)] ∧
    s.readsAt (s.engineCtx s.me.group s.me.kern) (s.block 4#5 4 + BitVec.ofNat 64 (16 + 0)) (2 * n) 0x1FFD0 ∧
    s.engineAt (s.engineCtx s.me.group s.me.kern) false true (pathOf (s.block 4#5 4)) ((s.block 4#5 4).toNat % 2 ^ 57 + 12) 4 = .here 0x1FFCC 0 ∧
    ∀ j, j < n → s.mem.num (0x1FFD0 + 2 * j) 2 % 512 = 3 ∧ s.routeTo 3 ≠ none ∧ (s.engineCtx s.me.group s.me.kern).world = 0#10
/-- Hypotheses of Collectives: none active, a bad count, an engine with no room, an open tile, communicators of one and of two. -/
theorem witness_Collectives :
    ((collState 1 4#64).runs (.collReduce 4#5 1#2) ∧ (collState 1 4#64).first ((collState 1 4#64).on (.collReduce 4#5 1#2)) = none) ∧
    ((collState 1 0#64).runs (.collReduce 4#5 0#2) ∧ (collState 1 0#64).first ((collState 1 0#64).on (.collReduce 4#5 0#2)) ≠ none ∧
      ¬1 ≤ ((collState 1 0#64).block 4#5 2).toNat % 2 ^ 32) ∧
    (let s := { collState 1 16#64 with cores := [(0, { State.reset.core 0 with bulk := (List.range 16).map (fun k => (k, tBulk)) })] };
      s.runs (.collGather 4#5 0#2) ∧ s.first (s.on (.collGather 4#5 0#2)) ≠ none ∧ 16 ≤ s.bulkHeld s.coreNo) ∧
    (let s := collState 1 16#64; let s := { s with groups := [(7, { s.group 7 with tile := .open })] };
      s.runs (.collGather 4#5 0#2) ∧ s.first (s.on (.collGather 4#5 0#2)) = some 0 ∧ s.tileOf s.me 0 ≠ none) ∧
    (let s := collState 1 4#64;
      s.runs (.collReduce 4#5 0#2) ∧ s.first (s.on (.collReduce 4#5 0#2)) = some 0 ∧
        ((s.block 4#5 0).toNat % 16 = 0 ∧ (s.block 4#5 1).toNat % 16 = 0 ∧ (s.block 4#5 4).toNat % 64 = 0 ∧
          (s.block 4#5 2).toNat = 4) ∧ collective_ s 1 16 16) ∧
    (let s := collState 2 16#64;
      s.runs (.collGather 4#5 0#2) ∧ s.first (s.on (.collGather 4#5 0#2)) = some 0 ∧ (s.block 4#5 2).toNat = 16 ∧ collective_ s 2 16 32) :=
  ⟨⟨runs_of rfl, by decide⟩, ⟨runs_of rfl, by decide, by decide⟩, ⟨runs_of rfl, by decide, by decide⟩,
    ⟨runs_of rfl, by decide, by decide⟩,
    ⟨runs_of rfl, by decide, by decide, by decide, by decide, by decide, unwatched_of rfl, by decide, by decide, by decide, by decide, by decide,
      ⟨0, [(0x1FFC0, 1)], 0, by decide, by decide⟩, by decide, ⟨0, [(0x1FFD0, 1)], 0, by decide, by decide⟩, by decide, by decide⟩,
    runs_of rfl, by decide, by decide, by decide, by decide, by decide, unwatched_of rfl, by decide, by decide, by decide, by decide, by decide,
      ⟨0, [(0x1FFC0, 1)], 0, by decide, by decide⟩, by decide, ⟨0, [(0x1FFD0, 1)], 0, by decide, by decide⟩, by decide, by decide⟩

/-- An object at the foot of the scratchpad, under s9. -/
def objState : State := pState 1#32 [(9, tWarp.segSp.base)]
/-- Hypotheses of BarrierObjects: an operand that is the phase, 0, and one that is not. -/
theorem witness_BarrierObjects :
    objState.runs (.barInit S9 A 0#2) ∧ objState.runs (.barExpect 31#5 S9 A 0#2) ∧ objState.runs (.barArrive 31#5 S9 0#2) ∧
    objState.runs (.barWait S9 A 0#2) ∧ objState.runs (.barTest 15#4 S9 A 0#2) ∧
    (∀ l, objState.objAt objState.me (Lanes.at (objState.src64 false S9).lanes l) = .inr (7, 0)) ∧ objState.objClean (7, 0) ∧
    (∀ l, objState.phase 7 0 ≠ ((objState.srcB A).at l).toNat % 2 ^ 25) ∧
    (∀ l, (pState 0#32 [(9, tWarp.segSp.base)]).phase 7 0 = (((pState 0#32 [(9, tWarp.segSp.base)]).srcB A).at l).toNat % 2 ^ 25) ∧
    (∀ l, Mask.has (objState.on (.barTest 15#4 S9 A 0#2)) l = true → Mask.has objState.me.live (objState.me.standsFor l) = true) :=
  ⟨runs_of rfl, runs_of rfl, runs_of rfl, runs_of rfl, runs_of rfl, by decide, ⟨by decide, by decide⟩, by decide, by decide, by decide⟩
/-- Hypotheses of GroupBarriers: with a lane still to come and with all there. -/
theorem witness_GroupBarriers :
    (let s := { tState with bundle := 0x7FFFFFFF#32 };
      s.runs .barGroup ∧ s.runs .barCluster ∧
        ∃ e ∈ s.membersOf [s.me.group], ¬(Lanes.at (s.warp e.1).wait e.2 = .group ∨ (e.1 = s.cur ∧ Mask.has (s.real (s.on .barGroup)) e.2 = true))) ∧
    (tState.runs .barGroup ∧ tState.runs .barCluster ∧ tState.membersOf tState.myGang ≠ [] ∧ tState.me.group ∈ tState.myGang ∧
      (tState.groups.filter (fun e => e.1 == tState.me.group)).length = 1 ∧
      ∀ e ∈ tState.membersOf tState.myGang, Lanes.at (tState.warp e.1).wait e.2 = .cluster ∨
        (e.1 = tState.cur ∧ Mask.has (tState.real (tState.on .barCluster)) e.2 = true)) :=
  ⟨⟨runs_of rfl, runs_of rfl, by decide⟩, runs_of rfl, runs_of rfl, by decide, by decide, by decide, by decide⟩

/-! ### Witnesses: coroutines, services, launches -/

/-- Hypotheses of SuspensionsAndWakes. -/
theorem witness_SuspensionsAndWakes :
    (let s := frState 2#32 [(4, 0x80000001#64), (9, 0x1FFFC#64)] [(0, tRow 0#2 0#64 false 0)];
      (s.runs (.susp 4#5 63#6) ∧ s.runs (.suspTag 4#5 A 63#6) ∧ s.runs (.suspAddr 4#5 S9 63#6)) ∧
      ((s.sreg 4).setWidth 32 : Word).toNat / 2 ^ s.declared s.me = 0 ∧ s.untiled ∧ s.me.pend = [] ∧ (s.bin s.myFrame 63).busy = none ∧
      (among (s.real (s.on (.susp 4#5 63#6)))).length ≤ (s.bin s.myFrame 63).free.length ∧
      ∀ j, s.judge s.cur (s.instrNo s.cur) s.pc (s.xLoad S9) j = .go [.memory 0x1FFFC 4 0 0] ∧ s.freshSpots [.memory 0x1FFFC 4 0 0]) ∧
    (let s := frState 2#32 [(4, 1#64), (9, tWarp.segSp.base)] [];
      s.runs (.suspBar 4#5 S9 63#6) ∧ ∀ j, s.objAt s.me (Lanes.at (s.xAddr S9) j) = .inr (7, 0)) ∧
    (let s := frState 0#32 [(9, 0x1FFFC#64)] [(0, tRow 0#2 0#64 false 0), (1, tRow 2#2 0x1FFFC#64 false 0)];
      s.runs (.wake 3#5 A 63#6) ∧ s.runs (.wakePred 1#5 A 3#2 63#6) ∧ s.untiled ∧ (s.bin s.myFrame 63).busy = none ∧
        s.first (s.on (.wake 3#5 A 63#6)) = some 0 ∧ s.first (s.on (.wakePred 1#5 A 3#2 63#6)) = some 0 ∧ 1 < s.declared s.me ∧
        let i : Instr := .wakeAddr 3#5 S9 1#1 63#6;
        let x : Access := ⟨.store, 4, false, false, s.xAddr S9, perLane (s.dataOf 3 1), 0#3, 5#3, 0#3, false⟩;
        s.runs i ∧ s.free_ x (s.real (s.on i)) ∧
          (∀ l, (s.touched (s.accessLanes i)).judge s.cur (s.instrNo s.cur) s.pc x l = .go [.memory 0x1FFFC 4 0 0]) ∧
          homeSpots 0 [.memory 0x1FFFC 4 0 0] ∧ (∀ l, (Lanes.at (s.xAddr S9) l).toNat / 2 ^ 60 ≠ 3) ∧
          s.sound (s.real (s.on i)) (fun _ => [.memory 0x1FFFC 4 0 0])) := by
  refine ⟨⟨⟨runs_of rfl, runs_of rfl, runs_of rfl⟩, by decide, untiled_of (by decide), rfl, by decide, by decide, fun j => ⟨?_, ?_⟩⟩,
    ⟨runs_of rfl, by decide⟩, runs_of rfl, runs_of rfl, untiled_of (by decide), by decide, by decide, by decide, by decide, runs_of rfl,
    ⟨rfl, untiled_of (by decide), by decide, rfl, by decide⟩, by decide, ?_,
    by decide, ?_⟩
  · revert j; decide
  · simp only [State.freshSpots, List.mem_singleton, forall_eq]; decide
  · simp [homeSpots]
  · simp only [State.sound, List.mem_singleton, forall_eq]; decide

/-- Hypotheses of FrameEdits: a row of the tile, the last column declared, rows awake and none, a bin empty and not. -/
theorem witness_FrameEdits :
    (let s := frState 0x1F00#32 [] [(0, tRow 0#2 0#64 true 5), (1, tRow 0#2 0#64 false 0)];
      (s.bin s.myFrame 63).busy = none ∧ s.runs (.fld 3#5 A 63#6) ∧ s.first (s.on (.fld 3#5 A 63#6)) = some 0 ∧
        ((s.srcA A).at 0).toNat / 256 % 32 < s.declared s.me ∧ s.runs (.fst 3#5 A 63#6) ∧ s.first (s.on (.fst 3#5 A 63#6)) = some 0 ∧
        s.runs (.fxform 31#5 A 3#2 63#6) ∧ s.first (s.on (.fxform 31#5 A 3#2 63#6)) = some 0 ∧ s.runs (.fcount 3#5 63#6) ∧
        s.first (s.on (.fcount 3#5 63#6)) ≠ none ∧ s.runs (.binit 3#5 A 63#6) ∧ s.first (s.on (.binit 3#5 A 63#6)) = some 0 ∧
        s.runs (.resume 63#6) ∧ s.first (s.on (.resume 63#6)) ≠ none ∧
        (let e := (0, tRow 0#2 0#64 true 5); let b := s.bin s.myFrame 63;
          e ∈ b.rows ∧ e.2.awake = true ∧ ∀ x ∈ b.rows, x.2.awake = true → x = e ∨ e.2.woken < x.2.woken)) ∧
    (let s := frState 0#32 [] []; s.runs (.binit 3#5 A 63#6) ∧ (s.bin s.myFrame 63).rows.isEmpty = true ∧
      ∀ e ∈ (s.bin s.myFrame 63).rows, e.2.awake = false) ∧
    (let r := tRow 0#2 0#64 true 5; r.live.getLsbD 1 = true ∧ ((List.range 1).filter (fun j => r.live.getLsbD j)).length < r.regs.length) :=
  ⟨⟨by decide, runs_of rfl, by decide, by decide, runs_of rfl, by decide, runs_of rfl, by decide, runs_of rfl, by decide, runs_of rfl, by decide,
    runs_of rfl, by decide, by decide⟩, ⟨runs_of rfl, rfl, by decide⟩, by decide⟩

def tCall : Call := ⟨0, ~~~0#32, 3, 0#10, 0, 16, allLanesOf 0#32, allLanesOf 0#32, some 0, none, [], []⟩
/-- A slot that holds x, taken by group 7 or still to be taken. -/
def tSlot (ready : Bool) (x : RingItem) : Slot := ⟨0#16, ready, 0, some x, if ready then none else some 7⟩
def savedState : State :=
  { ringState true [(0, tSlot false (.record tRecord))] [] [(4, 0x8000000000000000#64)] with
    warps := [(0, tWarp), (1, sysWarp)]
    grids := [(3, { tGrid with record := { tGrid.record with regs := 0 } })]
    mem := savedMem }
theorem readBack_saved : ∃ w, savedState.readBack 1 (savedState.unedited 1) = some w ∧ w.waiting = [] ∧ w.returned = [] ∧
    w.trap = false := by
  obtain ⟨x, h, h1, h2, h3, -⟩ := readBack_image sysWarp
  exact ⟨x, h savedState _ (by rw [savedState]) rfl rfl rfl, h1, h2, h3⟩
/-- Hypotheses of ServiceCalls: a svc with no lane, an argument past 16 bits, a reserved code, no ring, and one filed; srecv with nothing
ready and with a record; srep with no lane, a stale handle, a call, a record that acts on nothing, and one of a stopped warp. -/
theorem witness_ServiceCalls :
    (let s (on : Bool) (x : DWord) : State := ringState on [] [] [(9, x)]; let i : Instr := .svc 31#5 9#5 A 0#2;
      ((s true 16#64).runs (.svc 31#5 9#5 A 1#2) ∧ (s true 16#64).real ((s true 16#64).on (.svc 31#5 9#5 A 1#2)) = 0#32) ∧
      ((s true 16#64).runs i ∧ (s true 16#64).untiled ∧ (s true 16#64).real ((s true 16#64).on i) ≠ 0#32 ∧
        ((s true 16#64).ring (s true 16#64).me.die).on = true) ∧
      ((s true 0x10000#64).runs i ∧ 2 ^ 16 ≤ ((s true 0x10000#64).sreg 9).toNat) ∧
      ((s true 15#64).runs i ∧ ((s true 15#64).sreg 9).toNat < 16) ∧
      ((s false 16#64).runs i ∧ ((s false 16#64).ring (s false 16#64).me.die).on = false)) ∧
    (let s := ringState true [] [] [];
      s.runs (.srecv 15#4 29#5 0#2) ∧ s.first (s.on (.srecv 15#4 29#5 0#2)) = some 0 ∧ s.nextRecord s.me.die = none) ∧
    (let s := ringState true [(0, tSlot true (.call 5))] [(5, tCall)] [];
      s.runs (.srecv 15#4 1#5 0#2) ∧ s.first (s.on (.srecv 15#4 1#5 0#2)) = some 0 ∧ s.nextRecord s.me.die = some 0 ∧
        (∃ e, s.frontCan (2 ^ 53 + s.me.die) s.sysCtx ((s.ring s.me.die).addr 0) 4 = .bytes e) ∧
        ∃ b, s.frontGet (2 ^ 53 + s.me.die) s.sysCtx ((s.ring s.me.die).addr 0) 320 = .bytes b) ∧
    (let s := ringState true [(0, tSlot false (.call 5))] [(5, tCall)] [(4, 0x8000000000000000#64)]; let h := (s.sreg 4).toNat;
      let i : Instr := .srep 1#4 4#5 S9;
      s.runs i ∧ s.real (s.on i) ≠ 0#32 ∧ h / 2 ^ 63 = 1 ∧ ((s.ring s.me.die).slot (h % 2 ^ 12)).gen.toNat = h / 2 ^ 32 % 2 ^ 16 ∧
        ((s.ring s.me.die).slot (h % 2 ^ 12)).owed = some s.me.group ∧
        ((s.ring s.me.die).slot (h % 2 ^ 12)).filing = some (.call 5) ∧ mapFind (s.ring s.me.die).calls 5 = some tCall ∧
        s.runs (.srep 1#4 3#5 S9) ∧ (s.sreg 3).toNat / 2 ^ 63 ≠ 1) ∧
    (let s := { ringState true [] [] [] with warps := [(0, { tWarp with real := 0#32 })] };
      s.runs (.srep 1#4 4#5 S9) ∧ s.real (s.on (.srep 1#4 4#5 S9)) = 0#32) ∧
    (let s := ringState true [(0, tSlot false (.record { tRecord with code := 3 }))] [] [(4, 0x8000000000000000#64)];
      s.runs (.srep 0#4 4#5 S9) ∧ ((s.ring s.me.die).slot 0).filing = some (.record { tRecord with code := 3 })) ∧
    (let s := savedState; let i : Instr := .srep 0#4 4#5 S9;
      s.runs i ∧ s.real (s.on i) ≠ 0#32 ∧ ((s.ring s.me.die).slot 0).filing = some (.record tRecord) ∧
        ((s.ring s.me.die).slot 0).owed = some s.me.group ∧ tRecord.code = 0 ∧ tRecord.warp = some 1 ∧ 1 ≠ s.cur ∧
        (s.warp 1).place = .system ∧ (s.group (s.warp 1).group).status = .running ∧ ((s.srcB S9).at 0).toNat < 2 ∧
        ∃ w, s.readBack 1 (s.unedited 1) = some w ∧ w.waiting = [] ∧ w.returned = [] ∧ w.trap = false) :=
  ⟨⟨⟨runs_of rfl, by decide⟩, ⟨runs_of rfl, untiled_of (by decide), by decide, by decide⟩, ⟨runs_of rfl, by decide⟩,
      ⟨runs_of rfl, by decide⟩, runs_of rfl, by decide⟩,
    ⟨runs_of rfl, by decide, by decide⟩, ⟨runs_of rfl, by decide, by decide, ⟨_, rfl⟩, _, rfl⟩,
    ⟨runs_of rfl, by decide, by decide, by decide, by decide, by decide, by decide, runs_of rfl, by decide⟩, ⟨runs_of rfl, by decide⟩,
    ⟨runs_of rfl, by decide⟩, runs_of rfl, by decide, by decide, by decide, rfl, rfl, by decide, by decide, by decide, by decide,
    readBack_saved⟩

/-! ### Witnesses: launches, control cores, the matrix engine -/

/-- Queue 31 bound in user mode too to the descriptor at 0x10000. -/
def queueState (bind q x : DWord) : State :=
  let s := pState 0#32 [(9, q), (10, x)]
  { s with front := { s.front with qbind := s.front.qbind.set 31 bind } }
/-- The words of a launch, which die 0 has as many of as n accepted ones. -/
def launchState (n : Nat) (l : List (Nat × DWord)) : State :=
  let s := pState 0#32 l
  { s with grids := s.grids ++ (List.range n).map (fun k => (k + 4, { Grid.empty with status := .accepted })) }
/-- A control section, a request for an object in member 0, and 64 entries of this kind. -/
def mreqState (e : TEntry) : State :=
  let s := pState 0#32 [(4, 5#64), (5, tWarp.segCl.base + 16#64), (6, 3#64)]
  let r := (s.grid 3).record
  { s with
    grids := [(3, { s.grid 3 with record := { r with ctrlpc := 0x800#32 } })]
    clusters := [(0, { Cluster.empty with turn := Vector.replicate 64 e })] }
/-- Hypotheses of Requests: a number past the queues, a queue not bound, one bound; addresses out of line, a full list and one with
room; verdict; a Turnstile that is full and one that is not. -/
theorem witness_Requests :
    (let i : Instr := .qpost 9#5 10#5 0#2;
      ((queueState 0#64 32#64 5#64).runs i ∧ (queueState 0#64 32#64 5#64).first ((queueState 0#64 32#64 5#64).on i) = some 0) ∧
      ((queueState 0#64 31#64 5#64).runs i ∧ ((queueState 0#64 31#64 5#64).qbind 31#5).getLsbD 63 = false) ∧
      (let s := queueState 0xA000000000010000#64 31#64 5#64; let b := s.qbind 31#5; let a := descOf b + 16;
        s.runs i ∧ (s.sreg 9).toNat < 32 ∧ s.untiled ∧ b.getLsbD 63 = true ∧ b.getLsbD 61 = true ∧
          (∃ e, s.frontCan (2 ^ 51 + 31) s.sysCtx a 8 = .bytes e) ∧ (∃ d, s.frontGet (2 ^ 51 + 31) s.sysCtx a 8 = .bytes d) ∧
          s.physical s.sysCtx true a = some 0x10010)) ∧
    (let i : Instr := .launch 31#5 28#5 0#2; let good := [(28, 0x80#64), (29, 8#64), (30, 32#64), (31, 0xFFFFFFFF#64)];
      ((launchState 0 []).runs i ∧ (launchState 0 []).first ((launchState 0 []).on i) = some 0 ∧ ¬0 < ((launchState 0 []).sreg 31).toNat) ∧
      (let s := launchState 255 good;
        s.runs i ∧ s.untiled ∧ (s.sreg 28).toNat % 128 = 0 ∧ (s.sreg 29).toNat % 8 = 0 ∧ (s.sreg 30).toNat % 32 = 0 ∧
          0 < (s.sreg 31).toNat ∧ (s.sreg 31).toNat < 2 ^ 32 ∧
          ¬256 ≤ (s.grids.filter (fun e => e.2.status == .accepted && e.2.list == s.me.die)).length) ∧
      (let s := launchState 256 good;
        s.runs i ∧ s.untiled ∧ 256 ≤ (s.grids.filter (fun e => e.2.status == .accepted && e.2.list == s.me.die)).length)) ∧
    (withGroup (fun g => { g with tile := .open })).runs (.verdict A) ∧
    (let i : Instr := .mreq 31#5 4#5 0#2; let s := mreqState TEntry.empty;
      s.runs i ∧ s.first (s.on i) = some 0 ∧ s.objAt s.me (s.sreg 5) = .inr (7, 16) ∧ s.gangSize s.myGroup ≤ 4 ∧
        ∃ e : BitVec 6, ((s.cluster 0).entry e).valid = false) ∧
    (let i : Instr := .mreq 31#5 4#5 0#2; let s := mreqState { TEntry.empty with word1 := BitVec.twoPow 64 21 };
      s.runs i ∧ s.first (s.on i) = some 0 ∧ ∀ e : BitVec 6, ((s.cluster 0).entry e).valid = true) :=
  ⟨⟨⟨runs_of rfl, by decide⟩, ⟨runs_of rfl, by decide⟩,
      ⟨runs_of rfl, by decide, untiled_of (by decide), by decide, by decide, ⟨_, rfl⟩, ⟨_, rfl⟩, by decide⟩⟩,
    ⟨⟨runs_of rfl, by decide, by decide⟩,
      ⟨runs_of rfl, untiled_of (by decide), by decide, by decide, by decide, by decide, by decide, by decide⟩,
      ⟨runs_of rfl, untiled_of (by decide), by decide⟩⟩,
    runs_of rfl, ⟨runs_of rfl, by decide, by decide, by decide, 0#6, by decide⟩, runs_of rfl, by decide, by decide⟩

/-- Hypotheses of StreamOperations: taken and not, inside the control section, before it and past the image; a value that dset
refuses. -/
theorem witness_StreamOperations :
    (∀ e ∈ streamOps, (kState [] id).controls 0 (e.1 31#5 1#5 2#5 0x20#6)) ∧ (kState [] id).controls 0 (.kmov 31#5 0#5) ∧
    (kState [] id).controls 0 (.kmovi 31#5 0xFFFF#16) ∧
    (∀ e ∈ streamCompares, (kState [] id).controls 0 (.kcmp 31#5 1#5 2#5 e.1)) ∧
    (let s := kState [(1, 1#64)] id; let c := s.cluster 0; let r := s.controlRecord c;
      s.controls 0 (.kbra 1#5 1#16) ∧ c.kreg 1#5 ≠ 0#64 ∧ c.kreg 2#5 = 0#64 ∧ r.ctrlpc.toNat ≤ (c.pc + 4#32 * 1#32).toNat ∧
        (c.pc + 4#32 * 1#32).toNat < r.codelen.toNat ∧ s.controls 0 (.kbra 0#5 0x400#16) ∧
        r.codelen.toNat ≤ (c.pc + 4#32 * 0x400#32).toNat) ∧
    (let s := kState [(1, 512#64), (2, 513#64)] id; let c := s.cluster 0;
      s.controls 0 (.dset 31#5 1#5 1#6) ∧ (∃ x, (c.desc 31#5).set 1 (c.kreg 1#5) = some x) ∧ s.controls 0 (.dset 31#5 2#5 1#6) ∧
        (c.desc 31#5).set 1 (c.kreg 2#5) = none ∧ s.controls 0 (.dmov 31#5 0#5)) := by
  refine ⟨controls_all streamOps (fun e => e.1 31#5 1#5 2#5 0x20#6) rfl,
    controls_of rfl, controls_of rfl,
    controls_all streamCompares (fun e => .kcmp 31#5 1#5 2#5 e.1) rfl,
    ⟨controls_of rfl, by decide, by decide, by decide, by decide, controls_of rfl, by decide⟩, controls_of rfl, ⟨_, rfl⟩,
    controls_of rfl, by decide, controls_of rfl⟩

/-- Hypotheses of StreamAccesses: a scratchpad that an operation reads, one with a bad sector and one with none; memory; an object
whose phase is the operand and one whose is not. -/
theorem witness_StreamAccesses :
    (let a := tWarp.segCl.base + 4092#64;
      let op : MatOp := { MatOp.new .load 0 with a := ⟨0x010203F800000FF0#64, 0#64⟩ };
      (let s := kState [(1, a)] id; let c := s.cluster 0;
        s.controls 0 (.kld 31#5 1#5 0#1 0#6) ∧ s.controlAim c (c.kreg 1#5 + (0#6).signExtend 64 * BitVec.ofNat 64 4) 4 false = .scratch 7 4092 ∧
          s.opsTouch c 7 4092 4 = false ∧ (s.group 7).sectorBad 4092 4 = false ∧ s.racy c.agent 4 0 false (objLoc (7, 4092)) 4 = false ∧
          s.controls 0 (.kst 31#5 1#5 0#1 0#6) ∧
          s.controlAim c (c.kreg 1#5 + (0#6).signExtend 64 * BitVec.ofNat 64 4) 4 true = .scratch 7 4092 ∧
          s.racy c.agent 4 0 true (objLoc (7, 4092)) 4 = false) ∧
      (let s := { kState [(1, a)] id with groups := [(7, { (pState 0#32 []).group 7 with spPoison := [127] })] }; let c := s.cluster 0;
        s.controls 0 (.kld 31#5 1#5 0#1 0#6) ∧ s.opsTouch c 7 4092 4 = false ∧ (s.group 7).sectorBad 4092 4 = true) ∧
      (let s := kState [(1, a)] (fun c => { c with queues := [(0, [op])] }); let c := s.cluster 0;
        s.controls 0 (.kld 31#5 1#5 0#1 0#6) ∧ s.opsTouch c 7 4092 4 = true)) ∧
    (let s := kState [(1, 0x1FFF8#64)] id; let c := s.cluster 0; let x := s.controlCtx 0;
      s.controls 0 (.kld 31#5 1#5 1#1 0#6) ∧ s.controls 0 (.kst 31#5 1#5 1#1 0#6) ∧
        s.controlAim c (c.kreg 1#5 + (0#6).signExtend 64 * BitVec.ofNat 64 8) 8 false = .ranges 0 0x1FFF8 ∧
        s.controlAim c (c.kreg 1#5 + (0#6).signExtend 64 * BitVec.ofNat 64 8) 8 true = .ranges 0 0x1FFF8 ∧
        s.place x 0 false 0x1FFF8 = .memory 0x1FFF8 0 ∧ s.place x 0 true 0x1FFF8 = .memory 0x1FFF8 0 ∧
        s.lineState x.world 0 0x1FFF8 = .good ∧ s.mem.poisoned 0x1FFF8 8 = false ∧ s.racy c.agent 0 0 false 0x1FFF8 8 = false ∧
        s.storePoison x.world 0 0x1FFF8 [(0x1FFF8, 8)] = false ∧ s.racy c.agent 0 0 true 0x1FFF8 8 = false ∧ s.unwatched) ∧
    (let s := kState [(1, tWarp.segCl.base), (2, 1#64)] id; let c := s.cluster 0;
      s.controls 0 (.kwait 1#5 0#5) ∧ s.controls 0 (.kwait 1#5 2#5) ∧ s.controlObj c (c.kreg 1#5) = .inr (7, 0) ∧
        s.phase 7 0 = (c.kreg 0#5).toNat % 2 ^ 25 ∧ s.phase 7 0 ≠ (c.kreg 2#5).toNat % 2 ^ 25 ∧ s.objCause 7 0 = 0) := by
  refine ⟨⟨⟨controls_of rfl, rfl, by decide, by decide, by decide, controls_of rfl, rfl, by decide⟩,
    ⟨controls_of rfl, by decide, by decide⟩, controls_of rfl, by decide⟩,
    ⟨controls_of rfl, controls_of rfl, rfl, rfl, by decide, by decide, by decide, by decide, by decide, by decide, by decide,
      unwatched_of rfl⟩, controls_of rfl, controls_of rfl, by decide, by decide, by decide, by decide⟩

/-- An entry that is pending or taken, with this priority and age. -/
def tEntry (taken : Bool) (prio age : Nat) : TEntry :=
  { TEntry.empty with
    payload := 5#64
    word1 := BitVec.ofNat 64 (2 ^ 21 + (if taken then 2 ^ 22 else 0) + 16)
    word2 := BitVec.ofNat 64 (age * 2 ^ 32 + prio * 64) }
/-- The stream of kState when its gang has exited. -/
def exitState (f : Cluster → Cluster) : State :=
  let s := kState [] f
  { s with groups := [(7, { s.group 7 with status := .exiting })] }
/-- Hypotheses of Turnstile: a choice by priority and one by age; none pending, with the gang there, exited with a request taken, and
exited with none; a bad handle, operations running, a recorded fault, and an answer. -/
theorem witness_Turnstile :
    (let s := kState [] (fun c => { c with turn := (c.turn.set 0 (tEntry false 2 4096)).set 63 (tEntry false 3 0) }); let c := s.cluster 0;
      s.controls 0 (.mtake 15#4) ∧ s.controls 0 (.mtakeNw 1#4) ∧ ((c.entry 63#6).valid = true ∧ (c.entry 63#6).taken = false) ∧
        ∀ k : BitVec 6, ((c.entry k).valid = true ∧ (c.entry k).taken = false) → k ≠ 63#6 →
          preferred ((List.range 64).any (fun k => (c.entry (BitVec.ofNat 6 k)).valid && !(c.entry (BitVec.ofNat 6 k)).taken
            && decide (4096 < (c.entry (BitVec.ofNat 6 k)).age))) (c.entry 63#6) (c.entry k) 63 k.toNat) ∧
    (let s := kState [] (fun c => { c with turn := (c.turn.set 0 (tEntry false 2 4097)).set 63 (tEntry false 3 0) }); let c := s.cluster 0;
      ∀ k : BitVec 6, ((c.entry k).valid = true ∧ (c.entry k).taken = false) → k ≠ 0#6 →
          preferred ((List.range 64).any (fun k => (c.entry (BitVec.ofNat 6 k)).valid && !(c.entry (BitVec.ofNat 6 k)).taken
            && decide (4096 < (c.entry (BitVec.ofNat 6 k)).age))) (c.entry 0#6) (c.entry k) 0 k.toNat) ∧
    (let s := kState [] id; let c := s.cluster 0;
      s.controls 0 (.mtake 15#4) ∧ s.controls 0 (.mtakeNw 15#4) ∧ (∀ k : BitVec 6, (c.entry k).valid = false ∨ (c.entry k).taken = true) ∧
        s.gangExited c = false) ∧
    (let s := exitState (fun c => { c with turn := c.turn.set 5 (tEntry true 0 0) }); let c := s.cluster 0;
      s.controls 0 (.mtake 15#4) ∧ (∀ k : BitVec 6, (c.entry k).valid = false ∨ (c.entry k).taken = true) ∧ s.gangExited c = true ∧
        ∃ k : BitVec 6, (c.entry k).taken = true) ∧
    (let s := exitState id; let c := s.cluster 0;
      s.controls 0 (.mtake 15#4) ∧ s.gangExited c = true ∧ ∀ k : BitVec 6, (c.entry k).valid = false ∧ (c.entry k).taken = false) ∧
    (let s := kState [] id; s.controls 0 (.mdone 31#5) ∧ ¬((s.cluster 0).kreg 31#5).getLsbD 63 = true) ∧
    (let s (f : Cluster → Cluster) := kState [(1, 0x800000000000003F#64)] (fun c => f { c with turn := c.turn.set 63 (tEntry true 0 0) });
      let c (f : Cluster → Cluster) := (s f).cluster 0;
      ((s id).controls 0 (.mdone 1#5) ∧ ((c id).kreg 1#5).getLsbD 63 = true ∧ ((c id).entry 63#6).valid = true ∧
        ((c id).entry 63#6).taken = true ∧ ((c id).kreg 1#5).setWidth 6 = 63#6 ∧ (c id).ops = [] ∧ (c id).accFault = [] ∧
        (s id).gangMember (c id) ((c id).entry 63#6).omember = some 7) ∧
      (let f := fun (c : Cluster) => { c with queues := [(5, [MatOp.new .zero 11])] };
        (s f).controls 0 (.mdone 1#5) ∧ (c f).ops ≠ []) ∧
      (let f := fun (c : Cluster) => { c with accFault := [(11, .poison, 5)] };
        (s f).controls 0 (.mdone 1#5) ∧ (c f).ops = [] ∧ (c f).accFault = (11, .poison, 5) :: [])) := by
  refine ⟨⟨controls_of rfl, controls_of rfl, by decide, ?_⟩, ?_, ⟨controls_of rfl, controls_of rfl, by decide, by decide⟩,
    ⟨controls_of rfl, by decide, by decide, 5#6, by decide⟩, ⟨controls_of rfl, by decide, by decide⟩, ⟨controls_of rfl, by decide⟩,
    ⟨controls_of rfl, by decide, by decide, by decide, by decide, by decide, by decide, by decide⟩, ⟨controls_of rfl, by decide⟩,
    controls_of rfl, by decide, by decide⟩ <;> simp only [preferred] <;> decide

/-- Hypotheses of MatrixQueues: a store that counts no request, a recorded fault of the second of a pair, a check that fails, a queue
of three operations, and one of two. -/
theorem witness_MatrixQueues :
    (let s := kState [(1, 0x8000000000000005#64)] id; let i : Instr := .accStore 11#5 31#5 1#5;
      (∃ o chk pair, s.opOf 0 i = some (o, chk, pair) ∧ o.request = some 5) ∧ s.controls 0 i ∧
        ((s.cluster 0).entry (BitVec.ofNat 6 5)).valid = false) ∧
    (let s := kState [] (fun c => { c with accFault := [(11, .poison, 5)] }); let i : Instr := .mmaF64 5#4 1#5 2#5 0#6;
      (∃ o chk, s.opOf 0 i = some (o, chk, true) ∧ o.acc + 1 = 11 ∧ o.request = none) ∧ s.controls 0 i ∧
        mapFind (s.cluster 0).accFault 11 = some (.poison, 5) ∧ mapFind (s.cluster 0).accFault 10 = none) ∧
    (let s := kState [] id; let i : Instr := .mma 11#5 1#5 2#5 63#6;
      (∃ o, s.opOf 0 i = some (o, some .fmt, false)) ∧ s.controls 0 i) ∧
    (let s (n : Nat) := kState [] (fun c => { c with queues := [(5, (List.range n).map (fun _ => MatOp.new .zero 11))] });
      let i : Instr := .accZero 11#5;
      ((s 3).opOf 0 i = some (MatOp.new .zero 11, none, false) ∧ (s 3).controls 0 i ∧ 3 ≤ (((s 3).cluster 0).queue 5).length) ∧
      ((s 2).opOf 0 i = some (MatOp.new .zero 11, none, false) ∧ (s 2).controls 0 i ∧ (((s 2).cluster 0).queue 5).length < 3)) :=
  ⟨⟨⟨_, _, _, rfl, rfl⟩, controls_of rfl, by decide⟩, ⟨⟨_, _, rfl, rfl, rfl⟩, controls_of rfl, by decide, by decide⟩,
    ⟨⟨_, rfl⟩, controls_of rfl⟩, ⟨rfl, controls_of rfl, by decide⟩, rfl, controls_of rfl, by decide⟩

/-! ### Witnesses: events of the scheduler, of traps and of pre-emption -/

/-- A state whose warp 0 waits for x. -/
def waiting (s : State) (x : Wait) : State := { s with warps := [(0, { s.warp 0 with wait := allLanesOf x })] }
/-- A loop that a backward branch at p closes, with a count. -/
def tLoop (p : Word) (n : Nat) : Loop := ⟨p, 0x10#32, n, true, [0x800], [], []⟩
/-- Hypotheses of SchedulerEvents. -/
theorem witness_SchedulerEvents :
    (tState.me.withheld = 0#32 ∧ tState.me.formed + 8 ≤ { tState with cc := 8 }.cc ∧ { tState with cc := 7 }.cc < tState.me.formed + 8 ∧
      (withWarp (fun w => { w with withheld := 1#32 })).me.withheld ≠ 0#32) ∧
    (let l : List (Nat × Nat × Bundle) := [(0, 0, ⟨1#32, 0, 63, false⟩), (0, 1, ⟨2#32, 0, 64, false⟩)];
      ∃ x ∈ l, ∃ y, tState.chosen l = some y ∧ 64 ≤ x.2.2.passed) ∧
    (let w (n : Nat) := { tWarp with gov := { Governor.empty with loops := [tLoop 0x40#32 n, tLoop 0x80#32 255] } };
      (∃ l, l ∈ (w 256).gov.loops ∧ 256 ≤ l.count ∧ ∀ j ∈ (w 256).gov.loops, 256 ≤ j.count → j = l) ∧ (w 256).gov.demoted = false ∧
        ∀ l ∈ (w 255).gov.loops, l.count < 256) ∧
    (let s := { withWarp (fun w => { w with gov := { Governor.empty with demoted := true } }) with cc := 65536 };
      (s.warp 0).gov.demoted = true ∧ (s.warp 0).gov.since + 65536 ≤ s.cc) ∧
    (let s := withWarp (fun w => { w with fast := true }); (s.warp 0).fast = true ∧ s.slowRoom 0 = true) ∧
    (let s := { tState with warps := (0, tWarp) :: (List.range 15).map (fun k => (k + 1, { Warp.empty with fast := true, pos := k })) };
      (s.warp 0).fast = false ∧ (s.warp 0).place = .running ∧ (∀ e ∈ s.activeSet 0 0, e.2.pos ≠ 15) ∧
        (∀ q < 15, ∃ e ∈ s.activeSet 0 0, e.2.pos = q) ∧ s.fastRoom 0 = true) ∧
    (let s := withWarp (fun w => { w with wait := allLanesOf .group });
      (s.group 7).status = .running ∧ s.isServer 3 = false ∧ s.launchWaits 3 = true ∧ s.hasOutside 3 = true) ∧
    tState.groupWaits 7 = false ∧
    (let s := withWarp (fun w => { w with pend := [tPend] });
      (s.warp 0).place = .running ∧ (s.warp 0).pend = [tPend] ∧ (s.warp 0).frozen tPend = false ∧ tPend.lanes &&& ~~~tPend.got = 0#32 ∧ tPend.lanes ≠ 0#32 ∧
        ∀ i, Mask.has tPend.lanes i = true → Lanes.at tPend.left i = 0) ∧
    (let s := waiting (pState 0#32 []) (.addr 0x1FFFC#64 5#32);
      (s.warp 0).place ≠ .gone ∧ ∀ i a x, Mask.has (s.warp 0).live i = true → Lanes.at (s.warp 0).wait i = .addr a x →
        s.waitRead 0 i a = .word 0#32) ∧
    (let s := waiting (pState 0#32 []) (.bar tWarp.segSp.base 1#32);
      ∀ i a x, Mask.has (s.warp 0).live i = true → Lanes.at (s.warp 0).wait i = .bar a x →
        s.objAt (s.warp 0) a = .inr (7, 0) ∧ (s.phase 7 0 = x.toNat % 2 ^ 25 ∨ s.objClean (7, 0))) := by
  refine ⟨by decide, ⟨_, List.mem_cons_of_mem _ (List.mem_singleton.2 rfl), _, rfl, by decide⟩, ⟨⟨_, List.mem_cons_self, by decide⟩, by decide⟩, by decide, by decide, by decide, by decide, by decide, by decide,
    ⟨by decide, fun i a x _ e => ?_⟩, fun i a x _ e => ?_⟩
  · have h := (replicate_at _ i).symm.trans e
    cases h; revert i; decide
  · have h := (replicate_at _ i).symm.trans e
    cases h; exact ⟨by decide, .inr ⟨by decide, by decide⟩⟩

/-! ### Witnesses: events of traps and of pre-emption -/

def tTraps' : List (Lane × Trap) := [(5, Trap.plain .idiv0)]
/-- The warp with one trap waiting, whose launch handles its cause in a mode. -/
def trapping (mode : Nat) (f : Warp → Warp) : State :=
  let s := withRecord (fun r => { r with traps := r.traps.set! Cause.idiv0.code.toNat (BitVec.ofNat 64 (0x40 * 2 ^ 32 + mode)) })
  { s with warps := [(0, f { tWarp with waiting := tTraps' })] }
/-- A row of lane 3 of warp 0, and bins of n such rows that have waited for age cc. -/
def tTrapRow (age : Nat) : TrapRow :=
  ⟨[(5#32, 0#4), (6#32, 1#4)], 0x40#32, 0#32, 0#64, ⟨0, 0#2, 0#7, 0#6, 3#5, 0#10⟩, 0#32, 0#32, 0#4, 0#15, Hints.empty, 0, age, none, []⟩
def tBin (n age : Nat) (forming : Bool) : TrapBin := ⟨0#10, 3, 0x40#32, .idiv0, (List.range n).map (fun _ => tTrapRow age), forming⟩
def binned (d : Nat) (l : Map TrapBin) (s : State) : State := { s with dies := s.dies ++ [(d, { s.die d with bins := l })] }
/-- A device with a handler warp on every core. -/
def busy : State := { tState with
  warps := (List.range 128).map (fun k => (k, { tWarp with handler := true, core := k })) }
/-- A load of a word of page 0x10000 that lane 31 has logged. -/
def tLogged : Pend := { tPend with
  segs := tWarp.segs, lanes := ~~~0#32, got := 0x7FFFFFFF#32, logged := 0x80000000#32, acc := tAccess .load 4 false 0x1FFFC#64 }
/-- Hypotheses of TrapEvents. -/
theorem witness_TrapEvents :
    (let s := trapping 1 id; let w := s.warp 0;
      w.place = .running ∧ w.late = [] ∧ w.waiting ≠ [] ∧ w.trap = false ∧ w.handler = false ∧ s.allMode w w.waiting 1 0x40#32 ∧
        s.reserveFree w.die w.core = true) ∧
    (let s := trapping 0 id; let w := s.warp 0;
      w.place = .running ∧ w.late = [] ∧ w.waiting ≠ [] ∧ s.allMode w w.waiting 0 0#32) ∧
    (let s := trapping 2 (fun w => { w with waiting := [], filing := tTraps' }); let w := s.warp 0;
      w.pend = [] ∧ w.filing = tTraps' ∧
        (s.die w.die).binFor (s.grid (s.group w.group).grid).world (s.group w.group).grid (s.handler w .idiv0) .idiv0 = some 0) ∧
    (let s := binned 0 ((List.range 256).map (fun n => (n, tBin 32 0 false))) (trapping 2 (fun w => { w with filing := tTraps' }));
      let w := s.warp 0;
      w.pend = [] ∧ w.filing = tTraps' ∧
        (s.die w.die).binFor (s.grid (s.group w.group).grid).world (s.group w.group).grid (s.handler w .idiv0) .idiv0 = none ∧
        (s.die w.die).oldestBin = some 0 ∧ mapFind (s.die w.die).bins 0 = some (tBin 32 0 false)) ∧
    (let s := binned 0 [(255, tBin 32 0 false)] tState;
      mapFind (s.die 0).bins 255 = some (tBin 32 0 false) ∧ s.stoppedOn 3 0 = false ∧ 32 ≤ (tBin 32 0 false).rows.length ∧
        s.handlerCore 0 (tBin 32 0 false) = some 0) ∧
    (let s := binned 3 [(0, tBin 31 0 false)] tState;
      mapFind (s.die 3).bins 0 = some (tBin 31 0 false) ∧ (tBin 31 0 false).rows.length < 32 ∧ s.starved (tBin 31 0 false) = false ∧
        (binned 0 [(0, tBin 31 0 true)] (withGroup (fun g => { g with status := .preempted }))).stoppedOn 3 0 = true ∧
        s.handlerCore 3 (tBin 31 0 true) = some 0) ∧
    (let s := binned 3 [(0, tBin 31 2048 false)] tState; let b := tBin 31 2048 false;
      mapFind (s.die 3).bins 0 = some b ∧ b.rows ≠ [] ∧ s.binWindow b ≤ b.age ∧ s.stoppedOn b.grid 3 = false ∧ (∀ d < 4, d ≠ 3 → (s.die d).bins = []) ∧
        s.handlerCore 3 { b with forming := true } = some 0) ∧
    (let s := binned 0 [(1, tBin 30 2048 false)] (binned 2 [(7, tBin 3 0 false)] busy); let b := tBin 30 2048 false;
      mapFind (s.die 0).bins 1 = some b ∧ b.rows ≠ [] ∧ s.binWindow b ≤ b.age ∧ s.stoppedOn b.grid 0 = false ∧ (s.die 2).bins = [(7, tBin 3 0 false)] ∧
        (∀ d < 4, d ≠ 0 → d ≠ 2 → (s.die d).bins = []) ∧
        s.handlerCore 0 { b with rows := b.rows ++ (tBin 3 0 false).rows.take 2, forming := true } = none) ∧
    (let s := binned 0 [(1, tBin 30 2047 false)] tState; (tBin 30 2047 false).age < s.binWindow (tBin 30 2047 false) ∧ (tBin 0 0 false).rows = []) ∧
    (let r : Returning := ⟨(tTrapRow 0).origin, [(1#32, 0#4)], 0#32, 0#32, 0#64, 0#32, 0#32, 0#4, 0#15, Hints.empty, 0x40#32, 0x44#32, []⟩;
      let s (p : Residence) := { withWarp (fun w => { w with detached := 8#32, place := p }) with returning := [(9, r)] };
      (mapFind (s .running).returning 9 = some r ∧ ((s .running).warp 0).place = .running ∧
        Mask.has (((s .running).warp 0).live &&& ((s .running).warp 0).detached) 3 = true) ∧
      (mapFind (s .evicted).returning 9 = some r ∧ ((s .evicted).warp 0).place ≠ .running ∧ ((s .evicted).warp 0).place ≠ .gone)) ∧
    (tState.me.late = [] ∧ tState.me.ckpt.issued = tState.me.issued ∧ (withWarp (fun w => { w with place := .evicted })).me.place ≠ .running) ∧
    (let s := trapping 0 (fun w => { w with late := [⟨31, .idiv0, 0#64, 0#32⟩] }); let w := s.warp 0;
      w.late ≠ [] ∧ w.place = .running ∧ w.ckpt.pend = [] ∧ (∀ x ∈ w.late, (s.table w x.cause).1 = 0) ∧
        ∃ x ∈ w.late, Mask.has (w.live &&& ~~~w.detached) x.lane = true) ∧
    (let s := pState 0#32 []; let s := { s with warps := [(0, { s.warp 0 with pend := [tLogged] })] }; let p := tLogged;
      let r := (s.modWarp 0 (fun w => w.withSegs p.segs)).accessAll 0 p.id p.instr p.pc p.acc (laneBit 31) p.stored;
      (s.warp 0).place = .running ∧ (s.warp 0).pend = [p] ∧ p.logged = laneBit 31 ∧ p.held = 0#32 ∧ Mask.has p.lanes 31 = true ∧
        (∀ j, p.acc.kind ≠ .copy j) ∧ p.acc.scalar = false ∧ p.acc.size = 4 ∧ p.vals = [allLanesOf 6#32] ∧ p.dests ≠ [] ∧
        s.atHart 0 p.id 31 = false ∧ r.traps = [] ∧ Mask.has r.logged 31 = false ∧ Mask.has r.remote 31 = false ∧
        (r.st.warp 0).pend = [p] ∧ (r.st.warp 0).deferred = []) := by
  refine ⟨⟨rfl, rfl, by decide, rfl, rfl, by simp only [State.allMode]; decide, by decide⟩,
    ⟨rfl, rfl, by decide, by simp only [State.allMode]; decide⟩, ⟨rfl, rfl, by decide⟩, ⟨rfl, rfl, by decide, by decide, rfl⟩,
    ⟨rfl, by decide, by decide⟩, ⟨rfl, by decide, by decide, by decide⟩, ⟨rfl, by decide, by decide, by decide, by decide⟩,
    ⟨rfl, by decide, by decide, rfl, by decide, by decide⟩, by decide, ⟨⟨rfl, rfl, by decide⟩, rfl, by decide, by decide⟩,
    ⟨rfl, rfl, by decide⟩, ⟨by decide, rfl, by decide, by decide⟩,
    rfl, rfl, by decide, rfl, by decide, fun j => by simp [tLogged, tAccess], rfl, rfl, rfl, by decide, by decide, ?_, ?_, ?_, ?_, ?_⟩ <;> decide

/-- Warp 1, saved by pre-emption, and its group. -/
def savedWarp (world : BitVec 10) : State := { tState with
  warps := [(1, { tWarp with place := .preempted })]
  groups := [(7, { tGroup with warps := [1], status := .preempted })]
  grids := [(3, { tGrid with record := { tGrid.record with regs := 0 }, world := world })]
  mem := savedMem }
/-- Hypotheses of PreemptionEvents: groups that are cooperative and not, a cluster named; all stopped and one running; grace over and
not; a warp whose save area matches and one in a world whose does not. -/
theorem witness_PreemptionEvents :
    (tState.groups.map (·.1)).Nodup ∧ mapFind tState.groups 7 = some tGroup ∧ tState.preemptNames (.die 0) tGroup = true ∧
    tGroup.status = .running ∧ tState.cooperative tGroup = false ∧ (withRecord (fun r => { r with flags := 3#16 })).cooperative tGroup = true ∧
    (kState [] id).preemptNamesCluster (.launch 3) 0 ((kState [] id).cluster 0) = true ∧
    (let s := pState 0#32 []; let p : Preempt := ⟨.world 1#10, 0x1FFFC#64, 0⟩;
      let s := { s with front := { s.front with preempts := [(5, p)] } };
      mapFind s.front.preempts 5 = some p ∧ (∀ e ∈ s.groups, s.preemptNames p.target e.2 = true → e.2.status ≠ .running ∧ e.2.status ≠ .exiting) ∧ s.clusters = [] ∧
        s.physical s.sysCtx true p.compl.toNat = some 0x1FFFC ∧ ∃ e ∈ s.groups, s.preemptNames (.world 0#10) e.2 = true ∧ e.2.status = .running) ∧
    (let s := kState [] (fun c => { c with queues := [(0, [{ MatOp.new .zero 0 with started := true }])] });
      ∃ e ∈ s.clusters, s.preemptNamesCluster (.launch 3) e.1 e.2 = true ∧ ∃ q ∈ e.2.queues, ∃ o ∈ q.2, o.started = true) ∧
    (let s := { withGroup (fun g => { g with preq := true, graceEnd := 9 }) with clock := 9 };
      (s.group 7).preq = true ∧ (s.group 7).graceEnd ≤ s.clock ∧ (s.group 7).status = .running ∧ 7 ∈ s.gangOf 7 ∧ (tState.group 7).preq = false) ∧
    (let s := savedWarp 0#10; let w := s.warp 1;
      w.place = .preempted ∧ w.waiting = [] ∧ w.returned = [] ∧ s.freeSlot w.die w.core = some 0 ∧
        (∃ x, s.readBack 1 false = some x ∧ x.killed = 0#32 ∧ x.trap = false) ∧ (∀ g ∈ s.gangOf w.group, (s.group g).tile ≠ .open) ∧
        w.group ∈ s.gangOf w.group ∧ 1 ∈ (s.group w.group).warps ∧ (s.group w.group).status = .preempted ∧
        ∀ g ∈ s.gangOf w.group, ∀ j ∈ (s.group g).warps, j ≠ 1 → (s.warp j).place ≠ .evicted ∧ (s.warp j).place ≠ .preempted) ∧
    ((savedWarp 5#10).warp 1).place ≠ .gone ∧ (savedWarp 5#10).readBack 1 false = none := by
  refine ⟨by decide, rfl, by decide, rfl, by decide, by decide, by decide, ⟨rfl, by decide, rfl, by decide, by decide⟩, by decide, by decide,
    ⟨rfl, rfl, rfl, by decide, ?_, by decide, by decide, by decide, rfl, by decide⟩, by decide, ?_⟩
  · obtain ⟨x, h, -, -, h1, h2⟩ := readBack_image { tWarp with place := .preempted }
    exact ⟨x, h (savedWarp 0#10) _ (by rw [savedWarp]) rfl rfl rfl, h2, h1⟩
  · simp only [State.readBack]
    rw [if_pos (by decide)]

/-! ### Witnesses: events of the engines and of the Carousel -/

/-- A copy of n bytes from a under tag 63, and the core that queues it, with its group resident or not. -/
def tReq (a : DWord) (n : Nat) : CopyReq := ⟨7, true, 0, a, n, 63, 9, false, []⟩
def copying (r : CopyReq) (g : GroupStatus) : State :=
  let s := pState 0#32 []
  { s with cores := [(0, { s.core 0 with reqs := [(3, r)] })], groups := [(7, { s.group 7 with status := g })] }
def bulking (b : BulkOp) (g : GroupStatus) : State :=
  let s := pState 0#32 []
  { s with cores := [(0, { s.core 0 with bulk := [(3, b)] })], groups := [(7, { s.group 7 with status := g })] }
theorem rising_range (n : Nat) : ∀ a, mapRising ((List.range' a n).map (fun j => (j, 1#32))) = true := by
  induction n with
  | zero => exact fun _ => rfl
  | succ n ih =>
    intro a
    cases n with
    | zero => rfl
    | succ m =>
      have h := ih (a + 1)
      simp only [List.range'_succ, List.map_cons, mapRising, Bool.and_eq_true, decide_eq_true_eq] at h ⊢
      exact ⟨by omega, h⟩
/-- An operation at the head of array 5, and the descriptor of a whole FP32 accumulator in a tile. -/
def running (o : MatOp) : State := kState [] (fun c => { c with queues := [(5, [o])] })
def tTile : Desc := ⟨BitVec.ofNat 64 (63 * 2 ^ 26 + 127 * 2 ^ 35 + 32 * 2 ^ 44 + 2 ^ 56), 0#64⟩
/-- The same at offset 16, and its operation with a poisoned first sector of the scratchpad. -/
def tTile' : Desc := ⟨tTile.w0 + 16#64, 0#64⟩
def spoiled (s : State) : State := { s with groups := [(7, { s.group 7 with spPoison := [0] })] }
/-- A collective of three members of which this is the first, with segments of 16 bytes, at a step. -/
def tColl (gather : Bool) (step : Nat) : Coll :=
  ⟨0#64, 0#64, 0, 0, [3, 3, 3], gather, false, 0, if gather then 16 else 48, step, [], none⟩
def tCollOp (x : Coll) : BulkOp := { tBulk with kind := .collective x, total := 48, left := 48, chunks := [] }
/-- Hypotheses of EngineEvents: copies that end and fail, a group that is not resident, a chunk of a bulk copy. -/
theorem witness_EngineEvents :
    (let r := tReq 0x1FFE0#64 32; let s := copying r .running;
      mapFind (s.core 0).reqs 3 = some r ∧ s.groupActive r.group = true ∧ mapHas r.parts 0 = false ∧ s.copyAsked 0 3 0 = false ∧ 0 < r.n ∧
        r.src.toNat % 2 ^ 57 % 32 + r.n ≤ 32 ∧ s.groupTile r.group = none ∧
        s.engineAt (s.engineCtx r.group r.kern) false false (nbits r.src.toNat 60 4) (r.src.toNat % 2 ^ 57) r.n = .here 0x1FFE0 0) ∧
    (let r := tReq 0x300000000001FFE0#64 32; let s := copying r .running;
      mapFind (s.core 0).reqs 3 = some r ∧ s.groupActive r.group = true ∧ mapHas r.parts 0 = false ∧ s.copyAsked 0 3 0 = false ∧ 0 < r.n ∧
        r.src.toNat % 2 ^ 57 % 32 + r.n ≤ 32 ∧ s.groupTile r.group = none ∧ r.tag < 64 ∧
        s.engineAt (s.engineCtx r.group r.kern) false false (nbits r.src.toNat 60 4) (r.src.toNat % 2 ^ 57) r.n = .fails .prot) ∧
    (copying (tReq 0#64 1) .preempted).groupActive 7 = false ∧
    (let b := tBulk; let s := bulking b .running;
      mapFind (s.core 0).bulk 3 = some b ∧ s.groupActive b.group = true ∧ b.held = 0 ∧ b.rest = [] ∧ b.kind = .copy ∧ b.chunks = [0] ∧
        0 < b.total ∧ b.total ≤ 16 ∧ b.left = b.total ∧ b.barOff < 2 ^ 32 ∧ s.bulkAim (b.asWarp s) false b.src = .scratch 7 0x100 ∧
        (s.group 7).sectorBad 0x100 b.total = false ∧ s.bulkAim (b.asWarp s) true b.dst = .scratch 7 0x200) ∧
    (bulking tBulk .preempted).groupActive 7 = false := by
  refine ⟨⟨rfl, rfl, rfl, rfl, by decide, by decide, rfl, by decide⟩, ⟨rfl, rfl, rfl, rfl, by decide, by decide, rfl, by decide, by decide⟩,
    by decide, ⟨rfl, rfl, rfl, rfl, rfl, rfl, by decide, by decide, rfl, by decide, rfl, by decide, rfl⟩, by decide⟩
/-- The same: steps of a gather, of the last half of a reduction and at the end of its first half. -/
theorem witness_EngineEvents_collectives :
    (∀ x ∈ [tColl true 1, tColl false 2], let b := tCollOp x; let s := bulking b .running; let seg := x.segment (x.receives x.step);
      mapFind (s.core 0).bulk 3 = some b ∧ s.groupActive b.group = true ∧ b.held = 0 ∧ b.rest = [] ∧ b.barOff < 2 ^ 32 ∧ x.inbox = none ∧
        x.step < x.steps ∧ (List.replicate 16 (7#8 : Byte)).length = seg.2 ∧ 0 < seg.2 ∧ seg.2 ≤ 16 ∧
        (if x.gather = true then 0 < x.step else x.devs.length - 1 ≤ x.step) ∧
        ∃ o, o + seg.2 < 2 ^ 32 ∧ s.bulkAim (b.asWarp s) true (b.dst + BitVec.ofNat 64 seg.1) = .scratch 7 o) ∧
    (let x := tColl false 1; let b := tCollOp x; let s := bulking b .running; let seg := x.segment (x.receives x.step);
      mapFind (s.core 0).bulk 3 = some b ∧ s.groupActive b.group = true ∧ x.own = [] ∧ x.gather = false ∧ x.step + 2 = x.devs.length ∧
        seg = (16, 16) ∧ s.bulkAim (b.asWarp s) false (b.src + BitVec.ofNat 64 seg.1) = .scratch 7 0x110 ∧
        (s.group 7).sectorBad 0x110 seg.2 = false ∧ s.bulkAim (b.asWarp s) true (b.dst + BitVec.ofNat 64 seg.1) = .scratch 7 0x210) := by
  refine ⟨fun x m => ?_, rfl, rfl, rfl, rfl, rfl, rfl, by decide, by decide, by decide⟩
  simp only [List.mem_cons, List.not_mem_nil, or_false] at m
  rcases m with rfl | rfl
  · exact ⟨rfl, rfl, rfl, rfl, by decide, rfl, by decide, rfl, by decide, by decide, by decide, 0x210, by decide, rfl⟩
  · exact ⟨rfl, rfl, rfl, rfl, by decide, rfl, by decide, rfl, by decide, by decide, by decide, 0x200, by decide, rfl⟩
/-- The same of the matrix engine. -/
theorem witness_EngineEvents_matrix :
    (let o := MatOp.new .mma 11; ((running o).cluster 0).startable 5 = some o ∧ o.isPass = true ∧ o.kind ≠ .gathered) ∧
    (let o := { MatOp.new .gathered 11 with rows := some [] };
      ((running o).cluster 0).startable 5 = some o ∧ o.isPass = true ∧ o.kind = .gathered ∧ o.rows ≠ none) ∧
    ((kState [] id).cluster 0).startable 5 = none ∧
    (let o := MatOp.new .gathered 11; let s := running o; let c := s.cluster 0;
      c.queue 5 = [o] ∧ o.kind = .gathered ∧ o.started = false ∧ o.rows = none ∧ c.saved = false ∧ c.ops.any (fun p => o.after p) = false ∧
        s.gangMember c o.meta_.member = some 7 ∧ s.gangMember c o.a.member = some 7 ∧
        (∀ r ∈ (List.range 64).map (fun j => s.spNum 7 (o.meta_.offset + 2 * j) 2), r < o.a.rows) ∧
        s.poisonedIn c (o.indexVector :: o.aReads ((List.range 64).map (fun j => s.spNum 7 (o.meta_.offset + 2 * j) 2))) = false ∧
        (spoiled s).poisonedIn c [o.indexVector] = true ∧
        let s := { s with groups := [(7, { s.group 7 with sp := [(0, 5#8)] })] };
        s.poisonedIn c [o.indexVector] = false ∧ ∃ r ∈ (List.range 64).map (fun j => s.spNum 7 (o.meta_.offset + 2 * j) 2), o.a.rows ≤ r) ∧
    (let l : Map Word := (List.range' 0 8192).map (fun j => (j, 1#32));
      let o := { MatOp.new .mma 11 with started := true, result := l }; let c := (running o).cluster 0;
      c.queue 5 = o :: [] ∧ o.fault = none ∧ mapRising o.result = true ∧ o.result.length = 8192 ∧ ∀ e ∈ o.result, e.1 < 8192) ∧
    (let o := { MatOp.new .f64 10 with started := true, fault := some .poison };
      ((running o).cluster 0).queue 5 = o :: [] ∧ o.started = true ∧ o.fault = some .poison ∧ o.kind = .f64) ∧
    (let o := MatOp.new .mma 11; ((running o).cluster 0).queue 5 = o :: [] ∧ o.started = false) ∧
    (let o := MatOp.new .zero 11; ((running o).cluster 0).startable 5 = some o ∧ o.kind = .zero ∧ o.fault = none) ∧
    (let o := { MatOp.new .load 11 with a := tTile }; let s := running o; let c := s.cluster 0;
      c.startable 5 = some o ∧ o.kind = .load ∧ o.a.fmt = 1 ∧ s.gangMember c o.a.member = some 7 ∧ s.poisonedIn c o.reads = false) ∧
    (let o := { MatOp.new .store 11 with a := tTile' }; let s := running o; let c := s.cluster 0;
      c.startable 5 = some o ∧ o.kind = .store ∧ o.a.fmt = 1 ∧ s.gangMember c o.a.member = some 7 ∧ o.request = none ∧ 512 ≤ o.a.pitch ∧
        (∀ r < 64, (s.group 7).spoilsAt (o.a.offset + r * o.a.pitch) 512 = false) ∧
        ((spoiled s).group 7).spoilsAt o.a.offset 512 = true) := by
  refine ⟨⟨rfl, rfl, by decide⟩, ⟨rfl, rfl, rfl, by decide⟩, rfl,
    ⟨rfl, rfl, rfl, rfl, rfl, by decide, by decide, by decide, by decide, by decide, by decide, by decide, by decide⟩,
    ⟨rfl, rfl, rising_range _ _, by simp, ?_⟩, ⟨rfl, rfl, rfl, rfl⟩, ⟨rfl, rfl⟩, ⟨rfl, rfl, rfl⟩, ⟨rfl, rfl, by decide, by decide, by decide⟩,
    rfl, rfl, by decide, by decide, rfl, by decide, by decide, by decide⟩
  intro e h
  simp only [List.mem_map, List.mem_range'] at h
  obtain ⟨j, ⟨k, hk, rfl⟩, rfl⟩ := h
  show 0 + 1 * k < 8192
  omega
/-- The same of the Carousel: a window at its end and one before it, 32 rows awake, a bin with no row awake. -/
theorem witness_EngineEvents_carousel :
    (let e := { tRow 0#2 0#64 true 5 with age := 64 }; let s := frState 0#32 [] [(40, e)];
      frameKey 3 0 = 12 ∧ (s.bin 12 63).oldest = some (40, e) ∧ (s.bin 12 63).window ≤ e.age ∧ (tRow 0#2 0#64 true 5).age < (s.bin 12 63).window) ∧
    (let e := (40, tRow 0#2 0#64 true 5); let s := frState 0#32 [] ((List.range 33).map (fun k => (k + 8, e.2)));
      let b := s.bin 12 63; let mine := b.rows.filter (fun r => r.2.awake && r.2.group == 7); let x := s.group 7;
      let live := (x.warps.filter (fun k => (s.warp k).place != .gone)).map (fun k => (s.warp k).no.toNat);
      b.busy = none ∧ b.taken = [] ∧ b.oldest = some (8, e.2) ∧ 32 ≤ mine.length ∧ x.status = .running ∧ live.length < 32 ∧
        s.freeSlot x.die x.core = some 1 ∧ (List.range 32).find? (fun j => !live.contains j) = some 1 ∧
        ∀ r ∈ mine.take 32, r.2.fault = 0#6 ∧ ∀ k ∈ r.2.engines, (s.agent k.1).raced = none) ∧
    ((pState 0#32 []).bin 12 63).oldest = none ∧ ((pState 0#32 []).bin 12 63).taken = [] :=
  ⟨⟨rfl, by decide, by decide, by decide⟩, ⟨rfl, rfl, by decide, by decide, rfl, by decide, by decide, by decide, by decide⟩, rfl, rfl⟩

/-! ### Witnesses: queues and launches -/

/-- Queue 31, bound to a descriptor at 0x10000 whose ring of four slots begins at 0x10100 with the packet b. -/
def qState (b : List Byte) : State :=
  let s := pState 0#32 []
  { s with
    front := { s.front with qbind := s.front.qbind.set 31 0xA000000000010000#64, harts := s.front.harts.set 31 ⟨0#64, 0#64, .waitHeader, 0, []⟩ }
    mem := ((((s.mem.setNum 0x10000 8 0x10100).setNum 0x10008 4 2).setNum 0x10010 8 1).setBytes 0x10100 b).setNum 0x10440 8 0x10800 }
/-- A packet of these bytes in front of zeros, a field of n bytes at a time. -/
def packet (l : List (Nat × Nat)) : List Byte :=
  let b := l.flatMap (fun e => bytesOfNat e.1 e.2)
  b ++ List.replicate (64 - b.length) 0#8
/-- The state in which a hart goes on with the packet that it has read. -/
def headState (h : Head) : State := match h with | .packet u _ _ => u | _ => State.reset
abbrev u (b : List Byte) : State := headState ((qState b).head 31#5)
/-- Has it read the packet b? -/
def headIs (h : Head) (b : List Byte) : Bool := match h with | .packet _ i p => i == 0 && p == b | _ => false
theorem reads_of {s : State} {b : List Byte} (h : ((s.hart 31#5).state != .waitCond && (s.hart 31#5).state != .pass && headIs (s.head 31#5) b) = true) :
    s.reads_ (headState (s.head 31#5)) 31#5 0 b := by
  simp only [Bool.and_eq_true, bne_iff_ne] at h
  refine ⟨h.1.1, h.1.2, ?_⟩
  revert h
  cases e : s.head 31#5 with
  | packet u i p =>
    intro h
    simp only [headIs, Bool.and_eq_true, beq_iff_eq] at h
    obtain ⟨-, rfl, rfl⟩ := h
    rfl
  | nothing => simp [headIs]
  | wait t => simp [headIs]
  | lost t => simp [headIs]
/-- Can the hart pass packet 0? -/
def canPass (s : State) : Bool :=
  let a := descOf (s.hart 31#5).bind
  match s.frontCan 31 (s.hartCtx 31#5) a 64, s.frontGet 31 (s.hartCtx 31#5) a 64 with
  | .bytes [], .bytes d => match s.frontCan 31 (s.hartCtx 31#5) (slotOf d 0) 4 with | .bytes [] => true | _ => false
  | _, _ => false
theorem passes_of {s : State} (h : canPass s = true) : ∃ d, s.passes 31#5 0 d := by
  unfold canPass at h
  dsimp only at h
  split at h
  · rename_i d e1 e2
    split at h
    · rename_i e3
      exact ⟨d, e1, e2, e3⟩
    · cases h
  · cases h
/-- What it has read is the packet. -/
def readsIt (b : List Byte) : Prop := (qState b).reads_ (u b) 31#5 0 b

abbrev tNop (bar : Nat) : List Byte := packet [(1, 1), (1, bar)]
abbrev tLaunch : List Byte := packet [(8, 2), (8, 0x10400), (8, 0x10800), (8, 0), (4, 1)]
abbrev tWrite (a : Nat) : List Byte := packet [(8, 5), (8, a), (8, 7)]
abbrev tWait : List Byte := packet [(8, 3), (8, 0x1FFFC), (8, 0), (4, 7)]
abbrev tGraphP : List Byte := packet [(8, 4), (8, 0x10400), (8, 0)]
/-- A hart that waits in a packet. -/
def inWait (b : List Byte) : State :=
  let s := qState (tNop 0)
  { s with front := { s.front with harts := s.front.harts.set 31 ⟨0xA000000000010000#64, (qState b).sysCtx.root, .waitCond, 0, b⟩ } }
/-- A graph table of one node at 0x10400. -/
def graphState : State :=
  let s := qState tGraphP
  { s with mem := ((s.mem.setNum 0x10400 8 1).setNum 0x10440 8 0x10800).setNum 0x10458 4 1 }
def resident : State :=
  let s := qState tGraphP
  { s with front := { s.front with graphs := [(0, ⟨0x10400#64, 0#64, 31, false, [], 0, 0, 0, 0⟩)] } }
/-- A hart that has carried out its packet and waits to pass it. -/
def passing (b : List Byte) : State :=
  let s := qState b
  { s with front := { s.front with harts := s.front.harts.set 31 ⟨0xA000000000010000#64, s.sysCtx.root, .pass, 0, b⟩ } }
/-- Hypotheses of QueueHartsAndPackets: the registers, DOOR, the packet at RIDX, the bytes at an address. -/
theorem witness_QueueHarts :
    (let s := qState (tNop 0); let s := { s with front := { s.front with harts := s.front.harts.set 31 Hart.empty } };
      (s.hart 31#5).state = .idle ∧ (s.qbind 31#5).getLsbD 63 = true ∧ (s.qbind 30#5).getLsbD 63 = false) ∧
    (let s := qState (tNop 0); let c := s.sysCtx; let q := 31#5; let d := s.mem.bytes 0x10000 64;
      (s.hart q).state = .waitHeader ∧ (s.qbind q).getLsbD 63 = true ∧
        s.frontCan 31 c (descOf (s.qbind q)) 64 = .bytes [] ∧
        s.frontGet 31 c (descOf (s.qbind q)) 64 = .bytes d ∧ num d 24 8 < num d 16 8 ∧
          s.frontCan 31 c (slotOf d (num d 24 8)) 64 = .bytes [] ∧ s.frontGet 31 c (slotOf d (num d 24 8)) 64 = .bytes (tNop 0)) ∧
    (let s := qState (tNop 0); s.place s.sysCtx 0 true 0x1FFFF = .memory 0x1FFFF 0 ∧ 0x1FFFF % 65536 + 1 ≤ 65536) := by
  refine ⟨⟨rfl, by decide +kernel, by decide +kernel⟩, ⟨rfl, by decide +kernel, rfl, got_of (by decide +kernel), by decide +kernel,
    got_of (by decide +kernel), got_of (by decide +kernel)⟩, by decide +kernel, by decide +kernel⟩
/-- Hypotheses of QueueHartsAndPackets: the packets, read and passed. -/
theorem witness_QueuePackets :
    (let b := tNop 0; readsIt b ∧ num b 0 1 = 1 ∧ packetError b = none ∧ num b 1 1 = 0 ∧ ∃ d, (u b).passes 31#5 0 d) ∧
    (let b := tNop 1; let s := { qState b with grids := [(4, { Grid.empty with status := .accepted, queue := some 31 })] };
      let u := headState (s.head 31#5);
      s.reads_ u 31#5 0 b ∧ packetError b = none ∧ num b 1 1 = 1 ∧ u.queueDone 31#5 = false) ∧
    (let b := tNop 2; readsIt b ∧ packetError b = some 2 ∧ num b 0 1 = 1) ∧
    (let b := packet [(1, 6)]; readsIt b ∧ 6 ≤ num b 0 1) ∧
    (let b := tLaunch; readsIt b ∧ num b 0 1 = 2 ∧ packetError b = none ∧ num b 1 1 = 0 ∧ num b 24 8 = 0 ∧ ∃ d, (u b).passes 31#5 0 d) ∧
    (let s := passing (tNop 0); (s.hart 31#5).state = .pass ∧ num (s.hart 31#5).packet 0 1 = 1 ∧ num (s.hart 31#5).packet 0 1 ≠ 2 ∧
      ∃ d, s.passes 31#5 (s.hart 31#5).idx d) ∧
    (let b := tWrite 0x1FFF8; let v := (u b).frontPut ((u b).hartCtx 31#5) (num b 8 8) (bytesOfNat 8 (num b 16 8));
      readsIt b ∧ num b 0 1 = 5 ∧ packetError b = none ∧ num b 1 1 = 0 ∧
        (u b).frontCan 31 ((u b).hartCtx 31#5) (num b 8 8) 8 = .bytes [] ∧ ∃ d, v.passes 31#5 0 d) ∧
    (let b := tWrite 0x200000000000000; readsIt b ∧ num b 0 1 = 5 ∧ packetError b = none ∧ num b 1 1 = 0 ∧
      (u b).frontCan 31 ((u b).hartCtx 31#5) (num b 8 8) 8 = .lost) := by
  refine ⟨⟨reads_of (by decide +kernel), by decide +kernel, by decide +kernel, by decide +kernel, passes_of (by decide +kernel)⟩,
    ⟨reads_of (by decide +kernel), by decide +kernel, by decide +kernel, by decide +kernel⟩,
    ⟨reads_of (by decide +kernel), by decide +kernel, by decide +kernel⟩, ⟨reads_of (by decide +kernel), by decide +kernel⟩,
    ⟨reads_of (by decide +kernel), by decide +kernel, by decide +kernel, by decide +kernel, by decide +kernel, passes_of (by decide +kernel)⟩,
    ⟨rfl, by decide +kernel, by decide +kernel, passes_of (by decide +kernel)⟩,
    ⟨reads_of (by decide +kernel), by decide +kernel, by decide +kernel, by decide +kernel, rfl, passes_of (by decide +kernel)⟩,
    ⟨reads_of (by decide +kernel), by decide +kernel, by decide +kernel, by decide +kernel, rfl⟩⟩
/-- Hypotheses of QueueHartsAndPackets: waits and graphs. -/
theorem witness_QueueWaits :
    (let b := tWait; readsIt b ∧ num b 0 1 = 3 ∧ packetError b = none ∧ num b 1 1 = 0) ∧
    (let s := inWait tWait; let h := s.hart 31#5;
      h.state = .waitCond ∧ num h.packet 4 1 % 4 = 0 ∧ (∃ w, s.frontGet 31 (s.hartCtx 31#5) (num h.packet 8 8) 4 = .bytes w ∧
        num h.packet 4 1 / 4 = 0 ∧ natOfBytes w ≠ num h.packet 24 4) ∧ ∃ d, s.passes 31#5 h.idx d) ∧
    (let s := inWait (packet [(8, 3), (8, 0x1FFFC), (8, 0), (4, 0)]); let h := s.hart 31#5;
      h.state = .waitCond ∧ num h.packet 4 1 % 4 = 0 ∧ (∃ w, s.frontGet 31 (s.hartCtx 31#5) (num h.packet 8 8) 4 = .bytes w ∧
        num h.packet 4 1 / 4 = 0 ∧ natOfBytes w = num h.packet 24 4) ∧ ∃ d, s.passes 31#5 h.idx d) ∧
    (let s (grid phase : Nat) := inWait (packet [(4, 3), (4, 1), (4, grid), (8, 0), (4, 0), (4, phase)]);
      let h (grid phase : Nat) := (s grid phase).hart 31#5;
      (h 3 0).state = .waitCond ∧ num (h 3 0).packet 4 1 % 4 = 1 ∧ (∃ d, (s 3 0).passes 31#5 (h 3 0).idx d) ∧
        (s 4 0).namedGroup (num (h 4 0).packet 8 4) (num (h 4 0).packet 12 4) = none ∧
        (s 3 0).namedGroup (num (h 3 0).packet 8 4) (num (h 3 0).packet 12 4) = some 7 ∧
        (s 3 0).phase 7 (num (h 3 0).packet 16 4) = num (h 3 0).packet 24 4 ∧
        (s 3 1).phase 7 (num (h 3 1).packet 16 4) ≠ num (h 3 1).packet 24 4) ∧
    (let b := tGraphP; let s := resident; let u := headState (s.head 31#5);
      s.reads_ u 31#5 0 b ∧ num b 0 1 = 4 ∧ packetError b = none ∧ num b 1 1 = 0 ∧ ∃ e ∈ u.front.graphs, e.2.table = BitVec.ofNat 64 (num b 8 8)) ∧
    (let b := tGraphP; let s := graphState; let u := headState (s.head 31#5); let a := num b 8 8;
      s.reads_ u 31#5 0 b ∧ num b 0 1 = 4 ∧ packetError b = none ∧ num b 1 1 = 0 ∧ u.front.graphs = [] ∧
        (∃ h, u.frontGet 31 (u.hartCtx 31#5) a 64 = .bytes h ∧ num h 0 2 = 1 ∧ clean h [(0, 2)] = true) ∧
        ∃ tb, u.frontGet 31 (u.hartCtx 31#5) a 128 = .bytes tb ∧ tb.length = 128 ∧ entryOk tb 0 = true ∧ num (tb.drop 64) 28 2 = 0 ∧
          num (tb.drop 64) 32 2 = 0 ∧ num (tb.drop 64) 0 8 ≠ 0) := by
  refine ⟨⟨reads_of (by decide +kernel), by decide +kernel, by decide +kernel, by decide +kernel⟩,
    ⟨rfl, by decide +kernel, ⟨_, rfl, by decide +kernel, by decide +kernel⟩, passes_of (by decide +kernel)⟩,
    ⟨rfl, by decide +kernel, ⟨_, rfl, by decide +kernel, by decide +kernel⟩, passes_of (by decide +kernel)⟩,
    ⟨rfl, by decide +kernel, passes_of (by decide +kernel), by decide +kernel, by decide +kernel, by decide +kernel, by decide +kernel⟩,
    ⟨reads_of (by decide +kernel), by decide +kernel, by decide +kernel, by decide +kernel, by decide +kernel⟩,
    ⟨reads_of (by decide +kernel), by decide +kernel, by decide +kernel, by decide +kernel, rfl, ⟨_, rfl, by decide +kernel, by decide +kernel⟩, _, rfl, by decide +kernel, by decide +kernel, by decide +kernel, by decide +kernel, by decide +kernel⟩⟩

/-! ### Witnesses: launches -/

/-- A record of one warp a group at 0x10400, with its first byte c, and grid 5, accepted with it. -/
def newState (c : Nat) (f : Grid → Grid) : State :=
  let s := pState 0#32 []
  let m := (((s.mem.setNum 0x10408 8 (4096 + c * 2 ^ 32)).setNum 0x10410 8 (0xFFFFFFFF + 2 ^ 32 * (32 + 2 ^ 8 + 2 ^ 16 + 2 ^ 24))).setNum
    0x10438 8 0x1000).setNum 0x10808 8 77
  let x := { Grid.empty with
    status := .accepted, recAddr := 0x10400#64, argAddr := 0x10800#64, threads := 32, inRoot := 0x1000#64 }
  { s with mem := m, grids := s.grids ++ [(5, f x)] }
/-- The bytes of that record. -/
def tRecordBytes (c : Nat) : List Byte := List.replicate 8 0#8 ++ bytesOfNat 8 (4096 + c * 2 ^ 32) ++
  bytesOfNat 8 (0xFFFFFFFF + 2 ^ 32 * (32 + 2 ^ 8 + 2 ^ 16 + 2 ^ 24)) ++ List.replicate 32 0#8 ++ bytesOfNat 8 0x1000 ++ List.replicate 832 0#8
/-- A launch of n groups whose next group is the one after done of them. -/
def fills (n done : Nat) (scratch : Word) : State :=
  let s := pState 0#32 []
  let r := (s.grid 3).record
  { s with grids := [(3, { s.grid 3 with record := { r with scratch := scratch, ctrlpc := 0xFFFFFFFF#32 }, threads := 32 * n, groups := n, next := done })] }
/-- A launch whose group waits to start with its gang, which has a control section or not. -/
def gangReady (ctrlpc : Word) (st : GroupStatus) : State :=
  let s := pState 0#32 []
  let r := (s.grid 3).record
  { s with
    grids := [(3, { s.grid 3 with record := { r with ctrlpc := ctrlpc } })]
    groups := [(7, { s.group 7 with status := st })]
    clusters := [] }
/-- The same, whose cluster has another gang's stream. -/
def gangBusy : State :=
  let s := gangReady 0x800#32 .ready
  { s with clusters := [(clusterKey 0 0, { Cluster.empty with gang := some (9, 0#32) })] }
/-- A launch whose one group has retired, with a completion record or none. -/
def ended (compl : DWord) : State :=
  let s := pState 0#32 []
  { s with grids := [(3, { s.grid 3 with retired := 1, compl := compl, fromQueue := true })], groups := [] }
/-- Hypotheses of LaunchEvents. -/
theorem witness_LaunchEvents :
    (let s := newState 0 id; let x := s.grid 5; let b := tRecordBytes 0; let r := parseRecord b;
      x.status = .accepted ∧ s.front.records = [] ∧ x.lost = false ∧ x.recAddr.toNat % 128 = 0 ∧ x.argAddr.toNat % 8 = 0 ∧
        s.frontGet (dispatchKey 5) (s.gridCtx x) x.recAddr.toNat 896 = .bytes b ∧
        s.frontGet (dispatchKey 5) (s.gridCtx x) (x.argAddr.toNat + 8) 248 = .bytes (s.mem.bytes 0x10808 248) ∧ r.snet = false ∧
        r.accepted x.threads x.inKern (s.classSp r) = true ∧ r.keyh = 0#64) ∧
    (let s := newState 4096 id; let x := s.grid 5; let b := tRecordBytes 4096; let r := parseRecord b;
      s.frontGet (dispatchKey 5) (s.gridCtx x) x.recAddr.toNat 896 = .bytes b ∧ r.accepted x.threads x.inKern (s.classSp r) = false) ∧
    (let s := newState 0 (fun x => { x with lost := true }); (s.grid 5).status = .accepted ∧ (s.grid 5).lost = true) ∧
    (let s := fills 2 1 4096#32; let x := s.grid 3;
      x.status = .dispatched ∧ x.exactOf = none ∧ x.next < x.groups ∧ 1 = x.next ∧ x.record.groupw ≤ 32 ∧ x.record.ganged = false ∧
        s.dieFor 3 1 3 = true ∧ s.coreFor 3 1 3 = some (1, 0) ∧
        ∀ e ∈ s.grids, e.1 ≠ 3 → rankLt (s.rank e.1) (s.rank 3) = true → s.wants e.1 3 = false) ∧
    (let s := fills 2 1 0xFFFFFF00#32; (s.grid 3).nextGroup = some 1 ∧ (s.grid 3).record.ganged = false ∧ s.coreFor 3 1 0 = none) ∧
    (let s := gangReady 0x800#32 .ready; let x := s.group 7;
      let l := s.groups.filter (fun e => !e.2.handler && e.2.grid == x.grid && e.2.gang == x.gang);
      x.status = .ready ∧ l.length = (s.grid x.grid).record.gang ∧ (∀ e ∈ l, e.2.status = .ready) ∧ (s.grid x.grid).record.control = true ∧
        (s.cluster (clusterKey x.die x.core)).gang = none) ∧
    (let s := gangBusy; let x := s.group 7; (s.grid x.grid).record.control = true ∧ (s.cluster (clusterKey x.die x.core)).gang ≠ none) ∧
    ((gangReady 0x800#32 .running).group 7).status ≠ .ready ∧
    ((gangReady 0#32 .exiting).mayRetire 7 = true ∧ ((gangReady 0#32 .exiting).group 7).tile ≠ .open) ∧
    (gangReady 0#32 .running).mayRetire 7 = false ∧
    (let s (a : DWord) := ended a; let x (a : DWord) := (s a).grid 3;
      (x 0#64).status = .dispatched ∧ (x 0#64).exactOf = none ∧ (x 0#64).exactGrid = none ∧ (x 0#64).retired = (x 0#64).groups ∧
        (x 0#64).controls = 0 ∧ (x 0#64).todo = [] ∧ (x 0#64).graph = none ∧ (s 0#64).front.records = [] ∧ (s 0#64).front.failed = [] ∧
        (x 0#64).compl = 0#64 ∧ (x 0x1FFE0#64).compl.toNat % 32 = 0 ∧ (x 0x1FFE0#64).compl ≠ 0#64 ∧
        (s 0x1FFE0#64).frontCan (2 ^ 50 + (s 0x1FFE0#64).unit) ((s 0x1FFE0#64).gridCtx (x 0x1FFE0#64)) 0x1FFE0 32 = .bytes []) ∧
    (tState.grid 3).retired ≠ (tState.grid 3).groups ∧
    (let s := { tState with worlds := [(5, { World.empty with buffers := [(9#16, 2#2)] })], versions := [(9, 0x1805#32)] };
      mapHas s.worlds 5 = true ∧ (mapGet 0#32 s.versions 9).toNat % 1024 = 5 ∧
        ∀ g ∈ s.grids, ¬(g.2.status = .dispatched ∧ g.2.world = 5#10) ∧
          ¬(g.2.status = .accepted ∧ g.2.fromQueue = false ∧ g.2.inWorld = 5#10)) ∧
    mapHas tState.worlds 5 = false ∧
    (let s := { tState with grids := [(3, { tGrid with todo := [9#32], exactGrid := some 4 })] };
      (s.grid 3).todo = 9#32 :: [] ∧ (s.grid 3).exactGrid = some 4) ∧ (tState.grid 3).todo = [] := by
  refine ⟨⟨rfl, rfl, rfl, by decide, by decide, got_of (by decide +kernel), got_of (by decide +kernel), by decide, by decide +kernel, by decide⟩,
    ⟨got_of (by decide +kernel), by decide +kernel⟩, by decide, ⟨rfl, rfl, by decide, rfl, by decide, by decide, by decide, by decide, by decide⟩,
    by decide, by decide, by decide, by decide, by decide, by decide, ⟨rfl, rfl, rfl, rfl, rfl, rfl, rfl, rfl, rfl, rfl, by decide, by decide, rfl⟩, by decide,
    by decide, by decide, by decide, by decide⟩

/-! ### Witnesses: services, ports, links -/

/-- A request sent for service by lane 3 of warp 0, for a device's home, which has taken it or not. -/
def tFault (home : BitVec 9) (taken : Bool) : FaultReq :=
  ⟨6, 0x1FFFC#64, 0x1000#64, 0#10, 0#9, 0#8, 0#8, some (.lane 0 4 3 0), home, taken, 0⟩
theorem away : (Config.deviceNumber + 1#9).toNat ≠ ownDevice := by
  intro h
  have e : Config.deviceNumber + 1#9 = Config.deviceNumber := BitVec.eq_of_toNat_eq h
  simp at e
def faultState (f : FaultReq) : State :=
  { pState 0#32 [] with
    faults := [(6, f)]
    warps := [(0, { tWarp with pend := [{ tPend with acc := tAccess .load 4 true 0x1FFFC#64 }] })] }
/-- A walk whose answer is a leaf. -/
def leafOf (w : Walk) : Nat × Nat := match w with | .leaf e size => (e, size) | _ => (0, 0)
theorem leaf_of {w : Walk} {e size : Nat} (h : ((leafOf w).1 == e && (leafOf w).2 == size && size != 0) = true) : w = .leaf e size := by
  revert h
  cases w <;> simp [leafOf]
  · rintro rfl rfl h; exact ⟨rfl, rfl⟩
  all_goals exact fun _ h2 => h2.symm
/-- A ring with a slot free and one thing to file. -/
def filingState (f : RingItem) : State :=
  let s := ringState true [] [(5, tCall)] []
  { s with mem := (pState 0#32 []).mem, rings := s.rings.map (fun e => (e.1, { e.2 with waiting := [f] })) }
/-- A call replied to in every lane of the warp that waits. -/
def repliedState : State :=
  let s := ringState true [] [(4, { tCall with replies := some (Vector.replicate 32 (some 9#32)) })] []
  { s with warps := [(0, { tWarp with pend := [{ tPend with got := 0#32, remote := ~~~0#32 }] })] }
/-- Hypotheses of ServiceEvents. -/
theorem witness_ServiceEvents :
    (let s := pState 0#32 []; let e := 2 ^ 63 + 2 ^ 61 + 2 ^ 60 + 2 ^ 59 + 0x10000;
      walk s.mem (0x1000#64 : DWord).toNat ((0x1FFFF#64 : DWord).toNat % 2 ^ 57) = .leaf e 65536 ∧ s.walksOn 0 0x1000#64 0#10 = true ∧
        (s.core 0).tlb.length ≤ 128 ∧ s.walksOn 0 0x1000#64 1#10 = false) ∧
    (let f := tFault Config.deviceNumber false; let s := faultState f;
      mapFind s.faults 6 = some f ∧ f.home.toNat = ownDevice ∧ f.taken = false ∧ (s.faults.filter (fun e => e.2.taken)).length < 8) ∧
    (let f := tFault Config.deviceNumber false;
      let s := { tState with faults := (6, f) :: (List.range 8).map (fun k => (10 + k, tFault 0#9 true)) };
      mapFind s.faults 6 = some f ∧ 8 ≤ (s.faults.filter (fun e => e.2.taken)).length) ∧
    (let f := tFault Config.deviceNumber true; let s := faultState f;
      mapFind s.faults 6 = some f ∧ f.who = some (.lane 0 4 3 0) ∧ (∀ q ∈ s.ports, q.2.held = []) ∧ s.mayReply f .retry = true ∧
        s.mayReply f .xlat = true ∧ s.mayReply f .prot = true ∧ s.mayReply f .unreachable = false) ∧
    (let f := tFault (Config.deviceNumber + 1#9) false; let s := faultState f;
      mapFind s.faults 6 = some f ∧ s.mayReply f .unreachable = true ∧ s.mayReply f .xlat = false) ∧
    (∀ f ∈ [RingItem.record tRecord, .call 5], let s := filingState f; let g := s.ring 0; let c := s.sysCtx;
      g.on = true ∧ g.waiting = f :: [] ∧ (g.slot g.next).owed = none ∧ s.frontCan (ringKey 0) c (g.addr g.next) 320 = .bytes [] ∧
        s.frontGet (ringKey 0) c (g.addr g.next) 4 = .bytes (bytesOfNat 4 0) ∧ num (bytesOfNat 4 0) 0 4 % 2 = 0 ∧
        (∀ e ∈ s.warps, e.2.gov.demoted = false) ∧ mapHas s.front.failed (ringKey 0) = false) ∧
    mapFind ((filingState (.call 5)).ring 0).calls 5 = some tCall ∧
    ((ringState true [] [] []).ring 0).waiting = [] ∧
    (let s := { filingState (.call 5) with rings := [(0, { (filingState (.call 5)).ring 0 with slots := [(0, tSlot false (.call 5))] })] };
      ((s.ring 0).slot (s.ring 0).next).owed ≠ none) ∧ ((ringState false [] [] []).ring 0).on = false ∧
    (let s := repliedState; let p : Pend := { tPend with got := 0#32, remote := ~~~0#32 }; let rep := Vector.replicate 32 (some 9#32);
      let c : Call := { tCall with replies := some rep };
      s.rings.find? (fun r => mapHas r.2.calls 4) = some (0, s.ring 0) ∧ mapFind (s.ring 0).calls 4 = some c ∧ c.replies = some rep ∧
        (∀ i, Mask.has p.lanes i = true → Lanes.at rep i ≠ none) ∧ (s.warp c.warp).place = .running ∧ (s.warp c.warp).pend = [p] ∧ p.id = 4 ∧
        (s.warp c.warp).frozen p = false ∧ p.dests = [(5, 0#4, p.lanes)] ∧ p.vals.length = 1 ∧ p.sdest = none ∧ p.uniform = false ∧
        p.remote = p.lanes ∧ p.got = 0#32 ∧ p.lanes ≠ 0#32 ∧ p.lanes &&& ~~~(s.warp c.warp).live = 0#32 ∧
        ∀ i, Mask.has p.lanes i = true → Lanes.at p.left i = 0) ∧
    tState.rings.find? (fun r => mapHas r.2.calls 4) = none := by
  refine ⟨⟨leaf_of (by decide +kernel), by decide, by decide, by decide⟩, ⟨rfl, rfl, rfl, by decide⟩, ⟨rfl, by decide⟩,
    ⟨rfl, rfl, by decide, ?_, ?_, ?_, ?_⟩, ⟨rfl, ?_, ?_⟩, ?_, rfl, rfl, by decide, by decide,
    ⟨rfl, rfl, rfl, by decide, rfl, rfl, rfl, rfl, rfl, rfl, rfl, rfl, rfl, rfl, by decide, by decide, by decide⟩, by decide⟩
  iterate 4 simp [State.mayReply, tFault, ownDevice]
  · simp only [State.mayReply, tFault, beq_iff_eq, away, if_false]; rfl
  · simp only [State.mayReply, tFault, beq_iff_eq, away, if_false]; rfl
  · intro f m
    simp only [List.mem_cons, List.not_mem_nil, or_false] at m
    rcases m with rfl | rfl
    all_goals exact ⟨rfl, rfl, rfl, rfl, got_of (by decide +kernel), by decide, by decide, by decide⟩

/-- A load of 4 bytes that waits at an endpoint. -/
def tRead : IoRead := ⟨4, 0, 3, 0x100000000000, 4, 0⟩
def tLoad : Pend := { tPend with acc := tAccess .load 4 true 0x1FFFC#64, got := 0xFFFFFFF7#32 }
/-- Port 1, enabled, with its context of RID 7 in world 0 (and one of world 5, not confirmed), and what waits there. -/
def portState (reads : Map IoRead) (held : Map Inbound) : State :=
  let s := pState 0#32 []
  let p : Port := { Port.empty with
    ctl := 0x8000000000000002#64
    reads := reads
    held := held
    ctx := (Port.empty.ctx.set 63 (0x8000000000070007#64, 0x1000#64)).set 0 (0x8000000500080008#64, 0x1000#64) }
  { s with clock := 10 ^ 12, ports := [(1, p)], warps := [(0, { tWarp with pend := [tLoad] })] }
def tHeld (write : Bool) (addr : DWord) : Inbound := ⟨7#16, addr, write, false, [1#8, 2#8, 3#8, 4#8], 4, 0⟩
/-- Hypotheses of PortsAndRegisters. -/
theorem witness_PortsAndRegisters :
    (∀ l ∈ [[], [(8, tHeld false 0x1FFFC#64)]], let s := portState [(6, tRead)] l;
      s.portOfRead 6 = some (1, tRead) ∧ s.awaits 0 4 3 tLoad ∧ tRead.size = 4 ∧ (∀ h ∈ (s.port 1).held, h.2.write = false) ∧
        s.clock < tRead.since + max 1 ((s.port 1).ctl.toNat % 256) * 10 ^ 12) ∧
    (let s := portState [(6, tRead)] [(8, tHeld true 0x1FFFC#64)]; ∃ h ∈ (s.port 1).held, h.2.write = true) ∧
    (let s := { portState [(6, tRead)] [] with clock := 2 * 10 ^ 12 };
      tRead.since + max 1 ((s.port 1).ctl.toNat % 256) * 10 ^ 12 ≤ s.clock) ∧
    (let s := portState [] []; (s.port (1#2).toNat).held = [] ∧
      (∀ b, s.admitInbound (1#2).toNat 6#16 0x1FFFC#64 b 4 = .refuse 0 ∧ s.admitInbound (1#2).toNat 7#16 0x1FFFC#64 b 4 = .go 0#10 [(0x1FFFC, 4, 0)] ∧
        s.admitInbound (1#2).toNat 7#16 0x200000000000000#64 b 4 = .refuse 13) ∧
      s.pieceBad ⟨4, 0, 0#64, 0#10, false⟩ (0x1FFFC, 4, 0) = false) ∧
    (let s := { portState [] [(8, tHeld true 0x20000#64)] with clock := 2 * 10 ^ 12 }; let q := s.port 1; let h := tHeld true 0x20000#64;
      s.ports = [(1, q)] ∧ q.held = [(8, h)] ∧ h.since + max 1 (q.ctl.toNat % 256) * 10 ^ 12 ≤ s.clock ∧
        ∃ r, s.admitInbound 1 h.rid h.addr h.write h.n = .hold ⟨4, 0, 0x1000#64, 0#10, false⟩ r 0x20000) ∧
    (let s := portState [] [(8, tHeld true 0x20000#64)];
      s.clock < (tHeld true 0x20000#64).since + max 1 ((s.port 1).ctl.toNat % 256) * 10 ^ 12) ∧
    ((0x13FF9#64 : DWord).toNat % 8 ≠ 0 ∧ 0x14000 ≤ (0x14000#64 : DWord).toNat) := by
  refine ⟨?_, by decide, by decide, ⟨rfl, ?_, by decide⟩, ⟨rfl, rfl, by decide, ⟨_, rfl⟩⟩, by decide, by decide⟩
  · intro l m
    simp only [List.mem_cons, List.not_mem_nil, or_false] at m
    rcases m with rfl | rfl
    all_goals exact ⟨rfl, ⟨rfl, rfl, fun _ => by simp [tLoad, tAccess], rfl, rfl, rfl, by decide, by decide, rfl⟩, rfl, by decide, by decide⟩
  · intro b
    cases b <;> exact ⟨rfl, rfl, rfl⟩

/-- Port 1, up, changed by f, beside world 5 and what waits. -/
def linkState (f : Link → Link) : State :=
  let s := pState 0#32 []
  let l : Link := { Link.empty with
    up := true
    peer := 9#9
    keyed := true
    rxEpoch := 2
    rxCounter := 5 }
  { s with
    links := [(1, f l)]
    warps := [(0, { tWarp with pend := [tLoad] })]
    worlds := [(5, { World.empty with handle := 77#64 })]
    clock := 100 * 10 ^ 12 }
abbrev tFlit (kind : BitVec 4) (l : List LinkPacket) : Flit := ⟨2, 5, kind, true, 1#8, 2#8, 3#8, 0, 0, l⟩
def withReq (n : Nat) (l : Link) : Link := { l with reqs := [(6, ⟨.lane 0 4 3 0, n⟩)] }
/-- Hypotheses of LinkEvents. -/
theorem witness_LinkEvents :
    (let l := (linkState id).link 1;
      (∀ k ∈ [0#4, 1#4, 2#4], ∀ x, l.expects (tFlit k x) k) ∧ l.out = [] ∧ l.nextKey = false ∧ l.fails < 2 ∧ l.free = true ∧
        (linkState id).nothingOn 1 ∧ l.agreeing = false ∧ l.txCounter < 2 ^ 32 - 2 ^ 24 ∧ l.stalled = false ∧
        (linkState id).faults = [] ∧ (∀ q ∈ (linkState id).ports, q.2.held = []) ∧ ∀ e ∈ (linkState id).warps, e.2.gov.demoted = false) ∧
    (let s := linkState id; s.keyWorld 78 = none ∧ s.keyWorld 77 = some 5#10 ∧ s.keyWorld 0 = some 0#10 ∧
      s.peerReads 0#10 0x1FFFC 4 = true ∧ s.peerReads 5#10 0x1FFFC 4 = false ∧ s.peerSpoils 0#10 0x1FFFC 4 = false ∧ s.peerSpoils 5#10 0x1FFFC 4 = true ∧
        s.peerReads 0#10 0x1FFF8 (atomicSize 1#4) = true ∧
        atomicNew 1#4 (natOfBytes (s.mem.bytes 0x1FFF8 (atomicSize 1#4))) (7#64 : DWord).toNat (0#64 : DWord).toNat = some 7) ∧
    (let s := linkState (withReq 0); let b := bytesOfNat 4 9;
      (s.link 1).expects (tFlit 1#4 [.response 6 b]) 1#4 ∧ b.length = 4 ∧ mapFind (s.link 1).reqs 6 = some ⟨.lane 0 4 3 0, 0⟩ ∧
        (s.dropRequest 1 6).laneAsks 0 4 3 = false ∧ s.awaits 0 4 3 tLoad) ∧
    (let f := tFlit 0#4 []; let g := { f with counter := 4 }; let h := { f with epoch := 1 };
      g.counter ≠ ((linkState id).link 1).rxCounter ∧ h.epoch ≠ ((linkState id).link 1).rxEpoch ∧
        ((linkState (fun l => { l with retryAsked := true })).link 1).retryAsked = true ∧
        ((linkState id).link 1).retryAsked = false) ∧
    (4 ≤ (tFlit 4#4 []).kind.toNat ∧ 2 ≤ ((linkState (fun l => { l with fails := 2 })).link 1).fails) ∧
    (∀ n ∈ [2 ^ 32 - 2 ^ 24, 2 ^ 32 - 2 ^ 24 - 1, 2 ^ 32 - 2 ^ 16, 2 ^ 32 - 2 ^ 16 - 1], ((linkState (fun l => { l with txCounter := n })).link 1).txCounter = n) ∧
    (let s := linkState (fun l => { l with
        agreeing := true
        stalled := true });
      let l := s.link 1;
      l.up = true ∧ l.agreeing = true ∧ l.sent.length < 64 ∧ l.out = [] ∧ l.stalled = true ∧ l.stalledAt + 100 * 10 ^ 12 ≤ s.clock ∧ s.nothingOn 1) ∧
    (let s := linkState (fun l => { l with
        stalled := true
        stalledAt := 1 });
      s.clock < (s.link 1).stalledAt + 100 * 10 ^ 12) ∧
    ((tState.link 23).up = false ∧ ((linkState (withReq 0)).link 1).reqs = [(6, ⟨.lane 0 4 3 0, 0⟩)]) ∧
    (∀ n ∈ [4 * 10 ^ 12, 4 * 10 ^ 12 - 1], (linkState (withReq n)).links.findSome? (fun e => (mapFind e.2.reqs 6).map (fun r => (e.1, r))) =
      some (1, ⟨.lane 0 4 3 0, n⟩)) ∧
    (∀ n ∈ [4 * 10 ^ 12, 4 * 10 ^ 12 - 1], let f := { tFault (Config.deviceNumber + 1#9) false with waited := n };
      (faultState f).links.findSome? (fun e => (mapFind e.2.reqs 6).map (fun r => (e.1, r))) = none ∧
        mapFind (faultState f).faults 6 = some f ∧ f.who = some (.lane 0 4 3 0) ∧ f.home.toNat ≠ ownDevice ∧ f.waited = n) := by
  refine ⟨⟨?_, rfl, rfl, by decide, rfl, ⟨rfl, rfl⟩, rfl, by decide, rfl, rfl, by decide, by decide⟩, ?_,
    ⟨⟨rfl, rfl, rfl, rfl, rfl, by decide⟩, rfl, rfl, rfl, rfl, rfl, fun _ => by simp [tLoad, tAccess], rfl, rfl, rfl, by decide, by decide, rfl⟩, by decide, by decide, fun _ _ => rfl,
    ⟨rfl, rfl, by decide, rfl, rfl, by decide, rfl, rfl⟩, by decide, by decide, fun _ _ => rfl, fun n _ => ⟨rfl, rfl, rfl, away, rfl⟩⟩
  · intro k m x
    exact ⟨rfl, rfl, rfl, rfl, rfl, by revert k; decide⟩
  · decide

/-- A start whose checks pass, or not. -/
def tChecks (b : Bool) (n : Nat) : StartChecks := ⟨b, b, [1], n⟩
/-- The device with this firmware and, beside it, a world and a migration. -/
def firmState (f : Firmware → Firmware) (m : Option Migration) : State :=
  { tState with
    clock := 60 * 10 ^ 15
    grids := [(3, { tGrid with world := 5#10 })]
    worlds := [(5, World.empty)]
    firm := f { Firmware.reset with migrations := match m with | some m => [(8, m)] | none => [] } }
def tMig (source : Bool) (n : Nat) : Migration := ⟨6#10, 2#9, source, 77#64, ⟨1, [], [], []⟩, n, false⟩
/-- Hypotheses of FirmwareEvents. -/
theorem witness_FirmwareEvents :
    (∀ w, let s := firmState (fun f => { f with
        phase := .pending
        nextWarm := w
        fuses := 3 }) none;
      s.firm.phase = .pending ∧ s.firm.nextWarm = w ∧ (tChecks true 3).imagesVerify = true ∧ s.firm.fuses ≤ (tChecks true 3).versions ∧
        (tChecks true 3).hbmPasses = true ∧ (tChecks false 3).imagesVerify = false ∧ (tChecks true 2).versions < s.firm.fuses) ∧
    (let s := firmState (fun f => { f with
        phase := .pending
        nextWarm := true
        trained := [(1, 9#9)] }) none;
      1 ∈ (tChecks true 3).lanesUp ∧ mapFind s.firm.trained 1 = some 9#9) ∧
    (let s (n : Nat) := firmState (fun f => { f with loadedAt := n }) none;
      (s 0).firm.phase = .osLoaded ∧ (s 0).firm.loadedAt + 60 * 10 ^ 15 ≤ (s 0).clock ∧ (s 1).clock < (s 1).firm.loadedAt + 60 * 10 ^ 15) ∧
    (let s := firmState (fun f => { f with phase := .up }) none;
      s.firm.phase ≠ .osLoaded ∧ s.firm.phase = .up ∧ s.firm.resetEnd = none ∧ (firmState id none).firm.phase ≠ .up) ∧
    (∀ g ∈ [0#16, 500#16], (if g = 0#16 then 50 else g.toNat) ≤ 500) ∧ 500 < (501#16 : BitVec 16).toNat ∧
    (∀ e, let s := firmState (fun f => { f with resetEnd := some e }) none; s.firm.resetEnd = some e ∧ s.firm.resetEnd ≠ none) ∧
    (let s := { linkState id with
        warps := []
        groups := []
        grids := []
        worlds := [] };
      s.isStill ∧ (s.link 1).up = true) ∧
    (let s := firmState id none; (5#10 : BitVec 10) ≠ 0#10 ∧ mapHas s.worlds (5#10 : BitVec 10).toNat = true ∧ s.migration 8#64 = none ∧
      s.firm.migrations.any (fun e => e.2.source && e.2.world == 5#10 && !e.2.abandoned) = false ∧ (s.groups.map (·.1)).Nodup ∧
      mapFind s.groups 7 = some tGroup ∧ s.preemptNames (.world 5#10) tGroup = true ∧ tGroup.status = .running ∧
      mapHas s.worlds 6 = false ∧ s.slotOpen 6 = true ∧ s.slotOpen 5 = false) ∧
    (∀ b, ∀ n ∈ [0, 30 * 10 ^ 15, 30 * 10 ^ 15 + 1], (firmState id (some (tMig b n))).migration 8#64 = some (tMig b n) ∧
      (tMig b n).source = b ∧ (tMig b n).abandoned = false) ∧
    ((tMig true 0).since + 30 * 10 ^ 15 ≤ (firmState id none).clock ∧ (firmState id none).clock < (tMig true (30 * 10 ^ 15 + 1)).since + 30 * 10 ^ 15 ∧
      (firmState id none).front.windowAt + 10 ^ 12 ≤ (firmState id none).clock ∧ tState.clock < tState.front.windowAt + 10 ^ 12) := by
  refine ⟨fun w => by cases w <;> decide, by decide, by decide, by decide, ?_, by decide, fun e => ⟨rfl, by simp [firmState]⟩, by unfold State.isStill; decide,
    by decide, fun b n _ => ⟨rfl, rfl, rfl⟩, by decide⟩
  intro g m
  simp only [List.mem_cons, List.not_mem_nil, or_false] at m
  rcases m with rfl | rfl <;> simp

/-! ### Witnesses: integer instructions -/

/-- Hypotheses of SourceLanes. -/
theorem witness_SourceLanes : A.perm ≠ .scalar ∧ B.perm ≠ .scalar ∧ S9.perm = .scalar := by decide
/-- Hypotheses of LaneArithmetic. -/
theorem witness_LaneArithmetic : (∀ e ∈ twoSource, tState.runs (e.1 31#5 A B 0#2)) ∧ (∀ e ∈ oneSource, tState.runs (e.1 31#5 A 0#2)) ∧
    (∀ e ∈ threeSource, tState.runs (e.1 31#5 A B 0#2)) ∧ tState.runs (.vmov 31#5 A 0#2) ∧ tState.runs (.vsel 31#5 A B 0#2) :=
  ⟨runs_all twoSource (fun e => e.1 31#5 A B 0#2) rfl, runs_all oneSource (fun e => e.1 31#5 A 0#2) rfl,
    runs_all threeSource (fun e => e.1 31#5 A B 0#2) rfl, runs_of rfl, runs_of rfl⟩
/-- Hypotheses of WideResults. -/
theorem witness_WideResults : (∀ e ∈ wideSource, tState.runs (e.1 15#4 A B 0#2)) ∧ (∀ e ∈ wideNarrow, tState.runs (e.1 15#4 A B 0#2)) ∧
    tState.runs (.vaddc 15#4 A B 0#2) :=
  ⟨runs_all wideSource (fun e => e.1 15#4 A B 0#2) rfl, runs_all wideNarrow (fun e => e.1 15#4 A B 0#2) rfl, runs_of rfl⟩
/-- Hypotheses of Divisions: no divisor 0, and one in lane 0. -/
theorem witness_Divisions : ∀ e ∈ divisions,
    (tState.runs (e.1 31#5 A B 0#2) ∧ tState.schedLa = 0 ∧
      maskOf (fun i => Mask.has (tState.real (tState.on (e.1 31#5 A B 0#2))) i && (tState.srcB B).at i == 0#32) = 0#32) ∧
    ((ahead 15#4).runs (e.1 31#5 A B 0#2) ∧ (ahead 15#4).schedLa ≠ 0 ∧ (ahead 15#4).on (e.1 31#5 A B 0#2) ≠ 0#32 ∧
      maskOf (fun i => Mask.has ((ahead 15#4).real ((ahead 15#4).on (e.1 31#5 A B 0#2))) i && ((ahead 15#4).srcB B).at i == 0#32) = 0#32) ∧
    (let b : Src := ⟨.direct, 0#5⟩; tState.runs (e.1 31#5 A b 0#2) ∧
      maskOf (fun i => Mask.has (tState.real (tState.on (e.1 31#5 A b 0#2))) i && (tState.srcB b).at i == 0#32) ≠ 0#32) := by
  intro e m
  simp only [divisions, List.mem_cons, List.not_mem_nil, or_false] at m
  rcases m with rfl | rfl | rfl | rfl
  all_goals exact ⟨⟨runs_of rfl, rfl, by decide⟩, ⟨runs_of rfl, by decide, by decide, by decide⟩, runs_of rfl, by decide⟩
/-- Hypotheses of ScalarResults: with a lane active and with none. -/
theorem witness_ScalarResults : (∀ e ∈ scalars, tState.runs (e.1 127#7 9#7 10#7)) ∧ tState.runs (.smov 127#7 9#7) ∧
    tState.runs (.saddImm 127#7 9#7 (-1)) ∧ tState.runs (.smovi 127#7 (-1)) ∧
    (tState.runs (.vreadl 31#5 A B 0#2) ∧ tState.first (tState.on (.vreadl 31#5 A B 0#2)) = some 0) ∧
    (let s := withWarp (fun w => { w with real := 0#32 });
      s.runs (.vreadl 31#5 A B 0#2) ∧ s.first (s.on (.vreadl 31#5 A B 0#2)) = none) :=
  ⟨runs_all scalars (fun e => e.1 127#7 9#7 10#7) rfl, runs_of rfl, runs_of rfl, runs_of rfl, ⟨runs_of rfl, by decide⟩, runs_of rfl, by decide⟩
/-- Hypotheses of BuiltAndMovedValues: the highest register number of vmovrel, the highest format of vfmt. -/
theorem witness_BuiltAndMovedValues :
    (tState.runs (.vaddImm 31#5 A (-1)) ∧ tState.runs (.vmovi 31#5 (-1)) ∧ tState.runs (.vshape 31#5 3#5 0#2) ∧
      tState.runs (.vaffine 31#5 A B 0#2) ∧ tState.runs (.vidx 31#5 0#2)) ∧
    (let s := withWarp (fun w => { w with v := Vector.replicate 32 ⟨.uniform 12#32, 0#4, false⟩ });
      (s.runs (.vmovrel 31#5 19#5 A 0#2) ∧ ∀ i, Mask.has (s.on (.vmovrel 31#5 19#5 A 0#2)) i = true →
        (19#5 : BitVec 5).toNat + ((s.srcB A).at i).toNat < 32 ∧ s.vBeyond ((19#5 : BitVec 5).toNat + ((s.srcB A).at i).toNat) = false) ∧
      s.runs (.vbcs 31#5 A 0#2) ∧ s.first (s.on (.vbcs 31#5 A 0#2)) = some 0 ∧
      s.runs (.vfmt 31#5 A B 0#2) ∧ s.first (s.on (.vfmt 31#5 A B 0#2)) = some 0 ∧
        ∀ i0, s.first (s.on (.vfmt 31#5 A B 0#2)) = some i0 → ((s.srcB B).at i0).toNat % 16 < 13) ∧
    (let s := withWarp (fun w => { w with real := 0#32 });
      s.runs (.vbcs 31#5 A 0#2) ∧ s.first (s.on (.vbcs 31#5 A 0#2)) = none ∧ s.runs (.vfmt 31#5 A B 0#2) ∧
        s.first (s.on (.vfmt 31#5 A B 0#2)) = none) ∧
    tState.runs (.vfree 31#5) :=
  ⟨⟨runs_of rfl, runs_of rfl, runs_of rfl, runs_of rfl, runs_of rfl⟩,
    ⟨⟨runs_of rfl, by decide⟩, runs_of rfl, by decide, runs_of rfl, by decide, by decide⟩,
    ⟨runs_of rfl, by decide, runs_of rfl, by decide⟩, runs_of rfl⟩

/-! ### Ill-formed terms, one for each check of Instr.wf, which refuses it (R43, R94, R134, R298, R302) -/

abbrev oddA : Src := ⟨.direct, 3#5⟩
theorem test_illFormed :
    [Instr.park 0#4 1#18, .enrol 0#4 0#2, .strike 0#4 0#2, .waitAddr oddA B 0#2, .gretPc 24#5, .segset 0#7 0#2, .segset 127#7 0#2, .tlbinvVa 0#7,
      .tlbinvVa 127#7, .tlbinvRoot 0#7, .dbgStep 0#7, .vadd64 1#4 oddA A 0#2, .vadd64 1#4 A oddA 0#2, .vfabsF64 1#4 oddA 0#2, .vlea 1#4 oddA B 0#2,
      .vfcvt 2#5 A 8#4 8#4 0#2, .vfcvt 3#5 A 8#4 1#4 0#2, .vfcvt 3#5 oddA 1#4 8#4 0#2, .vfround 2#5 A 4#4 0#2, .vfround 3#5 A 8#4 0#2,
      .reorder 3#5 0#5].all (fun i => !i.wf) = true := rfl
theorem test_illFormed_memory :
    [Instr.ld 4#5 9#5 4#5 0#4 0#2 5#3 0#2, .ld 4#5 9#5 4#5 0#4 0#2 2#3 1#2, .ld 5#5 9#5 4#5 0#4 0#2 3#3 0#2, .ld 6#5 9#5 4#5 0#4 0#2 4#3 0#2,
      .ld 4#5 9#5 5#5 0#4 0#2 2#3 2#2, .ldAcq 4#5 9#5 4#5 0#4 0#2 1#3 0#2, .sld 9#5 9#5 0#4 0#2 1#3, .st 5#5 9#5 4#5 0#2 3#3 0#1,
      .stRel 4#5 9#5 4#5 0#2 4#3 0#1, .sst 9#5 9#5 0#2 0#3, .atomAdd64 3#5 9#5 4#5 6#5 0#2, .atomAdd64 2#5 9#5 4#5 7#5 0#2, .fence 0#2 0#3,
      .tagPoll 1#4 oddA 0#2, .bulkCopy 0#5 0#2, .bulkCopy 29#5 0#2, .bulkGather 27#5 0#2, .collReduce 28#5 0#2].all (fun i => !i.wf) = true := rfl
theorem test_illFormed_system :
    [Instr.barInit oddA B 0#2, .suspAddr 3#5 ⟨.rotate, 4#5⟩ 1#6, .suspBar 3#5 oddA 1#6, .svc 3#5 0#5 A 0#2, .srecv 1#4 30#5 0#2, .qpost 0#5 4#5 0#2,
      .launch 3#5 29#5 0#2, .mreq 1#5 30#5 0#2, .kcmp 1#5 2#5 3#5 6#6, .dset 1#5 2#5 9#6, .mtake 0#4, .mma 12#5 1#5 2#5 0#6, .mmaSp 0#5 31#5 2#5 0#6, .mmaGx 0#5 31#5 2#5 0#6, .mmaF64 6#4 1#5 2#5 0#6,
      .accZero 12#5].all (fun i => !i.wf) = true := rfl

/-! ### Decoding -/

/-- Examples of R44, R66 to R78. -/
theorem test_decode_control :
    decode 0x069BFFF8#32 = .ok (.brnz 6#5 0x3FFF8#18) ∧
    decode 0x0C200000#32 = .ok (.enrol 1#4 0#2) ∧
    decode 0x07040003#32 = .ok (.park 1#4 3#18) ∧
    decode 0x087C0014#32 = .ok (.call 31#5 20#18) ∧
    decode 0x0C402062#32 = .ok (.mand 2#4 1#4 3#4 0#2) ∧
    decode 0x14E04002#32 = .ok (.voteBallot 7#5 ⟨.direct, 2#5⟩ 0#2) ∧
    decode 0x21000015#32 = .ok (.hintPred 1#1 5#4) ∧
    decode 0x20000000#32 = .ok (.nop) :=
  ⟨rfl, rfl, rfl, rfl, rfl, rfl, rfl, rfl⟩

/-- Examples of R84 to R113. -/
theorem test_decode_integer :
    decode 0x4C403C60#32 = .ok (.vshl 2#5 ⟨.direct, 1#5⟩ ⟨.scalar, 3#5⟩ 0#2) ∧
    decode 0x40804064#32 = .ok (.vaddc 2#4 ⟨.direct, 2#5⟩ ⟨.direct, 3#5⟩ 0#2) ∧
    decode 0x44C04060#32 = .ok (.vmad 6#5 ⟨.direct, 2#5⟩ ⟨.direct, 3#5⟩ 0#2) ∧
    decode 0x4880406F#32 = .ok (.vsel 4#5 ⟨.direct, 2#5⟩ ⟨.direct, 3#5⟩ 1#2) ∧
    decode 0x44A04061#32 = .ok (.vdivS32 5#5 ⟨.direct, 2#5⟩ ⟨.direct, 3#5⟩ 0#2) ∧
    decode 0x5080C100#32 = .ok (.vadd64 2#4 ⟨.direct, 6#5⟩ ⟨.direct, 8#5⟩ 0#2) ∧
    decode 0x555C4062#32 = .ok (.vlea 5#4 ⟨.scalar, 2#5⟩ ⟨.direct, 3#5⟩ 0#2) ∧
    decode 0x584080A2#32 = .ok (.vcmpLtS32 2#4 ⟨.direct, 4#5⟩ ⟨.direct, 5#5⟩ 0#2) ∧
    decode 0x60804064#32 = .ok (.vaddImm 4#5 ⟨.direct, 2#5⟩ 100#13) ∧
    decode 0x64601FFF#32 = .ok (.vmovi 3#5 0x1FFF#13) ∧
    decode 0x74804061#32 = .ok (.vbfeN32 4#5 ⟨.direct, 2#5⟩ ⟨.direct, 3#5⟩ 0#2) ∧
    decode 0x54E00043#32 = .ok (.vmovrel 7#5 0#5 ⟨.direct, 2#5⟩ 0#2) ∧
    decode 0x55209C44#32 = .ok (.vreadl 9#5 ⟨.direct, 4#5⟩ ⟨.scalar, 2#5⟩ 0#2) ∧
    decode 0x5460E005#32 = .ok (.vbcs 3#5 ⟨.direct, 7#5⟩ 0#2) :=
  ⟨rfl, rfl, rfl, rfl, rfl, rfl, rfl, rfl, rfl, rfl, rfl, rfl, rfl, rfl⟩

/-- Examples of R106 to R117. -/
theorem test_decode_shapes_and_scalars :
    decode 0x70610000#32 = .ok (.vshape 3#5 8#5 0#2) ∧
    decode 0x70200003#32 = .ok (.vidx 1#5 0#2) ∧
    decode 0x705C9CA2#32 = .ok (.vaffine 2#5 ⟨.scalar, 4#5⟩ ⟨.scalar, 5#5⟩ 0#2) ∧
    decode 0x71200004#32 = .ok (.vfree 9#5) ∧
    decode 0x694290A0#32 = .ok (.sadd 40#7 41#7 5#7) ∧
    decode 0x6C3804B1#32 = .ok (.smovi 7#7 300#10) ∧
    decode 0x24060008#32 = .ok (.rds 6#7 0#12 1#1) ∧
    decode 0x240C2000#32 = .ok (.rds 12#7 0x200#12 0#1) :=
  ⟨rfl, rfl, rfl, rfl, rfl, rfl, rfl, rfl⟩

/-- Examples of R129 to R146. -/
theorem test_decode_float :
    decode 0x80C04063#32 = .ok (.vfmaF32 6#5 ⟨.direct, 2#5⟩ ⟨.direct, 3#5⟩ 0#2) ∧
    decode 0x9880C100#32 = .ok (.vfaddF64 2#4 ⟨.direct, 6#5⟩ ⟨.direct, 8#5⟩ 0#2) ∧
    decode 0x842080A2#32 = .ok (.vfcmpLtF32 1#4 ⟨.direct, 4#5⟩ ⟨.direct, 5#5⟩ 0#2) ∧
    decode 0x84E04005#32 = .ok (.vfclassF32 7#5 ⟨.direct, 2#5⟩ 0#2) ∧
    decode 0x8D004066#32 = .ok (.vfdot2F16 8#5 ⟨.direct, 2#5⟩ ⟨.direct, 3#5⟩ 0#2) ∧
    decode 0xA0805020#32 = .ok (.vfcvt 4#5 ⟨.direct, 2#5⟩ 8#4 1#4 0#2) ∧
    decode 0xA0801CC2#32 = .ok (.vfpack 4#5 ⟨.direct, 0#5⟩ ⟨.scalar, 6#5⟩ 0#2) ∧
    decode 0xA0C080E4#32 = .ok (.vfunpack 6#5 ⟨.direct, 4#5⟩ ⟨.direct, 7#5⟩ 0#2) ∧
    decode 0xA0604085#32 = .ok (.vfscale 3#5 ⟨.direct, 2#5⟩ ⟨.direct, 4#5⟩ 0#2) ∧
    decode 0xA4604000#32 = .ok (.vftoiS32 3#5 ⟨.direct, 2#5⟩ 0#1 0#2) ∧
    decode 0xA4604002#32 = .ok (.vitofS32 3#5 ⟨.direct, 2#5⟩ 0#2) ∧
    decode 0xA8A08002#32 = .ok (.vfsqrtF32 5#5 ⟨.direct, 4#5⟩ 0#2) :=
  ⟨rfl, rfl, rfl, rfl, rfl, rfl, rfl, rfl, rfl, rfl, rfl, rfl⟩

/-- Examples of R138 to R152. -/
theorem test_decode_lanes :
    decode 0xB0A04060#32 = .ok (.vshfl 5#5 ⟨.direct, 2#5⟩ ⟨.direct, 3#5⟩ 0#2) ∧
    decode 0xB0C05C82#32 = .ok (.vbcast 6#5 ⟨.direct, 2#5⟩ ⟨.scalar, 4#5⟩ 0#2) ∧
    decode 0xB0604003#32 = .ok (.qswapH 3#5 ⟨.direct, 2#5⟩ 0#2) ∧
    decode 0xB0804126#32 = .ok (.qbcast 4#5 ⟨.direct, 2#5⟩ ⟨.direct, 9#5⟩ 0#2) ∧
    decode 0xB5004000#32 = .ok (.wreduceAdd 8#5 ⟨.direct, 2#5⟩ 0#2) ∧
    decode 0xB9004001#32 = .ok (.wreduceAddF32 8#5 ⟨.direct, 2#5⟩ 0#2) ∧
    decode 0xB5204005#32 = .ok (.wscan 9#5 ⟨.direct, 2#5⟩ 0#1 0#2) ∧
    decode 0xB9204024#32 = .ok (.wscanF32 9#5 ⟨.direct, 2#5⟩ 1#1 0#2) ∧
    decode 0xB5404026#32 = .ok (.vcompact 10#5 ⟨.direct, 2#5⟩ 1#4 0#2) ∧
    decode 0xB8003CA0#32 = .ok (.reorder 1#5 5#5) :=
  ⟨rfl, rfl, rfl, rfl, rfl, rfl, rfl, rfl, rfl, rfl⟩

/-- Examples of R167 to R173, R187 to R190. -/
theorem test_decode_memory :
    decode 0xC0A22188#32 = .ok (.ld 5#5 2#5 4#5 3#4 0#2 2#3 0#2) ∧
    decode 0xC4E30008#32 = .ok (.ldAcq 7#5 3#5 0#5 0#4 0#2 2#3 0#2) ∧
    decode 0xC9040908#32 = .ok (.ldRo 8#5 4#5 1#5 2#4 0#2 2#3 0#1) ∧
    decode 0xCC601088#32 = .ok (.ldSp 3#5 0#5 2#5 1#4 0#2 2#3 0#1) ∧
    decode 0xCD22000E#32 = .ok (.sld 9#5 2#5 0#4 0#2 3#3) ∧
    decode 0xD0C22008#32 = .ok (.st 6#5 2#5 4#5 0#2 2#3 0#1) ∧
    decode 0xD4E30008#32 = .ok (.stRel 7#5 3#5 0#5 0#2 2#3 0#1) ∧
    decode 0xD8A22180#32 = .ok (.atomAdd32 5#5 2#5 4#5 6#5 0#2) ∧
    decode 0xD8A221AF#32 = .ok (.atomCas32 5#5 2#5 4#5 3#4 3#2) ∧
    decode 0xDC000014#32 = .ok (.fence 0#2 5#3) ∧
    decode 0xDC00001D#32 = .ok (.fencePath 0#2 7#3) :=
  ⟨rfl, rfl, rfl, rfl, rfl, rfl, rfl, rfl, rfl, rfl, rfl⟩

/-- Examples of R202 to R219. -/
theorem test_decode_copies_and_barriers :
    decode 0xE1021A40#32 = .ok (.cpAsync 8#5 2#5 3#5 9#5 0#6) ∧
    decode 0xE41D4001#32 = .ok (.tagWaitAll ⟨.scalar, 10#5⟩ 0#2) ∧
    decode 0xE4DD4002#32 = .ok (.tagFirst 6#5 ⟨.scalar, 10#5⟩ 0#2) ∧
    decode 0xE45D4003#32 = .ok (.tagPoll 2#4 ⟨.scalar, 10#5⟩ 0#2) ∧
    decode 0xE81CDCE0#32 = .ok (.barInit ⟨.scalar, 6#5⟩ ⟨.scalar, 7#5⟩ 0#2) ∧
    decode 0xE8BCDCE1#32 = .ok (.barExpect 5#5 ⟨.scalar, 6#5⟩ ⟨.scalar, 7#5⟩ 0#2) ∧
    decode 0xE8BCC002#32 = .ok (.barArrive 5#5 ⟨.scalar, 6#5⟩ 0#2) ∧
    decode 0xE81CC0A3#32 = .ok (.barWait ⟨.scalar, 6#5⟩ ⟨.direct, 5#5⟩ 0#2) ∧
    decode 0xE83CC0A4#32 = .ok (.barTest 1#4 ⟨.scalar, 6#5⟩ ⟨.direct, 5#5⟩ 0#2) ∧
    decode 0xE41D8005#32 = .ok (.bulkCopy 12#5 0#2) ∧
    decode 0xE41E0006#32 = .ok (.bulkGather 16#5 0#2) ∧
    decode 0xE41E8007#32 = .ok (.collReduce 20#5 0#2) ∧
    decode 0xE81E8007#32 = .ok (.collGather 20#5 0#2) :=
  ⟨rfl, rfl, rfl, rfl, rfl, rfl, rfl, rfl, rfl, rfl, rfl, rfl, rfl⟩

/-- Examples of R222 to R252. -/
theorem test_decode_matrix :
    decode 0xF464284A#32 = .ok (.kcmp 3#5 4#5 5#5 2#6) ∧
    decode 0xF45FFF6B#32 = .ok (.kbra 2#5 0xFFFB#16) ∧
    decode 0xF509184C#32 = .ok (.kld 8#5 9#5 1#1 2#6) ∧
    decode 0xF509102D#32 = .ok (.kst 8#5 9#5 0#1 1#6) ∧
    decode 0xF406380E#32 = .ok (.kwait 6#5 7#5) ∧
    decode 0xF05E8006#32 = .ok (.mreq 2#5 20#5 0#2) ∧
    decode 0xF4800011#32 = .ok (.mtake 2#4) ∧
    decode 0xF4800031#32 = .ok (.mtakeNw 2#4) ∧
    decode 0xF4050012#32 = .ok (.mdone 5#5) ∧
    decode 0xF4610010#32 = .ok (.dmov 3#5 1#5) ∧
    decode 0xF8011020#32 = .ok (.mma 0#5 1#5 2#5 1#6) ∧
    decode 0xF8863803#32 = .ok (.mmaF64 2#4 6#5 7#5 0#6) ∧
    decode 0xF8000004#32 = .ok (.accZero 0#5) ∧
    decode 0xF8440005#32 = .ok (.accLoad 2#5 4#5) ∧
    decode 0xF8052006#32 = .ok (.accStore 0#5 5#5 4#5) ∧
    decode 0xF4642800#32 = .ok (.kadd 3#5 4#5 5#5 0#6) ∧
    decode 0xF4630020#32 = .ok (.kadd 3#5 3#5 0#5 1#6) ∧
    decode 0xF4E02589#32 = .ok (.kmovi 7#5 300#16) :=
  ⟨rfl, rfl, rfl, rfl, rfl, rfl, rfl, rfl, rfl, rfl, rfl, rfl, rfl, rfl, rfl, rfl, rfl, rfl⟩

/-- Examples of R264 to R277, R350. -/
theorem test_decode_system :
    decode 0x25800000#32 = .ok (.rte) ∧
    decode 0x26000000#32 = .ok (.gret) ∧
    decode 0x26000010#32 = .ok (.gretSame) ∧
    decode 0x26050028#32 = .ok (.gretPc 5#5) ∧
    decode 0x25000070#32 = .ok (.trap 7#12) ∧
    decode 0x28000000#32 = .ok (.brk) ∧
    decode 0x28890000#32 = .ok (.dbgStep 9#7) ∧
    decode 0x27880000#32 = .ok (.tlbinvVa 8#7) ∧
    decode 0x27880010#32 = .ok (.tlbinvRoot 8#7) ∧
    decode 0x27800020#32 = .ok (.tlbinvAll) :=
  ⟨rfl, rfl, rfl, rfl, rfl, rfl, rfl, rfl, rfl, rfl⟩

/-- Examples of R296 to R307, R332 to R336, R367 to R369. -/
theorem test_decode_coroutines_and_calls :
    decode 0xECA0E821#32 = .ok (.suspTag 5#5 ⟨.direct, 7#5⟩ 1#6) ∧
    decode 0xEC7C8042#32 = .ok (.wake 3#5 ⟨.scalar, 4#5⟩ 2#6) ∧
    decode 0xECDD0023#32 = .ok (.wakePred 6#5 ⟨.scalar, 8#5⟩ 0#2 1#6) ∧
    decode 0xECBCC844#32 = .ok (.wakeAddr 5#5 ⟨.scalar, 6#5⟩ 1#1 2#6) ∧
    decode 0xEC000029#32 = .ok (.resume 1#6) ∧
    decode 0xED3D4025#32 = .ok (.fld 9#5 ⟨.scalar, 10#5⟩ 1#6) ∧
    decode 0xECDD0027#32 = .ok (.fxform 6#5 ⟨.scalar, 8#5⟩ 0#2 1#6) ∧
    decode 0xEC800028#32 = .ok (.fcount 4#5 1#6) ∧
    decode 0xEC5D2060#32 = .ok (.binit 2#5 ⟨.scalar, 9#5⟩ 3#6) ∧
    decode 0xF01D1D23#32 = .ok (.qpost 8#5 9#5 0#2) ∧
    decode 0xF07E8004#32 = .ok (.launch 3#5 20#5 0#2) ∧
    decode 0xF000C005#32 = .ok (.verdict ⟨.direct, 6#5⟩) ∧
    decode 0xF05E8001#32 = .ok (.srecv 1#4 20#5 0#2) ∧
    decode 0xF01E80C2#32 = .ok (.srep 0#4 20#5 ⟨.direct, 6#5⟩) ∧
    decode 0xF07E80C2#32 = .ok (.srep 3#4 20#5 ⟨.direct, 6#5⟩) ∧
    decode 0xF09CC0A0#32 = .ok (.svc 4#5 6#5 ⟨.direct, 5#5⟩ 0#2) :=
  ⟨rfl, rfl, rfl, rfl, rfl, rfl, rfl, rfl, rfl, rfl, rfl, rfl, rfl, rfl, rfl, rfl⟩

/-! ### One step: results worked out by hand from R83, R97 to R103, R116, R117 -/

/-- Lane 5 of v31 after i. -/
def lane5 (i : Instr) (s : State) : Word := (next (exec i s)).me.lane 31 5
/-- x in every lane and n in s9. -/
abbrev xn (x n : Nat) : State := pState (BitVec.ofNat 32 x) [(9, BitVec.ofNat 64 n)]

theorem test_vadd : lane5 (.vadd 31#5 A B 0#2) tState = 15#32 := by decide
theorem test_vadd_wraps : lane5 (.vadd 31#5 A S9 0#2) (xn 0xFFFFFFFF 1) = 0#32 := by decide
theorem test_vsub : lane5 (.vsub 31#5 A B 0#2) tState = 0xFFFFFFFF#32 := by decide
theorem test_vdiv_rounds_to_zero : lane5 (.vdivS32 31#5 A S9 0#2) (xn 0xFFFFFFF9 2) = 0xFFFFFFFD#32 := by decide
theorem test_vrem_sign : lane5 (.vremS32 31#5 A S9 0#2) (xn 0xFFFFFFF9 2) = 0xFFFFFFFF#32 := by decide
theorem test_vmul_hi_signed : lane5 (.vmulHiS32 31#5 A S9 0#2) (xn 0x80000000 0x80000000) = 0x40000000#32 := by decide
theorem test_vpopc : lane5 (.vpopc 31#5 A 0#2) (xn 0xF0F1 0) = 9#32 := by decide
theorem test_vclz : lane5 (.vclz 31#5 A 0#2) (xn 1 0) = 31#32 := by decide
theorem test_vbrev : lane5 (.vbrev 31#5 A 0#2) (xn 3 0) = 0xC0000000#32 := by decide
theorem test_vadd_sat : lane5 (.vaddSatS32 31#5 A S9 0#2) (xn 0x7FFFFFFF 1) = 0x7FFFFFFF#32 := by decide
theorem test_vfadd : lane5 (.vfaddF32 31#5 A S9 0#2) (xn 0x3F800000 0x40000000) = 0x40400000#32 := by decide +kernel
theorem test_vfmul_negative_zero : lane5 (.vfmulF32 31#5 A S9 0#2) (xn 0x80000000 0x3F800000) = 0x80000000#32 := by decide +kernel
theorem test_sadd : (next (exec (.sadd 1#7 9#7 9#7) (xn 0 0xFFFFFFFFFFFFFFFF))).sreg 1 = 0xFFFFFFFFFFFFFFFE#64 := by decide
/-- The examples of R7: stacks of three granules, and their home dies. -/
theorem test_stackOf : [0x50000, 0x100050000, 0x100000000].map stackOf = [5, 4, 1]
    ∧ [0x50000, 0x100050000, 0x100000000].map homeDie = [1, 1, 0] := by decide
/-- R195: the launch that holds the most history, whatever its place. -/
theorem test_topGrid : topGrid [⟨1, 0, 0, true, 7, 0⟩, ⟨1, 1, 0, true, 3, 0⟩, ⟨2, 0, 0, true, 3, 0⟩] = 3 := by decide

end Sys2Proof.Tests
end

section
/-! SUPPORT. Statements made per instruction. Control: the direct branches (R83), the mask instructions and votes (R84, R87, R88),
and exit, yield, region, hint words and nop (R89 to R91, R93). -/

namespace Sys2Proof.Machine

/-! ### Sets of lanes, by their members -/

/-- Two sets are equal when they agree on every lane. -/
theorem beq_eq_all_has (a b : Mask) : (a == b) = allLanes.all (fun i => Mask.has a i == Mask.has b i) := by
  rw [Bool.eq_iff_iff, beq_iff_eq, List.all_eq_true]
  constructor
  · rintro rfl i _
    exact beq_self_eq_true _
  · intro h
    exact mask_ext (fun i => eq_of_beq (h i (mem_allLanes i)))

/-- A set is empty when no lane is in it. -/
theorem beq_zero_eq_all (m : Mask) : (m == 0#32) = allLanes.all (fun i => !Mask.has m i) := by
  rw [beq_eq_all_has]
  simp

/-- A set is not empty when some lane is in it. -/
theorem bne_zero_eq_any (m : Mask) : (m != 0#32) = allLanes.any (fun i => Mask.has m i) := by
  rw [bne, beq_zero_eq_all, List.not_all_eq_any_not]
  simp

/-- The sets m and r meet when some lane of r is in m. -/
theorem and_bne_zero_eq_any (m r : Mask) :
    ((m &&& r) != 0#32) = allLanes.any (fun i => Mask.has r i && Mask.has m i) := by
  simp only [bne_zero_eq_any, has_and, Bool.and_comm]

/-- The sets m and r are apart when every lane of r is outside m. -/
theorem and_beq_zero_eq_all (m r : Mask) :
    ((m &&& r) == 0#32) = allLanes.all (fun i => !Mask.has r i || !Mask.has m i) := by
  simp only [beq_zero_eq_all, has_and, Bool.not_and, Bool.or_comm]

/-- The set m covers r when every lane of r is in m. -/
theorem and_beq_self_eq_all (m r : Mask) :
    ((m &&& r) == r) = allLanes.all (fun i => !Mask.has r i || Mask.has m i) := by
  have hlane : ∀ i, (Mask.has (m &&& r) i == Mask.has r i) = (!Mask.has r i || Mask.has m i) := by
    intro i
    rw [has_and]
    cases Mask.has r i <;> cases Mask.has m i <;> rfl
  simp only [beq_eq_all_has, hlane]

/-- The lanes of a set that is taken whole or not at all. -/
theorem has_ite_zero (b : Bool) (m : Mask) (i : Lane) : Mask.has (if b then m else 0#32) i = (Mask.has m i && b) := by
  cases b <;> simp

/-! ### Direct branches (R83) -/

/-- The mould of a direct branch: the real active lanes that satisfy its condition go to its target. -/
theorem branchIf_spec {ins : Instr} {u : Use} {d : BitVec 18} {c : State → Mask → Lane → Bool} {s : State} {go : Mask}
    (h : s.runs ins) (hu : s.useOf ins = some u)
    (hgo : ∀ j, Mask.has go j = (Mask.has (s.real (s.on ins)) j && c (s.acting u) (s.real (s.on ins)) j)) :
    branches s.bundle s (branchIf u d c s) go (fun _ => s.target d) := by
  rw [State.on_eq hu] at hgo
  have hsel : go = maskOf (fun j => Mask.has (s.real (s.active u)) j && c (s.acting u) (s.real (s.active u)) j) :=
    mask_ext (fun j => by rw [hgo, has_maskOf])
  subst hsel
  exact issue_jumps h.1 (h.check hu) rfl

/-- The mould of the brc forms: all real active lanes go, or none. -/
theorem brc_spec {ins : Instr} {d : BitVec 18} {c : State → Mask → Bool} {b : Bool} {s : State}
    (h : s.runs ins) (hu : s.useOf ins = some {}) (hb : c (s.acting {}) (s.real (s.on ins)) = b) :
    branches s.bundle s (branchIf {} d (fun s r _ => c s r) s) (if b then s.real (s.on ins) else 0#32)
      (fun _ => s.target d) :=
  branchIf_spec h hu (fun j => by rw [has_ite_zero, hb])

/-- Settles O7: bra takes every real active lane, a brc form all or none of them, brz and brnz those whose register says so. -/
theorem directBranches : Obligations.DirectBranches := by
  unfold Obligations.DirectBranches
  refine ⟨?_, ?_, ?_, ?_⟩
  · intro i s h
    exact ⟨_, rfl, branchIf_spec h rfl (fun j => (Bool.and_true _).symm)⟩
  · intro e he m i s h
    simp only [maskBranches, List.mem_cons, List.not_mem_nil, or_false] at he
    rcases he with rfl | rfl | rfl
    · exact ⟨_, rfl, brc_spec (ins := .brcAny m i) h rfl (and_bne_zero_eq_any _ _)⟩
    · exact ⟨_, rfl, brc_spec (ins := .brcAll m i) h rfl (and_beq_self_eq_all _ _)⟩
    · exact ⟨_, rfl, brc_spec (ins := .brcNone m i) h rfl (and_beq_zero_eq_all _ _)⟩
  · intro r i s h
    exact ⟨_, rfl, branchIf_spec h rfl (fun j => has_maskOf _ j)⟩
  · intro r i s h
    exact ⟨_, rfl, branchIf_spec h rfl (fun j => has_maskOf _ j)⟩

/-! ### The issuing warp alone changed -/

/-- The issuing warp after a step that changes it alone. -/
theorem onlyMe.me {s t : State} {w : Warp} (h : onlyMe s t w) : t.me = w := by
  rw [State.me, State.warp, h.warps, State.besides_cur h.device, mapGet_put_same]

/-- The issuing warp set to w, and a step of the lanes m besides. -/
theorem setMe_advance_onlyMe (s : State) (a m : Mask) (w : Warp) :
    noBranch s (((s.actingOn a).setMe w).advance m) ∧
      onlyMe s (((s.actingOn a).setMe w).advance m) (w.atPc (w.pcPast m)) := by
  rw [State.advance_eq, State.setMe_me, State.setMe_twice]
  exact ⟨⟨rfl, rfl⟩, ⟨rfl, rfl, rfl⟩⟩

/-- The mould of an instruction that sets the issuing warp to w and neither waits, traps nor jumps. -/
theorem issue_sets {u : Use} {s : State} {body : State → Mask → Eff} {w : Warp}
    (hv : s.issuer = .vector) (hc : s.decodeCheck u = none) (hpc : w.pc = s.me.pc)
    (hb : body (s.acting u) (s.active u) = { st := (s.acting u).setMe w }) :
    noBranch s (issue u s body) ∧ onlyMe s (issue u s body) (w.atPc (s.stepped s.bundle)) := by
  rw [issue_plain u s body hv hc (by rw [hb]) (by rw [hb]) (by rw [hb]), hb]
  have hpast : w.pcPast s.bundle = s.stepped s.bundle := by rw [Warp.pcPast, hpc]; rfl
  rw [← hpast]
  exact setMe_advance_onlyMe s (s.active u) s.bundle w

/-! ### Mask instructions and votes (R84, R87, R88) -/

/-- The mould of a mask instruction: the real active lanes of md take the condition f. -/
theorem maskOp_spec {ins : Instr} {d : BitVec 4} {p : BitVec 2} {f : Warp → Lane → Bool} {s : State}
    (h : s.runs ins) (hu : s.useOf ins = some { pred := p, predicated := true }) :
    (maskOp d p f s).me.fcsr = s.me.fcsr ∧ maskTakes s (maskOp d p f s) d.toNat (s.real (s.on ins)) (f s.me) := by
  rw [State.on_eq hu]
  exact (issue_mask h.1 (h.check hu) rfl).symm

/-- The mould of a count: the real active lanes of vd take one word that the warp's masks give. -/
theorem maskCount_spec {ins : Instr} {d : BitVec 5} {p : BitVec 2} {f : Warp → Word} {s : State}
    (h : s.runs ins) (hu : s.useOf ins = some { v := [d.toNat], pred := p, predicated := true }) :
    regFrame s (maskCount d p f s) [s.me.regNo d.toNat] ∧
      regTakes s (maskCount d p f s) (s.me.regNo d.toNat) (s.real (s.on ins)) (fun _ => f s.me) 0#4 := by
  rw [State.on_eq hu]
  exact issue_writes (d := d) (m := s.real (s.active _)) (e := .uniform (f s.me)) h.1 (h.check hu) rfl

/-- The mould of a vote into a mask: the active lanes of md take one answer, g, which the ballot gives. -/
theorem vote_spec {ins : Instr} {u : Use} {d : BitVec 4} {a : Src} {f : Mask × Mask → Bool} {g : Bool} {s : State}
    (h : s.runs ins) (hu : s.useOf ins = some u) (hg : f (s.ballot (s.on ins) a) = g) :
    let t := issue u s (fun s m => { st := s.writeMask d.toNat m (fun _ => f (s.ballot m a)) })
    t.me.fcsr = s.me.fcsr ∧ maskTakes s t d.toNat (s.on ins) (fun _ => g) := by
  subst hg
  rw [State.on_eq hu]
  exact (issue_mask h.1 (h.check hu) rfl).symm

/-- A vote is any when some contributing lane has a nonzero value. -/
theorem ballot_any (s : State) (m : Mask) (a : Src) :
    ((s.ballot m a).2 != 0#32) = allLanes.any (fun i => Mask.has (s.real m) i && (s.srcA a).at i != 0#32) := by
  simp only [State.ballot, bne_zero_eq_any, has_maskOf]

/-- A vote is all when every contributing lane has a nonzero value. -/
theorem ballot_all (s : State) (m : Mask) (a : Src) :
    ((s.ballot m a).2 == (s.ballot m a).1) =
      allLanes.all (fun i => !Mask.has (s.real m) i || (s.srcA a).at i != 0#32) := by
  have hlane : ∀ i, (Mask.has (s.ballot m a).2 i == Mask.has (s.ballot m a).1 i) =
      (!Mask.has (s.real m) i || (s.srcA a).at i != 0#32) := by
    intro i
    simp only [State.ballot, has_maskOf]
    cases Mask.has (s.real m) i <;> cases (s.srcA a).at i != 0#32 <;> rfl
  simp only [beq_eq_all_has, hlane]

/-- Releasing lanes clears their bits in mN and their meeting registers, and nothing else (R74). -/
theorem Warp.release_eq (w : Warp) (n : Nat) (m : Mask) :
    w.release n m = { w.setMask n (w.mask n &&& ~~~m) with
      meet := Lanes.where_ w.meet m (fun _ => 0#32)
      meetmask := Lanes.where_ w.meetmask m (fun _ => 0#4) } := by
  simp only [Warp.release, Warp.setMaskLanes, BitVec.zero_and, BitVec.or_zero]
  unfold Warp.setMask
  split <;> rfl

/-- Releasing lanes leaves the program counters. -/
theorem Warp.release_pc (w : Warp) (n : Nat) (m : Mask) : (w.release n m).pc = w.pc := by
  obtain ⟨l, hl⟩ := setMaskLanes_rest w n m 0#32
  simp only [Warp.release, hl]

/-- strike clears the real active lanes of the mask, and their meeting registers (R84). -/
theorem strike_spec {m : BitVec 4} {p : BitVec 2} {s : State} (h : s.runs (.strike m p)) :
    ∃ t, exec (.strike m p) s = .next t ∧ noBranch s t ∧
      onlyMe s t ((s.me.release m.toNat (s.real (s.on (.strike m p)))).atPc (s.stepped s.bundle)) := by
  rw [State.on_eq (u := { pred := p, predicated := true }) rfl]
  exact ⟨_, rfl, issue_sets (u := { pred := p, predicated := true })
    (w := s.me.release m.toNat (s.real (s.active { pred := p, predicated := true }))) h.1 (h.check rfl) (Warp.release_pc _ _ _) rfl⟩

/-- Settles O9: each instruction by the mould of what it writes, a mask or a register, with the lanes that its rule names. -/
theorem masksAndVotes : Obligations.MasksAndVotes := by
  unfold Obligations.MasksAndVotes
  refine ⟨?_, ?_, ?_, ?_, ?_, ?_, ?_, ?_, ?_⟩
  · intro e he d a b p s h
    simp only [maskPairs, List.mem_cons, List.not_mem_nil, or_false] at he
    rcases he with rfl | rfl | rfl
    · exact ⟨_, rfl, maskOp_spec (ins := .mand d a b p) h rfl⟩
    · exact ⟨_, rfl, maskOp_spec (ins := .mor d a b p) h rfl⟩
    · exact ⟨_, rfl, maskOp_spec (ins := .mxor d a b p) h rfl⟩
  · intro d a p s h
    exact ⟨_, rfl, maskOp_spec h rfl⟩
  · intro m p s h
    exact ⟨_, rfl, maskOp_spec h rfl⟩
  · intro m p s h
    obtain ⟨t, ht, hstraight, honly⟩ := strike_spec h
    rw [Warp.release_eq] at honly
    exact ⟨t, ht, hstraight, honly⟩
  · intro d a p s h
    exact ⟨_, rfl, maskCount_spec h rfl⟩
  · intro d a p s h
    exact ⟨_, rfl, maskCount_spec h rfl⟩
  · intro d a p s h
    exact ⟨_, rfl, vote_spec (f := fun x => x.2 != 0#32) h rfl (ballot_any _ _ _)⟩
  · intro d a p s h
    exact ⟨_, rfl, vote_spec (f := fun x => x.2 == x.1) h rfl (ballot_all _ _ _)⟩
  · intro d a p s h
    rw [State.on_eq (u := voteUse [d.toNat] a p) rfl]
    exact ⟨_, rfl, issue_writes (d := d) (m := s.active (voteUse [d.toNat] a p))
      (e := .uniform (s.ballot (s.active (voteUse [d.toNat] a p)) a).2) h.1 (h.check rfl) rfl⟩

/-! ### exit (R89) -/

/-- What a warp that loses the lanes m keeps and loses: the lanes are retired and leave the mask registers. -/
structure Warp.Sheds (w w' : Warp) (m : Mask) : Prop where
  retired : w'.retired = w.retired ||| (m &&& w.real)
  real : w'.real = w.real
  masks : w'.m = (w.clearMasks m).m
  fcsr : w'.fcsr = w.fcsr
  meet : w'.meet = w.meet
  meetmask : w'.meetmask = w.meetmask
  issued : w'.issued = w.issued
  pc : w'.pc = w.pc

/-- What the warp w becomes when its lanes m retire (R89): with no live lane left it is gone, and otherwise it keeps its place
and its registers. -/
structure Warp.Retires (w w' : Warp) (m : Mask) : Prop extends Warp.Sheds w w' m where
  emptied : w'.live = 0#32 → w'.place = .gone
  lasting : w'.live ≠ 0#32 → w'.place = w.place ∧ w'.v = w.v ∧ w'.h = w.h

/-- The lanes that a warp sheds leave every mask register but m0. -/
theorem Warp.Sheds.mask {w w' : Warp} {m : Mask} (h : w.Sheds w' m) (n : Nat) (h0 : 0 < n) (h1 : n < 16) :
    w'.mask n = w.mask n &&& ~~~m := by
  simp [Warp.mask, h.masks, Warp.clearMasks, h0, h1]

/-- Lanes that retire are shed, and a warp left without a live lane is gone (R89). -/
theorem Warp.retire_spec (w : Warp) (m : Mask) : w.Retires (w.retire m) m := by
  unfold Warp.retire
  extract_lets without w1 c w2
  have hshed : w.Sheds w2 m := by constructor <;> dsimp only [w2, w1, Warp.clearMasks]
  have hkept : w2.place = w.place ∧ w2.v = w.v ∧ w2.h = w.h := by
    refine ⟨?_, ?_, ?_⟩ <;> dsimp only [w2, w1, Warp.clearMasks]
  clear_value w2
  split
  · next hlive => exact { hshed with emptied := fun _ => rfl, lasting := fun hne => absurd (eq_of_beq hlive) hne }
  · next hlive => exact { hshed with emptied := fun h0 => absurd (beq_iff_eq.2 h0) hlive, lasting := fun _ => hkept }

/-- The lanes still live are those that did not retire. -/
theorem Warp.Retires.live {w w' : Warp} {m : Mask} (h : w.Retires w' m) : w'.live = w.live &&& ~~~m := by
  rw [Warp.live, Warp.live, h.real, h.retired]
  refine mask_ext (fun i => ?_)
  simp only [has_and, has_or, has_not]
  cases Mask.has w.real i <;> cases Mask.has w.retired i <;> cases Mask.has m i <;> rfl

/-- The warp is gone when its last live lane retires, or was gone before. -/
theorem Warp.Retires.gone_iff {w w' : Warp} {m : Mask} (h : w.Retires w' m) :
    w'.place = .gone ↔ w.live &&& ~~~m = 0#32 ∨ w.place = .gone := by
  by_cases h0 : w.live &&& ~~~m = 0#32
  · simp [h0, h.emptied (h.live.trans h0)]
  · have hlasting := h.lasting (by rwa [h.live])
    simp [h0, hlasting.1]

/-- Lanes that are live are real. -/
theorem State.real_and_real (s : State) (m : Mask) : s.real m &&& s.me.real = s.real m := by
  refine mask_ext (fun i => ?_)
  simp only [State.real, Warp.live, has_and, has_not]
  cases Mask.has s.me.real i <;> simp

/-- exit retires the real active lanes, and the bundle steps past it (R89). -/
theorem exit_spec {p : BitVec 2} {s : State} (h : s.runs (.exit p)) :
    ∃ t, exec (.exit p) s = .next t ∧ noBranch s t ∧
      onlyMe s t ((s.me.retire (s.real (s.on (.exit p)))).atPc (s.stepped s.bundle)) := by
  rw [State.on_eq (u := { pred := p, predicated := true, bad := s.me.handler }) rfl]
  exact ⟨_, rfl, issue_sets (u := { pred := p, predicated := true, bad := s.me.handler })
    (w := s.me.retire (s.real (s.active { pred := p, predicated := true, bad := s.me.handler })))
    h.1 (h.check rfl) (Warp.retire_spec _ _).pc rfl⟩

/-! ### yield and region (R90, R91) -/

/-- yield marks the warp as the youngest of its class (R90). -/
theorem yield_spec {p : BitVec 2} {s : State} (h : s.runs (.yield p)) :
    ∃ t, exec (.yield p) s = .next t ∧ noBranch s t ∧
      onlyMe s t { s.me with yielded := true, pc := s.stepped s.bundle } :=
  ⟨_, rfl, issue_sets (u := { pred := p, predicated := true }) (w := { s.me with yielded := true }) h.1 (h.check rfl) rfl rfl⟩

/-- The step of no lane leaves the program counters. -/
theorem Warp.pcPast_zero (w : Warp) : w.pcPast 0#32 = w.pc := by
  simp [Warp.pcPast, Lanes.where_]

/-- The step of no lane leaves an issuing warp that was just set. -/
theorem State.advance_zero_setMe (s : State) (w : Warp) : (s.setMe w).advance 0#32 = s.setMe w := by
  rw [State.advance_eq, State.setMe_me, Warp.pcPast_zero, State.setMe_twice]
  rfl

/-- The mould of an instruction that steps its bundle itself and then sets the issuing warp to w. -/
theorem issue_steps_then_sets {u : Use} {s : State} {body : State → Mask → Eff} {w : Warp}
    (hv : s.issuer = .vector) (hc : s.decodeCheck u = none)
    (hb : body (s.acting u) (s.active u) = { st := ((s.acting u).advance s.bundle).setMe w, jumped := s.bundle }) :
    noBranch s (issue u s body) ∧ onlyMe s (issue u s body) w := by
  have hnone : s.bundle &&& ~~~s.bundle = 0#32 := mask_ext (fun i => by simp)
  rw [issue_runs u s body hv hc (by rw [hb]) (by rw [hb]), hb, hnone, State.advance_zero_setMe, State.advance_eq,
    State.setMe_twice]
  exact ⟨⟨rfl, rfl⟩, ⟨rfl, rfl, rfl⟩⟩

/-- The mould of an instruction that waits: its packet stands where it began. -/
theorem issue_waits {u : Use} {s : State} {body : State → Mask → Eff} (hv : s.issuer = .vector)
    (hc : s.decodeCheck u = none) (hb : body (s.acting u) (s.active u) = { st := s.acting u, stall := true }) :
    issue u s body = (s.acting u).stall := by
  have hc' : (s.acting u).decodeCheck u = none := hc
  have ha : (s.acting u).active u = s.active u := rfl
  unfold issue
  split
  · next e => rw [hv] at e; cases e
  · simp only [hc', ha, hb, if_true]

/-- The warp of a packet that waits: its lanes stand where the packet began, and it has not issued. -/
theorem State.stall_me (s : State) : ∃ k, s.stall.me = { s.me with
    pc := Lanes.where_ s.me.pc s.bundle (fun _ => s.start), kept := k, issued := s.startIssued } :=
  ⟨_, State.setMe_me s _⟩

/-- region with no pending result but frozen ones: the bundle steps past it, and the warp is checkpointed there (R91). -/
theorem region_checkpoints {s : State} (h : s.runs .region) (hp : s.me.pend.all s.me.frozen = true) :
    ∃ t, exec .region s = .next t ∧ noBranch s t ∧
      onlyMe s t (s.me.atPc (s.stepped s.bundle)).checkpoint := by
  have hme : ((s.acting {}).advance s.bundle).me = s.me.atPc (s.stepped s.bundle) := State.advance_me _ _
  refine ⟨_, rfl, issue_steps_then_sets (u := {}) h.1 (h.check rfl) ?_⟩
  have hbody : ∀ x : State, x.me = s.me.atPc (s.stepped s.bundle) →
      ({ st := x.setMe x.me.checkpoint, jumped := s.bundle } : Eff) =
        { st := x.setMe (s.me.atPc (s.stepped s.bundle)).checkpoint, jumped := s.bundle } := fun x hx => by rw [hx]
  exact (if_pos hp).trans (hbody _ hme)

/-- region with another pending result waits where its packet began (R91). -/
theorem region_waits {s : State} (h : s.runs .region) (hp : ¬ s.me.pend.all s.me.frozen = true) :
    exec .region s = .next (s.acting {}).stall := by
  refine congrArg _ (issue_waits (u := {}) h.1 (h.check rfl) ?_)
  exact if_neg hp

/-! ### Hint words and nop (R93) -/

/-- The state after a hint word, whose packet's hints are h: the bundle has stepped past it, and its packet goes on. -/
def State.pastHint (s : State) (h : Hints) : State := { s.advance s.bundle with hints := h, inPacket := true }

theorem State.pastHint_me (s : State) (h : Hints) : (s.pastHint h).me = s.me.atPc (s.stepped s.bundle) :=
  State.advance_me s s.bundle

/-- A hint word on a vector core joins its payload to the packet's hints. -/
theorem hintWord_vector {s : State} (hv : s.issuer = .vector) (f : Hints → Hints) : hintWord f s = s.pastHint (f s.hints) := by
  simp only [hintWord, hv]
  rfl

/-- A malformed hint word on a vector core spoils the packet's hints (rule 4 of R50). -/
theorem malformedHint_spec {s : State} (hv : s.issuer = .vector) {w : Word} (hw : isHint w = true) :
    exec (.unassignedEncoding w) s = .next (s.pastHint { s.hints with bad := true }) :=
  congrArg _ ((if_pos hw).trans (hintWord_vector hv _))

/-- hint.sched joins its payload, and control 1 withholds the re-formation of its bundle (R69, R93). -/
theorem hintSched_spec {s : State} (hv : s.issuer = .vector) (c : BitVec 2) (l : BitVec 4) :
    ∃ t, exec (.hintSched c l) s = .next t ∧
      t.hints = { s.hints with sched := some (c, l), bad := s.hints.bad || s.hints.sched.isSome } ∧ t.inPacket = true ∧
      t.me = { s.me with
        pc := s.stepped s.bundle
        withheld := if c = 1#2 then s.me.withheld ||| s.bundle else s.me.withheld } := by
  have hissuer : ∀ h, (s.pastHint h).issuer = .vector := fun _ => hv
  have hbundle : ∀ h, (s.pastHint h).bundle = s.bundle := fun _ => rfl
  have hexec : exec (.hintSched c l) s = execHintSched c l s := rfl
  simp only [hexec, execHintSched, hintWord_vector hv, hissuer, beq_iff_eq]
  by_cases hc : c = 1#2
  · simp only [if_pos hc]
    refine ⟨_, rfl, rfl, rfl, ?_⟩
    simp only [State.setMe_me, State.pastHint_me, hbundle, Warp.atPc]
  · simp only [if_neg hc]
    exact ⟨_, rfl, rfl, rfl, State.pastHint_me s _⟩

/-- Settles O10: exit and yield set the issuing warp alone, region by whether a result that counts is pending, and a hint word
steps its bundle with its payload joined. -/
theorem endsAndMarkers : Obligations.EndsAndMarkers := by
  unfold Obligations.EndsAndMarkers
  refine ⟨?_, fun p s h => yield_spec h, ?_, ?_, ?_⟩
  · intro p s h r
    obtain ⟨t, ht, hstraight, honly⟩ := exit_spec h
    have hme := honly.me
    have hret := s.me.retire_spec r
    generalize s.me.retire r = w at honly hme hret
    refine ⟨t, ht, honly.device, honly.groups, hstraight, ?_⟩
    simp only [hme, Warp.atPc_mask]
    dsimp only [Warp.atPc]
    refine ⟨honly.warps, ?_, hret.real, hret.mask, hret.fcsr, hret.meet, hret.meetmask, hret.issued, rfl, hret.gone_iff, ?_⟩
    · exact hret.retired.trans (by rw [State.real_and_real])
    · exact fun hne => (hret.lasting (by rwa [hret.live])).2
  · intro s h hp
    exact region_checkpoints h (List.all_eq_true.2 hp)
  · intro s h hp
    refine ⟨_, region_waits h ?_, rfl, ?_⟩
    · obtain ⟨p, hmem, hfree⟩ := hp
      intro hall
      simp [List.all_eq_true.1 hall p hmem] at hfree
    · obtain ⟨k, hme⟩ := State.stall_me (s.acting {})
      rw [sameRegs, hme]
      exact ⟨rfl, rfl, ⟨rfl, rfl, rfl, rfl⟩, rfl⟩
  · intro s hv past bad
    refine ⟨?_, ?_, ?_, ?_, ?_, ?_, ?_, fun c l => hintSched_spec hv c l, fun w hw => malformedHint_spec hv hw⟩
    · exact congrArg _ (hintWord_vector hv _)
    · exact fun b a => congrArg _ (hintWord_vector hv _)
    · exact fun i => congrArg _ (hintWord_vector hv _)
    · exact fun l => congrArg _ (hintWord_vector hv _)
    · exact fun n m => congrArg _ (hintWord_vector hv _)
    · exact fun o => congrArg _ (hintWord_vector hv _)
    · exact fun c f p => congrArg _ (hintWord_vector hv _)

end Sys2Proof.Machine
end
